-- ==== Sys2Proof/Word.lean ====
section
/-! DEFINITION. The word types of the A720 and their plainest arithmetic (spec/00_scope.md R5, R8, R9). -/

namespace Sys2Proof

/-- A 32-bit register lane or instruction word (R27, R43). -/
abbrev Word := BitVec 32

/-- One byte of memory (R5). -/
abbrev Byte := BitVec 8

/-- A 64-bit address, position or special register (R35, R45, R119). -/
abbrev Addr := BitVec 64

/-- A lane number, 0..31 (R86). -/
abbrev Lane := Fin 32

/-- The 32 lanes of one vector register (R43). -/
abbrev Lanes := Vector Word 32

/-- SEXT(x, n) of Table 0.3 on an n-bit field, as an integer. -/
def sext {n : Nat} (x : BitVec n) : Int := x.toInt

/-- ZEXT(x, n) of Table 0.3 on an n-bit field, as a natural number. -/
def zext {n : Nat} (x : BitVec n) : Nat := x.toNat

/-- Assignment of an integer to a destination of n bits (R8). -/
def narrow (n : Nat) (x : Int) : BitVec n := BitVec.ofInt n x

/-- The pair of two registers read as 64 bits, the low half in the lower register (R43). -/
def pairBits (hi lo : Word) : BitVec 64 := hi ++ lo

/-- The low half of a 64-bit value (R43). -/
def lowHalf (x : BitVec 64) : Word := x.extractLsb' 0 32

/-- The high half of a 64-bit value (R43). -/
def highHalf (x : BitVec 64) : Word := x.extractLsb' 32 32

end Sys2Proof
end

