-- ==== Sys2Proof/Machine/Float.lean ====
section
/-! DEFINITION. IEEE arithmetic on bit patterns, computed exactly and rounded once (spec/05_formats_and_arithmetic.md
R61 to R67, spec/11_vector_instructions.md R159, R171 to R180). A finite number is `(-1)^neg * m * 2^e`. -/

namespace Sys2Proof.Machine

/-- The flag bits of ARITHF (Table 5.3). -/
abbrev Flags := BitVec 32

def fINVALID : Flags := 0x01
def fDIVZERO : Flags := 0x02
def fOVERFLOW : Flags := 0x04
def fUNDERFLOW : Flags := 0x08
def fINEXACT : Flags := 0x10
def fSAT : Flags := 0x20
def fSCALECLAMP : Flags := 0x40
def fNANBLOCK : Flags := 0x80

/-- The rounding modes of FPMODE (Table 3.10). -/
inductive RMode where
  | rne | rz | ru | rd
  deriving DecidableEq, Repr

/-- FPMODE bits 1..0 (Table 3.10). -/
def RMode.ofCode (c : Nat) : RMode :=
  match c % 4 with
  | 0 => .rne
  | 1 => .rz
  | 2 => .ru
  | _ => .rd

/-- The format of Table 5.2 with `eb` exponent bits and `mb` fraction bits. -/
structure FFmt where
  eb : Nat
  mb : Nat
  deriving DecidableEq, Repr

def fp64 : FFmt := ⟨11, 52⟩
def fp32 : FFmt := ⟨8, 23⟩
def fp16 : FFmt := ⟨5, 10⟩
def bf16 : FFmt := ⟨8, 7⟩

/-- Bits of the format but for the sign. -/
def FFmt.magBits (f : FFmt) : Nat := f.eb + f.mb

/-- The bias (Table 5.2). -/
def FFmt.bias (f : FFmt) : Nat := 2 ^ (f.eb - 1) - 1

/-- The magnitude bits of an infinity. -/
def FFmt.infBits (f : FFmt) : Nat := (2 ^ f.eb - 1) * 2 ^ f.mb

/-- The canonical NaN (Table 5.2). -/
def FFmt.nanBits (f : FFmt) : Nat := f.infBits + 2 ^ (f.mb - 1)

/-- The exponent of the least subnormal. -/
def FFmt.emin (f : FFmt) : Int := 1 - (f.bias : Int) - (f.mb : Int)

/-- A sign bit over the magnitude bits. -/
def FFmt.withSign (f : FFmt) (neg : Bool) (mag : Nat) : Nat := if neg then 2 ^ f.magBits + mag else mag

/-- What bits read as: F16, BF16, F32 and F64 of Table 11.2. -/
inductive FVal where
  | nan (signalling : Bool)
  | inf (neg : Bool)
  | fin (neg : Bool) (m : Nat) (e : Int)
  deriving DecidableEq, Repr

/-- Read bits in a format (R61, R62). -/
def FFmt.unpack (f : FFmt) (bits : Nat) : FVal :=
  let neg := bits.testBit f.magBits
  let ex := bits / 2 ^ f.mb % 2 ^ f.eb
  let fr := bits % 2 ^ f.mb
  if ex = 2 ^ f.eb - 1 then
    if fr = 0 then .inf neg else .nan (!fr.testBit (f.mb - 1))
  else if ex = 0 then .fin neg fr f.emin
  else .fin neg (2 ^ f.mb + fr) (f.emin + (ex : Int) - 1)

/-- Does the mode round the magnitude up, given the sign, the oddness of the kept part, and how the discarded part
compares with one half (R63)? -/
def roundUp (mode : RMode) (neg odd : Bool) (rem half : Nat) (sticky : Bool) : Bool :=
  match mode with
  | .rne => half < rem || (rem == half && 0 < half && (sticky || odd))
  | .rz => false
  | .ru => !neg && (0 < rem || sticky)
  | .rd => neg && (0 < rem || sticky)

/-- The integer `m * 2^e` (or a little more, if `sticky`) rounded to a multiple of `2^q`, as that multiple; and whether
anything was discarded. -/
def roundAt (mode : RMode) (neg : Bool) (m : Nat) (e q : Int) (sticky : Bool) : Nat × Bool :=
  if q ≤ e then (m * 2 ^ (e - q).toNat, sticky)
  else
    let sh := (q - e).toNat
    let k := m / 2 ^ sh
    let rem := m % 2 ^ sh
    let up := roundUp mode neg (k % 2 == 1) rem (2 ^ (sh - 1)) sticky
    (if up then k + 1 else k, rem != 0 || sticky)

/-- The overflowed result of R63. -/
def FFmt.overflow (f : FFmt) (mode : RMode) (neg : Bool) : Nat :=
  let big := match mode with
    | .rne => true
    | .rz => false
    | .ru => !neg
    | .rd => neg
  f.withSign neg (if big then f.infBits else f.infBits - 1)

/-- RND of a non-zero finite value `m * 2^e`, or a little more than that if `sticky` (the caller then gives `m` at least
two bits more than the format holds): R63, with tininess found after rounding. -/
def FFmt.rnd (f : FFmt) (mode : RMode) (neg : Bool) (m : Nat) (e : Int) (sticky : Bool) : Nat × Flags :=
  let top := e + (Nat.log2 m : Int)
  let q := max (top - f.mb) f.emin
  let r := roundAt mode neg m e q sticky
  let bits := (q - f.emin).toNat * 2 ^ f.mb + r.1
  if f.infBits ≤ bits then (f.overflow mode neg, fOVERFLOW ||| fINEXACT)
  else
    let tiny := decide (top < f.emin + f.mb) &&
      decide ((roundAt mode neg m e (top - f.mb) sticky).1 < 2 ^ (f.mb + 1) ∨ top + 1 < f.emin + f.mb)
    (f.withSign neg bits, if r.2 then (if tiny then fINEXACT ||| fUNDERFLOW else fINEXACT) else 0)

/-- RND of a finite value that may be zero, whose zero has the sign `zneg`. -/
def FFmt.rndz (f : FFmt) (mode : RMode) (neg zneg : Bool) (m : Nat) (e : Int) : Nat × Flags :=
  if m = 0 then (f.withSign zneg 0, 0) else f.rnd mode neg m e false

/-- The canonical NaN with INVALID (R64). -/
def FFmt.invalid (f : FFmt) : Nat × Flags := (f.nanBits, fINVALID)

/-- The flag of a NaN operand (R64). -/
def FVal.nanFlag : FVal → Flags
  | .nan true => fINVALID
  | _ => 0

def FVal.isNan : FVal → Bool
  | .nan _ => true
  | _ => false

def FVal.neg : FVal → FVal
  | .nan s => .nan s
  | .inf n => .inf (!n)
  | .fin n m e => .fin (!n) m e

/-- A signed integer scaled to exponent `q`, for q ≤ e. -/
def scaled (neg : Bool) (m : Nat) (e q : Int) : Int :=
  let v : Int := (m : Int) * 2 ^ (e - q).toNat
  if neg then -v else v

/-- The exact product of two numbers that are not NaN, `none` for 0 times infinity. -/
def FVal.mul : FVal → FVal → Option FVal
  | .inf a, .inf b => some (.inf (a != b))
  | .inf a, .fin b m _ => if m = 0 then none else some (.inf (a != b))
  | .fin a m _, .inf b => if m = 0 then none else some (.inf (a != b))
  | .fin a m e, .fin b n d => some (.fin (a != b) (m * n) (e + d))
  | _, _ => none

/-- The rounded sum of two numbers that are not NaN. The sum of two zeros of one sign keeps the sign in every mode, as IEEE
754-2019 has it, by which R159 says the sign goes; its gloss would make (+0) + (+0) under RD −0 (log 64). -/
def FFmt.addV (f : FFmt) (mode : RMode) (x y : FVal) : Nat × Flags :=
  match x, y with
  | .inf a, .inf b => if a == b then (f.withSign a f.infBits, 0) else f.invalid
  | .inf a, _ => (f.withSign a f.infBits, 0)
  | _, .inf b => (f.withSign b f.infBits, 0)
  | .fin a m e, .fin b n d =>
    let q := min e d
    let s := scaled a m e q + scaled b n d q
    let zneg := if m = 0 ∧ n = 0 then (if a == b then a else mode == .rd) else mode == .rd
    f.rndz mode (decide (s < 0)) zneg s.natAbs q
  | _, _ => f.invalid

/-- RND(x + y) (R64, R159). -/
def FFmt.add (f : FFmt) (mode : RMode) (x y : FVal) : Nat × Flags :=
  if x.isNan || y.isNan then (f.nanBits, x.nanFlag ||| y.nanFlag) else f.addV mode x y

/-- RND of one value read in any format: a conversion to `f` (R65). -/
def FFmt.conv (f : FFmt) (mode : RMode) (x : FVal) : Nat × Flags :=
  match x with
  | .nan _ => (f.nanBits, x.nanFlag)
  | .inf n => (f.withSign n f.infBits, 0)
  | .fin n m e => f.rndz mode n n m e

/-- RND(x * y) (R171). -/
def FFmt.mul (f : FFmt) (mode : RMode) (x y : FVal) : Nat × Flags :=
  if x.isNan || y.isNan then (f.nanBits, x.nanFlag ||| y.nanFlag)
  else match x.mul y with
    | none => f.invalid
    | some p => f.conv mode p

/-- RND(x * y + z), one rounding; 0 times infinity sets INVALID whatever the addend (R171). -/
def FFmt.fma (f : FFmt) (mode : RMode) (x y z : FVal) : Nat × Flags :=
  let nf := x.nanFlag ||| y.nanFlag ||| z.nanFlag
  if x.isNan || y.isNan then (f.nanBits, nf)
  else match x.mul y with
    | none => (f.nanBits, nf ||| fINVALID)
    | some p => if z.isNan then (f.nanBits, nf) else f.addV mode p z

/-- The order of two finite or infinite numbers, −1, 0 or 1, with −0 equal to +0. -/
def FVal.cmp : FVal → FVal → Int
  | .inf a, .inf b => if a == b then 0 else if a then -1 else 1
  | .inf a, _ => if a then -1 else 1
  | _, .inf b => if b then 1 else -1
  | .fin a m e, .fin b n d =>
    let q := min e d
    let s := scaled a m e q - scaled b n d q
    if s < 0 then -1 else if 0 < s then 1 else 0
  | _, _ => 0

def FVal.sign : FVal → Bool
  | .inf a => a
  | .fin a _ _ => a
  | .nan _ => false

/-- FMIN (`least`) and FMAX of R173, on the bits and what they read as. -/
def FFmt.minMax (f : FFmt) (least : Bool) (xb yb : Nat) : Nat × Flags :=
  let x := f.unpack xb
  let y := f.unpack yb
  let fl := x.nanFlag ||| y.nanFlag
  if x.isNan && y.isNan then (f.nanBits, fl)
  else if x.isNan then (yb, fl)
  else if y.isNan then (xb, fl)
  else
    let c := x.cmp y
    let xFirst := if c = 0 then (if least then x.sign else !x.sign) else if least then decide (c < 0) else decide (0 < c)
    (if xFirst then xb else yb, fl)

/-- RINT of a finite value as a signed integer, and whether it changed (Table 11.2). -/
def rint (mode : RMode) (neg : Bool) (m : Nat) (e : Int) : Int × Bool :=
  let r := roundAt mode neg m e 0 false
  (if neg then -(r.1 : Int) else (r.1 : Int), r.2)

/-- CVTI of Table 11.2. -/
def cvti (mode : RMode) (lo hi : Int) (x : FVal) : Int × Flags :=
  match x with
  | .nan _ => (0, fINVALID)
  | .inf n => (if n then lo else hi, fINVALID)
  | .fin n m e =>
    let r := rint mode n m e
    if r.1 < lo then (lo, fINVALID) else if hi < r.1 then (hi, fINVALID)
    else (r.1, if r.2 then fINEXACT else 0)

/-- RINT of a value as the bits of its own format (Table 11.12, `.rint`). -/
def FFmt.rintBits (f : FFmt) (mode : RMode) (bits : Nat) : Nat × Flags :=
  match f.unpack bits with
  | .nan s => (f.nanBits, (FVal.nan s).nanFlag)
  | .inf n => (f.withSign n f.infBits, 0)
  | .fin n m e =>
    let r := rint mode n m e
    ((f.rndz .rne n n r.1.natAbs 0).1, if r.2 then fINEXACT else 0)

/-- A signed integer rounded to a format (R65). -/
def FFmt.ofInt (f : FFmt) (mode : RMode) (x : Int) : Nat × Flags :=
  f.rndz mode (decide (x < 0)) false x.natAbs 0

/-! ### The correctly rounded functions of R175 -/

/-- Newton's iteration from above: the floor of the square root, once `x` is at least that. -/
def isqrtGo (fuel n x : Nat) : Nat :=
  match fuel with
  | 0 => x
  | fuel + 1 =>
    let y := (x + n / x) / 2
    if y < x then isqrtGo fuel n y else x

/-- The floor of the square root. -/
def isqrt (n : Nat) : Nat := if n = 0 then 0 else isqrtGo 400 n (2 ^ (Nat.log2 n / 2 + 1))

/-- Fraction bits of the fixed-point evaluations below (log 11). -/
def fixP : Nat := 192

/-- ln 2 in fixed point, rounded down, as the sum of 2 / ((2k+1) 3^(2k+1)). -/
def ln2Go (fuel k pw acc : Nat) : Nat :=
  match fuel with
  | 0 => acc
  | fuel + 1 => ln2Go fuel (k + 1) (pw / 9) (acc + pw / (2 * k + 1))

/-- ln 2 * 2^fixP. -/
def ln2Fix : Nat := ln2Go 70 0 (2 ^ (fixP + 33) / 3) 0 / 2 ^ 32

/-- Taylor's sum of exp y, y in fixed point below 1. -/
def expGo (fuel n y term acc : Nat) : Nat :=
  match fuel with
  | 0 => acc
  | fuel + 1 =>
    let t := term * y / 2 ^ fixP / n
    expGo fuel (n + 1) y t (acc + t)

/-- exp y * 2^fixP for a fixed-point y below 1. -/
def expFix (y : Nat) : Nat := expGo 50 1 y (2 ^ fixP) (2 ^ fixP)

/-- The series of atanh z, z in fixed point at most 1/3. -/
def atanhGo (fuel k z2 pw acc : Nat) : Nat :=
  match fuel with
  | 0 => acc
  | fuel + 1 => atanhGo fuel (k + 1) z2 (pw * z2 / 2 ^ fixP) (acc + pw / (2 * k + 1))

/-- `n` squarings in fixed point. -/
def sqrGo : Nat → Nat → Nat
  | 0, x => x
  | n + 1, x => sqrGo n (x * x / 2 ^ fixP)

/-- A magnitude at 2^q with more to come, as RND takes it. -/
def FFmt.rndMore (f : FFmt) (mode : RMode) (neg : Bool) (m : Nat) (q : Int) : Nat × Flags := f.rnd mode neg m q true

/-- 1/x for a non-zero finite x. -/
def FFmt.rcpFin (f : FFmt) (mode : RMode) (neg : Bool) (m : Nat) (e : Int) : Nat × Flags :=
  let k := Nat.log2 m + 64
  f.rnd mode neg (2 ^ k / m) (-e - k) (2 ^ k % m != 0)

/-- The square root of a positive finite x. -/
def FFmt.sqrtFin (f : FFmt) (mode : RMode) (m : Nat) (e : Int) : Nat × Flags :=
  let m2 := if e % 2 = 0 then m * 2 ^ 128 else m * 2 ^ 129
  let e2 := if e % 2 = 0 then e - 128 else e - 129
  let r := isqrt m2
  f.rnd mode false r (e2 / 2) (r * r != m2)

/-- 1/sqrt x for a positive finite x. -/
def FFmt.rsqFin (f : FFmt) (mode : RMode) (m : Nat) (e : Int) : Nat × Flags :=
  let m2 := if e % 2 = 0 then m else m * 2
  let e2 := if e % 2 = 0 then e else e - 1
  let k := Nat.log2 m2 + 80
  let r := isqrt (2 ^ (2 * k) / m2)
  f.rnd mode false r (-(e2 / 2) - k) (r * r * m2 != 2 ^ (2 * k))

/-- 2^x for a finite non-zero x (log 11). -/
def FFmt.exp2Fin (f : FFmt) (mode : RMode) (neg : Bool) (m : Nat) (e : Int) : Nat × Flags :=
  let top := e + (Nat.log2 m : Int)
  if top < -40 then
    if neg then f.rndMore mode false (2 ^ 60 - 1) (-60) else f.rndMore mode false (2 ^ 60) (-60)
  else if 12 ≤ top then
    if neg then f.rndMore mode false (2 ^ 60) (-5000) else f.rndMore mode false (2 ^ 60) 5000
  else
    let v := scaled neg m e (min e 0)
    let den : Nat := 2 ^ (-(min e 0)).toNat
    let k := v / (den : Int)
    let r := (v % (den : Int)).toNat
    if r = 0 then f.rnd mode false 1 k false
    else f.rndMore mode false (expFix (r * ln2Fix / den)) (k - fixP)

/-- log2 x for a positive finite x (log 11). -/
def FFmt.log2Fin (f : FFmt) (mode : RMode) (m : Nat) (e : Int) : Nat × Flags :=
  let lg := Nat.log2 m
  let k : Int := e + lg
  if m = 2 ^ lg then f.ofInt mode k
  else
    let z := (m - 2 ^ lg) * 2 ^ fixP / (m + 2 ^ lg)
    let a := 2 * atanhGo 70 0 (z * z / 2 ^ fixP) z 0
    let l := a * 2 ^ fixP / ln2Fix
    if 0 ≤ k then f.rndMore mode false (k.toNat * 2 ^ fixP + l) (-fixP)
    else f.rndMore mode true (k.natAbs * 2 ^ fixP - l - 1) (-fixP)

/-- tanh x for a finite non-zero x (log 11). -/
def FFmt.tanhFin (f : FFmt) (mode : RMode) (neg : Bool) (m : Nat) (e : Int) : Nat × Flags :=
  let top := e + (Nat.log2 m : Int)
  if top < -14 then f.rndMore mode neg (m * 2 ^ 64 - 1) (e - 64)
  else if 4 ≤ top then f.rndMore mode neg (2 ^ 60 - 1) (-60)
  else
    let sh := e + (fixP : Int) - 4
    let y := if 0 ≤ sh then m * 2 ^ sh.toNat else m / 2 ^ (-sh).toNat
    let ex := sqrGo 5 (expFix y)
    f.rndMore mode neg ((ex - 2 ^ fixP) * 2 ^ fixP / (ex + 2 ^ fixP)) (-fixP)

/-- The functions of R175. -/
inductive FFun where
  | rcp | rsq | sqrt | exp2 | log2 | tanh
  deriving DecidableEq, Repr

/-- RND(φ(x)) with the special operands of Table 11.10 (R175). -/
def FFmt.apply (f : FFmt) (fn : FFun) (mode : RMode) (x : FVal) : Nat × Flags :=
  match x with
  | .nan _ => (f.nanBits, x.nanFlag)
  | .inf n => match fn with
    | .rcp => (f.withSign n 0, 0)
    | .rsq => if n then f.invalid else (0, 0)
    | .sqrt => if n then f.invalid else (f.infBits, 0)
    | .exp2 => if n then (0, 0) else (f.infBits, 0)
    | .log2 => if n then f.invalid else (f.infBits, 0)
    | .tanh => f.rndz mode n n 1 0
  | .fin n m e =>
    if m = 0 then match fn with
      | .rcp => (f.withSign n f.infBits, fDIVZERO)
      | .rsq => (f.withSign n f.infBits, fDIVZERO)
      | .sqrt => (f.withSign n 0, 0)
      | .exp2 => f.rndz mode false false 1 0
      | .log2 => (f.withSign true f.infBits, fDIVZERO)
      | .tanh => (f.withSign n 0, 0)
    else match fn with
      | .rcp => f.rcpFin mode n m e
      | .rsq => if n then f.invalid else f.rsqFin mode m e
      | .sqrt => if n then f.invalid else f.sqrtFin mode m e
      | .exp2 => f.exp2Fin mode n m e
      | .log2 => if n then f.invalid else f.log2Fin mode m e
      | .tanh => f.tanhFin mode n m e

end Sys2Proof.Machine
end

