-- ==== Sys2Proof/Config.lean ====
section
/-! DEFINITION. What an implementation fixes and the spec does not give: free values and constants without a body, so
that no proof can see what they are (log entries 4, 9). -/

namespace Sys2Proof.Config

/-- A free 32-bit value, by the number of the draw (log 4). -/
opaque freeWord : Nat → Word

/-- A free byte, by the number of the draw (log 4). -/
opaque freeByte : Nat → Byte

/-- Byte i of a block's stored sectors as a read under another key finds it: the block's physical address div 256, the key
it was written under, the key it is read under, the sectors as they were before encryption (09 R150, R151, log 9). From
number 256 on they are the bytes of the block that such a read returns where what it finds decodes to no block. -/
opaque wrongKey : Nat → Nat → Nat → List Byte → Nat → Byte

/-- Byte i of a block whose chunk holds fewer bytes: such a chunk is what a read under another key may find (05 R81, R84,
log 9). -/
opaque pastRaw : Nat → Nat → Byte

/-- The device serial (27 R362). -/
opaque serial : BitVec 128

/-- The security version of the firmware of the package's first boot (27 R360). -/
opaque firmwareVersion : Word

/-- The fused rollback counter (27 R360). -/
opaque rollbackCounter : Word

/-- The SHA-384 measurement of that firmware (27 R360). -/
opaque measurement : BitVec 384

/-- The SHA-384 measurement of an image, by its security version and the BOOTCFG value that it writes (27 R360). -/
opaque measurementOf : Word → Word → BitVec 384

/-- The certificate chain (27 R361), as bytes. -/
opaque certificate : List Byte

/-- The identity key's signature r and s over the bytes of a report, as 96 bytes (27 R362). -/
opaque signature : List Byte → List Byte

/-- A key unwrapped from the 169 bytes of a KEYLOAD buffer, if the unwrap succeeds (27 R362). -/
opaque unwrap : List Byte → Option Nat

/-- The Vendor ID register of configuration space (01 R25). -/
opaque vendorId : BitVec 16

/-- A byte of configuration space that the spec does not give (01 R25, log 23). -/
opaque configByte : Nat → Byte

end Sys2Proof.Config
end

