-- ==== Sys2Proof/Syntax.lean ====
section
/-! DEFINITION. The abstract syntax: one constructor for each row of spec/opcode_table.json. The first 134 are the
encoded instructions of classes 0 to 6 (spec/03_instruction_encoding.md R52); the rest are the steps of the device, the
host, the peers and the package that spec/95_what_each_step_holds.md lists, whose operands say what they are about. -/

namespace Sys2Proof

/-- Operands of format F3 with two sources (R37, R156): `q` is QB, `wa` and `wb` the wait bits. -/
structure F3 where
  q : Bool
  d : BitVec 7
  wa : Bool
  a : BitVec 7
  wb : Bool
  b : BitVec 7
  deriving DecidableEq, Repr

/-- Operands of a unary F3 instruction (R156). -/
structure U3 where
  d : BitVec 7
  wa : Bool
  a : BitVec 7
  deriving DecidableEq, Repr

/-- Operands of format FI with its immediate (R39): `q` is QA. -/
structure FI where
  q : Bool
  d : BitVec 7
  wa : Bool
  a : BitVec 7
  imm : BitVec 8
  deriving DecidableEq, Repr

/-- Operands of format FS (R40). -/
structure FS where
  sd : BitVec 6
  sa : BitVec 6
  sb : BitVec 6
  imm : BitVec 6
  deriving DecidableEq, Repr

/-- Operands of FCVT and DCVT: an FI whose immediate holds RM and KIND (R176, Table 11.11). -/
structure FC where
  q : Bool
  d : BitVec 7
  wa : Bool
  a : BitVec 7
  rm : BitVec 3
  kind : BitVec 4
  deriving DecidableEq, Repr

/-- A per-lane global address operand with an offset of `n` bits (R206): `am` is AM, the base pair vA:A+1 or the
scalar pair sB:B+1 with the index vA. -/
structure MA (n : Nat) where
  am : Bool
  wa : Bool
  a : BitVec 7
  wb : Bool
  b : BitVec 6
  off : BitVec n
  deriving DecidableEq, Repr

/-- Operands of LDT and STT (R214): `q` is QA, `off5` counts accesses, `size` is the size code. -/
structure TA where
  q : Bool
  d : BitVec 7
  wa : Bool
  a : BitVec 7
  off5 : BitVec 5
  size : BitVec 3
  deriving DecidableEq, Repr

/-- Who sends a request to a memory die (R12, R20, R127). -/
inductive Requester where
  | thisDie | otherDie | host | peer
  deriving DecidableEq, Repr

/-- A link of the fabric (R12): the near link of a memory die, the bridge, or the side link between MDk and MDk+4. -/
inductive FabricLink where
  | near (md : BitVec 3)
  | bridge
  | side (k : BitVec 2)
  deriving DecidableEq, Repr

/-- A physical address with the page fields under which a request reaches it (R20, R151). -/
structure PagedAddr where
  pa : BitVec 46
  fields : BitVec 6
  deriving DecidableEq, Repr

/-- What a peer's request carries: its length in bytes, and those of a write or a reduce-add (R356). -/
structure PeerData where
  len : BitVec 9
  bytes : BitVec 2048
  deriving DecidableEq, Repr

/-- The firmware image that a cold reset finds (R360): does its signature verify against the fused key hash, its security
version, and the value that it writes into BOOTCFG (R298). -/
structure Image where
  good : Bool
  version : BitVec 32
  bootcfg : BitVec 32
  deriving DecidableEq, Repr

/-- What an access served by an L2 slice does (R127, R139): a read, a plain write, a write-back from an L1, or a write
that is a release by the core's waves. -/
inductive L2Req where
  | read | write | writeBack | release
  deriving DecidableEq, Repr

/-- What a peer asks of the exporter (R284, R356). -/
inductive PeerOp where
  | read | write | addI32 | addF32 | addBf16
  deriving DecidableEq, Repr

/-- The steps of the machine: spec/opcode_table.json, row by row. -/
inductive Instr where
  /-- IADD: Adds two 32-bit sources modulo 2^32 in each active lane (R161). -/
  | iadd (f : F3)
  /-- ISUB: Subtracts source B from source A modulo 2^32 in each active lane (R161). -/
  | isub (f : F3)
  /-- IMUL: Writes the low 32 bits of the product of two sources in each active lane (R161). -/
  | imul (f : F3)
  /-- IMULH: Writes the unsigned high 32 bits of the 64-bit product in each active lane (R161). -/
  | imulh (f : F3)
  /-- IMAD: Multiplies two sources and adds the destination as addend, keeping 32 bits (R163). -/
  | imad (f : F3)
  /-- IMIN: Writes the signed minimum of two sources in each active lane (R161). -/
  | imin (f : F3)
  /-- IMAX: Writes the signed maximum of two sources in each active lane (R161). -/
  | imax (f : F3)
  /-- UMIN: Writes the unsigned minimum of two sources in each active lane (R161). -/
  | umin (f : F3)
  /-- UMAX: Writes the unsigned maximum of two sources in each active lane (R161). -/
  | umax (f : F3)
  /-- AND: Writes the bitwise AND of two sources in each active lane (R161). -/
  | and (f : F3)
  /-- OR: Writes the bitwise OR of two sources in each active lane (R161). -/
  | or (f : F3)
  /-- XOR: Writes the bitwise XOR of two sources in each active lane (R161). -/
  | xor (f : F3)
  /-- ANDN: Writes A AND NOT B in each active lane (R161). -/
  | andn (f : F3)
  /-- SHL: Shifts left by an unreduced count, giving 0 for counts of 32 or more (R162). -/
  | shl (f : F3)
  /-- SHR: Shifts right logically by an unreduced count (R162). -/
  | shr (f : F3)
  /-- SAR: Shifts right arithmetically by an unreduced count (R162). -/
  | sar (f : F3)
  /-- POPC: Counts the 1 bits of the source in each active lane (R164). -/
  | popc (u : U3)
  /-- CLZ: Counts leading zero bits of the source in each active lane (R164). -/
  | clz (u : U3)
  /-- CTZ: Counts trailing zero bits of the source in each active lane (R164). -/
  | ctz (u : U3)
  /-- BREV: Reverses the bit order of the source in each active lane (R164). -/
  | brev (u : U3)
  /-- BFE: Extracts a bit field, optionally sign-extended, in each active lane (R167). -/
  | bfe (u : U3) (sx : Bool) (lenm1 : BitVec 5) (pos : BitVec 5)
  /-- BFI: Inserts a bit field of A into B in each active lane (R167). -/
  | bfi (f : F3) (lenm1 : BitVec 5) (pos : BitVec 5)
  /-- ICMP: Writes signed-less, equal and unsigned-less predicates for the two sources (R169). -/
  | icmp (f : F3)
  /-- SEL: Selects A or B per lane by a predicate bit, optionally negated (R170). -/
  | sel (f : F3) (neg : Bool) (pidx : BitVec 3)
  /-- MOV: Copies the source register in each active lane (R164). -/
  | mov (u : U3)
  /-- MOVI: Writes a 32-bit immediate in each active lane (R166). -/
  | movi (d : BitVec 7) (imm : BitVec 32)
  /-- IADDI: Adds a signed 8-bit immediate to the source in each active lane (R165). -/
  | iaddi (f : FI)
  /-- LEA: Forms a 64-bit address from base pair, shifted index and offset (R168). -/
  | lea (f : F3) (off : BitVec 16) (sx : Bool) (sh : BitVec 3)
  /-- IADDS: Adds two sources with signed saturation, setting SAT on clamp (R161). -/
  | iadds (f : F3)
  /-- IABS: Writes the saturated absolute value of the source (R164). -/
  | iabs (u : U3)
  /-- INEG: Writes the saturated negation of the source (R164). -/
  | ineg (u : U3)
  /-- FADD: Adds two FP32 values rounded once under the mode in force (R171). -/
  | fadd (f : F3)
  /-- FSUB: Subtracts two FP32 values rounded once (R171). -/
  | fsub (f : F3)
  /-- FMUL: Multiplies two FP32 values rounded once (R171). -/
  | fmul (f : F3)
  /-- FFMA: Fused multiply-add into the destination as addend, rounded once (R171). -/
  | ffma (f : F3)
  /-- FFMA3: Fused multiply-add with a separate addend register vC (R172). -/
  | ffma3 (f : F3) (wc : Bool) (c : BitVec 7)
  /-- FMIN: Writes the IEEE minimumNumber of two FP32 operands (R173). -/
  | fmin (f : F3)
  /-- FMAX: Writes the IEEE maximumNumber of two FP32 operands (R173). -/
  | fmax (f : F3)
  /-- FCMP: Writes less, equal and unordered predicates for two FP32 operands (R174). -/
  | fcmp (f : F3)
  /-- FRCP: Writes the correctly rounded FP32 reciprocal (R175). -/
  | frcp (u : U3)
  /-- FRSQ: Writes the correctly rounded FP32 reciprocal square root (R175). -/
  | frsq (u : U3)
  /-- FSQRT: Writes the correctly rounded FP32 square root (R175). -/
  | fsqrt (u : U3)
  /-- FEXP2: Writes the correctly rounded FP32 value of 2^x (R175). -/
  | fexp2 (u : U3)
  /-- FLOG2: Writes the correctly rounded FP32 base-2 logarithm (R175). -/
  | flog2 (u : U3)
  /-- FTANH: Writes the correctly rounded FP32 hyperbolic tangent (R175). -/
  | ftanh (u : U3)
  /-- FCVT: Converts between FP32, integer, FP16 and BF16 under a kind and rounding mode (R177). -/
  | fcvt (f : FC)
  /-- HFMA2: Fused multiply-add on two packed FP16 elements per register (R179). -/
  | hfma2 (f : F3)
  /-- BFMA2: Fused multiply-add on two packed BF16 elements per register (R179). -/
  | bfma2 (f : F3)
  /-- DADD: Adds two FP64 register pairs, rounded once (R180). -/
  | dadd (f : F3)
  /-- DMUL: Multiplies two FP64 register pairs, rounded once (R180). -/
  | dmul (f : F3)
  /-- DFMA: FP64 fused multiply-add into the destination pair, rounded once (R180). -/
  | dfma (f : F3)
  /-- DCVT: Converts between FP64 and FP32 or integers under a kind and rounding mode (R178). -/
  | dcvt (f : FC)
  /-- VOTE: Writes a ballot, all, any or uniform vote of the active lanes to a scalar (R181). -/
  | vote (d : BitVec 6) (wa : Bool) (a : BitVec 7) (mode : BitVec 2)
  /-- SHFL: Moves values between lanes within segments by index, up, down or XOR (R183). -/
  | shfl (f : F3) (wcode : BitVec 3) (mode : BitVec 2) (useb : Bool) (imm : BitVec 5)
  /-- REDX: Reduces a value across the active lanes, with a fixed tree for float operations (R185). -/
  | redx (f : F3) (sdst : Bool) (rop : BitVec 4)
  /-- NOP: Takes one issue cycle and does nothing else (R199). -/
  | nop
  /-- SMOV: Copies one scalar register to another (R191). -/
  | smov (sd : BitVec 6) (sa : BitVec 6)
  /-- SMOVI: Writes a 32-bit immediate to a scalar register (R193). -/
  | smovi (d : BitVec 6) (imm : BitVec 32)
  /-- SADD: Adds a scalar register or immediate to a scalar modulo 2^32 (R191). -/
  | sadd (f : FS)
  /-- SSUB: Subtracts a scalar register or immediate modulo 2^32 (R191). -/
  | ssub (f : FS)
  /-- SMUL: Writes the low 32 bits of a scalar product (R191). -/
  | smul (f : FS)
  /-- SAND: Writes the AND of two scalar operands (R191). -/
  | sand (f : FS)
  /-- SOR: Writes the OR of two scalar operands (R191). -/
  | sor (f : FS)
  /-- SXOR: Writes the XOR of two scalar operands (R191). -/
  | sxor (f : FS)
  /-- SSHL: Shifts a scalar left by an unreduced count (R191). -/
  | sshl (f : FS)
  /-- SSHR: Shifts a scalar right, logically or arithmetically (R191). -/
  | sshr (f : FS)
  /-- SCMP: Compares two scalars and writes MASK or 0 to a predicate (R192). -/
  | scmp (pd : BitVec 3) (sa : BitVec 6) (sb : BitVec 6) (rel : BitVec 3)
  /-- S2V: Broadcasts a scalar register into a vector register (R194). -/
  | s2v (d : BitVec 7) (wb : Bool) (b : BitVec 6)
  /-- V2S: Copies one lane of a vector register into a scalar register (R194). -/
  | v2s (d : BitVec 6) (wa : Bool) (a : BitVec 7) (k : BitVec 5)
  /-- BRA: Jumps the whole wave to a target clause with no stack change (R195). -/
  | bra (toff : BitVec 16)
  /-- BRC: Branches on a predicate, pushing JOIN and PATH entries when lanes diverge (R112). -/
  | brc (neg : Bool) (pidx : BitVec 3) (toff : BitVec 16) (roff : BitVec 16)
  /-- BRK: Removes the active lanes until the JOIN at the given stack index pops (R113). -/
  | brk (level : BitVec 4)
  /-- JMPI: Jumps each lane to CODEBASE plus its offset, pushing paths for distinct targets (R114). -/
  | jmpi (wa : Bool) (a : BitVec 7) (roff : BitVec 16)
  /-- CALL: Pushes a CALLJ return entry and jumps to the target (R115). -/
  | call (toff : BitVec 16)
  /-- RET: Returns the active lanes to the nearest CALLJ (R115). -/
  | ret
  /-- EXIT: Removes the active lanes from the wave and retires it when none remain (R116). -/
  | exit
  /-- BAR: Arrives at and or waits on a wave, block, cluster or grid barrier (R200). -/
  | bar (level : BitVec 2) (mode : BitVec 2) (num : BitVec 3)
  /-- SPAWN: Writes one spawn record per active lane into the bin keyed by the entry VA (R102). -/
  | spawn (wa : Bool) (a : BitVec 7) (wb : Bool) (b : BitVec 6)
  /-- TQPUSH: Pushes one record per active lane into a task queue, all or none (R106). -/
  | tqpush (d : BitVec 6) (wa : Bool) (a : BitVec 7) (wb : Bool) (b : BitVec 6)
  /-- TQPOP: Pops records from a task queue into v0..v7 of the active lanes, blocking or not (R107). -/
  | tqpop (d : BitVec 6) (nb : Bool) (wb : Bool) (b : BitVec 6)
  /-- TQSTAT: Writes the number of records a task queue holds (R203). -/
  | tqstat (d : BitVec 6) (wb : Bool) (b : BitVec 6)
  /-- RECGET: Asks the card's dealer for the next chunk of argument records (R97). -/
  | recget (d : BitVec 6)
  /-- YIELD: Makes the wave ineligible for its quarter's next issue cycle if another is ready (R199). -/
  | yield
  /-- WAITC: Holds the wave until its count of term, copy, store or load operations is at most N (R201). -/
  | waitc (kind : BitVec 2) (n : BitVec 6)
  /-- LD: Loads global memory into vector registers per lane, weak or strong (R207). -/
  | ld (m : MA 14) (d : BitVec 7) (scope : BitVec 2) (ord : BitVec 3) (size : BitVec 3) (sx : Bool)
  /-- ST: Stores vector data to global memory per lane, weak or strong (R208). -/
  | st (m : MA 14) (wv : Bool) (v : BitVec 7) (scope : BitVec 2) (ord : BitVec 3) (size : BitVec 3)
  /-- LDT: Loads tile memory into vector registers under the line tags (R214). -/
  | ldt (t : TA)
  /-- STT: Stores vector data to tile memory under the line tags (R214). -/
  | stt (t : TA)
  /-- SLD: Loads a scalar or scalar pair once per wave from global memory (R209). -/
  | sld (d : BitVec 6) (wb : Bool) (b : BitVec 6) (off : BitVec 14) (scope : BitVec 2) (ord : BitVec 3) (size : BitVec 3)
  /-- ATOM: Performs an indivisible read-modify-write per lane and returns the old value (R211). -/
  | atom (m : MA 10) (d : BitVec 7) (aop : BitVec 4) (wv : Bool) (v : BitVec 7) (scope : BitVec 2) (ord : BitVec 3) (size : BitVec 3)
  /-- ATOMC: Performs an indivisible compare and swap per lane (R212). -/
  | atomc (m : MA 10) (d : BitVec 7) (wv : Bool) (v : BitVec 7) (scope : BitVec 2) (ord : BitVec 3) (size : BitVec 3)
  /-- RED: Performs the write side of an atomic per lane and returns nothing (R213). -/
  | red (m : MA 10) (aop : BitVec 4) (wv : Bool) (v : BitVec 7) (scope : BitVec 2) (ord : BitVec 3) (size : BitVec 3)
  /-- FENCE: Orders the wave's accesses as a release, acquire, both, or SC fence at a scope (R142). -/
  | fence (kind : BitVec 3) (scope : BitVec 2)
  /-- CCTL: Writes back, invalidates or prefetches cache lines per lane (R216). -/
  | cctl (m : MA 14) (cop : BitVec 3)
  /-- RBEGIN: Opens a forwarding region for the wave after a die-scope fence (R326). -/
  | rbegin (d : BitVec 6) (aoff : BitVec 16)
  /-- RCOMMIT: Waits for the region's predecessors and then commits it (R327). -/
  | rcommit
  /-- RABORT: Aborts the wave's region with cause EXPLICIT and a code (R328). -/
  | rabort (code : BitVec 7)
  /-- RSTAT: Reads region state or die region-table and buffer counts (R329). -/
  | rstat (d : BitVec 6) (sel : BitVec 3)
  /-- OBIND: Reads a shape record and binds it as an object with the lowest free id (R217). -/
  | obind (d : BitVec 6) (wb : Bool) (b : BitVec 6) (off : BitVec 32)
  /-- OUNBIND: Writes back an object's dirty bytes and frees its id (R218). -/
  | ounbind (d : BitVec 6) (wb : Bool) (b : BitVec 6)
  /-- OSEAL: Seals or opens a droppable object (R307). -/
  | oseal (d : BitVec 6) (op : BitVec 2) (wb : Bool) (b : BitVec 6)
  /-- ORECIPE: Reads and checks a recipe record and attaches it to its output object (R308). -/
  | orecipe (d : BitVec 6) (wb : Bool) (b : BitVec 6) (off : BitVec 32)
  /-- OPRIO: Changes an object's residency priority (R218). -/
  | oprio (d : BitVec 6) (prio : BitVec 3) (wb : Bool) (b : BitVec 6)
  /-- OEVICT: Evicts an object from the caches or demotes its priority to 0 (R218). -/
  | oevict (d : BitVec 6) (demote : Bool) (wb : Bool) (b : BitVec 6)
  /-- TMTAG: Reads and optionally sets the tag of a tile line per lane (R219). -/
  | tmtag (q : Bool) (d : BitVec 7) (wa : Bool) (a : BitVec 7) (set : Bool) (tag : BitVec 2)
  /-- TMM: Queues a 64x192 by 192x32 term-array product into an accumulator range (R251). -/
  | tmm (vacc : BitVec 7) (wa : Bool) (a : BitVec 7) (wb : Bool) (b : BitVec 6) (consume : Bool) (pm1 : BitVec 5) (slot : BitVec 7)
  /-- TPROM: Queues a promotion of the wave's held run covering the named register (R255). -/
  | tprom (d : BitVec 7)
  /-- TBOUND: Writes the worst-case TMM latency for a format word and slot (R256). -/
  | tbound (d : BitVec 6) (wa : Bool) (a : BitVec 7) (slot : BitVec 7)
  /-- TCNT: Counts the Booth terms of packed elements per lane (R257). -/
  | tcnt (u : U3) (kind : BitVec 4)
  /-- TLENC: Encodes a dense tile in tile memory into TLF (R260). -/
  | tlenc (d : BitVec 6) (wb : Bool) (b : BitVec 6) (pitch : BitVec 16)
  /-- TLDEC: Decodes single elements of a TLF tile per lane (R261). -/
  | tldec (d : BitVec 7) (wa : Bool) (a : BitVec 7) (wb : Bool) (b : BitVec 6) (hoff : BitVec 16)
  /-- QBX: Quantizes each half-wave of 16 lane values into a BX block (R258). -/
  | qbx (u : U3) (bf : Bool) (kind : BitVec 3)
  /-- DQBX: Decodes a lane's BX field and scale to FP32 or BF16 (R259). -/
  | dqbx (u : U3) (bf : Bool) (kind : BitVec 3)
  /-- DECS: Decodes one SSC chunk from tile memory into tile memory (R262). -/
  | decs (d : BitVec 6) (wb : Bool) (b : BitVec 6) (wl : Bool) (l : BitVec 6)
  /-- XMM: Queues an exact-unit matrix product into a C register range (R264). -/
  | xmm (d : BitVec 7) (wb : Bool) (b : BitVec 6) (zc : Bool) (conjb : Bool) (form : BitVec 2)
  /-- TSTAT: Reads the wave's term state, or reads and clears TLFERR (R265). -/
  | tstat (d : BitVec 6) (sel : BitVec 3)
  /-- CPYT: Issues a copy of rows between global and tile memory, with transpose, swizzle or TLF (R281). -/
  | cpyt (wb : Bool) (b : BitVec 6) (tadd : BitVec 32)
  /-- CPYG: Issues a gather of indexed table rows into tile memory (R282). -/
  | cpyg (wb : Bool) (b : BitVec 6) (tstride : BitVec 32)
  /-- CPYW: Issues a load of a weight slot, raw or SSC, with optional sigma (R283). -/
  | cpyw (slot : BitVec 7) (wb : Bool) (b : BitVec 6) (sig : BitVec 32)
  /-- CPYP: Issues a copy or reduce-add to or from the peer window (R284). -/
  | cpyp (wb : Bool) (b : BitVec 6) (redop : BitVec 3)
  /-- CFILL: Issues a fill of tile or global rows with a byte (R285). -/
  | cfill (wb : Bool) (b : BitVec 6) (tadd : BitVec 32)
  /-- CWAIT_CNT: Holds the wave until it has at most N copies outstanding (R286). -/
  | cwaitCnt (n : BitVec 6)
  /-- CWAIT_SEQ: Holds the wave until the core's watermark reaches a sequence number (R286). -/
  | cwaitSeq (wa : Bool) (a : BitVec 6)
  /-- CSEQ: Writes the wave's latest copy number or the core's watermark (R287). -/
  | cseq (d : BitVec 6) (wm : Bool)
  /-- CSRR: Reads a special register into a vector or scalar register (R220). -/
  | csrr (q : Bool) (d : BitVec 7) (n : BitVec 8)
  /-- CSRW: Writes a special register from a vector or scalar source (R220). -/
  | csrw (q : Bool) (wa : Bool) (a : BitVec 7) (n : BitVec 8)
  /-- TRAP: Traps to TVEC with cause 0x80 plus a code (R221). -/
  | trap (code : BitVec 7)
  /-- TFENCE: Waits for flag-setting operations and traps ARITH if an enabled flag is set (R222). -/
  | tfence
  /-- RFT: Returns from a trap handler to the position after EPC (R223). -/
  | rft
  /-- RESUMEF: Returns from a fault continuation once the fault named by FTOKEN is serviced (R223). -/
  | resumef
  /-- HBEAT: Writes the package heartbeat to a scalar pair in one read (R224). -/
  | hbeat (d : BitVec 6)
  /-- CLOCK: Writes the core's cycle counter to a scalar pair (R224). -/
  | clock (d : BitVec 6)
  /-- PERFC: Reads a per-wave performance counter (R225). -/
  | perfc (d : BitVec 6) (n : BitVec 8)
  /-- BKPT: Stops the wave for the host when breakpoints are enabled, else acts as NOP (R226). -/
  | bkpt
  /-- CLAUSE_ENTRY: the acting wave enters the clause at its position (R29, R32, R34, R111). -/
  | clauseEntry
  /-- LINK_FAILURE: a link fails retraining (R22, R24, R367). -/
  | linkFailure (l : FabricLink)
  /-- REROUTED_PACKET_RECEIPT: memory die k takes the next packet of its VC3 input queue, or for k of 8 and more the compute
  die near memory die k - 8 (R22, R23). -/
  | reroutedPacketReceipt (k : BitVec 4)
  /-- HOME_REQUEST: a request for the 8 bytes at pa, with the page fields of its translation, reaches the memory die its
  hint names (R20, R127, R151). -/
  | homeRequest (src : Requester) (hint : BitVec 3) (pa : PagedAddr) (wr : Bool) (data : BitVec 64)
  /-- BLOCK_WRITE_BACK: the 256-byte line at pa is written back from the L2 to its home (R84). -/
  | blockWriteBack (pa : BitVec 46)
  /-- BLOCK_READ: the home reads the 256-byte block at pa into the L2 (R84). -/
  | blockRead (pa : BitVec 46)
  /-- MIGRATION_WINDOW_END: a counting window of memory die md ends (R149). -/
  | migrationWindowEnd (md : BitVec 3)
  /-- HOME_BLOCK_EXCHANGE: one block of a moving frame pair is exchanged (R149). -/
  | homeBlockExchange (md : BitVec 3) (lframe : BitVec 20) (blk : BitVec 8)
  /-- HEARTBEAT_TICK: the package clock reaches its next multiple of 128 (R143). -/
  | heartbeatTick
  /-- COLD_RESET: cold reset, and the boot of the firmware image that is found (R6, R360). -/
  | coldReset
  /-- SLEEP_ENTRY: the host puts the device in SLEEP (R366). -/
  | sleepEntry
  /-- SLEEP_EXIT: the device returns from SLEEP to IDLE (R366). -/
  | sleepExit
  /-- D3COLD: power is removed, and a cold reset follows (R366, R360). -/
  | d3cold
  /-- GUPLOAD: the host writes GUPLOAD (R350). -/
  | guploadW (val : BitVec 64)
  /-- GTRIG: the host writes GTRIG (R91, R350). -/
  | gtrigW (val : BitVec 64)
  /-- LOW_HALF_WRITE: a 4-byte write at offset + 0 of a 64-bit W register (R347). -/
  | lowHalfWrite (off : BitVec 16) (val : BitVec 32)
  /-- LAUNCH_START: the oldest waiting launch starts and is patched (R92). -/
  | launchStart
  /-- CLUSTER_LAUNCH: the first ready card that fits launches a cluster of blocks (R95). -/
  | clusterLaunch
  /-- GANG_LAUNCH: the first ready GRIDBAR card launches all its blocks (R96). -/
  | gangLaunch
  /-- CARD_COMPLETE: a card of the running launch completes (R93). -/
  | cardComplete (node : BitVec 10)
  /-- SPAWN_BIN_TIMER_EXPIRY: the timer of a spawn bin expires (R103). -/
  | spawnBinTimerExpiry (core : BitVec 7) (bin : BitVec 2)
  /-- SPAWN_BIN_LAUNCH: a ready spawn bin launches a wave (R103). -/
  | spawnBinLaunch (core : BitVec 7) (bin : BitVec 2)
  /-- TQ_TIMER_EXPIRY: the timer of a LAUNCH-mode queue expires (R107). -/
  | tqTimerExpiry (q : BitVec 6)
  /-- TQ_LAUNCH: a LAUNCH-mode queue launches a wave on a core with room (R107). -/
  | tqLaunch (q : BitVec 6) (core : BitVec 7)
  /-- TQ_REFILL: a freed on-chip entry refills from the ring head (R105). -/
  | tqRefill (q : BitVec 6)
  /-- TQ_RING_WRITE: a pushed record is written to its ring slot (R355). -/
  | tqRingWrite (q : BitVec 6)
  /-- TQPOP_WAKE: the oldest blocked TQPOP of the queue is served (R107). -/
  | tqpopWake (q : BitVec 6)
  /-- LOAD_REPLY: the k-th outstanding load or atomic of a wave replies (R48, R343). -/
  | loadReply (wid : Nat) (k : Nat)
  /-- STORE_QUEUE_DRAIN: the oldest entry of a wave's store queue drains (R135). -/
  | storeQueueDrain (wid : Nat)
  /-- WRITE_BUFFER_PERFORM: the oldest entry of a write buffer performs (R136). -/
  | writeBufferPerform (core : BitVec 7) (buf : BitVec 3)
  /-- L2_SLICE_ACCESS: an L2 slice serves one access of 8 bytes (R127, R131, R139). -/
  | l2SliceAccess (core : BitVec 7) (pa : BitVec 46) (op : L2Req) (data : BitVec 64)
  /-- PAGE_WALK_COMPLETE: a page walk for a parked wave finishes (R152, R153). -/
  | pageWalkComplete (wid : Nat)
  /-- KICK_TODEV: the host writes KICK_TODEV (R148, R352). -/
  | kickTodev (n : BitVec 8)
  /-- KICK_TOHOST: the host writes KICK_TOHOST (R148, R352). -/
  | kickTohost (n : BitVec 8)
  /-- KICK_TOHOST_COMPLETE: the kick being served hands its range to the host (R148). -/
  | kickTohostComplete
  /-- SHOOT: the host writes SHOOT (R352). -/
  | shoot (val : BitVec 64)
  /-- SHOOTDOWN_COMPLETE: the shootdown being served completes (R154). -/
  | shootdownComplete
  /-- CMDSTAT_READ: the host reads CMDSTAT (R352). -/
  | cmdstatRead
  /-- JOB_RUN: the host writes JOBCTL with RUN = 1 (R354, R370). -/
  | jobRun (val : BitVec 64)
  /-- JOB_STOP: the host writes JOBCTL with STOP = 1 (R354). -/
  | jobStop (val : BitVec 64)
  /-- FAULTQ_POP: the host reads FAULTQ + 0 (R353). -/
  | faultqPop (wide : Bool)
  /-- FAULTDONE: the host writes FAULTDONE (R353). -/
  | faultdone (token : BitVec 64)
  /-- BKQ_POP: the host reads BKQ + 0 (R353). -/
  | bkqPop (wide : Bool)
  /-- BKREL: the host writes BKREL (R353). -/
  | bkrel (val : BitVec 32)
  /-- MON_ALARM_READ: the host reads word 63 of MON (R365). -/
  | monAlarmRead
  /-- HOTAB_WRITE: the host writes a handover entry (R351). -/
  | hotabWrite (n : BitVec 8) (val : BitVec 64)
  /-- TQCFG_ENABLE: the host sets ENABLE of a task queue (R355). -/
  | tqcfgEnable (q : BitVec 6)
  /-- TQCFG_DISABLE: the host clears ENABLE of a task queue (R355). -/
  | tqcfgDisable (q : BitVec 6)
  /-- REGISTER_WRITE: the host writes an MMIO register with no behaviour of its own (R347). -/
  | registerWrite (off : BitVec 16) (wide : Bool) (val : BitVec 64)
  /-- GETCERT: mailbox command 1, with the SLOT that stands in the command word (R362). -/
  | getcert
  /-- ATTEST: mailbox command 2, with the SLOT that stands in the command word and the nonce in the buffer (R362). -/
  | attest
  /-- KEYLOAD: mailbox command 3, key in the buffer (R362). -/
  | keyload (slot : BitVec 8)
  /-- KEYERASE: mailbox command 4 (R362). -/
  | keyerase (slot : BitVec 8)
  /-- UNKNOWN_COMMAND: a mailbox command of another code, as CMD and SLOT of its word (R362). -/
  | unknownCommand (cmd : BitVec 16)
  /-- HOST_MEM_READ: the host reads n bytes of the HDM window (R348). -/
  | hostMemRead (hdm : BitVec 29) (n : BitVec 7)
  /-- HOST_MEM_WRITE: the host writes up to 8 bytes of the HDM window (R348). -/
  | hostMemWrite (hdm : BitVec 29) (n : BitVec 4) (data : BitVec 64)
  /-- PEER_REQUEST: a peer's request of at most 256 bytes of one 256-byte block reaches the exporter (R356, R358). -/
  | peerRequest (idx : BitVec 8) (peer : BitVec 10) (off : BitVec 48) (op : PeerOp) (data : PeerData)
  /-- PEER_TIMEOUT: a peer request of a copy has no response within PEERTO (R359). -/
  | peerTimeout (core : BitVec 7) (seq : BitVec 32)
  /-- ALARM_LOG: an alarm whose ACTION is LOG (R364). -/
  | alarmLog (src : BitVec 2)
  /-- ALARM_HALT: an alarm whose ACTION is HALT (R364). -/
  | alarmHalt (src : BitVec 2)
  /-- ALARM_ERASE: an alarm whose ACTION is ERASE (R364). -/
  | alarmErase (src : BitVec 2)
  /-- TEMPERATURE_THRESHOLD: a monitor takes a reading, which for a temperature sensor may cross a threshold (R365). -/
  | temperatureThreshold (word : BitVec 6) (val : BitVec 32)
  /-- COPY_START: a copy starts (R268, R269). -/
  | copyStart (core : BitVec 7) (seq : BitVec 32)
  /-- COPY_LINE_ARRIVAL: the last byte a copy writes in a tile line arrives (R122). -/
  | copyLineArrival (core : BitVec 7) (seq : BitVec 32) (line : BitVec 12)
  /-- COPY_COMPLETE: a copy completes (R270). -/
  | copyComplete (core : BitVec 7) (seq : BitVec 32)
  /-- CWAIT_SATISFIED: a waiting CWAIT is satisfied (R286). -/
  | cwaitSatisfied (wid : Nat)
  /-- TMM_START: the TMM at the head of an array queue starts (R237). -/
  | tmmStart (core : BitVec 7) (ta : Bool)
  /-- TMM_COMPLETE: the running TMM of an array completes (R237). -/
  | tmmComplete (core : BitVec 7) (ta : Bool)
  /-- PROMOTION: the queued promotion at the head of an array queue is made (R240, R255). -/
  | promotion (core : BitVec 7) (ta : Bool)
  /-- XMM_START: the XMM at the head of the exact unit starts (R264). -/
  | xmmStart (core : BitVec 7)
  /-- XMM_COMPLETE: the running XMM writes its C range (R264). -/
  | xmmComplete (core : BitVec 7)
  /-- TLENC_COMPLETE: the TLF unit finishes a TLENC (R260). -/
  | tlencComplete (core : BitVec 7)
  /-- TLDEC_COMPLETE: the TLF unit finishes a TLDEC (R261). -/
  | tldecComplete (core : BitVec 7)
  /-- DECS_COMPLETE: the stream decoder finishes a chunk (R262). -/
  | decsComplete (core : BitVec 7)
  /-- RECIPE_POST_RETRY: a core posts its refused tiles again (R296). -/
  | recipePostRetry (core : BitVec 7)
  /-- CHAIN_BEGIN: the entry at the head of the recipe queue begins its chain (R297). -/
  | chainBegin
  /-- NESTED_RECIPE_START: a nested recipe starts for a kindling wave's miss (R302). -/
  | nestedRecipeStart (wid : Nat)
  /-- TILE_REBUILD_COMPLETE: a kindling wave's tile becomes PRESENT (R305). -/
  | tileRebuildComplete (wid : Nat)
  /-- REGION_COMMIT: a region whose predecessors have committed commits (R318). -/
  | regionCommit (rid : BitVec 6)
  /-- EVICTION_DECISION: a ready card that cannot be placed chooses its victims (R338). -/
  | evictionDecision
  /-- WAVE_STOP: a victim wave stops and is saved (R339, R340). -/
  | waveStop (wid : Nat)
  /-- BLOCK_IMAGE_WRITE: a block's own image is written (R342). -/
  | blockImageWrite (blk : Nat)
  /-- WAVE_RESTORE: an evicted block or spawned wave is restored (R345). -/
  | waveRestore (unit : Nat)
  /-- RESERVED_OPCODE: the acting wave reaches a word that no instruction's encoding matches (R53, R54). -/
  | reservedOpcode (word : BitVec 32)
  deriving DecidableEq, Repr

end Sys2Proof
end

