-- ==== Sys2Proof/Decode.lean ====
section
/-! DEFINITION. The decoder of instruction words and, after it, the encoder (spec/03_instruction_encoding.md R27, R36
to R44, R52, R53 and the encoding tables of chapters 11, 13, 17, 19, 21 and 23). What the encoding alone decides is
decided here; a register number is held against the wave's allocation when the instruction is executed (R44). -/

namespace Sys2Proof

/-- Why a word is no instruction's encoding. Each one traps RESERVED_ENCODING when the word is reached (R36, R44, R53). -/
inductive DecodeError where
  /-- the opcode is absent from Tables 3.11 to 3.17, or of class 7 (R53) -/
  | reservedOpcode
  /-- a field the entry does not use is not 0 (R36) -/
  | unusedField
  /-- a field holds a value that the entry reserves or does not admit (R36, R205, R210) -/
  | reservedValue
  /-- a register field breaks R44: a scalar number of 64 or more, a predicate number, an odd pair, a range's first register -/
  | badRegister
  /-- a two-word instruction whose second word is missing (R27) -/
  | truncated
  deriving DecidableEq, Repr

/-- What decoding answers. -/
abbrev Decoded := Except DecodeError Instr

/-- The `n` bits of a word from bit `lo` (R5). -/
def fld (w : Word) (lo n : Nat) : BitVec n := w.extractLsb' lo n

/-- One bit of a word (R5). -/
def bitOf (w : Word) (k : Nat) : Bool := w.getLsbD k

/-- The opcode, bits 31..24 of the first word (R37 to R42). -/
def opcodeOf (w : Word) : Nat := (fld w 24 8).toNat

/-- An instruction of format FL or FB is two words, every other one word; a reserved opcode is one word (R27, R53). -/
def opcodeWords (op : Nat) : Nat :=
  if op ∈ [0x14, 0x15, 0x17, 0x19, 0x1B, 0x24, 0x36, 0x37, 0x42, 0x4E, 0x4F, 0x50, 0x51, 0x52,
      0x60, 0x61, 0x64, 0x65, 0x66, 0x67, 0x69, 0x6A, 0x6E, 0x71, 0x80, 0x84, 0x85, 0x88, 0x89,
      0xA0, 0xA1, 0xA2, 0xA3, 0xA4] then 2 else 1

/-- Table 3.4. -/
def F3.ofWord (w : Word) : F3 :=
  { q := bitOf w 23, d := fld w 16 7, wa := bitOf w 15, a := fld w 8 7, wb := bitOf w 7, b := fld w 0 7 }

/-- The fields a unary instruction reads (R156). -/
def U3.ofWord (w : Word) : U3 := { d := fld w 16 7, wa := bitOf w 15, a := fld w 8 7 }

/-- Table 3.6. -/
def FI.ofWord (w : Word) : FI :=
  { q := bitOf w 23, d := fld w 16 7, wa := bitOf w 15, a := fld w 8 7, imm := fld w 0 8 }

/-- Table 3.7. -/
def FS.ofWord (w : Word) : FS := { sd := fld w 18 6, sa := fld w 12 6, sb := fld w 6 6, imm := fld w 0 6 }

/-- Table 11.11 in an FI word. -/
def FC.ofWord (w : Word) : FC :=
  { q := bitOf w 23, d := fld w 16 7, wa := bitOf w 15, a := fld w 8 7, rm := fld w 4 3, kind := fld w 0 4 }

/-- The address operand of Tables 13.4 and 13.5: word 0 fields, AM in bit 0 of word 1, OFF in the highest bits. -/
def MA.ofWords (n lo : Nat) (w x : Word) : MA n :=
  { am := bitOf x 0, wa := bitOf w 15, a := fld w 8 7, wb := bitOf w 7, b := fld w 0 6, off := fld x lo n }

/-- R214. -/
def TA.ofWord (w : Word) : TA :=
  { q := bitOf w 23, d := fld w 16 7, wa := bitOf w 15, a := fld w 8 7, off5 := fld w 3 5, size := fld w 0 3 }

/-- Accept `i` if every unused field is 0 (R36). -/
def unused (ok : Bool) (i : Instr) : Decoded := if ok then .ok i else .error .unusedField

/-- Bits `lo .. lo+n-1` of a word are 0. -/
def zeroBits (w : Word) (lo n : Nat) : Bool := fld w lo n == 0

/-- QB, WB and B of a unary F3 word are 0 (R156). -/
def unaryOk (w : Word) : Bool := !bitOf w 23 && zeroBits w 0 8

/-- A 7-bit field that names a scalar register holds 0..63 (R44). -/
def scalarOr (w : Word) (lo : Nat) (i : Decoded) : Decoded := if bitOf w (lo + 6) then .error .badRegister else i

/-- QB is AM in the address forms of R206: the form picks the base. -/
def memOr (w x : Word) (i : Decoded) : Decoded :=
  if bitOf w 23 == bitOf x 0 then scalarOr w 0 i else .error .unusedField

/-- QB must be 1, and B names a scalar register. -/
def scalarB (w : Word) (i : Decoded) : Decoded := if bitOf w 23 then scalarOr w 0 i else .error .unusedField

/-- Class 0 (Table 3.11). -/
def decodeInt (w x : Word) : Decoded :=
  match opcodeOf w with
  | 0x00 => .ok (.iadd (F3.ofWord w))
  | 0x01 => .ok (.isub (F3.ofWord w))
  | 0x02 => .ok (.imul (F3.ofWord w))
  | 0x03 => .ok (.imulh (F3.ofWord w))
  | 0x04 => .ok (.imad (F3.ofWord w))
  | 0x05 => .ok (.imin (F3.ofWord w))
  | 0x06 => .ok (.imax (F3.ofWord w))
  | 0x07 => .ok (.umin (F3.ofWord w))
  | 0x08 => .ok (.umax (F3.ofWord w))
  | 0x09 => .ok (.and (F3.ofWord w))
  | 0x0A => .ok (.or (F3.ofWord w))
  | 0x0B => .ok (.xor (F3.ofWord w))
  | 0x0C => .ok (.andn (F3.ofWord w))
  | 0x0D => .ok (.shl (F3.ofWord w))
  | 0x0E => .ok (.shr (F3.ofWord w))
  | 0x0F => .ok (.sar (F3.ofWord w))
  | 0x10 => unused (unaryOk w) (.popc (U3.ofWord w))
  | 0x11 => unused (unaryOk w) (.clz (U3.ofWord w))
  | 0x12 => unused (unaryOk w) (.ctz (U3.ofWord w))
  | 0x13 => unused (unaryOk w) (.brev (U3.ofWord w))
  | 0x14 => unused (unaryOk w && zeroBits x 11 21) (.bfe (U3.ofWord w) (bitOf x 10) (fld x 5 5) (fld x 0 5))
  | 0x15 => unused (zeroBits x 10 22) (.bfi (F3.ofWord w) (fld x 5 5) (fld x 0 5))
  | 0x16 => .ok (.icmp (F3.ofWord w))
  | 0x17 => unused (zeroBits x 4 28) (.sel (F3.ofWord w) (bitOf x 3) (fld x 0 3))
  | 0x18 => unused (unaryOk w) (.mov (U3.ofWord w))
  | 0x19 => unused (unaryOk w && zeroBits w 8 8) (.movi (fld w 16 7) x)
  | 0x1A => .ok (.iaddi (FI.ofWord w))
  | 0x1B => unused (zeroBits x 4 12) (.lea (F3.ofWord w) (fld x 16 16) (bitOf x 3) (fld x 0 3))
  | 0x1C => .ok (.iadds (F3.ofWord w))
  | 0x1D => unused (unaryOk w) (.iabs (U3.ofWord w))
  | 0x1E => unused (unaryOk w) (.ineg (U3.ofWord w))
  | _ => .error .reservedOpcode

/-- Class 1 (Table 3.12). -/
def decodeFlt (w x : Word) : Decoded :=
  match opcodeOf w with
  | 0x20 => .ok (.fadd (F3.ofWord w))
  | 0x21 => .ok (.fsub (F3.ofWord w))
  | 0x22 => .ok (.fmul (F3.ofWord w))
  | 0x23 => .ok (.ffma (F3.ofWord w))
  | 0x24 => unused (zeroBits x 8 24) (.ffma3 (F3.ofWord w) (bitOf x 7) (fld x 0 7))
  | 0x25 => .ok (.fmin (F3.ofWord w))
  | 0x26 => .ok (.fmax (F3.ofWord w))
  | 0x27 => .ok (.fcmp (F3.ofWord w))
  | 0x28 => unused (unaryOk w) (.frcp (U3.ofWord w))
  | 0x29 => unused (unaryOk w) (.frsq (U3.ofWord w))
  | 0x2A => unused (unaryOk w) (.fsqrt (U3.ofWord w))
  | 0x2B => unused (unaryOk w) (.fexp2 (U3.ofWord w))
  | 0x2C => unused (unaryOk w) (.flog2 (U3.ofWord w))
  | 0x2D => unused (unaryOk w) (.ftanh (U3.ofWord w))
  | 0x2E => unused (!bitOf w 7) (.fcvt (FC.ofWord w))
  | 0x2F => .ok (.hfma2 (F3.ofWord w))
  | 0x30 => .ok (.bfma2 (F3.ofWord w))
  | 0x31 => .ok (.dadd (F3.ofWord w))
  | 0x32 => .ok (.dmul (F3.ofWord w))
  | 0x33 => .ok (.dfma (F3.ofWord w))
  | 0x34 => unused (!bitOf w 7) (.dcvt (FC.ofWord w))
  | 0x35 => if !bitOf w 23 && zeroBits w 2 6
      then scalarOr w 16 (.ok (.vote (fld w 16 6) (bitOf w 15) (fld w 8 7) (fld w 0 2))) else .error .unusedField
  | 0x36 => unused (zeroBits x 13 19 && zeroBits x 6 2)
      (.shfl (F3.ofWord w) (fld x 10 3) (fld x 8 2) (bitOf x 5) (fld x 0 5))
  | 0x37 => unused (zeroBits x 5 27) (.redx (F3.ofWord w) (bitOf x 4) (fld x 0 4))
  | _ => .error .reservedOpcode

/-- Class 2 (Table 3.13). -/
def decodeCtl (w x : Word) : Decoded :=
  match opcodeOf w with
  | 0x40 => unused (zeroBits w 0 24) .nop
  | 0x41 => unused (zeroBits w 0 12) (.smov (fld w 18 6) (fld w 12 6))
  | 0x42 => if zeroBits w 0 16 && !bitOf w 23 then scalarOr w 16 (.ok (.smovi (fld w 16 6) x)) else .error .unusedField
  | 0x43 => .ok (.sadd (FS.ofWord w))
  | 0x44 => .ok (.ssub (FS.ofWord w))
  | 0x45 => .ok (.smul (FS.ofWord w))
  | 0x46 => .ok (.sand (FS.ofWord w))
  | 0x47 => .ok (.sor (FS.ofWord w))
  | 0x48 => .ok (.sxor (FS.ofWord w))
  | 0x49 => .ok (.sshl (FS.ofWord w))
  | 0x4A => .ok (.sshr (FS.ofWord w))
  | 0x4B => unused (zeroBits w 21 3 && zeroBits w 3 3) (.scmp (fld w 18 3) (fld w 12 6) (fld w 6 6) (fld w 0 3))
  | 0x4C => if zeroBits w 8 8 then scalarB w (.ok (.s2v (fld w 16 7) (bitOf w 7) (fld w 0 6))) else .error .unusedField
  | 0x4D => if !bitOf w 23 && zeroBits w 5 3
      then scalarOr w 16 (.ok (.v2s (fld w 16 6) (bitOf w 15) (fld w 8 7) (fld w 0 5))) else .error .unusedField
  | 0x4E => unused (zeroBits w 0 24 && zeroBits x 0 16) (.bra (fld x 16 16))
  | 0x4F => unused (zeroBits w 0 20) (.brc (bitOf w 23) (fld w 20 3) (fld x 16 16) (fld x 0 16))
  | 0x50 => unused (zeroBits w 0 16 && zeroBits w 20 4 && zeroBits x 0 32) (.brk (fld w 16 4))
  | 0x51 => unused (zeroBits w 16 8 && zeroBits w 0 8 && zeroBits x 16 16) (.jmpi (bitOf w 15) (fld w 8 7) (fld x 0 16))
  | 0x52 => unused (zeroBits w 0 24 && zeroBits x 0 16) (.call (fld x 16 16))
  | 0x53 => unused (zeroBits w 0 24) .ret
  | 0x54 => unused (zeroBits w 0 24) .exit
  | 0x55 => unused (zeroBits w 8 16 && !bitOf w 3) (.bar (fld w 6 2) (fld w 4 2) (fld w 0 3))
  | 0x56 => if zeroBits w 16 7
      then scalarB w (.ok (.spawn (bitOf w 15) (fld w 8 7) (bitOf w 7) (fld w 0 6))) else .error .unusedField
  | 0x57 => scalarOr w 16 (scalarB w (.ok (.tqpush (fld w 16 6) (bitOf w 15) (fld w 8 7) (bitOf w 7) (fld w 0 6))))
  | 0x58 => if zeroBits w 9 7
      then scalarOr w 16 (scalarB w (.ok (.tqpop (fld w 16 6) (bitOf w 8) (bitOf w 7) (fld w 0 6)))) else .error .unusedField
  | 0x59 => if zeroBits w 8 8
      then scalarOr w 16 (scalarB w (.ok (.tqstat (fld w 16 6) (bitOf w 7) (fld w 0 6)))) else .error .unusedField
  | 0x5A => if zeroBits w 0 16 && !bitOf w 23 then scalarOr w 16 (.ok (.recget (fld w 16 6))) else .error .unusedField
  | 0x5B => unused (zeroBits w 0 24) .yield
  | 0x5C => unused (zeroBits w 8 16) (.waitc (fld w 6 2) (fld w 0 6))
  | _ => .error .reservedOpcode

/-- Class 3 (Table 3.14). -/
def decodeMem (w x : Word) : Decoded :=
  match opcodeOf w with
  | 0x60 => if zeroBits x 8 8
      then memOr w x (.ok (.ld (MA.ofWords 14 18 w x) (fld w 16 7) (fld x 16 2) (fld x 5 3) (fld x 2 3) (bitOf x 1)))
      else .error .unusedField
  | 0x61 => if zeroBits w 16 7 && !bitOf x 1
      then memOr w x (.ok (.st (MA.ofWords 14 18 w x) (bitOf x 15) (fld x 8 7) (fld x 16 2) (fld x 5 3) (fld x 2 3)))
      else .error .unusedField
  | 0x62 => .ok (.ldt (TA.ofWord w))
  | 0x63 => .ok (.stt (TA.ofWord w))
  | 0x64 => if zeroBits w 8 8 && zeroBits x 8 8 && zeroBits x 0 2
      then scalarOr w 16 (scalarB w (.ok (.sld (fld w 16 6) (bitOf w 7) (fld w 0 6) (fld x 18 14) (fld x 16 2) (fld x 5 3)
        (fld x 2 3)))) else .error .unusedField
  | 0x65 => if !bitOf x 1
      then memOr w x (.ok (.atom (MA.ofWords 10 22 w x) (fld w 16 7) (fld x 18 4) (bitOf x 15) (fld x 8 7) (fld x 16 2)
        (fld x 5 3) (fld x 2 3))) else .error .unusedField
  | 0x66 => if !bitOf x 1 && zeroBits x 18 4
      then memOr w x (.ok (.atomc (MA.ofWords 10 22 w x) (fld w 16 7) (bitOf x 15) (fld x 8 7) (fld x 16 2) (fld x 5 3)
        (fld x 2 3))) else .error .unusedField
  | 0x67 => if !bitOf x 1 && zeroBits w 16 7
      then memOr w x (.ok (.red (MA.ofWords 10 22 w x) (fld x 18 4) (bitOf x 15) (fld x 8 7) (fld x 16 2) (fld x 5 3)
        (fld x 2 3))) else .error .unusedField
  | 0x68 => unused (zeroBits w 8 16 && zeroBits w 5 3) (.fence (fld w 2 3) (fld w 0 2))
  | 0x69 => if zeroBits w 16 7 && zeroBits x 5 13 && !bitOf x 1
      then memOr w x (.ok (.cctl (MA.ofWords 14 18 w x) (fld x 2 3))) else .error .unusedField
  | 0x6A => if zeroBits w 0 16 && !bitOf w 23 && zeroBits x 16 16
      then scalarOr w 16 (.ok (.rbegin (fld w 16 6) (fld x 0 16))) else .error .unusedField
  | 0x6B => unused (zeroBits w 0 24) .rcommit
  | 0x6C => unused (zeroBits w 7 17) (.rabort (fld w 0 7))
  | 0x6D => if zeroBits w 3 13 && !bitOf w 23
      then scalarOr w 16 (.ok (.rstat (fld w 16 6) (fld w 0 3))) else .error .unusedField
  | 0x6E => if zeroBits w 8 8
      then scalarOr w 16 (scalarB w (.ok (.obind (fld w 16 6) (bitOf w 7) (fld w 0 6) x))) else .error .unusedField
  | 0x6F => if zeroBits w 8 8
      then scalarOr w 16 (scalarB w (.ok (.ounbind (fld w 16 6) (bitOf w 7) (fld w 0 6)))) else .error .unusedField
  | 0x70 => if zeroBits w 10 6
      then scalarOr w 16 (scalarB w (.ok (.oseal (fld w 16 6) (fld w 8 2) (bitOf w 7) (fld w 0 6)))) else .error .unusedField
  | 0x71 => if zeroBits w 8 8
      then scalarOr w 16 (scalarB w (.ok (.orecipe (fld w 16 6) (bitOf w 7) (fld w 0 6) x))) else .error .unusedField
  | 0x72 => if zeroBits w 11 5
      then scalarOr w 16 (scalarB w (.ok (.oprio (fld w 16 6) (fld w 8 3) (bitOf w 7) (fld w 0 6)))) else .error .unusedField
  | 0x73 => if zeroBits w 9 7
      then scalarOr w 16 (scalarB w (.ok (.oevict (fld w 16 6) (bitOf w 8) (bitOf w 7) (fld w 0 6)))) else .error .unusedField
  | 0x74 => unused (zeroBits w 2 5)
      (.tmtag (bitOf w 23) (fld w 16 7) (bitOf w 15) (fld w 8 7) (bitOf w 7) (fld w 0 2))
  | _ => .error .reservedOpcode

/-- Class 4 (Table 3.15). -/
def decodeTerm (w x : Word) : Decoded :=
  match opcodeOf w with
  | 0x80 => if !zeroBits x 13 19 then .error .unusedField else if !bitOf w 23 then .error .reservedValue
      else scalarOr w 0 (.ok (.tmm (fld w 16 7) (bitOf w 15) (fld w 8 7) (bitOf w 7) (fld w 0 6) (bitOf x 12) (fld x 7 5)
        (fld x 0 7)))
  | 0x81 => unused (zeroBits w 0 16 && !bitOf w 23) (.tprom (fld w 16 7))
  | 0x82 => if !bitOf w 23 && !bitOf w 7
      then scalarOr w 16 (.ok (.tbound (fld w 16 6) (bitOf w 15) (fld w 8 7) (fld w 0 7))) else .error .unusedField
  | 0x83 => unused (!bitOf w 23 && zeroBits w 4 4) (.tcnt (U3.ofWord w) (fld w 0 4))
  | 0x84 => if zeroBits w 8 8 && zeroBits x 16 16
      then scalarOr w 16 (scalarB w (.ok (.tlenc (fld w 16 6) (bitOf w 7) (fld w 0 6) (fld x 0 16)))) else .error .unusedField
  | 0x85 => if zeroBits x 16 16
      then scalarB w (.ok (.tldec (fld w 16 7) (bitOf w 15) (fld w 8 7) (bitOf w 7) (fld w 0 6) (fld x 0 16)))
      else .error .unusedField
  | 0x86 => unused (!bitOf w 23 && zeroBits w 4 4) (.qbx (U3.ofWord w) (bitOf w 3) (fld w 0 3))
  | 0x87 => unused (!bitOf w 23 && zeroBits w 4 4) (.dqbx (U3.ofWord w) (bitOf w 3) (fld w 0 3))
  | 0x88 => if zeroBits w 8 8 && zeroBits x 8 24
      then scalarOr w 16 (scalarB w (scalarOr x 0 (.ok (.decs (fld w 16 6) (bitOf w 7) (fld w 0 6) (bitOf x 7) (fld x 0 6)))))
      else .error .unusedField
  | 0x89 => if zeroBits w 8 8 && zeroBits x 4 28
      then scalarB w (.ok (.xmm (fld w 16 7) (bitOf w 7) (fld w 0 6) (bitOf x 3) (bitOf x 2) (fld x 0 2)))
      else .error .unusedField
  | 0x8A => if zeroBits w 3 13 && !bitOf w 23
      then scalarOr w 16 (.ok (.tstat (fld w 16 6) (fld w 0 3))) else .error .unusedField
  | _ => .error .reservedOpcode

/-- Class 5 (Table 3.16). -/
def decodeCopy (w x : Word) : Decoded :=
  match opcodeOf w with
  | 0xA0 => if zeroBits w 8 15 then scalarB w (.ok (.cpyt (bitOf w 7) (fld w 0 6) x)) else .error .unusedField
  | 0xA1 => if zeroBits w 8 15 then scalarB w (.ok (.cpyg (bitOf w 7) (fld w 0 6) x)) else .error .unusedField
  | 0xA2 => if zeroBits w 8 8 then scalarB w (.ok (.cpyw (fld w 16 7) (bitOf w 7) (fld w 0 6) x)) else .error .unusedField
  | 0xA3 => if zeroBits w 8 15 && zeroBits x 3 29
      then scalarB w (.ok (.cpyp (bitOf w 7) (fld w 0 6) (fld x 0 3))) else .error .unusedField
  | 0xA4 => if zeroBits w 8 15 then scalarB w (.ok (.cfill (bitOf w 7) (fld w 0 6) x)) else .error .unusedField
  | 0xA5 => if bitOf w 7 then
        if zeroBits w 16 7 && zeroBits w 0 7 && bitOf w 23 then scalarOr w 8 (.ok (.cwaitSeq (bitOf w 15) (fld w 8 6)))
        else .error .unusedField
      else unused (zeroBits w 8 16 && !bitOf w 6) (.cwaitCnt (fld w 0 6))
  | 0xA6 => if zeroBits w 1 15 && !bitOf w 23
      then scalarOr w 16 (.ok (.cseq (fld w 16 6) (bitOf w 0))) else .error .unusedField
  | _ => .error .reservedOpcode

/-- Class 6 (Table 3.17). -/
def decodeSys (w : Word) : Decoded :=
  match opcodeOf w with
  | 0xC0 => unused (zeroBits w 8 8) (.csrr (bitOf w 23) (fld w 16 7) (fld w 0 8))
  | 0xC1 => unused (zeroBits w 16 7) (.csrw (bitOf w 23) (bitOf w 15) (fld w 8 7) (fld w 0 8))
  | 0xC2 => unused (zeroBits w 7 17) (.trap (fld w 0 7))
  | 0xC3 => unused (zeroBits w 0 24) .tfence
  | 0xC4 => unused (zeroBits w 0 24) .rft
  | 0xC5 => unused (zeroBits w 0 24) .resumef
  | 0xC6 => if zeroBits w 0 16 && !bitOf w 23 then scalarOr w 16 (.ok (.hbeat (fld w 16 6))) else .error .unusedField
  | 0xC7 => if zeroBits w 0 16 && !bitOf w 23 then scalarOr w 16 (.ok (.clock (fld w 16 6))) else .error .unusedField
  | 0xC8 => if zeroBits w 8 8 && !bitOf w 23
      then scalarOr w 16 (.ok (.perfc (fld w 16 6) (fld w 0 8))) else .error .unusedField
  | 0xC9 => unused (zeroBits w 0 24) .bkpt
  | _ => .error .reservedOpcode

/-- The fields of a pair of words as an instruction, by class (R52), before the checks of `fieldError`. -/
def decodeFields (w x : Word) : Decoded :=
  match opcodeOf w / 32 with
  | 0 => decodeInt w x
  | 1 => decodeFlt w x
  | 2 => decodeCtl w x
  | 3 => decodeMem w x
  | 4 => decodeTerm w x
  | 5 => decodeCopy w x
  | 6 => decodeSys w
  | _ => .error .reservedOpcode

/-- An aligned pair begins at an even register (R44). -/
def evenReg {n : Nat} (r : BitVec n) : Bool := r.toNat % 2 == 0

/-- The registers a data operand of `size` (Table 13.4) begins at: even for `.d`, a multiple of 4 for `.q` (R207, R44). -/
def dataReg (size : BitVec 3) (r : BitVec 7) : Bool :=
  if size == 3 then r.toNat % 2 == 0 else if size == 4 then r.toNat % 4 == 0 else true

/-- A source B of F3 that names a scalar register names s0..s63 (R44). -/
def F3.regsOk (f : F3) : Bool := !f.q || f.b.toNat < 64

/-- The address operand's registers and unused fields (R206, R188). -/
def MA.ok {n : Nat} (m : MA n) : Bool :=
  if m.am then evenReg m.b && m.off == 0 else evenReg m.a && !m.wb && m.b == 0

/-- The order and scope fields: a weak access encodes SCOPE 0, and the order is one of those admitted (R205, R210). -/
def ordOk (adm : List Nat) (ord : BitVec 3) (scope : BitVec 2) : Bool :=
  adm.contains ord.toNat && (ord != 0 || scope == 0)

/-- The immediate form of the scalar ALU (Table 13.1). -/
def FS.aluOk (f : FS) : Bool := if f.imm.getLsbD 5 then f.sb == 0 else f.imm == 0

/-- SSHR keeps ARITH in a bit the others leave 0 (R191). -/
def FS.shrOk (f : FS) : Bool :=
  if f.imm.getLsbD 5 then f.sb.toNat < 2 else f.imm.toNat < 2

/-- FCVT and DCVT: RM 1..3 are reserved (Table 11.11), and a scalar source names s0..s63. -/
def FC.rmOk (f : FC) : Bool := f.rm == 0 || f.rm.toNat ≥ 4

/-- The special registers that CSRW may write (Table 3.10). -/
def csrWritable (n : BitVec 8) : Bool :=
  [0x08, 0x09, 0x0A, 0x0B, 0x0C, 0x0D, 0x0E, 0x0F, 0x10, 0x11, 0x12, 0x22].contains n.toNat

/-- DCVT kinds whose destination is a pair (Table 11.13). -/
def dcvtDstPair (k : BitVec 4) : Bool := [1, 3, 4, 5, 6].contains k.toNat

/-- DCVT kinds whose source is a pair (Table 11.13). -/
def dcvtSrcPair (k : BitVec 4) : Bool := [0, 2, 4, 5, 6].contains k.toNat

/-- `none` if `ok`, else the reason. -/
def errUnless (ok : Bool) (e : DecodeError) : Option DecodeError := if ok then none else some e

/-- The first of two reasons. -/
def orErr (a b : Option DecodeError) : Option DecodeError := match a with | some e => some e | none => b

/-- Which bar numbers a level has (Table 7.6). -/
def barNumOk (level : BitVec 2) (num : BitVec 3) : Bool :=
  match level.toNat with
  | 0 => num.toNat < 1
  | 1 => true
  | 2 => num.toNat < 4
  | _ => num.toNat < 2

/-- What an entry's own text forbids in the fields of an encoded instruction: reserved values, and register fields that
break R44 whatever the allocation. `none` for a legal one, and for the events, which have no encoding. -/
def fieldError (i : Instr) : Option DecodeError :=
  match i with
  | .iadd f | .isub f | .imul f | .imulh f | .imad f | .imin f | .imax f | .umin f | .umax f | .and f | .or f | .xor f
  | .andn f | .shl f | .shr f | .sar f | .iadds f | .fadd f | .fsub f | .fmul f | .ffma f | .fmin f | .fmax f
  | .hfma2 f | .bfma2 f | .bfi f _ _ | .sel f _ _ | .ffma3 f _ _ => errUnless f.regsOk .badRegister
  | .icmp f | .fcmp f => orErr (errUnless f.regsOk .badRegister) (errUnless (f.d.toNat ≤ 5) .reservedValue)
  | .dadd f | .dmul f | .dfma f =>
      errUnless (f.regsOk && evenReg f.d && evenReg f.a && evenReg f.b) .badRegister
  | .lea f _ _ _ => errUnless (f.regsOk && evenReg f.d && evenReg f.b) .badRegister
  | .iaddi f => errUnless (!f.q || f.a.toNat < 64) .badRegister
  | .fcvt f => orErr (errUnless (f.rmOk && f.kind.toNat ≤ 8) .reservedValue) (errUnless (!f.q || f.a.toNat < 64) .badRegister)
  | .dcvt f => orErr (errUnless (f.rmOk && f.kind.toNat ≤ 6) .reservedValue)
      (errUnless ((!f.q || f.a.toNat < 64) && (!dcvtDstPair f.kind || evenReg f.d) && (!dcvtSrcPair f.kind || evenReg f.a))
        .badRegister)
  | .shfl f wc _ useb imm => orErr (errUnless (wc.toNat ≤ 4) .reservedValue)
      (orErr (errUnless (if useb then imm == 0 else !f.q && !f.wb && f.b == 0) .unusedField) (errUnless f.regsOk .badRegister))
  | .redx f sdst rop => orErr (errUnless (rop.toNat ≤ 12) .reservedValue)
      (if rop == 10 || rop == 11 then
        errUnless (f.regsOk && evenReg f.d && (!sdst || f.d.toNat < 64)) .badRegister
       else orErr (errUnless (!f.q && !f.wb && f.b == 0) .unusedField) (errUnless (!sdst || f.d.toNat < 64) .badRegister))
  | .sadd f | .ssub f | .smul f | .sand f | .sor f | .sxor f | .sshl f => errUnless f.aluOk .unusedField
  | .sshr f => errUnless f.shrOk .unusedField
  | .scmp _ _ _ rel => errUnless (rel.toNat ≤ 5) .reservedValue
  | .bar level mode num => errUnless (mode != 3 && barNumOk level num) .reservedValue
  | .spawn _ _ _ b => errUnless (evenReg b) .badRegister
  | .recget d | .hbeat d | .clock d => errUnless (evenReg d) .badRegister
  | .ld m d scope ord size sx =>
      orErr (errUnless (size.toNat ≤ 4 && ordOk [0, 1, 2] ord scope && (!sx || size.toNat ≤ 1)) .reservedValue)
        (errUnless (m.ok && dataReg size d) .badRegister)
  | .st m _ v scope ord size =>
      orErr (errUnless (size.toNat ≤ 4 && ordOk [0, 1, 3] ord scope) .reservedValue)
        (errUnless (m.ok && dataReg size v) .badRegister)
  | .ldt t | .stt t => orErr (errUnless (t.size.toNat ≤ 4) .reservedValue)
      (errUnless ((!t.q || t.a.toNat < 64) && dataReg t.size t.d) .badRegister)
  | .sld d _ b _ scope ord size =>
      orErr (errUnless ((size == 2 || size == 3) && ordOk [0, 1, 2] ord scope) .reservedValue)
        (errUnless (evenReg b && (size == 2 || evenReg d)) .badRegister)
  | .atom m d aop _ v scope ord size =>
      orErr (errUnless ((size == 2 || size == 3) && aop.toNat ≤ 11 && ordOk [0, 1, 2, 3, 4] ord scope) .reservedValue)
        (errUnless (m.ok && dataReg size d && dataReg size v) .badRegister)
  | .atomc m d _ v scope ord size =>
      orErr (errUnless ((size == 2 || size == 3) && ordOk [0, 1, 2, 3, 4] ord scope) .reservedValue)
        (errUnless (m.ok && dataReg size d && dataReg size v) .badRegister)
  | .red m aop _ v scope ord size =>
      orErr (errUnless ((size == 2 || size == 3) && aop.toNat ≤ 11 && aop != 8 && ordOk [0, 1, 3] ord scope) .reservedValue)
        (errUnless (m.ok && dataReg size v) .badRegister)
  | .fence kind _ => errUnless (1 ≤ kind.toNat && kind.toNat ≤ 4) .reservedValue
  | .cctl m cop => orErr (errUnless (cop.toNat ≤ 4) .reservedValue) (errUnless m.ok .badRegister)
  | .rstat _ sel => errUnless (sel.toNat ≤ 4) .reservedValue
  | .obind _ _ b _ | .orecipe _ _ b _ | .tlenc _ _ b _ | .decs _ _ b _ _ => errUnless (evenReg b) .badRegister
  | .oseal _ op _ _ => errUnless (op.toNat ≤ 1) .reservedValue
  | .tmtag q _ _ a _ _ => errUnless (!q || a.toNat < 64) .badRegister
  | .tmm vacc _ a _ _ _ _ _ => errUnless (a.toNat < vacc.toNat || vacc.toNat + 63 < a.toNat) .reservedValue
  | .tcnt _ kind => errUnless ([0, 1, 2, 5].contains kind.toNat) .reservedValue
  | .tldec d _ _ _ _ _ => errUnless (evenReg d) .badRegister
  | .qbx _ _ kind | .dqbx _ _ kind => errUnless ([3, 4, 5].contains kind.toNat) .reservedValue
  | .xmm d _ b _ conjb form => orErr (errUnless (!conjb || form == 3) .reservedValue)
      (errUnless (d.toNat % 8 == 0 && evenReg b) .badRegister)
  | .tstat _ sel => errUnless (sel.toNat ≤ 5) .reservedValue
  | .cpyt _ b _ | .cpyg _ b _ | .cpyw _ _ b _ | .cfill _ b _ => errUnless (b.toNat % 8 == 0) .badRegister
  | .cpyp _ b redop => orErr (errUnless (redop.toNat ≤ 3) .reservedValue) (errUnless (b.toNat % 8 == 0) .badRegister)
  | .csrr q d n => orErr (errUnless (n.toNat ≤ 0x24) .reservedValue) (errUnless (!q || d.toNat < 64) .badRegister)
  | .csrw q _ a n => orErr (errUnless (csrWritable n) .reservedValue) (errUnless (!q || a.toNat < 64) .badRegister)
  | .perfc _ n => errUnless (n.toNat ≤ 7) .reservedValue
  | _ => none

/-- The instruction at the head of a run of words (R27): the second word is looked at only for a two-word opcode. -/
def decode (ws : List Word) : Decoded :=
  match ws with
  | [] => .error .truncated
  | w :: rest =>
    if opcodeWords (opcodeOf w) == 2 && rest.isEmpty then .error .truncated
    else match decodeFields w (if opcodeWords (opcodeOf w) == 2 then rest.headD 0 else 0) with
      | .error e => .error e
      | .ok i => match fieldError i with
        | some e => .error e
        | none => .ok i

/-- Little-endian bytes as a natural number (R5). -/
def leNat : List Byte → Nat
  | [] => 0
  | b :: t => b.toNat + 256 * leNat t

/-- Bytes grouped into little-endian words (R27); a tail of fewer than four bytes is dropped. -/
def wordsOfBytes : List Byte → List Word
  | a :: b :: c :: d :: t => BitVec.ofNat 32 (leNat [a, b, c, d]) :: wordsOfBytes t
  | _ => []

/-- Decoding any bytes (R27). -/
def decodeBytes (bs : List Byte) : Decoded := decode (wordsOfBytes bs)

/-! ### The encoder -/

/-- One bit as a word at bit `k`. -/
def atBit (b : Bool) (k : Nat) : Word := if b then BitVec.ofNat 32 (2 ^ k) else 0

/-- A field placed at bit `lo` of a word. -/
def atBits {n : Nat} (x : BitVec n) (lo : Nat) : Word := x.setWidth 32 <<< lo

/-- The opcode in bits 31..24. -/
def atOp (op : Nat) : Word := BitVec.ofNat 32 (op * 2 ^ 24)

/-- Table 3.4. -/
def F3.toWord (op : Nat) (f : F3) : Word :=
  atOp op ||| atBit f.q 23 ||| atBits f.d 16 ||| atBit f.wa 15 ||| atBits f.a 8 ||| atBit f.wb 7 ||| atBits f.b 0

/-- Word 0 of F3 from its parts. -/
def word0 (op : Nat) (q : Bool) (d : BitVec 7) (wa : Bool) (a : BitVec 7) (wb : Bool) (b : BitVec 7) : Word :=
  F3.toWord op ⟨q, d, wa, a, wb, b⟩

/-- A unary F3 word (R156). -/
def U3.toWord (op : Nat) (u : U3) : Word := word0 op false u.d u.wa u.a false 0

/-- Table 3.6. -/
def wordFI (op : Nat) (q : Bool) (d : BitVec 7) (wa : Bool) (a : BitVec 7) (imm : BitVec 8) : Word :=
  atOp op ||| atBit q 23 ||| atBits d 16 ||| atBit wa 15 ||| atBits a 8 ||| atBits imm 0

/-- Table 3.7. -/
def wordFS (op : Nat) (sd sa sb imm : BitVec 6) : Word :=
  atOp op ||| atBits sd 18 ||| atBits sa 12 ||| atBits sb 6 ||| atBits imm 0

/-- Table 3.7 from the operands. -/
def FS.toWord (op : Nat) (f : FS) : Word := wordFS op f.sd f.sa f.sb f.imm

/-- Table 3.8, word 0. -/
def wordFB (op : Nat) (neg : Bool) (pidx : BitVec 3) (level : BitVec 4) : Word :=
  atOp op ||| atBit neg 23 ||| atBits pidx 20 ||| atBits level 16

/-- Table 3.8, word 1. -/
def wordOffs (toff roff : BitVec 16) : Word := atBits toff 16 ||| atBits roff 0

/-- A scalar number in a 7-bit field. -/
def s7 (r : BitVec 6) : BitVec 7 := r.setWidth 7

/-- Word 0 of the address forms (R206). -/
def MA.toWord {n : Nat} (op : Nat) (d : BitVec 7) (m : MA n) : Word := word0 op m.am d m.wa m.a m.wb (s7 m.b)

/-- Word 1 of Table 13.4. -/
def wordMem (off : BitVec 14) (scope : BitVec 2) (wv : Bool) (v : BitVec 7) (ord size : BitVec 3) (sx am : Bool) : Word :=
  atBits off 18 ||| atBits scope 16 ||| atBit wv 15 ||| atBits v 8 ||| atBits ord 5 ||| atBits size 2 ||| atBit sx 1 |||
  atBit am 0

/-- Word 1 of Table 13.5. -/
def wordAtom (off : BitVec 10) (aop : BitVec 4) (scope : BitVec 2) (wv : Bool) (v : BitVec 7) (ord size : BitVec 3)
    (am : Bool) : Word :=
  atBits off 22 ||| atBits aop 18 ||| atBits scope 16 ||| atBit wv 15 ||| atBits v 8 ||| atBits ord 5 ||| atBits size 2 |||
  atBit am 0

/-- R214. -/
def TA.toWord (op : Nat) (t : TA) : Word :=
  atOp op ||| atBit t.q 23 ||| atBits t.d 16 ||| atBit t.wa 15 ||| atBits t.a 8 ||| atBits t.off5 3 ||| atBits t.size 0

/-- Table 11.11 in an FI word. -/
def FC.toWord (op : Nat) (f : FC) : Word :=
  atOp op ||| atBit f.q 23 ||| atBits f.d 16 ||| atBit f.wa 15 ||| atBits f.a 8 ||| atBits f.rm 4 ||| atBits f.kind 0

/-- The words of an encoded instruction; an event has none. -/
def encode (i : Instr) : List Word :=
  match i with
  | .iadd f => [f.toWord 0x00]
  | .isub f => [f.toWord 0x01]
  | .imul f => [f.toWord 0x02]
  | .imulh f => [f.toWord 0x03]
  | .imad f => [f.toWord 0x04]
  | .imin f => [f.toWord 0x05]
  | .imax f => [f.toWord 0x06]
  | .umin f => [f.toWord 0x07]
  | .umax f => [f.toWord 0x08]
  | .and f => [f.toWord 0x09]
  | .or f => [f.toWord 0x0A]
  | .xor f => [f.toWord 0x0B]
  | .andn f => [f.toWord 0x0C]
  | .shl f => [f.toWord 0x0D]
  | .shr f => [f.toWord 0x0E]
  | .sar f => [f.toWord 0x0F]
  | .popc u => [u.toWord 0x10]
  | .clz u => [u.toWord 0x11]
  | .ctz u => [u.toWord 0x12]
  | .brev u => [u.toWord 0x13]
  | .bfe u sx lenm1 pos => [u.toWord 0x14, atBit sx 10 ||| atBits lenm1 5 ||| atBits pos 0]
  | .bfi f lenm1 pos => [f.toWord 0x15, atBits lenm1 5 ||| atBits pos 0]
  | .icmp f => [f.toWord 0x16]
  | .sel f neg pidx => [f.toWord 0x17, atBit neg 3 ||| atBits pidx 0]
  | .mov u => [u.toWord 0x18]
  | .movi d imm => [word0 0x19 false d false 0 false 0, imm]
  | .iaddi f => [wordFI 0x1A f.q f.d f.wa f.a f.imm]
  | .lea f off sx sh => [f.toWord 0x1B, atBits off 16 ||| atBit sx 3 ||| atBits sh 0]
  | .iadds f => [f.toWord 0x1C]
  | .iabs u => [u.toWord 0x1D]
  | .ineg u => [u.toWord 0x1E]
  | .fadd f => [f.toWord 0x20]
  | .fsub f => [f.toWord 0x21]
  | .fmul f => [f.toWord 0x22]
  | .ffma f => [f.toWord 0x23]
  | .ffma3 f wc c => [f.toWord 0x24, atBit wc 7 ||| atBits c 0]
  | .fmin f => [f.toWord 0x25]
  | .fmax f => [f.toWord 0x26]
  | .fcmp f => [f.toWord 0x27]
  | .frcp u => [u.toWord 0x28]
  | .frsq u => [u.toWord 0x29]
  | .fsqrt u => [u.toWord 0x2A]
  | .fexp2 u => [u.toWord 0x2B]
  | .flog2 u => [u.toWord 0x2C]
  | .ftanh u => [u.toWord 0x2D]
  | .fcvt f => [f.toWord 0x2E]
  | .hfma2 f => [f.toWord 0x2F]
  | .bfma2 f => [f.toWord 0x30]
  | .dadd f => [f.toWord 0x31]
  | .dmul f => [f.toWord 0x32]
  | .dfma f => [f.toWord 0x33]
  | .dcvt f => [f.toWord 0x34]
  | .vote d wa a mode => [word0 0x35 false (s7 d) wa a false (mode.setWidth 7)]
  | .shfl f wcode mode useb imm => [f.toWord 0x36, atBits wcode 10 ||| atBits mode 8 ||| atBit useb 5 ||| atBits imm 0]
  | .redx f sdst rop => [f.toWord 0x37, atBit sdst 4 ||| atBits rop 0]
  | .nop => [atOp 0x40]
  | .smov sd sa => [wordFS 0x41 sd sa 0 0]
  | .smovi d imm => [word0 0x42 false (s7 d) false 0 false 0, imm]
  | .sadd f => [f.toWord 0x43]
  | .ssub f => [f.toWord 0x44]
  | .smul f => [f.toWord 0x45]
  | .sand f => [f.toWord 0x46]
  | .sor f => [f.toWord 0x47]
  | .sxor f => [f.toWord 0x48]
  | .sshl f => [f.toWord 0x49]
  | .sshr f => [f.toWord 0x4A]
  | .scmp pd sa sb rel => [wordFS 0x4B (pd.setWidth 6) sa sb (rel.setWidth 6)]
  | .s2v d wb b => [word0 0x4C true d false 0 wb (s7 b)]
  | .v2s d wa a k => [word0 0x4D false (s7 d) wa a false (k.setWidth 7)]
  | .bra toff => [wordFB 0x4E false 0 0, wordOffs toff 0]
  | .brc neg pidx toff roff => [wordFB 0x4F neg pidx 0, wordOffs toff roff]
  | .brk level => [wordFB 0x50 false 0 level, 0]
  | .jmpi wa a roff => [word0 0x51 false 0 wa a false 0, atBits roff 0]
  | .call toff => [wordFB 0x52 false 0 0, wordOffs toff 0]
  | .ret => [atOp 0x53]
  | .exit => [atOp 0x54]
  | .bar level mode num => [atOp 0x55 ||| atBits level 6 ||| atBits mode 4 ||| atBits num 0]
  | .spawn wa a wb b => [word0 0x56 true 0 wa a wb (s7 b)]
  | .tqpush d wa a wb b => [word0 0x57 true (s7 d) wa a wb (s7 b)]
  | .tqpop d nb wb b => [word0 0x58 true (s7 d) false (BitVec.ofBool nb |>.setWidth 7) wb (s7 b)]
  | .tqstat d wb b => [word0 0x59 true (s7 d) false 0 wb (s7 b)]
  | .recget d => [word0 0x5A false (s7 d) false 0 false 0]
  | .yield => [atOp 0x5B]
  | .waitc kind n => [atOp 0x5C ||| atBits kind 6 ||| atBits n 0]
  | .ld m d scope ord size sx => [m.toWord 0x60 d, wordMem m.off scope false 0 ord size sx m.am]
  | .st m wv v scope ord size => [m.toWord 0x61 0, wordMem m.off scope wv v ord size false m.am]
  | .ldt t => [t.toWord 0x62]
  | .stt t => [t.toWord 0x63]
  | .sld d wb b off scope ord size => [word0 0x64 true (s7 d) false 0 wb (s7 b), wordMem off scope false 0 ord size false false]
  | .atom m d aop wv v scope ord size => [m.toWord 0x65 d, wordAtom m.off aop scope wv v ord size m.am]
  | .atomc m d wv v scope ord size => [m.toWord 0x66 d, wordAtom m.off 0 scope wv v ord size m.am]
  | .red m aop wv v scope ord size => [m.toWord 0x67 0, wordAtom m.off aop scope wv v ord size m.am]
  | .fence kind scope => [atOp 0x68 ||| atBits kind 2 ||| atBits scope 0]
  | .cctl m cop => [m.toWord 0x69 0, wordMem m.off 0 false 0 0 cop false m.am]
  | .rbegin d aoff => [word0 0x6A false (s7 d) false 0 false 0, atBits aoff 0]
  | .rcommit => [atOp 0x6B]
  | .rabort code => [atOp 0x6C ||| atBits code 0]
  | .rstat d sel => [word0 0x6D false (s7 d) false 0 false (sel.setWidth 7)]
  | .obind d wb b off => [word0 0x6E true (s7 d) false 0 wb (s7 b), off]
  | .ounbind d wb b => [word0 0x6F true (s7 d) false 0 wb (s7 b)]
  | .oseal d op wb b => [word0 0x70 true (s7 d) false (op.setWidth 7) wb (s7 b)]
  | .orecipe d wb b off => [word0 0x71 true (s7 d) false 0 wb (s7 b), off]
  | .oprio d prio wb b => [word0 0x72 true (s7 d) false (prio.setWidth 7) wb (s7 b)]
  | .oevict d demote wb b => [word0 0x73 true (s7 d) false (BitVec.ofBool demote |>.setWidth 7) wb (s7 b)]
  | .tmtag q d wa a set tag => [wordFI 0x74 q d wa a ((BitVec.ofBool set).setWidth 8 <<< 7 ||| tag.setWidth 8)]
  | .tmm vacc wa a wb b consume pm1 slot =>
      [word0 0x80 true vacc wa a wb (s7 b), atBit consume 12 ||| atBits pm1 7 ||| atBits slot 0]
  | .tprom d => [word0 0x81 false d false 0 false 0]
  | .tbound d wa a slot => [word0 0x82 false (s7 d) wa a false slot]
  | .tcnt u kind => [word0 0x83 false u.d u.wa u.a false (kind.setWidth 7)]
  | .tlenc d wb b pitch => [word0 0x84 true (s7 d) false 0 wb (s7 b), atBits pitch 0]
  | .tldec d wa a wb b hoff => [word0 0x85 true d wa a wb (s7 b), atBits hoff 0]
  | .qbx u bf kind => [wordFI 0x86 false u.d u.wa u.a ((BitVec.ofBool bf).setWidth 8 <<< 3 ||| kind.setWidth 8)]
  | .dqbx u bf kind => [wordFI 0x87 false u.d u.wa u.a ((BitVec.ofBool bf).setWidth 8 <<< 3 ||| kind.setWidth 8)]
  | .decs d wb b wl l => [word0 0x88 true (s7 d) false 0 wb (s7 b), atBit wl 7 ||| atBits l 0]
  | .xmm d wb b zc conjb form => [word0 0x89 true d false 0 wb (s7 b), atBit zc 3 ||| atBit conjb 2 ||| atBits form 0]
  | .tstat d sel => [word0 0x8A false (s7 d) false 0 false (sel.setWidth 7)]
  | .cpyt wb b tadd => [word0 0xA0 true 0 false 0 wb (s7 b), tadd]
  | .cpyg wb b tstride => [word0 0xA1 true 0 false 0 wb (s7 b), tstride]
  | .cpyw slot wb b sig => [word0 0xA2 true slot false 0 wb (s7 b), sig]
  | .cpyp wb b redop => [word0 0xA3 true 0 false 0 wb (s7 b), atBits redop 0]
  | .cfill wb b tadd => [word0 0xA4 true 0 false 0 wb (s7 b), tadd]
  | .cwaitCnt n => [wordFI 0xA5 false 0 false 0 (n.setWidth 8)]
  | .cwaitSeq wa a => [wordFI 0xA5 true 0 wa (s7 a) 0x80]
  | .cseq d wm => [word0 0xA6 false (s7 d) false 0 false (BitVec.ofBool wm |>.setWidth 7)]
  | .csrr q d n => [wordFI 0xC0 q d false 0 n]
  | .csrw q wa a n => [wordFI 0xC1 q 0 wa a n]
  | .trap code => [wordFI 0xC2 false 0 false 0 (code.setWidth 8)]
  | .tfence => [atOp 0xC3]
  | .rft => [atOp 0xC4]
  | .resumef => [atOp 0xC5]
  | .hbeat d => [word0 0xC6 false (s7 d) false 0 false 0]
  | .clock d => [word0 0xC7 false (s7 d) false 0 false 0]
  | .perfc d n => [wordFI 0xC8 false (s7 d) false 0 n]
  | .bkpt => [atOp 0xC9]
  | _ => []

/-- What the decoder reads from the words whose bits, first word lowest, are those of `w` (R5, R27); bits past `nbits`
are 0. -/
def decodeTableWord (nbits w : Nat) : Option Instr :=
  let v := w % 2 ^ nbits
  match decode [BitVec.ofNat 32 v, BitVec.ofNat 32 (v / 2 ^ 32)] with
  | .ok i => some i
  | .error _ => none

end Sys2Proof
end

