-- ==== Sys2Proof/Machine/Formats.lean ====
section
/-! DEFINITION. The storage formats of spec/05_formats_and_arithmetic.md: BX blocks and their quantization (R68 to R71),
Booth terms (R72, R73), term-list form (R74 to R78) and the split-stream code (R79 to R82), over bytes given as natural
numbers. -/

namespace Sys2Proof.Machine

/-- The `n` bits of `x` from bit `lo`. -/
def bitsN (x lo n : Nat) : Nat := x / 2 ^ lo % 2 ^ n

/-- Bits read as signed two's complement (SEXT of Table 0.3). -/
def sextN (x n : Nat) : Int := if x % 2 ^ n < 2 ^ (n - 1) then (x % 2 ^ n : Nat) else ((x % 2 ^ n : Nat) : Int) - 2 ^ n

/-- Round a quotient up. -/
def ceilDiv (a b : Nat) : Nat := (a + b - 1) / b

/-- Bytes as one little-endian number (R5). -/
def leN : List Nat → Nat
  | [] => 0
  | b :: t => b + 256 * leN t

/-- A number as `n` little-endian bytes (R5). -/
def leBytes : Nat → Nat → List Nat
  | 0, _ => []
  | n + 1, x => x % 256 :: leBytes n (x / 256)

/-- Bytes `off .. off+n-1` of a list, a missing byte reading 0. -/
def slice (bs : List Nat) (off n : Nat) : List Nat := (List.range n).map fun i => bs.getD (off + i) 0

/-! ### Booth terms -/

/-- Bit `i` of `u` shifted up by one place, so that index 0 reads the bit below bit 0 (R72). -/
def bitBelow (u i : Nat) : Int := if (2 * u).testBit i then 1 else 0

/-- The terms of one Booth digit at position `i` of a number whose sign is `neg` (R72): (sign, exponent). -/
def boothDigit (neg : Bool) (u i : Nat) : List (Bool × Nat) :=
  let d := -2 * bitBelow u (2 * i + 2) + bitBelow u (2 * i + 1) + bitBelow u (2 * i)
  if d = 1 then [(neg, 2 * i)] else if d = 2 then [(neg, 2 * i + 1)]
  else if d = -1 then [(!neg, 2 * i)] else if d = -2 then [(!neg, 2 * i + 1)] else []

/-- TERMS(a) of R72, for magnitudes up to 255: each term as (negative, exponent). -/
def terms (a : Int) : List (Bool × Nat) :=
  let u := a.natAbs
  let neg := decide (a < 0)
  boothDigit neg u 4 ++ boothDigit neg u 3 ++ boothDigit neg u 2 ++ boothDigit neg u 1 ++ boothDigit neg u 0

/-- The value of one term. -/
def termVal (t : Bool × Nat) : Int := if t.1 then -(2 ^ t.2 : Int) else 2 ^ t.2

/-- The sum of a list of terms. -/
def termSum (ts : List (Bool × Nat)) : Int := ts.foldl (fun a t => a + termVal t) 0

/-! ### Element kinds (AKIND: INT8 0, UINT8 1, INT4 2, BX2 3, BX4 4, BX7 5) -/

/-- Kinds 3 to 5 are BX formats. -/
def isBx (kind : Nat) : Bool := kind == 3 || kind == 4 || kind == 5

/-- Magnitude bits b of a BX kind (Table 5.4). -/
def bxB (kind : Nat) : Nat := if kind = 3 then 2 else if kind = 4 then 4 else 7

/-- Bytes of a BX block (Table 5.4). -/
def bxBlock (kind : Nat) : Nat := if kind = 3 then 8 else if kind = 4 then 12 else 18

/-- The most terms per element (R73). -/
def maxTerms (kind : Nat) : Nat :=
  match kind with
  | 0 => 4
  | 1 => 5
  | 2 => 2
  | 3 => 2
  | 4 => 3
  | _ => 4

/-- One element: its integer `v` (for BX kinds the signed magnitude code), its terms and their count, and for BX kinds
the block's scale `x` and the quad shift `mu`. -/
structure Elem where
  v : Int
  cnt : Nat
  tms : List (Bool × Nat)
  x : Nat
  mu : Nat
  deriving DecidableEq, Repr

/-- An element read dense, whose count is the length of TERMS (R230). -/
def Elem.dense (v : Int) (x mu : Nat) : Elem := { v := v, cnt := (terms v).length, tms := terms v, x := x, mu := mu }

/-- The element zero. -/
def Elem.zero : Elem := { v := 0, cnt := 0, tms := [], x := 0, mu := 0 }

/-- The signed magnitude code of a field of b + 1 bits (R69, R70). -/
def bxSigned (b f : Nat) : Int := if f.testBit b then -(f % 2 ^ b : Nat) else (f % 2 ^ b : Nat)

/-- The 16 elements of one BX block (R68 to R70, R73); in a NaN block `x` is 255. -/
def bxElems (kind : Nat) (blk : List Nat) : List Elem :=
  let b := bxB kind
  let x := blk.getD 0 0
  let qs := blk.getD 1 0
  let str := leN (blk.drop 2)
  (List.range 16).map fun i =>
    let mu := if qs.testBit (i / 4) then 1 else 0
    Elem.dense (bxSigned b (bitsN str (i * (b + 1)) (b + 1))) x mu

/-- The dense row size Dr of `e` elements (R75). -/
def denseRow (kind e : Nat) : Nat :=
  if isBx kind then e / 16 * bxBlock kind else if kind = 2 then e / 2 else e

/-- The `e` elements of a dense row (R60, R68). -/
def denseElems (kind e : Nat) (row : List Nat) : List Elem :=
  if isBx kind then (List.range (e / 16)).flatMap fun q => bxElems kind (slice row (q * bxBlock kind) (bxBlock kind))
  else (List.range e).map fun i =>
    if kind = 2 then Elem.dense (sextN (bitsN (row.getD (i / 2) 0) (4 * (i % 2)) 4) 4) 0 0
    else if kind = 1 then Elem.dense (row.getD i 0 : Nat) 0 0
    else Elem.dense (sextN (row.getD i 0) 8) 0 0

/-- A BX element's value m * 2^(X-127-mu-(b-1)) as an FVal; `none` stands for a NaN block (R70). -/
def bxValue (kind : Nat) (el : Elem) : FVal :=
  if el.x = 255 then .nan false
  else .fin (decide (el.v < 0)) el.v.natAbs ((el.x : Int) - 127 - el.mu - ((bxB kind : Int) - 1))

/-! ### Quantization (R71) -/

/-- A quantized block. -/
structure BxQ where
  x : Nat
  qs : Nat
  els : List (Bool × Nat)
  flags : Flags
  deriving DecidableEq, Repr

/-- The exponent of the leading bit of a non-zero finite value; `none` for zero. -/
def FVal.top : FVal → Option Int
  | .fin _ m e => if m = 0 then none else some (e + (Nat.log2 m : Int))
  | _ => none

/-- The greater of two leading exponents. -/
def topMax (a b : Option Int) : Option Int :=
  match a, b with
  | some x, some y => some (max x y)
  | none, y => y
  | x, none => x

/-- The greatest leading exponent of a list. -/
def topOf (xs : List FVal) : Option Int := xs.foldl (fun a x => topMax a x.top) none

def FVal.isFinite : FVal → Bool
  | .fin _ _ _ => true
  | _ => false

/-- One element against the scale 2^q: sign, code, and whether the code is inexact (R71). -/
def quantOne (b : Nat) (q : Int) (x : FVal) : (Bool × Nat) × Bool :=
  match x with
  | .fin n m e =>
    let r := roundAt .rne false m e q false
    let c := min r.1 (2 ^ b - 1)
    ((n && c != 0, c), r.2 || c != r.1)
  | _ => ((false, 0), false)

/-- Quantization of 16 values into a block of b magnitude bits (R71). -/
def quantize (b : Nat) (xs : List FVal) : BxQ :=
  if xs.any (fun x => !x.isFinite) then { x := 255, qs := 0, els := List.replicate 16 (false, 0), flags := fINVALID }
  else match topOf xs with
    | none => { x := 0, qs := 0, els := List.replicate 16 (false, 0), flags := 0 }
    | some top =>
      let x := (min (max (top + 127) 0) 254).toNat
      let fl : Flags := if top + 127 < 0 then fSCALECLAMP else if 254 < top + 127 then fOVERFLOW else 0
      let ec : Int := x - 127
      let mus : List Nat := (List.range 4).map fun j => match topOf ((xs.drop (4 * j)).take 4) with
        | none => 1
        | some t => if t < ec - 1 then 1 else 0
      let qs := (List.range 4).foldl (fun a j => a + mus.getD j 0 * 2 ^ j) 0
      let els := (List.range 16).map fun i => quantOne b (ec - mus.getD (i / 4) 0 - ((b : Int) - 1)) (xs.getD i (.fin false 0 0))
      { x := x, qs := qs, els := els.map (·.1), flags := if els.any (·.2) then fl ||| fINEXACT else fl }

/-- The elements of a quantized block as a term array takes them (R230). -/
def BxQ.elems (q : BxQ) : List Elem :=
  (List.range 16).map fun i =>
    let c := q.els.getD i (false, 0)
    let mu := if q.qs.testBit (i / 4) then 1 else 0
    Elem.dense (if c.1 then -(c.2 : Int) else (c.2 : Int)) q.x mu

/-! ### Term-list form (R74 to R78) -/

/-- The header of Table 5.6; `resOk` says that its reserved fields are 0. -/
structure TlfHdr where
  resOk : Bool
  esccnt : Nat
  esccap : Nat
  l : Nat
  e : Nat
  rows : Nat
  dense : Bool
  kind : Nat
  deriving DecidableEq, Repr

/-- The header of 16 bytes. -/
def TlfHdr.parse (bs : List Nat) : TlfHdr :=
  let w := leN bs
  { resOk := bitsN w 96 32 == 0 && bitsN w 9 7 == 0 && bitsN w 4 4 == 0
    esccnt := bitsN w 80 16, esccap := bitsN w 64 16, l := bitsN w 48 16, e := bitsN w 32 16, rows := bitsN w 16 16
    dense := w.testBit 8, kind := bitsN w 0 4 }

/-- The bytes of a header, reserved fields 0. -/
def TlfHdr.bytes (h : TlfHdr) : List Nat :=
  [h.kind, if h.dense then 1 else 0] ++ leBytes 2 h.rows ++ leBytes 2 h.e ++ leBytes 2 h.l ++ leBytes 2 h.esccap ++
    leBytes 2 h.esccnt ++ [0, 0, 0, 0]

/-- Dr (R75). -/
def TlfHdr.dr (h : TlfHdr) : Nat := denseRow h.kind h.e

/-- The fixed part Fx of a slot (R75). -/
def TlfHdr.fx (h : TlfHdr) : Nat := if isBx h.kind then 2 + h.e / 8 else 2

/-- Validity apart from ESCCNT (R75, R260). -/
def TlfHdr.validShape (h : TlfHdr) : Bool :=
  h.resOk && decide (h.kind ≤ 5) && decide (1 ≤ h.rows) && decide (h.esccap ≤ 32767) &&
  decide (8 ≤ h.e) && decide (h.e ≤ 4096) && h.e % 8 == 0 && (!isBx h.kind || h.e % 16 == 0) &&
  decide (h.fx + h.e / 2 ≤ h.l) && decide (h.rows * h.dr ≤ h.rows * h.l + h.esccap * h.dr)

/-- Validity of a header (R75). -/
def TlfHdr.valid (h : TlfHdr) : Bool := h.validShape && decide (h.esccnt ≤ h.esccap)

/-- The bytes the tile occupies (R75). -/
def TlfHdr.extent (h : TlfHdr) : Nat := 16 + h.rows * h.l + h.esccap * h.dr

/-- Is a term sum within its format's range (R78)? -/
def termSumOk (kind : Nat) (v : Int) : Bool :=
  match kind with
  | 0 => decide (-127 ≤ v ∧ v ≤ 127)
  | 1 => decide (0 ≤ v ∧ v ≤ 127)
  | 2 => decide (-8 ≤ v ∧ v ≤ 7)
  | k => decide (v.natAbs ≤ 2 ^ bxB k - 1)

/-- Exponents strictly decrease (R78). -/
def strictDown : List (Bool × Nat) → Bool
  | a :: b :: t => decide (b.2 < a.2) && strictDown (b :: t)
  | _ => true

/-- Nibble `i` of a byte list, the low nibble first. -/
def nibbleAt (bs : List Nat) (i : Nat) : Nat := bitsN (bs.getD (i / 2) 0) (4 * (i % 2)) 4

/-- The elements of a term row, from the counts still to take and the place of the next term nibble; `none` on a decode
error of an element (R78). `i` is the element's number. -/
def termRowGo (kind : Nat) (slot nibs : List Nat) (i pos : Nat) : List Nat → Option (List Elem)
  | [] => some []
  | c :: cs =>
    let ts := (List.range c).map fun j => (bitsN (nibbleAt nibs (pos + j)) 3 1 == 1, bitsN (nibbleAt nibs (pos + j)) 0 3)
    if decide (c ≤ maxTerms kind) && strictDown ts && termSumOk kind (termSum ts) then
      (termRowGo kind slot nibs (i + 1) (pos + c) cs).map fun rest =>
        { v := termSum ts, cnt := c, tms := ts
          x := if isBx kind then slot.getD (2 + 2 * (i / 16)) 0 else 0
          mu := if isBx kind && (slot.getD (3 + 2 * (i / 16)) 0).testBit (i % 16 / 4) then 1 else 0 } :: rest
    else none

/-- A term row's elements, or `none` on a decode error (R76, R78). -/
def termRow (h : TlfHdr) (slot : List Nat) : Option (List Elem) :=
  let t := bitsN (leN (slot.take 2)) 0 15
  let cs := (List.range h.e).map fun i => nibbleAt (slot.drop h.fx) i
  if cs.foldl (· + ·) 0 != t || decide (h.l < h.fx + h.e / 2 + ceilDiv t 2) then none
  else termRowGo h.kind slot (slot.drop (h.fx + h.e / 2)) 0 0 cs

/-- The elements of row `i` of a tile, `rd off n` giving bytes of the tile; `none` on a decode error (R75, R76, R78).
The header is taken as valid. -/
def tlfRow (h : TlfHdr) (rd : Nat → Nat → List Nat) (i : Nat) : Option (List Elem) :=
  if h.dense then some (denseElems h.kind h.e (rd (16 + i * h.dr) h.dr))
  else
    let slot := rd (16 + i * h.l) h.l
    let hd := leN (slot.take 2)
    if hd.testBit 15 then
      let k := bitsN hd 0 15
      if h.esccnt ≤ k then none else some (denseElems h.kind h.e (rd (16 + h.rows * h.l + k * h.dr) h.dr))
    else termRow h slot

/-- The nibble of a term (R76). -/
def termNibble (t : Bool × Nat) : Nat := t.2 + if t.1 then 8 else 0

/-- Nibbles packed low first. -/
def packNibbles : List Nat → List Nat
  | [] => []
  | [a] => [a]
  | a :: b :: t => (a + 16 * b) :: packNibbles t

/-- A list of bytes made `n` long with zeros. -/
def padTo (n : Nat) (bs : List Nat) : List Nat := bs.take n ++ List.replicate (n - bs.length) 0

/-- A BX block as a writer sets it, from X, QS and its fields (R68, R70): bits 7..4 of QS are 0, and so are the other bytes of
a NaN block and the sign of a field whose m is 0. -/
def bxPack (kind x qs : Nat) (fields : List Nat) : List Nat :=
  let b := bxB kind
  let one : Nat → Nat := fun f => if f % 2 ^ b = 0 then 0 else f
  if x = 255 then 255 :: List.replicate (bxBlock kind - 1) 0
  else x :: qs % 16 :: leBytes (bxBlock kind - 2) (fields.zipIdx.foldl (fun a f => a + one f.1 * 2 ^ (f.2 * (b + 1))) 0)

/-- A dense row as a writer sets it (R68, R70). -/
def denseWritten (h : TlfHdr) (row : List Nat) : List Nat :=
  if isBx h.kind then (List.range (h.e / 16)).flatMap fun q =>
    let blk := slice row (q * bxBlock h.kind) (bxBlock h.kind)
    let b := bxB h.kind
    bxPack h.kind (blk.getD 0 0) (blk.getD 1 0) ((List.range 16).map fun i => bitsN (leN (blk.drop 2)) (i * (b + 1)) (b + 1))
  else row

/-- The X and QS bytes of a row of BX elements as a writer sets them (R68, R77, Table 5.7), from the dense row. -/
def bxScales (h : TlfHdr) (row : List Nat) : List Nat :=
  if isBx h.kind then (List.range (h.e / 16)).flatMap fun q =>
    let x := row.getD (q * bxBlock h.kind) 0
    [x, if x = 255 then 0 else row.getD (q * bxBlock h.kind + 1) 0 % 16]
  else []

/-- An element as a writer lists its terms: none in a NaN block (R77). -/
def Elem.listed (kind : Nat) (e : Elem) : Elem := if isBx kind && e.x == 255 then { e with cnt := 0, tms := [] } else e

/-- The slot of a term row, if the row can be one (R76, R77 step 1). -/
def encodeTermRow (h : TlfHdr) (row : List Nat) : Option (List Nat) :=
  let els := (denseElems h.kind h.e row).map (Elem.listed h.kind)
  let ts := els.flatMap (·.tms)
  if ts.all (fun t => decide (t.2 ≤ 7)) && decide (h.fx + h.e / 2 + ceilDiv ts.length 2 ≤ h.l) then
    some (padTo h.l (leBytes 2 ts.length ++ bxScales h row ++ packNibbles (els.map (·.cnt)) ++ packNibbles (ts.map termNibble)))
  else none

/-- Rows encoded in ascending order (R77): the writes (offset in the tile, bytes), and the escape count; `none` when the
tile must be dense. -/
def encodeRows (h : TlfHdr) : List (List Nat) → Nat → Nat → Option (List (Nat × List Nat) × Nat)
  | [], _, esc => some ([], esc)
  | row :: rest, i, esc =>
    match encodeTermRow h row with
    | some slot => (encodeRows h rest (i + 1) esc).map fun r => ((16 + i * h.l, slot) :: r.1, r.2)
    | none =>
      if esc < h.esccap then
        (encodeRows h rest (i + 1) (esc + 1)).map fun r =>
          ((16 + i * h.l, padTo h.l (leBytes 2 (32768 + esc))) :: (16 + h.rows * h.l + esc * h.dr, denseWritten h row) :: r.1, r.2)
      else none

/-- A whole tile encoded (R77): the writes, the header last, and the header. -/
def tlfEncode (h : TlfHdr) (rows : List (List Nat)) : List (Nat × List Nat) × TlfHdr :=
  match encodeRows h rows 0 0 with
  | some (ws, esc) =>
    let h' := { h with resOk := true, dense := false, esccnt := esc }
    (ws ++ [(0, h'.bytes)], h')
  | none =>
    let h' := { h with resOk := true, dense := true, esccnt := 0 }
    ((List.range rows.length).map (fun i => (16 + i * h.dr, denseWritten h (rows.getD i []))) ++ [(0, h'.bytes)], h')

/-! ### The split-stream code (R79 to R82) -/

/-- The bits of bytes, most significant first (R80). -/
def bitsMsb (bs : List Nat) : List Bool :=
  bs.flatMap fun b => [b.testBit 7, b.testBit 6, b.testBit 5, b.testBit 4, b.testBit 3, b.testBit 2, b.testBit 1, b.testBit 0]

/-- The next `n` bits as a number, and the rest; `none` if they are not there. -/
def takeBits : Nat → Nat → List Bool → Option (Nat × List Bool)
  | 0, acc, bs => some (acc, bs)
  | n + 1, acc, b :: bs => takeBits n (if b then 2 * acc + 1 else 2 * acc) bs
  | _ + 1, _, [] => none

/-- The 1-bits before a 0-bit, at most `n` more, with the 0-bit consumed when it is reached (R80). -/
def unary : Nat → Nat → List Bool → Option (Nat × List Bool)
  | 0, q, bs => some (q, bs)
  | n + 1, q, true :: bs => unary n (q + 1) bs
  | _ + 1, q, false :: bs => some (q, bs)
  | _ + 1, _, [] => none

/-- One symbol z (R80). -/
def sscSymbol (k : Nat) (bs : List Bool) : Option (Nat × List Bool) :=
  match unary 16 0 bs with
  | none => none
  | some (q, r) =>
    if q = 16 then takeBits 8 0 r
    else (takeBits k 0 r).map fun p => (q * 2 ^ k + p.1, p.2)

/-- `n` symbols of one sub-stream as bytes (R80); `none` on an error. -/
def sscStream (k : Nat) : Nat → Nat → List Bool → Option (List Nat)
  | 0, _, _ => some []
  | n + 1, prev, bs =>
    match sscSymbol k bs with
    | none => none
    | some (z, r) =>
      if 255 < z then none
      else
        let d : Int := if z % 2 = 0 then (z / 2 : Nat) else -((z + 1) / 2 : Nat)
        let out := (((prev : Int) + d) % 256).toNat
        (sscStream k n out r).map (out :: ·)

/-- The header of a chunk: N, RAW, the Rice parameters and the sub-streams' bytes (Table 5.8). -/
structure SscHdr where
  n : Nat
  raw : Nat
  ks : List Nat
  subs : List (List Nat)
  deriving DecidableEq, Repr

/-- The header of a chunk, or `none` if it fails R81. -/
def sscHeader (chunk : List Nat) : Option SscHdr :=
  let nc := chunk.getD 0 0
  if chunk.isEmpty || decide (3 < nc) then none
  else
    let n := 2 ^ nc
    let raw := leN (slice chunk 1 2)
    let lens := (List.range (n - 1)).map fun i => leN (slice chunk (3 + 2 * i) 2)
    let hl := 3 + 2 * (n - 1) + n
    let used := hl + lens.foldl (· + ·) 0
    let ks := slice chunk (3 + 2 * (n - 1)) n
    if raw = 0 ∨ 512 < raw ∨ ks.any (fun k => decide (7 < k)) = true ∨ chunk.length < used then none
    else
      let start := fun i => hl + (lens.take i).foldl (· + ·) 0
      some { n := n, raw := raw, ks := ks
             subs := (List.range n).map fun i =>
               (chunk.drop (start i)).take (if i + 1 = n then chunk.length - start i else lens.getD i 0) }

/-- The symbols of sub-stream i. -/
def sscCount (raw n i : Nat) : Nat := (raw + n - 1 - i) / n

/-- The RAW bytes of a chunk with a good header; `none` if a sub-stream fails (R80, R81). -/
def sscBody (h : SscHdr) : Option (List Nat) :=
  let outs := (List.range h.n).map fun i => sscStream (h.ks.getD i 0) (sscCount h.raw h.n i) 0 (bitsMsb (h.subs.getD i []))
  if outs.any (·.isNone) then none
  else some ((List.range h.raw).map fun j => ((outs.getD (j % h.n) none).getD []).getD (j / h.n) 0)

/-- The bytes of a chunk, or `none` on an SSC decode error (R81). -/
def sscDecode (chunk : List Nat) : Option (List Nat) := (sscHeader chunk).bind sscBody

/-- The symbols the encoder forms for one sub-stream (R80). -/
def sscZs : Nat → List Nat → List Nat
  | _, [] => []
  | prev, b :: t =>
    let d := sextN ((b + 256 - prev) % 256) 8
    (if 0 ≤ d then 2 * d.toNat else (-2 * d - 1).toNat) :: sscZs b t

/-- The code of a symbol under Rice parameter k: unary and remainder, or an escape (R80). -/
def sscCode (k z : Nat) : List Bool :=
  if z / 2 ^ k ≤ 15 then List.replicate (z / 2 ^ k) true ++ false :: msbBits k z else List.replicate 16 true ++ msbBits 8 z
where
  /-- The low `n` bits of a number, most significant first. -/
  msbBits (n x : Nat) : List Bool := (List.range n).map fun i => x.testBit (n - 1 - i)

/-- The bits of a sub-stream's symbols under k. -/
def sscBits (k : Nat) (zs : List Nat) : List Bool := zs.flatMap (sscCode k)

/-- The k of 0..7 that gives the fewest bits, the smaller on a tie (R82). -/
def sscBestK (zs : List Nat) : Nat :=
  (List.range 8).foldl (fun b k => if (sscBits k zs).length < (sscBits b zs).length then k else b) 0

/-- Bits packed into bytes, most significant first, the last byte filled with zeros (R80): `n` bits of the first byte are
in `acc`. -/
def packMsb : Nat → Nat → List Bool → List Nat
  | n, acc, [] => if n = 0 then [] else [acc * 2 ^ (8 - n)]
  | n, acc, b :: t =>
    let a := 2 * acc + if b then 1 else 0
    if n = 7 then a :: packMsb 0 0 t else packMsb (n + 1) a t

/-- Every N-th byte from byte i. -/
def everyNth (bs : List Nat) (n i : Nat) : List Nat := (List.range (sscCount bs.length n i)).map fun j => bs.getD (i + j * n) 0

/-- The encoder's chunk with 2^c sub-streams (Table 5.8, R80, R82). -/
def sscChunk (bs : List Nat) (c : Nat) : List Nat :=
  let n := 2 ^ c
  let zs := (List.range n).map fun i => sscZs 0 (everyNth bs n i)
  let subs := zs.map fun z => packMsb 0 0 (sscBits (sscBestK z) z)
  c :: leBytes 2 bs.length ++ ((subs.take (n - 1)).flatMap fun x => leBytes 2 x.length) ++ zs.map sscBestK ++ subs.flatten

/-- The chunk of a block: the shortest, with the fewer sub-streams on a tie (R82). -/
def sscEncode (bs : List Nat) : List Nat :=
  [1, 2, 3].foldl (fun b c => if (sscChunk bs c).length < b.length then sscChunk bs c else b) (sscChunk bs 0)

/-- The metadata code a compressing page's block takes (R84, Table 5.9). -/
def blockCode (encrypted : Bool) (bs : List Nat) : Nat :=
  if !encrypted && bs.all (· == 0) then 1
  else
    let l := (sscEncode bs).length
    if l ≤ 64 then 2 else if l ≤ 128 then 3 else if l ≤ 192 then 4 else 0

/-- Bytes stored for a block of a code (Table 5.9). -/
def sectorBytes (code : Nat) : Nat :=
  match code with
  | 0 => 256
  | 2 => 64
  | 3 => 128
  | 4 => 192
  | _ => 0

/-- The stored bytes of a block under a code: its chunk filled with zeros, or the block itself (R80, R84). -/
def storedBytes (code : Nat) (bs : List Nat) : List Nat :=
  if code = 0 then bs else if code = 1 then [] else padTo (sectorBytes code) (sscEncode bs)

/-- The bytes that stored bytes hold, or `none` on an SSC decode error (R81, R84). -/
def loadedBytes (code : Nat) (bs : List Nat) : Option (List Nat) :=
  if code = 0 then some bs else if code = 1 then some (List.replicate 256 0) else sscDecode bs

end Sys2Proof.Machine
end

