-- ==== Sys2Proof/Machine/State.lean ====
section
/-! DEFINITION. The state of the machine: every piece of state the spec gives a logical device, its host interface and
the package around it, as plain data, and the state after a cold reset (INVENTORY.md lists each field with its rule).
A map is a list of pairs with rising keys; a key that is not listed has the default that its reader names. -/

namespace Sys2Proof.Machine

/-- A sparse map: pairs of a key and a value, keys rising. -/
abbrev Map (α : Type) := List (Nat × α)

/-! ### Waves -/

/-- How a wave came to be (07 R86, R103, R107; 21 R299); `none` marks the blank record. -/
inductive WaveKind where
  | none | block | spawned | queue | kindling
  deriving DecidableEq, Repr

/-- The kinds of a divergence-stack entry (07 R101, R111; Table of R341). -/
inductive StackKind where
  | path | join | callj | parked
  deriving DecidableEq, Repr

/-- One entry of the divergence stack (07, Divergence). -/
structure StackEntry where
  kind : StackKind
  pc : Addr
  mask : Word
  rpc : Addr
  deriving DecidableEq, Repr

/-- A clause as it was fetched: its header and the words after it (03 R27, R34). -/
structure Clause where
  hdr : Word
  words : List Word
  deriving DecidableEq, Repr

/-- A tile of a droppable object: object id and flat index (21 R289). -/
structure TileId where
  obj : Nat
  tile : Nat
  deriving DecidableEq, Repr

/-- What keeps a wave from issuing. -/
inductive Hold where
  /-- no wave -/
  | blank
  /-- nothing -/
  | run
  /-- it waits in a BAR after arriving, for the end of phase `phase` (07 R99) -/
  | bar (level num phase : Nat)
  /-- it has done steps 1 and 2 of an SC fence and waits for a tick after `tick` (09 R143) -/
  | sc (tick : Nat)
  /-- it is blocked in TQPOP on queue `q` (07 R107) -/
  | pop (q : Nat)
  /-- it stands after a TQPOP that completed with an empty mask since the wave is to be evicted (13 R189) -/
  | popped
  /-- it is parked while page walks serve these pages, numbers of 64 KiB (09 R153) -/
  | walk (pages : List Nat)
  /-- it is parked on outstanding faults (25 R333, R334) or in RESUMEF (13 R223) -/
  | fault (tokens : List Nat)
  /-- it is parked on dropped tiles, by an access of these lanes at these addresses (21 R296, R304) -/
  | miss (tiles : List TileId) (lanes : List (Nat × Nat))
  /-- it is stopped at a BKPT (13 R226) -/
  | bkpt
  /-- it waits in RBEGIN for a free entry (23 R326) -/
  | rbegin
  /-- it waits in RCOMMIT (23 R318) -/
  | rcommit
  /-- its region access is stalled (23 R317, R325) -/
  | rstall
  /-- it is held until a TLENC writes its status (17 R260) -/
  | tlenc
  deriving DecidableEq, Repr

/-- The identity and placement of a wave. -/
structure WaveId where
  wid : Nat
  kind : WaveKind
  core : Nat
  slot : Nat
  blk : Option Nat
  waveIdx : Word
  blockIdx : Word
  clusterIdx : Word
  /-- the launch number and the node of its card -/
  card : Option (Nat × Nat)
  prio : Nat
  vregs : Nat
  spwait : Nat
  age : Nat
  /-- the chain and the level of a kindling wave -/
  chain : Option (Nat × Nat)
  /-- the tile a kindling wave rebuilds -/
  tile : Option TileId
  /-- the tiles that a kindling wave pinned at its start (21 R301) -/
  pins : List TileId
  /-- the tiles that nested recipes rebuilt for a kindling wave's misses (21 R301) -/
  holds : List TileId
  deriving DecidableEq, Repr

/-- Control flow of a wave. -/
structure WaveFlow where
  pc : Addr
  clause : Option Clause
  mask : Word
  alive : Word
  rpc : Addr
  stack : List StackEntry
  hold : Hold
  stalled : Bool
  /-- it stalls only because its pipe cannot accept its instruction (07 R108) -/
  piped : Bool
  ready : Nat
  yielded : Bool
  wbArrived : Word
  wbPhase : Word
  handler : Bool
  contin : Bool
  /-- return state of a continuation: MASK, RPC, depth (25 R333) -/
  retMask : Word
  retRpc : Addr
  retDepth : Nat
  /-- set while the wave is to stop for eviction (25 R339) -/
  stopReq : Bool
  /-- position, level, number and phase of a BAR in which it has arrived and that it must fetch again (13 R189) -/
  inBar : Option (Addr × Nat × Nat × Nat)
  /-- an RFT has taken effect at the position `pc` and the wave goes on at the one that follows it, once the clause of `pc`
  has been fetched (13 R223; log 29) -/
  skip : Bool
  deriving DecidableEq, Repr

/-- Register files and full/empty bits (03 R43, R47). -/
structure WaveRegs where
  v : Vector Lanes 128
  s : Vector Word 64
  p : Vector Word 8
  vfull : BitVec 128
  sfull : BitVec 64
  deriving DecidableEq, Repr

/-- Special registers that a wave holds (Table 3.10, 13 R225, 17 R265). -/
structure WaveCsr where
  codebase : Addr
  fpmode : Word
  arithf : Word
  arithe : Word
  tvec : Addr
  epc : Addr
  cont : Addr
  fpc : Addr
  ftoken : Addr
  fcause : Word
  fva : Addr
  flanes : Word
  xword0 : Word
  xword1 : Word
  ximm : Word
  copyerr : Word
  hbLatch : Option Word
  perf : Vector Word 8
  tlferr : Word
  lastL : Word
  lastTB : Word
  deriving DecidableEq, Repr

/-- One lane's part of a memory access: its address, its physical address (a tile offset for tile memory), the page
fields KEY, KEYEN, COMP of its translation (09 R151), and data. -/
structure LaneAcc where
  lane : Nat
  va : Nat
  pa : Nat
  fields : Nat
  data : Nat
  cmp : Nat
  deriving DecidableEq, Repr

/-- A store in a wave's store queue: a weak global store or a tile store (09 R135). -/
structure StoreEnt where
  seq : Nat
  tile : Bool
  size : Nat
  lanes : List LaneAcc
  deriving DecidableEq, Repr

/-- What kind of access an outstanding load is. -/
inductive LoadKind where
  | weak | strong | tile | atomic | region
  deriving DecidableEq, Repr

/-- An outstanding LD, SLD, LDT, ATOM or ATOMC (03 R48, 13 R201). -/
structure LoadEnt where
  seq : Nat
  kind : LoadKind
  scalar : Bool
  dst : Nat
  size : Nat
  sx : Bool
  scope : Nat
  acq : Bool
  lanes : List LaneAcc
  /-- values already returned, by lane -/
  got : Map Nat
  /-- position of the instruction (25 R331) -/
  pc : Addr
  /-- objects that the reads of an acquiring atomic found in records, and ALL (R140, 13 R211) -/
  objs : List Nat
  all : Bool
  /-- a float ATOM or an ATOMC, in a region too, which TFENCE waits for (05 R67, 13 R222) -/
  flags : Bool
  deriving DecidableEq, Repr

/-- A core's entry of a release record: core, drain set, invalidate set (09 R138). -/
structure RecEntry where
  core : Nat
  drain : List Nat
  inval : List Nat
  deriving DecidableEq, Repr

/-- A release record (09 R139). -/
structure RelRecord where
  entries : List RecEntry
  all : Bool
  deriving DecidableEq, Repr

/-- A strong store, or the write side of an atomic, waiting to enter a write buffer or in one (09 R136). -/
structure WbEnt where
  id : Nat
  /-- position of the instruction (25 R331) -/
  pc : Addr
  wid : Nat
  seq : Nat
  lane : Nat
  va : Nat
  pa : Nat
  fields : Nat
  size : Nat
  /-- `none` a store; `some aop` an atomic; 16 a compare and swap -/
  aop : Option Nat
  data : Nat
  cmp : Nat
  scope : Nat
  rel : Bool
  returns : Bool
  /-- the core's record entry and its ALL bit, formed at step 3 of R138 -/
  relEnt : Option (RecEntry × Bool)
  deriving DecidableEq, Repr

/-- Memory-side state of a wave. -/
structure WaveMem where
  sq : List StoreEnt
  loads : List LoadEnt
  /-- strong stores and atomics issued and not yet in a buffer -/
  strong : List WbEnt
  /-- V2S moves that wait for their source: scalar destination, source register, lane (13 R194) -/
  v2s : List (Nat × Nat × Nat)
  /-- buffer entries whose value a load of the wave took (09 R136 rule 5) -/
  fwd : List Nat
  /-- pages whose walk has ended without a leaf, for the instruction that waited (09 R153) -/
  walked : List Nat
  /-- instructions that met restartable faults and have not completed since, by position, each with the tokens that it created
  or joined (25 R336) -/
  owed : Map (List Nat)
  /-- tiles that the instruction at hand has missed on: they stay guarded until its access performs (21 R305) -/
  guards : List TileId
  seq : Nat
  lastCopy : Option Nat
  /-- `.acq` copies not yet covered by a CWAIT: copy number, scope, objects named, ALL (19 R272) -/
  acqs : List (Nat × Nat × List Nat × Bool)
  region : Option Nat
  deriving DecidableEq, Repr

/-- A wave (07 R86). -/
structure Wave where
  id : WaveId
  flow : WaveFlow
  regs : WaveRegs
  csr : WaveCsr
  mem : WaveMem
  deriving DecidableEq, Repr

/-! ### Blocks and cores -/

/-- A weight slot (15 R231, 19 R283). -/
structure Slot where
  loaded : Bool
  kind : Nat
  ssc : Bool
  sigma : Bool
  /-- σ(k), k = 0..191 -/
  sig : List Nat
  /-- the stored bytes: the raw image or the LC compressed bytes -/
  bytes : List Nat
  lc : Nat
  /-- number of the latest CPYW of the slot while one of its CPYWs has not completed -/
  filler : Option Nat
  /-- number of the CPYW that the bytes come from, while another of the slot has not completed -/
  source : Option Nat
  deriving DecidableEq, Repr

/-- A barrier: its phase count and the waves that have arrived in the phase (07 R99). -/
structure Barrier where
  phase : Nat
  arrived : List Nat
  deriving DecidableEq, Repr

/-- A block, or the slot of a kindling wave (07 R86, R94; 21 R298). -/
structure Block where
  card : Option (Nat × Nat)
  index : Nat
  core : Nat
  bpc : Nat
  wpb : Nat
  vregs : Nat
  prio : Nat
  fuse : Bool
  tmem : Nat
  tbase : Nat
  wslots : Nat
  /-- the numbers of the waves of the block that have not exited -/
  waves : List Nat
  tile : Map Byte
  tags : Map Nat
  slots : Map Slot
  bars : Map Barrier
  evicted : Bool
  age : Nat
  deriving DecidableEq, Repr

/-- A 128-byte line of an L1 (09 R125): its object id, the virtual address it was reached by, the page fields of its
translation (09 R151), the valid and dirty masks by byte, and the bytes. -/
structure L1Line where
  obj : Nat
  va : Nat
  fields : Nat
  valid : BitVec 128
  dirty : BitVec 128
  data : Vector Byte 128
  deriving DecidableEq, Repr

/-- An entry of the dirty-object summary (09 R137). -/
structure SumEnt where
  obj : Nat
  d : Bool
  c : Bool
  deriving DecidableEq, Repr

/-- A copy of class 5 (19 R267 to R285). -/
structure Copy where
  seq : Nat
  wid : Nat
  blk : Option Nat
  op : Nat
  params : List Nat
  word1 : Nat
  slot : Nat
  redop : Nat
  /-- the block breaks a limit (19 R280) -/
  bad : Bool
  /-- the wave's access count at issue -/
  acc : Nat
  started : Bool
  err : Nat
  /-- tile lines still to arrive -/
  lines : List Nat
  /-- indices of a CPYG that have been fetched, from row 0 on (19 R282) -/
  idx : List Nat
  /-- outstanding fault it waits on -/
  token : Option Nat
  /-- dropped tiles that it waits on (21 R296) -/
  waits : List TileId
  /-- objects its reads found in records, and ALL (19 R272) -/
  objs : List Nat
  all : Bool
  relEnt : Option (RecEntry × Bool)
  timedOut : Bool
  deriving DecidableEq, Repr

/-- The kinds of work in a term array's queue (15 R229, 17 R251, R255). -/
inductive TermKind where
  | tmm | tprom | request
  deriving DecidableEq, Repr

/-- One entry of a term array's queue. -/
structure TermOp where
  kind : TermKind
  wid : Nat
  blk : Option Nat
  vacc : Nat
  fw : Nat
  aoff : Nat
  consume : Bool
  p : Nat
  slot : Nat
  /-- the wave's access count at issue: its earlier tile stores have lower numbers (15 R244) -/
  seq : Nat
  /-- FORM, LC and SIGMA of the slot at issue (15 R231) -/
  ssc : Bool
  lc : Nat
  sigma : Bool
  /-- number of the CPYW that its fill waits for (19 R283) -/
  filler : Option Nat
  /-- that CPYW failed: the fill gives zeros -/
  zeroB : Bool
  deriving DecidableEq, Repr

/-- A run of TMMs (15 R239). -/
structure TermRun where
  vacc : Nat
  fw : Nat
  n : Nat
  deriving DecidableEq, Repr

/-- A term array (15 R228, R229): its wave, its queue (the head runs once `started` holds its start), its row files, its
held run and the slice sums S[q][m][n] at index 2048 q + 32 m + n, the empty list while they are all 0. -/
structure TermArray where
  owner : Option Nat
  queue : List TermOp
  started : Option Nat
  /-- what the row files hold for the TMM that runs: its slot as the fill found it -/
  file : Slot
  run : Option TermRun
  sums : List Int
  deriving DecidableEq, Repr

/-- An XMM in the exact unit's queue (17 R263). -/
structure XmmOp where
  wid : Nat
  blk : Option Nat
  d : Nat
  aoff : Nat
  boff : Nat
  form : Nat
  conjb : Bool
  zc : Bool
  seq : Nat
  /-- core cycle at which it started -/
  started : Option Nat
  deriving DecidableEq, Repr

/-- A TLENC or TLDEC in the TLF unit's queue, or a DECS in the stream decoder's (17 R260 to R262). -/
structure UnitOp where
  wid : Nat
  blk : Option Nat
  enc : Bool
  d : Nat
  src : Nat
  dst : Nat
  arg : Nat
  /-- TLDEC: the active lanes with their row and element words -/
  lanes : List (Nat × Nat)
  /-- the wave's access count at issue -/
  seq : Nat
  /-- core cycle since which it stands at the head of its queue -/
  since : Nat
  deriving DecidableEq, Repr

/-- A record in a spawn bin with what governs its spawner (07 R102, R103). -/
structure SpawnRec where
  vals : List Word
  card : Option (Nat × Nat)
  prio : Nat
  vregs : Nat
  spwait : Nat
  deriving DecidableEq, Repr

/-- A spawn bin (07 R102). -/
structure Bin where
  key : Option Nat
  recs : List SpawnRec
  /-- core cycle at which the timer expires -/
  due : Option Nat
  /-- the timer has expired and a launch is due -/
  expired : Bool
  deriving DecidableEq, Repr

/-- The translation of one page held in a TLB: page number of 64 KiB, frame, rights and fields (09 R152, R154). -/
structure TlbEnt where
  vpn : Nat
  frame : Nat
  r : Bool
  w : Bool
  x : Bool
  fields : Nat
  hint : Nat
  deriving DecidableEq, Repr

/-- A core (01 R13). -/
structure Core where
  /-- L1 lines by physical address div 128 -/
  l1 : Map L1Line
  summary : List SumEnt
  wide : Bool
  /-- the eight write buffers, oldest entry first -/
  wbuf : Map (List WbEnt)
  copySeq : Nat
  copies : List Copy
  ta : Map TermArray
  xq : List XmmOp
  tlfq : List UnitOp
  decq : List UnitOp
  bins : Map Bin
  tlb : List TlbEnt
  /-- tiles whose post was refused, with the requesting wave or copy (21 R296) -/
  retry : List TileId
  /-- core cycle at which it posts them again -/
  retryDue : Nat
  /-- recipe slots in use, by index: the kindling wave, or the chain that reserved the slot -/
  rslots : Map Nat
  /-- busy cycles left of each quarter's vector ALU (11 R155) -/
  alu : Map Nat
  deriving DecidableEq, Repr

/-! ### Die -/

/-- Who waits for a dropped tile (21 R296, R303). -/
inductive TileReq where
  | wave (wid : Nat)
  | copy (core seq : Nat)
  | prefetch (core : Nat)
  deriving DecidableEq, Repr

/-- States of a tile of a sealed object (Table 21.2). -/
inductive TileState where
  | present | dropped | forming
  deriving DecidableEq, Repr

/-- A tile's state with what guards it: requesters of its entry that have not finished, and kindling waves that missed
on it (21 R301, R305). -/
structure Tile where
  st : TileState
  guards : List TileReq
  deriving DecidableEq, Repr

/-- An object (09 R128, 21 R290): the shape record as 512 bits, priority, seal, recipe record, tile storage. -/
structure Obj where
  shape : Nat
  prio : Nat
  isSealed : Bool
  recipe : Option Nat
  tiles : Map Tile
  deriving DecidableEq, Repr

/-- An entry of the recipe queue (21 R295, R297). -/
structure RecipeEnt where
  tile : TileId
  reqs : List TileReq
  chain : Option Nat
  deriving DecidableEq, Repr

/-- A chain: its depth, its reserved slots as (core, slot), its waves by level, the tile each rebuilds (21 R295, R302). -/
structure Chain where
  depth : Nat
  slots : List (Nat × Nat)
  waves : List Nat
  first : TileReq
  /-- the tile whose entry began the chain -/
  tile : TileId
  deriving DecidableEq, Repr

/-- A version of a region line (23 R311); `line` is its physical address div 64 (log 21). -/
structure Version where
  line : Nat
  va : Nat
  fields : Nat
  order : Nat
  data : List Byte
  mask : BitVec 64
  deriving DecidableEq, Repr

/-- An ACTIVE entry of the region table (23 R310, R311). -/
structure Region where
  wid : Nat
  seqNo : Word
  label : Addr
  sd : Nat
  mask0 : Word
  rpc0 : Addr
  depth0 : Nat
  reads : List Nat
  versions : List Version
  /-- direct predecessors -/
  preds : List Nat
  /-- edges of its stalled access, as (from, to) -/
  pend : List (Nat × Nat)
  waiting : Bool
  deriving DecidableEq, Repr

/-- A range-lock entry: lines of 256 bytes from `lo` to `hi`, DEST or SOURCE, and its copy (09 R123). -/
structure Lock where
  lo : Nat
  hi : Nat
  dest : Bool
  core : Nat
  seq : Nat
  deriving DecidableEq, Repr

/-- A task queue: its configuration (27 R355), the records on chip, and its ring in memory (07 R104, R105). -/
structure TaskQueue where
  entry : Addr
  timer : Nat
  enable : Bool
  launch : Bool
  log2cap : Nat
  vregs : Nat
  prio : Nat
  ringbase : Addr
  /-- reserved bits that a write left set, as a 256-bit word: they read 0, and ENABLE checks them (R355) -/
  reserved : Nat
  chip : List (List Word)
  /-- ring indexes of the head and the tail -/
  head : Nat
  tail : Nat
  /-- records pushed to the ring and not yet written to their slot: ring index and record -/
  unwritten : List (Nat × List Word)
  /-- outstanding faults that the oldest ring write and the refill wait on (27 R355) -/
  wtoken : Option Nat
  rtoken : Option Nat
  blocked : List Nat
  due : Option Nat
  expired : Bool
  deriving DecidableEq, Repr

/-- A 256-byte line of the L2 (09 R127, R131, R139, R151; 21 R301): its object, the virtual address it was reached by,
whether it is dirty, the page fields it carries, its release record, the kindling waves that pin it, and when it was
last used. -/
structure L2Line where
  obj : Nat
  va : Nat
  data : Vector Byte 256
  dirty : Bool
  fields : Nat
  poison : Bool
  rel : RelRecord
  pins : List Nat
  used : Nat
  deriving DecidableEq, Repr

/-- What an outstanding fault waits for (25 R336). -/
inductive FaultKey where
  | page (n : Nat)
  | range (n : Nat)
  deriving DecidableEq, Repr

/-- An outstanding fault (25 R336): its token, its range, whether it is still to enter FAULTQ, its VA, whether an engine
met it. -/
structure OutFault where
  token : Nat
  key : FaultKey
  queued : Bool
  va : Nat
  engine : Bool
  deriving DecidableEq, Repr

/-- An evicted wave: its image's wave record with STOP, ABORTED and the held run's totals (25 R340 to R343). -/
structure SavedWave where
  wave : Wave
  stop : Nat
  aborted : Bool
  run : Option TermRun
  totals : List Int
  /-- the 256-byte blocks of the save area that hold the image -/
  place : List Nat
  deriving DecidableEq, Repr

/-- An evicted unit: a block with its waves, or a spawned wave alone (25 R338, R342). -/
structure SavedUnit where
  unit : Nat
  core : Nat
  blk : Option Nat
  waves : List SavedWave
  /-- the block's own image has been written -/
  written : Bool
  bytes : Nat
  /-- the 256-byte blocks of the save area that hold the block's own image -/
  place : List Nat
  deriving DecidableEq, Repr

/-- State of the die outside its cores and scheduler. -/
structure Die where
  die : Nat
  objects : Map Obj
  regions : Map Region
  regSeq : Word
  verOrder : Nat
  rwait : List Nat
  locks : List Lock
  queues : Map TaskQueue
  recipeQ : List RecipeEnt
  chains : Map Chain
  chainNo : Nat
  /-- L2 lines by physical address div 256 -/
  l2 : Map L2Line
  useNo : Nat
  tlb2 : Map (List TlbEnt)
  faults : List OutFault
  tokens : Nat
  bars : Map Barrier
  saved : List SavedUnit
  /-- hardware clusters whose eight L1s form one (R126) -/
  fusedHw : List Nat
  deriving DecidableEq, Repr

/-! ### Scheduler -/

/-- A card of the running launch (07 R93, R97). -/
structure CardRun where
  node : Nat
  counter : Nat
  /-- order in which it became ready -/
  ready : Option Nat
  launched : Nat
  live : Nat
  /-- waves of the card, spawned waves included, that have not exited -/
  waves : Nat
  /-- next record of the dealer -/
  next : Nat
  /-- the cores on which waves of the card have run -/
  cores : List Nat
  done : Bool
  deriving DecidableEq, Repr

/-- A launch that waits: graph and the GTRIG value (07 R93). -/
structure Launch where
  num : Nat
  graph : Nat
  gtrig : Addr
  cards : List CardRun
  readyNo : Nat
  /-- outstanding fault that the reading of its patch list waits on (R92; 25 R336) -/
  token : Option Nat
  deriving DecidableEq, Repr

/-- Resources kept for the blocks of a card that waits for victims (25 R338): the blocks where they will lie, and the units
that leave for them. -/
structure Reserve where
  launch : Nat
  node : Nat
  blocks : List Block
  victims : List Nat
  deriving DecidableEq, Repr

/-- Scheduler state. -/
structure Sched where
  /-- graphs: each a list of 512-bit cards -/
  graphs : Map (List Nat)
  waiting : List Launch
  running : Option Launch
  launchNo : Nat
  blocks : Map Block
  /-- quarter whose turn it is, over core * 4 + quarter -/
  turn : Nat
  nextWid : Nat
  nextBlk : Nat
  ageNo : Nat
  /-- resources kept for blocks that wait for victims (25 R338) -/
  reserved : List Reserve
  deriving DecidableEq, Repr

/-! ### Host interface -/

/-- Commands of the command queue (27 R352). -/
inductive Cmd where
  | todev (n : Nat)
  | tohost (n : Nat)
  | shoot (val : Nat)
  deriving DecidableEq, Repr

/-- Power states (27 R366). -/
inductive Power where
  | active | idle | sleep
  deriving DecidableEq, Repr

/-- An entry of HOTAB (27 R351): the state is 0 DEVICE, 1 TRANSIT, 2 HOST. -/
structure HoEnt where
  valid : Bool
  state : Nat
  base : Nat
  deriving DecidableEq, Repr

/-- Host registers (27 R347). -/
structure HostRegs where
  gtrigLow : Word
  guploadLow : Word
  shootLow : Word
  faultdoneLow : Word
  gstat : Word
  /-- the GUPLOAD value whose card array is being read, with the outstanding fault it waits on (R335, R350) -/
  upload : Option (BitVec 64 × Nat)
  /-- a launch is being patched (R350) -/
  patching : Bool
  lcount : BitVec 64
  cmdq : List Cmd
  cmdDone : BitVec 16
  kerr : Bool
  ovf : Bool
  troot : BitVec 64
  jobid : Word
  bkpten : Bool
  stop : Bool
  run : Bool
  jobDead : Bool
  savebase : BitVec 64
  savesize : BitVec 64
  peerto : Word
  faultq : List (Nat × BitVec 64)
  faultLatch : BitVec 64 × BitVec 64
  supf : List (BitVec 64)
  bkq : List (Nat × Addr × Nat)
  bkwait : List (Nat × Addr × Nat)
  bkLatch : Addr × Word
  deriving DecidableEq, Repr

/-- A peer's request that has passed the checks of its export entry: the virtual address that it is for, transaction, its
bytes and its data (27 R358), and the outstanding fault it waits on. -/
structure PeerReq where
  va : Nat
  op : PeerOp
  n : Nat
  data : Nat
  token : Nat
  deriving DecidableEq, Repr

/-- A request to a peer (27 R356, R358): the accelerator ID of the port that it leaves by, none for one to the other die,
which goes over the bridge; the exporter, by its accelerator ID or as the other die, the index of its export entry, the
offset, the transaction (19 R284), the bytes it covers, and the data of a write or of an atomic request. -/
structure PeerSend where
  src : Option (BitVec 10)
  peer : Nat
  other : Bool
  entry : Nat
  off : Nat
  op : PeerOp
  n : Nat
  data : List Byte
  deriving DecidableEq, Repr

/-- The rest of the host interface (27). -/
structure HostTabs where
  bootcfg : Word
  hotab : Map HoEnt
  imports : Map Nat
  exports : Map Nat
  mon : Map Word
  mbox : Map Byte
  alarmcfg : Word
  msix : List Nat
  power : Power
  halted : Bool
  /-- private keys zeroed until the next cold reset (27 R364) -/
  erased : Bool
  /-- boot firmware has enabled the dies (27 R360) -/
  enabled : Bool
  /-- the firmware image of the last cold reset; none: the one of the package's first boot -/
  firmware : Option Image
  /-- accelerator IDs of the eight UALink ports (01 R13; 27 R356) -/
  ports : Vector (BitVec 10) 8
  /-- requests of peers that wait on absent pages, with the token each waits on (27 R358) -/
  peerWait : List PeerReq
  /-- the last request that a copy sent to a peer (27 R358) -/
  lastSent : Option PeerSend
  /-- the last response to a reader outside the cores: poisoned, bytes -/
  lastRead : Bool × Nat
  deriving DecidableEq, Repr

/-! ### Package -/

/-- What a packet of the fabric carries: a request for 8 bytes, or a response (01 R20, R21). -/
inductive Body where
  | read
  | write (data : Nat)
  | reply (poison : Bool) (data : Nat)
  | ack
  deriving DecidableEq, Repr

/-- A packet that a near link has carried or is to carry: its sequence number on that link, the link (by its memory die),
its direction, the requester, the address, the page fields of the request (09 R151), for a response the home that it
names, and what it carries (01 R20 to R22). -/
structure Packet where
  no : Nat
  link : Nat
  toCd : Bool
  src : Requester
  pa : Nat
  fields : Nat
  home : Nat
  body : Body
  deriving DecidableEq, Repr

/-- One direction of a near link (01 R22): the next sequence number, how many numbers have been delivered, the packets in
the retry buffer, and those that wait for a VC3 slot since the link failed. -/
structure LinkDir where
  nextSeq : Nat
  delivered : Nat
  retry : List Packet
  waiting : List Packet
  deriving DecidableEq, Repr

/-- A near link (01 R12, R22). -/
structure Link where
  up : Bool
  toMd : LinkDir
  toCd : LinkDir
  deriving DecidableEq, Repr

/-- A home-table entry (Table 1.5). -/
structure HomeEnt where
  valid : Bool
  moving : Bool
  nhome : Nat
  nframe : Nat
  home : Nat
  lframe : Nat
  deriving DecidableEq, Repr

/-- A stored block: its metadata code and the fields under which it was written (05 R83, 09 R151). -/
structure BlockMeta where
  code : Nat
  fields : Nat
  deriving DecidableEq, Repr

/-- The package around the die. -/
structure Pkg where
  /-- DRAM bytes by stack address: die * 2^36 + local frame * 2^16 + offset -/
  dram : List Host.Cell
  blkMeta : Map BlockMeta
  home : Map HomeEnt
  /-- writes counted in this window: key (die, group), value (from CD0, from CD1) (09 R149) -/
  counts : Map (Nat × Nat)
  /-- the counts of each memory die's window that ended last, and how many of its windows have ended (09 R149) -/
  ended : Map (Nat × Nat)
  windows : Map Nat
  /-- blocks already exchanged of frames that move: stack address div 256 -/
  exchanged : List Nat
  /-- key slots that hold a key, with the key plus 1 (09 R150) -/
  keys : Map Nat
  /-- the save key of the running job, by the number of its draw (27 R354) -/
  saveKey : Option Nat
  links : Map Link
  /-- packets in the VC3 slots of each hop and in the VC3 input queues, by `vc3Bridge` to `vc3CdQueue` (01 R21, R23) -/
  vc3 : Map (List Packet)
  bridge : Bool
  side : BitVec 8
  clock : Nat
  coreClock : Nat
  deriving DecidableEq, Repr

/-- The next thing that happens (log 1). -/
inductive Turn where
  /-- wave `wid` tries to issue -/
  | wave (wid : Nat)
  /-- wave `wid` tries to issue, in a cycle that another wave of its quarter has: it can only wait -/
  | waiting (wid : Nat)
  /-- an event of spec/opcode_table.json -/
  | event (i : Instr)
  /-- an L1 evicts the 128-byte line of this physical address -/
  | l1Evict (core : Nat) (line : Nat)
  deriving DecidableEq, Repr

/-- The machine. -/
structure State where
  /-- the acting wave -/
  w : Wave
  /-- the other resident waves -/
  others : List Wave
  cores : Map Core
  die : Die
  sched : Sched
  host : HostRegs
  tabs : HostTabs
  pkg : Pkg
  /-- turns to come (log 1) -/
  agenda : List Turn
  /-- counter of free values (log 4) -/
  fresh : Nat
  deriving DecidableEq, Repr

/-! ### Values at reset -/

/-- RPC when no header can equal it (07 R88). -/
def rpcNone : Addr := 0x1FFFFFFFFFFFF

/-- Register files in the state of R88: everything 0 and full. -/
def WaveRegs.launch : WaveRegs :=
  { v := Vector.replicate 128 (Vector.replicate 32 0), s := Vector.replicate 64 0, p := Vector.replicate 8 0
    vfull := BitVec.allOnes 128, sfull := BitVec.allOnes 64 }

/-- Special registers at launch, CODEBASE at the entry (Table 3.10). -/
def WaveCsr.launch (entry : Addr) : WaveCsr :=
  { codebase := entry, fpmode := 0, arithf := 0, arithe := 0, tvec := 0, epc := 0, cont := 0, fpc := 0, ftoken := 0
    fcause := 0, fva := 0, flanes := 0, xword0 := 0, xword1 := 0, ximm := 0, copyerr := 0, hbLatch := none
    perf := Vector.replicate 8 0, tlferr := 0, lastL := 0, lastTB := 0 }

/-- Control flow at launch: the entry header with INDEX 15 (07 R88). -/
def WaveFlow.launch (entry : Addr) (mask : Word) : WaveFlow :=
  { pc := 0xF000000000000000 ||| entry, clause := none, mask := mask, alive := mask, rpc := rpcNone, stack := []
    hold := .run, stalled := false, piped := false, ready := 0, yielded := false, wbArrived := 0, wbPhase := 0, handler := false
    contin := false, retMask := 0, retRpc := 0, retDepth := 0, stopReq := false, inBar := none, skip := false }

/-- Memory-side state at launch. -/
def WaveMem.launch : WaveMem :=
  { sq := [], loads := [], strong := [], v2s := [], fwd := [], walked := [], owed := [], guards := [], seq := 0, lastCopy := none, acqs := [], region := none }

/-- The blank wave record that stands while no wave acts (log 5). -/
def Wave.blank : Wave :=
  { id := { wid := 0, kind := .none, core := 0, slot := 0, blk := none, waveIdx := 0, blockIdx := 0, clusterIdx := 0
            card := none, prio := 0, vregs := 128, spwait := 0, age := 0, chain := none, tile := none, pins := [], holds := [] }
    flow := { WaveFlow.launch 0 0 with pc := 0, hold := .blank }
    regs := WaveRegs.launch, csr := WaveCsr.launch 0, mem := WaveMem.launch }

/-- The die after cold reset. -/
def Die.reset : Die :=
  { die := 0, objects := [], regions := [], regSeq := 0, verOrder := 0, rwait := [], locks := [], queues := []
    recipeQ := [], chains := [], chainNo := 0, l2 := [], useNo := 0, tlb2 := [], faults := [], tokens := 0
    bars := [], saved := [], fusedHw := [] }

/-- The scheduler after cold reset. -/
def Sched.reset : Sched :=
  { graphs := [], waiting := [], running := none, launchNo := 0, blocks := [], turn := 0, nextWid := 1, nextBlk := 1
    ageNo := 0, reserved := [] }

/-- Host registers after cold reset (Tables 27.1 to 27.5, R354, R359; log 14). -/
def HostRegs.reset : HostRegs :=
  { gtrigLow := 0, guploadLow := 0, shootLow := 0, faultdoneLow := 0, gstat := 0, upload := none, patching := false, lcount := 0, cmdq := [], cmdDone := 0
    kerr := false, ovf := false, troot := 0, jobid := 0, bkpten := false, stop := false, run := false, jobDead := false
    savebase := 0, savesize := 0, peerto := 684, faultq := [], faultLatch := (0, 0), supf := List.replicate 8 0, bkq := []
    bkwait := [], bkLatch := (0, 0) }

/-- BOOTCFG with the defaults of R298: RSLOTS 1, RVREGS 128, RTMEM 0, RWSLOTS 0. -/
def bootDefault : Word := 0x00000801

/-- Host tables after cold reset (R351, R357, R364, R366; log 14). -/
def HostTabs.reset : HostTabs :=
  { bootcfg := bootDefault, hotab := [], imports := [], exports := [], mon := [], mbox := [], alarmcfg := 0x95, msix := []
    power := .idle, halted := false, erased := false, enabled := true, firmware := none, ports := Vector.replicate 8 0, peerWait := [], lastSent := none, lastRead := (false, 0) }

/-- The package after cold reset and boot (01 R19, 05 R83, 27 R360). -/
def Pkg.reset : Pkg :=
  { dram := [], blkMeta := [], home := [], counts := [], ended := [], windows := [], exchanged := [], keys := [], saveKey := none, links := [], vc3 := []
    bridge := true, side := 0xFF, clock := 0, coreClock := 0 }

/-- The machine right after cold reset. -/
def State.reset : State :=
  { w := Wave.blank, others := [], cores := [], die := Die.reset, sched := Sched.reset, host := HostRegs.reset
    tabs := HostTabs.reset, pkg := Pkg.reset, agenda := [], fresh := 0 }

/-! ### Why a step stops -/

/-- Why the machine stops with a fault. -/
inductive Fault where
  /-- a page-table root outside the DRAM of R18, for which the spec names no exception: raised by PAGE_WALK_COMPLETE; safe
  (log 15) -/
  | noSuchAddress
  deriving DecidableEq, Repr

/-- Why the machine refuses an instruction. -/
inductive Refusal where
  /-- the instruction has no meaning yet: raised by Machine/Dispatch.lean only; safe -/
  | notModelled (mnemonic : String)
  deriving DecidableEq, Repr

/-- What a meaning answers. -/
abbrev Out := Host.Outcome State Fault Refusal

end Sys2Proof.Machine
end

