-- ==== Sys2Proof/Machine/Map.lean ====
section
/-! DEFINITION. Sparse maps: lists of pairs in one canonical form, keys strictly rising. -/

namespace Sys2Proof.Machine

variable {α : Type}

/-- The value at a key, if listed. -/
def look? : Map α → Nat → Option α
  | [], _ => none
  | (j, x) :: t, k => if j = k then some x else look? t k

/-- The value at a key, or the default. -/
def look (d : α) (m : Map α) (k : Nat) : α := (look? m k).getD d

/-- Set the value at a key, in its place. -/
def put : Map α → Nat → α → Map α
  | [], k, x => [(k, x)]
  | (j, y) :: t, k, x => if j = k then (k, x) :: t else if k < j then (k, x) :: (j, y) :: t else (j, y) :: put t k x

/-- Unlist a key. -/
def del (m : Map α) (k : Nat) : Map α := m.filter fun e => e.1 != k

/-- Set a value, unlisting the key when the value is the default. -/
def putD [DecidableEq α] (d : α) (m : Map α) (k : Nat) (x : α) : Map α := if x = d then del m k else put m k x

/-- Change the value at a key. -/
def upd (d : α) (m : Map α) (k : Nat) (f : α → α) : Map α := put m k (f (look d m k))

/-- Keys strictly rise. -/
def sortedKeys : Map α → Bool
  | (a, _) :: (b, y) :: t => decide (a < b) && sortedKeys ((b, y) :: t)
  | _ => true

/-- The canonical form of a map whose default is `d`: keys strictly rise and no entry holds the default. -/
def mapWf [DecidableEq α] (d : α) (m : Map α) : Bool := sortedKeys m && m.all fun e => decide (e.2 ≠ d)

end Sys2Proof.Machine
end

