-- ==== Sys2Proof/Machine/Base.lean ====
section
/-! DEFINITION. Reading and changing the parts of the state: registers and lanes, full/empty bits, positions (03 R35,
R43, R47), waves by number, blocks, cores, free values. -/

namespace Sys2Proof.Machine

/-! ### Registers of a wave -/

/-- A vector register. -/
def Wave.rdV (w : Wave) (r : Nat) : Lanes := w.regs.v.getD r (Vector.replicate 32 0)

/-- One lane of a vector register. -/
def Wave.lane (w : Wave) (r l : Nat) : Word := (w.rdV r).getD l 0

/-- A scalar register. -/
def Wave.rdS (w : Wave) (r : Nat) : Word := w.regs.s.getD r 0

/-- A scalar pair (03 R43). -/
def Wave.rdS2 (w : Wave) (r : Nat) : BitVec 64 := pairBits (w.rdS (r + 1)) (w.rdS r)

/-- A vector pair in one lane. -/
def Wave.lane2 (w : Wave) (r l : Nat) : BitVec 64 := pairBits (w.lane (r + 1) l) (w.lane r l)

/-- A predicate register. -/
def Wave.rdP (w : Wave) (k : Nat) : Word := w.regs.p.getD k 0

/-- A vector register with the lanes of `mask` replaced (11 R155). -/
def setLanes (mask : Word) (old : Lanes) (f : Nat → Word) : Lanes :=
  Vector.ofFn fun l => if mask.getLsbD l.val then f l.val else old[l.val]

/-- Write the lanes of `mask` of vector register `d`. -/
def Wave.wrVMask (w : Wave) (mask : Word) (d : Nat) (f : Nat → Word) : Wave :=
  { w with regs := { w.regs with v := w.regs.v.setIfInBounds d (setLanes mask (w.rdV d) f) } }

/-- Write the active lanes of vector register `d`. -/
def Wave.wrV (w : Wave) (d : Nat) (f : Nat → Word) : Wave := w.wrVMask w.flow.mask d f

/-- Write a vector pair in the active lanes. -/
def Wave.wrV2 (w : Wave) (d : Nat) (f : Nat → BitVec 64) : Wave :=
  (w.wrV d fun l => lowHalf (f l)).wrV (d + 1) fun l => highHalf (f l)

/-- Write scalar register `d`. -/
def Wave.wrS (w : Wave) (d : Nat) (x : Word) : Wave := { w with regs := { w.regs with s := w.regs.s.setIfInBounds d x } }

/-- Write a scalar pair. -/
def Wave.wrS2 (w : Wave) (d : Nat) (x : BitVec 64) : Wave := (w.wrS d (lowHalf x)).wrS (d + 1) (highHalf x)

/-- Write predicate register `k`. -/
def Wave.wrP (w : Wave) (k : Nat) (x : Word) : Wave := { w with regs := { w.regs with p := w.regs.p.setIfInBounds k x } }

/-- A bit set in or cleared from a bit vector. -/
def setBit {n : Nat} (x : BitVec n) (k : Nat) (b : Bool) : BitVec n :=
  if b then x ||| BitVec.ofNat n (2 ^ k) else x &&& ~~~(BitVec.ofNat n (2 ^ k))

/-- Set the full bits of vector registers `d .. d+n-1` (03 R47). -/
def Wave.markV (w : Wave) (d n : Nat) (full : Bool) : Wave :=
  { w with regs := { w.regs with vfull := (List.range n).foldl (fun x i => setBit x (d + i) full) w.regs.vfull } }

/-- Set the full bits of scalar registers `d .. d+n-1` (03 R47). -/
def Wave.markS (w : Wave) (d n : Nat) (full : Bool) : Wave :=
  { w with regs := { w.regs with sfull := (List.range n).foldl (fun x i => setBit x (d + i) full) w.regs.sfull } }

/-- Are vector registers `d .. d+n-1` full? -/
def Wave.fullV (w : Wave) (d n : Nat) : Bool := (List.range n).all fun i => w.regs.vfull.getLsbD (d + i)

/-- Are scalar registers `d .. d+n-1` full? -/
def Wave.fullS (w : Wave) (d n : Nat) : Bool := (List.range n).all fun i => w.regs.sfull.getLsbD (d + i)

/-- Is lane `l` active? -/
def Wave.active (w : Wave) (l : Nat) : Bool := w.flow.mask.getLsbD l

/-- The numbers of the bits set in a mask, rising. -/
def lanesOf (m : Word) : List Nat := (List.range 32).filter fun l => m.getLsbD l

/-- The active lanes, rising. -/
def Wave.lanes (w : Wave) : List Nat := lanesOf w.flow.mask

/-- A mask of the given lanes. -/
def maskOf (ls : List Nat) : Word := ls.foldl (fun m l => setBit m l true) 0

/-- The lowest-numbered active lane, or 0. -/
def Wave.firstLane (w : Wave) : Nat := w.lanes.headD 0

/-- OR flags into ARITHF (05 R67). -/
def Wave.orFlags (w : Wave) (f : Flags) : Wave := { w with csr := { w.csr with arithf := w.csr.arithf ||| f } }

/-- The mode in force (11 R159). -/
def Wave.mode (w : Wave) : RMode := RMode.ofCode w.csr.fpmode.toNat

/-- Add to a PERFC counter, modulo 2^32 (13 R225). -/
def Wave.perfAdd (w : Wave) (k n : Nat) : Wave :=
  { w with csr := { w.csr with perf := w.csr.perf.setIfInBounds k (w.csr.perf.getD k 0 + BitVec.ofNat 32 n) } }

/-- Hold or release a wave. -/
def Wave.withHold (w : Wave) (h : Hold) : Wave := { w with flow := { w.flow with hold := h } }

/-! ### Positions (03 R35) -/

/-- INDEX of a position. -/
def posIndex (pc : Addr) : Nat := (pc.extractLsb' 60 4).toNat

/-- HDR of a position. -/
def posHdr (pc : Addr) : Nat := (pc.extractLsb' 0 49).toNat

/-- A position. -/
def mkPos (idx hdr : Nat) : Addr := BitVec.ofNat 64 (idx * 2 ^ 60 + hdr % 2 ^ 49)

/-- The position of a clause header. -/
def headerPos (hdr : Nat) : Addr := mkPos 15 hdr

/-- NI of a header (Table 3.1). -/
def hdrNI (h : Word) : Nat := (h.extractLsb' 0 4).toNat

/-- PIPE of a header. -/
def hdrPipe (h : Word) : Nat := (h.extractLsb' 4 3).toNat

def hdrLand (h : Word) : Bool := h.getLsbD 7
def hdrYld (h : Word) : Bool := h.getLsbD 8
def hdrWst (h : Word) : Nat := (h.extractLsb' 9 3).toNat
def hdrWcp (h : Word) : Nat := (h.extractLsb' 12 3).toNat
def hdrWtm (h : Word) : Nat := (h.extractLsb' 15 3).toNat

/-- A header that R29 does not reject. -/
def hdrOk (h : Word) : Bool :=
  h.extractLsb' 24 8 == 0xE8 && h.extractLsb' 18 6 == 0 && hdrPipe h != 1 && hdrPipe h != 7 && hdrNI h != 0

/-- The words from instruction `i` of a clause on (03 R27, R35). -/
def wordsAt : Nat → List Word → List Word
  | 0, ws => ws
  | i + 1, ws => match ws with
    | [] => []
    | w :: t => wordsAt i (if opcodeWords (opcodeOf w) == 2 then t.drop 1 else t)

/-- The offset in words, past the header, of instruction `i`. -/
def wordOffset (c : Clause) (i : Nat) : Nat := c.words.length - (wordsAt i c.words).length

/-- The virtual address of the first word of instruction `i` of the clause at `hdr`. -/
def instrVa (c : Clause) (hdr i : Nat) : Nat := hdr + 4 + 4 * wordOffset c i

/-- The header after a clause. -/
def nextHdr (c : Clause) (hdr : Nat) : Nat := hdr + 4 + 4 * wordOffset c (hdrNI c.hdr)

/-! ### Waves by number -/

/-- Change the acting wave. -/
def State.onW (s : State) (f : Wave → Wave) : State := { s with w := f s.w }

/-- The waves of the die, the acting wave first. -/
def State.waves (s : State) : List Wave := if s.w.flow.hold = .blank then s.others else s.w :: s.others

/-- A wave by its number. -/
def State.wave? (s : State) (wid : Nat) : Option Wave := s.waves.find? fun w => w.id.wid == wid

/-- Waves in the order of their numbers, with one more. -/
def insertWave (w : Wave) : List Wave → List Wave
  | [] => [w]
  | x :: t => if w.id.wid < x.id.wid then w :: x :: t else x :: insertWave w t

/-- Change the wave with a number, wherever it stands. -/
def State.onWave (s : State) (wid : Nat) (f : Wave → Wave) : State :=
  if s.w.id.wid = wid ∧ s.w.flow.hold ≠ .blank then s.onW f
  else { s with others := s.others.map fun w => if w.id.wid = wid then f w else w }

/-- Make a wave the acting one. -/
def State.switchTo (s : State) (wid : Nat) : State :=
  if s.w.id.wid = wid ∧ s.w.flow.hold ≠ .blank then s
  else match s.others.find? (fun w => w.id.wid == wid) with
    | none => s
    | some x =>
      let rest := s.others.filter fun w => w.id.wid != wid
      { s with w := x, others := if s.w.flow.hold = .blank then rest else insertWave s.w rest }

/-- Take a wave off the die. -/
def State.dropWave (s : State) (wid : Nat) : State :=
  if s.w.id.wid = wid ∧ s.w.flow.hold ≠ .blank then { s with w := Wave.blank }
  else { s with others := s.others.filter fun w => w.id.wid != wid }

/-! ### Cores and blocks -/

/-- A core after reset (01 R13). -/
def Core.empty : Core :=
  { l1 := [], summary := [], wide := false, wbuf := [], copySeq := 0, copies := [], ta := [], xq := [], tlfq := []
    decq := [], bins := [], tlb := [], retry := [], retryDue := 0, rslots := [], alu := [] }

/-- A core by its number. -/
def State.core (s : State) (c : Nat) : Core := look Core.empty s.cores c

/-- The cores whose state is not that of reset. -/
def State.coreNos (s : State) : List Nat := s.cores.map (·.1)

/-- Change a core. -/
def State.onCore (s : State) (c : Nat) (f : Core → Core) : State := { s with cores := upd Core.empty s.cores c f }

/-- A block by its key. -/
def State.blk? (s : State) (k : Nat) : Option Block := look? s.sched.blocks k

/-- Change a block. -/
def State.onBlk (s : State) (k : Nat) (f : Block → Block) : State :=
  match s.blk? k with
  | none => s
  | some b => { s with sched := { s.sched with blocks := put s.sched.blocks k (f b) } }

/-- The block whose tile memory a wave has (09 R120). -/
def State.blkOf (s : State) (w : Wave) : Option Block := w.id.blk.bind s.blk?

/-- TMEM of a wave: 0 for a wave that has no tile memory. -/
def State.tmem (s : State) (w : Wave) : Nat := match s.blkOf w with
  | none => 0
  | some b => b.tmem

/-- Weight slots of a wave. -/
def State.wslots (s : State) (w : Wave) : Nat := match s.blkOf w with
  | none => 0
  | some b => b.wslots

/-- An UNLOADED slot (15 R231). -/
def Slot.unloaded : Slot :=
  { loaded := false, kind := 0, ssc := false, sigma := false, sig := [], bytes := [], lc := 0, filler := none, source := none }

/-- A free term array. -/
def TermArray.free : TermArray :=
  { owner := none, queue := [], started := none, file := Slot.unloaded, run := none, sums := [] }

/-- A term array of a core: TA0 or TA1. -/
def Core.arr (c : Core) (k : Nat) : TermArray := look TermArray.free c.ta k

/-- Change a term array. -/
def Core.onArr (c : Core) (k : Nat) (f : TermArray → TermArray) : Core := { c with ta := upd TermArray.free c.ta k f }

/-- An array that holds no run and no TMM of its wave is free (15 R229); a TPROM that waits in it does not keep it. -/
def TermArray.settle (a : TermArray) : TermArray :=
  if a.run.isNone && !a.queue.any fun o => o.kind == .tmm && some o.wid == a.owner then { a with owner := none, sums := [] } else a

/-- The head of the queue has been done. -/
def TermArray.drop (a : TermArray) : TermArray := { a with queue := a.queue.drop 1, started := none, file := Slot.unloaded }

/-- The array without a wave that has ended. -/
def TermArray.without (a : TermArray) (wid : Nat) : TermArray :=
  let q := a.queue.filter fun o => o.wid != wid
  if a.owner = some wid then { TermArray.free with queue := q } else { a with queue := q }

/-- The queue entries of a wave. -/
def TermArray.queueOf (a : TermArray) (wid : Nat) : List TermOp := a.queue.filter fun o => o.wid == wid

/-- The array assigned to a wave, if any (15 R229). -/
def Core.arrOf (c : Core) (wid : Nat) : Option Nat :=
  if (c.arr 0).owner = some wid then some 0 else if (c.arr 1).owner = some wid then some 1 else none

/-- The held run of a wave (15 R239). -/
def State.heldRun (s : State) (w : Wave) : Option TermRun :=
  match (s.core w.id.core).arrOf w.id.wid with
  | none => none
  | some k => ((s.core w.id.core).arr k).run

/-- The result fields of a format word: AKIND, ASTORE, BKIND, ACC and SMOOTH (15 R234). -/
def fwResult (fw : Nat) : Nat := bitsN fw 0 11 + 2048 * bitsN fw 16 1

/-- AKIND of a format word (Table 15.3). -/
def fwAkind (fw : Nat) : Nat := bitsN fw 0 4

def fwAstore (fw : Nat) : Nat := bitsN fw 4 2
def fwBkind (fw : Nat) : Nat := bitsN fw 6 4
def fwAcc (fw : Nat) : Bool := fw.testBit 10
def fwG (fw : Nat) : Nat := 4 * 2 ^ bitsN fw 11 3
def fwDepth (fw : Nat) : Nat := bitsN fw 14 2
def fwSmooth (fw : Nat) : Bool := fw.testBit 16

/-- The extent of the A operand that TMM checks (Table 17.3; of a TLF tile, its header). -/
def aExtent (fw : Nat) : Nat :=
  if fwAstore fw = 1 then 16 else if fwAstore fw = 2 then 24576 else 64 * denseRow (fwAkind fw) 192

/-- Bytes of each operand of an XMM (Table 17.5). -/
def xmmBytes (form : Nat) : Nat := if form = 3 then 512 else 1024

/-- Does a TMM with this accumulator range and format word join a run (15 R239)? -/
def TermRun.takes (r : TermRun) (vacc fw : Nat) : Bool := r.vacc == vacc && fwResult r.fw == fwResult fw

/-- The run that is left unpromoted once an entry of the array's queue has been done (15 R239, 17 R251, R255). -/
def TermOp.leaves (r : Option TermRun) (o : TermOp) : Option TermRun :=
  match o.kind with
  | .tmm =>
    let n := match r with
      | some x => if x.takes o.vacc o.fw then x.n + 1 else 1
      | none => 1
    if isBx (fwAkind o.fw) || decide (o.p ≤ n) then none else some { vacc := o.vacc, fw := o.fw, n := n }
  | .tprom => match r with
    | some x => if x.vacc ≤ o.vacc ∧ o.vacc < x.vacc + 64 then none else r
    | none => none
  | .request => none

/-- The run that the wave's term work so far leaves unpromoted: the held run, or one that its queued TMMs form. The
events of 15 R241 end it at their place in the wave's program, whether its TMMs have completed or not (15 R243). -/
def State.openRun (s : State) (w : Wave) : Option TermRun :=
  match (s.core w.id.core).arrOf w.id.wid with
  | none => none
  | some k => (((s.core w.id.core).arr k).queueOf w.id.wid).foldl TermOp.leaves ((s.core w.id.core).arr k).run

/-- A weight slot of a block. -/
def Block.slot (b : Block) (n : Nat) : Slot := look Slot.unloaded b.slots n

/-- Change a weight slot. -/
def Block.onSlot (b : Block) (n : Nat) (f : Slot → Slot) : Block := { b with slots := upd Slot.unloaded b.slots n f }

/-- Does the hardware cluster of a core run a fused L1 (09 R126, 07 R95)? -/
def State.fused (s : State) (c : Nat) : Bool := s.die.fusedHw.contains (c / 8)

/-- The core whose L1 holds the line of a physical address (09 R126). -/
def State.l1Core (s : State) (c pa : Nat) : Nat :=
  if s.fused c then c / 8 * 8 + (pa / 128 % 8 ^^^ pa / 1024 % 8) else c

/-! ### Free values and time -/

/-- Draw a free word (log 4). -/
def State.draw (s : State) : Word × State := (Config.freeWord s.fresh, { s with fresh := s.fresh + 1 })

/-- Draw `n` free bytes (log 4). -/
def State.drawBytes (s : State) (n : Nat) : List Byte × State :=
  ((List.range n).map fun i => Config.freeByte (s.fresh + i), { s with fresh := s.fresh + n })

/-- `d` cycles pass: the package's clock, the cores' clock unless it is gated, and the vector ALUs' work (09 R143; 11
R155; 13 R224; 27 R366). -/
def State.pass (s : State) (d : Nat) : State :=
  let work : Map Nat → Map Nat := fun m => m.filterMap fun e => if e.2 ≤ d then none else some (e.1, e.2 - d)
  { s with pkg := { s.pkg with clock := s.pkg.clock + d, coreClock := s.pkg.coreClock + if s.tabs.power = .active then d else 0 }
           cores := s.cores.map fun e => (e.1, { e.2 with alu := work e.2.alu }) }

/-- Time passes up to a core cycle, if that is still to come. -/
def State.passTo (s : State) (t : Nat) : State := s.pass (t - s.pkg.coreClock)

/-- The package heartbeat (09 R143). -/
def State.heartbeat (s : State) : BitVec 64 := BitVec.ofNat 64 (s.pkg.clock / 128)

/-! ### Small edits -/

def State.onDie (s : State) (f : Die → Die) : State := { s with die := f s.die }
def State.onSched (s : State) (f : Sched → Sched) : State := { s with sched := f s.sched }
def State.onHost (s : State) (f : HostRegs → HostRegs) : State := { s with host := f s.host }
def State.onTabs (s : State) (f : HostTabs → HostTabs) : State := { s with tabs := f s.tabs }
def State.onPkg (s : State) (f : Pkg → Pkg) : State := { s with pkg := f s.pkg }

/-- Raise an MSI-X vector (Table 27.2). -/
def State.raise (s : State) (v : Nat) : State := s.onTabs fun t => { t with msix := t.msix ++ [v] }

/-- Apply a change for each element of a list, in order. -/
def forEach {α : Type} (xs : List α) (s : State) (f : α → State → State) : State := xs.foldl (fun t x => f x t) s

/-- Bytes as a natural number, low byte first (R5). -/
def bytesNat (bs : List Byte) : Nat := leN (bs.map (·.toNat))

/-- A natural number as `n` bytes, low byte first (R5). -/
def natBytes (n x : Nat) : List Byte := (leBytes n x).map (BitVec.ofNat 8)

/-- Overwrite bytes of a vector from offset `off`, those for which `mask` holds. -/
def overlay {n : Nat} (old : Vector Byte n) (off : Nat) (bs : List Byte) (mask : Nat → Bool) : Vector Byte n :=
  Vector.ofFn fun i => if off ≤ i.val ∧ i.val < off + bs.length ∧ mask (i.val - off) then bs.getD (i.val - off) 0 else old[i.val]

end Sys2Proof.Machine
end

