-- ==== Sys2Proof/Machine/Home.lean ====
section
/-! DEFINITION. The package's memory: physical addresses, the home table, stored blocks with their metadata codes and
keys, links (spec/01_package_and_dies.md R18 to R24; 05 R83, R84; 09 R149 to R151). A stored block is held as its plain
bytes beside the code it has and the key it was written under. -/

namespace Sys2Proof.Machine

/-- The bytes of DRAM that physical addresses reach (01 R18). -/
def dramLimit : Nat := 8371200 * 65536

/-- Is a physical address DRAM (01 R18)? -/
def paOk (pa : Nat) : Bool := decide (pa < dramLimit)

/-- The value boot firmware writes into the entry of frame `f` (01 R19). -/
def HomeEnt.boot (f : Nat) : HomeEnt := { valid := true, moving := false, nhome := 0, nframe := 0, home := f % 8, lframe := f / 8 }

/-- A home-table entry as 64 bits (Table 1.5). -/
def HomeEnt.bits (e : HomeEnt) : Nat :=
  (if e.valid then 2 ^ 63 else 0) + (if e.moving then 2 ^ 62 else 0) + e.nhome % 8 * 2 ^ 44 + e.nframe % 2 ^ 20 * 2 ^ 24 +
    e.home % 8 * 2 ^ 20 + e.lframe % 2 ^ 20

/-- The directory die of a frame (01 R19). -/
def dirDie (f : Nat) : Nat := f % 8

/-- The home-table entry of a frame (01 R19). -/
def Pkg.homeEnt (p : Pkg) (f : Nat) : HomeEnt := look (HomeEnt.boot f) p.home f

/-- Where a block of a frame lies: die * 2^36 + local frame * 2^16. -/
def stackBase (die lframe : Nat) : Nat := die * 2 ^ 36 + lframe * 2 ^ 16

/-- The stack address of the 256-byte block that holds a physical address (01 R20, 09 R149). -/
def Pkg.stackBlock (p : Pkg) (pa : Nat) : Nat :=
  let e := p.homeEnt (pa / 65536)
  let off := pa % 65536 / 256 * 256
  let old := stackBase e.home e.lframe + off
  if e.moving && p.exchanged.contains (old / 256) then stackBase e.nhome e.nframe + off else old

/-- KEY, KEYEN and COMP of a leaf, as one number (09 R151). -/
def leafFields (key : Nat) (keyen comp : Bool) : Nat :=
  key % 16 + (if keyen then 16 else 0) + (if comp then 32 else 0)

def fieldsKey (f : Nat) : Nat := f % 16
def fieldsKeyen (f : Nat) : Bool := f.testBit 4
def fieldsComp (f : Nat) : Bool := f.testBit 5

/-- The key that page fields select: 0 for none, else the id of the key in the slot (09 R150). -/
def Pkg.keyTag (p : Pkg) (fields : Nat) : Nat := if fieldsKeyen fields then look 0 p.keys (fieldsKey fields) else 0

/-- Does a stack address lie in the reserve of its stack (01 R18, R19)? -/
def inReserve (stack : Nat) : Bool := decide (1046400 ≤ stack % 2 ^ 36 / 65536)

/-- The stored block's metadata; boot writes code 1 outside the reserve, whose blocks have code 0 (05 R83). -/
def Pkg.blockMeta (p : Pkg) (stack : Nat) : BlockMeta :=
  if inReserve stack then { code := 0, fields := 0 } else look { code := 1, fields := 0 } p.blkMeta (stack / 256)

/-- The bytes of a stack's reserve, by local frame and offset: the codes of its blocks, two to a byte, and its share of the
home table, entry i the one of frame 8 i + md (01 R18, R19; 05 R83). -/
def Pkg.reserveByte (p : Pkg) (md lframe off : Nat) : Nat :=
  if lframe < 1048448 then
    let j := 2 * ((lframe - 1046400) * 65536 + off)
    let code := fun k => (p.blockMeta (md * 2 ^ 36 + 256 * k)).code % 16
    code j + 16 * code (j + 1)
  else
    let a := (lframe - 1048448) * 65536 + off
    bitsN (p.homeEnt (8 * (a / 8) + md)).bits (8 * (a % 8)) 8

/-- Codes that return poisoned data (05 R84). -/
def poisonCode (c : Nat) : Bool := decide (5 ≤ c)

/-- One direction of a link after reset. -/
def LinkDir.reset : LinkDir := { nextSeq := 0, delivered := 0, retry := [], waiting := [] }

/-- A link after reset. -/
def Link.reset : Link := { up := true, toMd := LinkDir.reset, toCd := LinkDir.reset }

/-- The near link of a memory die. -/
def Pkg.link (p : Pkg) (md : Nat) : Link := look Link.reset p.links md

/-- Is a memory die's near link up? -/
def Pkg.linkUp (p : Pkg) (md : Nat) : Bool := (p.link md).up

/-- Is memory die `md` unreachable from compute die `d` (01 R24)? -/
def Pkg.unreachable (p : Pkg) (d md : Nat) : Bool :=
  let detourBroken := !p.linkUp md && (!p.side.getLsbD md || !p.linkUp (md ^^^ 4))
  if md / 4 == d then detourBroken || (!p.linkUp md && !p.bridge) else !p.bridge || detourBroken

/-- The stored sectors of a block as a read under page fields decrypts them (09 R150, R151). -/
def Pkg.sectors (p : Pkg) (pa fields : Nat) : List Byte :=
  let st := p.stackBlock pa
  let m := p.blockMeta st
  let bs := (List.range (sectorBytes m.code)).map fun i => look 0 p.dram (st + i)
  let wk := m.fields / 64
  let rk := p.keyTag fields
  if wk = rk then bs else (List.range bs.length).map (Config.wrongKey (pa / 256) wk rk bs)

/-- What the stored sectors of a block decode to under page fields, if they do (05 R84). -/
def Pkg.decoded (p : Pkg) (pa fields : Nat) : Option (List Nat) :=
  loadedBytes (p.blockMeta (p.stackBlock pa)).code ((p.sectors pa fields).map (·.toNat))

/-- Does a chunk have a decode error (05 R84)? A read under another key than the last write's gives other bytes with no fault,
so that its chunk has none (09 R151; log 9). -/
def Pkg.undecodable (p : Pkg) (pa fields : Nat) : Bool :=
  (p.blockMeta (p.stackBlock pa)).fields / 64 == p.keyTag fields && (p.decoded pa fields).isNone

/-- Byte `i` of a block whose chunk does not decode under another key than the one that it was written under (09 R151). -/
def Pkg.wrongByte (p : Pkg) (pa fields i : Nat) : Byte :=
  let st := p.stackBlock pa
  let m := p.blockMeta st
  Config.wrongKey (pa / 256) (m.fields / 64) (p.keyTag fields)
    ((List.range (sectorBytes m.code)).map fun i => look 0 p.dram (st + i)) (256 + i)

/-- Is a read of a block under page fields poisoned: it is unreachable, its code says so, or its chunk has a decode error
(01 R24, 05 R84)? -/
def Pkg.readPoison (p : Pkg) (d pa fields : Nat) : Bool :=
  let st := p.stackBlock pa
  p.unreachable d (st / 2 ^ 36) || poisonCode (p.blockMeta st).code || p.undecodable pa fields

/-- Read the 256-byte block of a physical address under page fields: poisoned or not, and its bytes (05 R84, 09 R151). -/
def Pkg.readBlock (p : Pkg) (d pa fields : Nat) : Bool × Vector Byte 256 :=
  if p.readPoison d pa fields then (true, Vector.replicate 256 0)
  else match p.decoded pa fields with
    | none => (false, Vector.ofFn fun i => p.wrongByte pa fields i.val)
    | some bs => (false, Vector.ofFn fun i => if i.val < bs.length then BitVec.ofNat 8 (bs.getD i.val 0) else Config.pastRaw (pa / 256) i.val)

/-- What a read of a block leaves: a chunk with a decode error is recoded 0xF (05 R84). -/
def Pkg.recode (p : Pkg) (d pa fields : Nat) : Pkg :=
  let st := p.stackBlock pa
  let m := p.blockMeta st
  if !p.unreachable d (st / 2 ^ 36) && !poisonCode m.code && p.undecodable pa fields then
    { p with blkMeta := put p.blkMeta (st / 256) { m with code := 15 } }
  else p

/-- Count a write of compute die `d` to the group of a stack address (09 R149). -/
def Pkg.countWrite (p : Pkg) (d stack : Nat) : Pkg :=
  { p with counts := upd (0, 0) p.counts (stack / 2 ^ 21) fun c => if d = 0 then (c.1 + 1, c.2) else (c.1, c.2 + 1) }

/-- Put bytes into DRAM; a byte 0 is not listed (05 R83). -/
def putBytes (m : List Host.Cell) (a : Nat) : List Byte → List Host.Cell
  | [] => m
  | b :: t => putBytes (putD 0 m a b) (a + 1) t

/-- Write the 256-byte block of a physical address back under page fields, as compute die `d` (05 R84). -/
def Pkg.writeBlock (p : Pkg) (d pa fields : Nat) (data : Vector Byte 256) : Pkg :=
  let st := p.stackBlock pa
  if p.unreachable d (st / 2 ^ 36) then p
  else
    let bs := data.toList.map (·.toNat)
    let code := if fieldsComp fields then blockCode (fieldsKeyen fields) bs else 0
    let q := { p with dram := putBytes p.dram st ((storedBytes code bs).map (BitVec.ofNat 8))
                      blkMeta := put p.blkMeta (st / 256) { code := code, fields := fields % 64 + 64 * p.keyTag fields } }
    q.countWrite d st

/-! ### VC3 (01 R21 to R23) -/

/-- Keys of the places of VC3: the slots of the bridge towards a compute die, those of a near link in one direction, those of
a side link towards a memory die, and the input queues of the memory dies and of the compute dies. -/
def vc3Bridge (cd : Nat) : Nat := cd
def vc3Near (md : Nat) (toCd : Bool) : Nat := 2 + 2 * md + if toCd then 1 else 0
def vc3Side (md : Nat) : Nat := 18 + md
def vc3MdQueue (md : Nat) : Nat := 26 + md
def vc3CdQueue (cd : Nat) : Nat := 34 + cd

/-- The detour of a near link in one direction, hop by hop, the receiver's input queue last (01 R22 step 2). -/
def detour (md : Nat) (toCd : Bool) : List Nat :=
  let cd := md / 4
  if toCd then [vc3Side (md ^^^ 4), vc3Near (md ^^^ 4) true, vc3Bridge cd, vc3CdQueue cd]
  else [vc3Bridge (1 - cd), vc3Near (md ^^^ 4) false, vc3Side md, vc3MdQueue md]

/-- The place after `h` on a detour. -/
def nextHop (h : Nat) : List Nat → Option Nat
  | a :: b :: t => if a = h then some b else nextHop h (b :: t)
  | _ => none

/-- The packets at a place of VC3. -/
def Pkg.vc3At (p : Pkg) (h : Nat) : List Packet := look [] p.vc3 h

/-- Change a place of VC3. -/
def Pkg.onVc3 (p : Pkg) (h : Nat) (f : List Packet → List Packet) : Pkg := { p with vc3 := upd [] p.vc3 h f }

/-- Change one direction of a link. -/
def Pkg.onDir (p : Pkg) (md : Nat) (toCd : Bool) (f : LinkDir → LinkDir) : Pkg :=
  let l := p.link md
  { p with links := put p.links md (if toCd then { l with toCd := f l.toCd } else { l with toMd := f l.toMd }) }

/-- One direction of a link. -/
def Pkg.dir (p : Pkg) (md : Nat) (toCd : Bool) : LinkDir := if toCd then (p.link md).toCd else (p.link md).toMd

/-- The packet at the head of a place moves into a reserved slot of its next hop, if one is free (01 R23). -/
def Pkg.hop (p : Pkg) (h : Nat) : Pkg := match p.vc3At h with
  | [] => p
  | x :: rest => match nextHop h (detour x.link x.toCd) with
    | none => p
    | some k => if (p.vc3At k).length < 16 then (p.onVc3 h fun _ => rest).onVc3 k (· ++ [x]) else p

/-- A packet that waits on a failed link enters VC3, if its first hop has a free slot (01 R22 step 1, R23). -/
def Pkg.reinject (p : Pkg) (md : Nat) (toCd : Bool) : Pkg :=
  if p.linkUp md then p
  else match (p.dir md toCd).waiting, (detour md toCd).head? with
    | x :: rest, some k =>
      if (p.vc3At k).length < 16 then (p.onDir md toCd fun l => { l with waiting := rest }).onVc3 k (· ++ [x]) else p
    | _, _ => p

/-- VC3 moves: the hops nearest to the receivers first, then the packets that wait. -/
def Pkg.vc3Move (p : Pkg) : Pkg :=
  let hops := (List.range 8).map vc3Side ++ ((List.range 8).map fun md => vc3Near md true) ++ ((List.range 8).map fun md => vc3Near md false) ++
    (List.range 2).map vc3Bridge
  (List.range 8).foldl (fun q md => (q.reinject md false).reinject md true) (hops.foldl Pkg.hop p)

/-- The place where a compute die's or a memory die's VC3 packets of a link arrive. -/
def inputQueue (md : Nat) (toCd : Bool) : Nat := if toCd then vc3CdQueue (md / 4) else vc3MdQueue md

/-- The packets of a link's direction that have left their sender and have not been served, the oldest first. -/
def Pkg.inFlight (p : Pkg) (md : Nat) (toCd : Bool) : List Packet :=
  (((detour md toCd).reverse.flatMap p.vc3At).filter fun x => x.link == md && x.toCd == toCd) ++ (p.dir md toCd).waiting

/-- Take packets of a link's direction out of VC3 and of the queue at its sender. -/
def Pkg.withdraw (p : Pkg) (md : Nat) (toCd : Bool) (f : Packet → Bool) : Pkg :=
  let gone : Packet → Bool := fun x => x.link == md && x.toCd == toCd && f x
  let q := (detour md toCd).foldl (fun q h => if (q.vc3At h).any gone then q.onVc3 h fun l => l.filter fun x => !gone x else q) p
  if (q.dir md toCd).waiting.any gone then q.onDir md toCd fun l => { l with waiting := l.waiting.filter fun x => !gone x } else q

/-- Number a packet on its link. -/
def Pkg.numbered (p : Pkg) (x : Packet) : Packet := { x with no := (p.dir x.link x.toCd).nextSeq }

/-- A packet goes over a link that is up: it is delivered, and stays in the retry buffer until the link layer has its
acknowledgement; `acked` of the buffer's packets have theirs (01 R22, log 56). -/
def Pkg.carry (p : Pkg) (x : Packet) (acked : Nat) : Pkg :=
  p.onDir x.link x.toCd fun l =>
    { l with nextSeq := l.nextSeq + 1, delivered := l.nextSeq + 1, retry := (l.retry ++ [p.numbered x]).drop acked }

/-- A packet of a failed link joins those that wait to enter VC3 (01 R22 step 3). -/
def Pkg.divert (p : Pkg) (x : Packet) : Pkg :=
  p.onDir x.link x.toCd fun l => { l with nextSeq := l.nextSeq + 1, waiting := l.waiting ++ [p.numbered x] }

/-- A near link fails: its retry buffers go before what waits, in sequence order (01 R22 step 1). -/
def Pkg.failNear (p : Pkg) (md : Nat) : Pkg :=
  let go : LinkDir → LinkDir := fun l => { l with retry := [], waiting := l.retry ++ l.waiting }
  let l := p.link md
  { p with links := put p.links md { up := false, toMd := go l.toMd, toCd := go l.toCd } }

/-! ### The way of a request (01 R20) -/

/-- The memory die that holds a physical address now. -/
def Pkg.homeOf (p : Pkg) (pa : Nat) : Nat := p.stackBlock (pa / 256 * 256) / 2 ^ 36

/-- Where memory die `md` forwards a request for an address that it does not hold: the old home of a moving frame by NHOME,
any other die by the directory die's entry (01 R20 step 3). -/
def Pkg.forwardTo (p : Pkg) (md pa : Nat) : Nat :=
  let e := p.homeEnt (pa / 65536)
  if e.home = md then e.nhome else e.home

/-- Can a die forward: one that was not the old home needs the directory die? -/
def Pkg.canForward (p : Pkg) (d md pa : Nat) : Bool :=
  (p.homeEnt (pa / 65536)).home == md || !p.unreachable d (dirDie (pa / 65536))

/-- LINKSTAT (27 R367). -/
def Pkg.linkstat (p : Pkg) (d : Nat) : Nat :=
  (List.range 4).foldl (fun a k => a + if p.linkUp (4 * d + k) then 2 ^ k else 0) 0 + (if p.bridge then 16 else 0) +
    p.side.toNat * 256 + (List.range 8).foldl (fun a k => a + if p.unreachable d k then 2 ^ (16 + k) else 0) 0

end Sys2Proof.Machine
end

