-- ==== Sys2Proof/Machine/Objects.lean ====
section
/-! DEFINITION. Shape records, the object table and the tiles of droppable objects (spec/09_memory_and_ordering.md R128
to R131; spec/21_recipes.md R289, R290, R292, R293). A shape or recipe record is a 512-bit number. -/

namespace Sys2Proof.Machine

/-! ### Shape records (Table 9.3) -/

def shStride (r d : Nat) : Nat := bitsN r (320 + 48 * d) 48
def shSize (r d : Nat) : Nat := bitsN r (192 + 32 * d) 32
def shTile (r d : Nat) : Nat := bitsN r (160 + 16 * d) 16
def shPrio (r : Nat) : Nat := bitsN r 85 3
def shEager (r : Nat) : Bool := r.testBit 84
def shTlf (r : Nat) : Bool := r.testBit 83
def shDroppable (r : Nat) : Bool := r.testBit 82
def shNdim (r : Nat) : Nat := bitsN r 80 2
def shFmt (r : Nat) : Nat := bitsN r 72 4
def shBase (r : Nat) : Nat := bitsN r 0 64

/-- Bytes of one element of a format; for INT4 one byte, for BX formats one block (R130). -/
def fmtBytes (f : Nat) : Nat :=
  match f with
  | 3 => 8
  | 4 => 12
  | 5 => 18
  | 6 => 2
  | 7 => 2
  | 8 => 4
  | 9 => 8
  | 10 => 4
  | 12 => 16
  | _ => 1

/-- The dimensions in use. -/
def shDims (r : Nat) : List Nat := List.range (shNdim r + 1)

/-- The highest byte of the object (R130). -/
def shHigh (r : Nat) : Nat :=
  shBase r + (shDims r).foldl (fun a d => a + (shSize r d - 1) * shStride r d) 0 + fmtBytes (shFmt r) - 1

/-- Elements of a row of a TLF object (R130). -/
def shTlfE (r : Nat) : Nat := if shFmt r = 2 then 2 * shSize r 0 else if isBx (shFmt r) then 16 * shSize r 0 else shSize r 0

/-- A slot length L valid for rows of E elements of a kind (R75). -/
def slotLenOk (kind e l : Nat) : Bool :=
  decide (8 ≤ e) && decide (e ≤ 4096) && e % 8 == 0 && (!isBx kind || e % 16 == 0) &&
  decide ((if isBx kind then 2 + e / 8 else 2) + e / 2 ≤ l)

/-- Validity of a shape record (R130). -/
def shapeOk (r : Nat) : Bool :=
  bitsN r 88 72 == 0 && bitsN r 76 4 == 0 && bitsN r 64 8 == 0 && decide (shFmt r ≤ 12) && decide (shBase r < 2 ^ 48) &&
  (shDims r).all (fun d => decide (1 ≤ shSize r d) && decide (fmtBytes (shFmt r) ≤ shStride r d)) &&
  (List.range 4).all (fun d => decide (d ≤ shNdim r) || (shSize r d == 0 && shStride r d == 0)) &&
  decide (1 ≤ shTile r 0) && decide (1 ≤ shTile r 1) &&
  (!shTlf r || (shNdim r == 1 && decide (shFmt r ≤ 5) && slotLenOk (shFmt r) (shTlfE r) (shTile r 0))) &&
  decide (shHigh r < 2 ^ 48)

/-- The first and last 256-byte line of the object (R128). -/
def shLines (r : Nat) : Nat × Nat := (shBase r / 256, shHigh r / 256)

/-- Does a virtual line lie in the object's range? -/
def inShape (r line : Nat) : Bool := decide ((shLines r).1 ≤ line) && decide (line ≤ (shLines r).2)

/-- Do two objects' ranges share a line? -/
def shapesMeet (a b : Nat) : Bool := decide ((shLines a).1 ≤ (shLines b).2) && decide ((shLines b).1 ≤ (shLines a).2)

/-! ### The object table -/

/-- The object whose line range holds a virtual address; 0 for none (R128). -/
def State.objOf (s : State) (va : Nat) : Nat :=
  match s.die.objects.find? fun e => inShape e.2.shape (va / 256) with
  | none => 0
  | some e => e.1

/-- An object by id. -/
def State.obj? (s : State) (id : Nat) : Option Obj := look? s.die.objects id

/-- Change an object. -/
def State.onObj (s : State) (id : Nat) (f : Obj → Obj) : State :=
  match s.obj? id with
  | none => s
  | some o => s.onDie fun d => { d with objects := put d.objects id (f o) }

/-- Is an object EAGER? Object 0 is (R128). -/
def State.eager (s : State) (id : Nat) : Bool := match s.obj? id with
  | none => true
  | some o => shEager o.shape

/-- Residency priority; object 0 has 3 (R128). -/
def State.objPrio (s : State) (id : Nat) : Nat := match s.obj? id with
  | none => 3
  | some o => o.prio

/-- The lowest free id, if any (R128). -/
def State.freeId (s : State) : Option Nat := (List.range 4095).findSome? fun i =>
  if (s.obj? (i + 1)).isNone then some (i + 1) else none

/-! ### Tiles (Table 21.1) -/

/-- Tiles in dimension 0. -/
def shN0 (r : Nat) : Nat := if shTlf r then 1 else ceilDiv (shSize r 0) (shTile r 0)

/-- Tiles in dimension 1. -/
def shN1 (r : Nat) : Nat := if shTlf r then ceilDiv (shSize r 1) (shTile r 1)
  else if shNdim r = 0 then 1 else ceilDiv (shSize r 1) (shTile r 1)

/-- The number of tiles. -/
def shTiles (r : Nat) : Nat := shN0 r * shN1 r

/-- The origin of the tile with a flat index t1 * N0 + t0. -/
def tileOrigin (r t : Nat) : Nat :=
  if shTlf r then shBase r + t * shStride r 1
  else shBase r + t % shN0 r * shTile r 0 * shStride r 0 + t / shN0 r * shTile r 1 * shStride r 1

/-- Indices of one dimension that a tile covers. -/
def tileIdx (r d t : Nat) : List Nat :=
  if d = 1 ∧ shNdim r = 0 then [0]
  else (List.range (min (shTile r d) (shSize r d - t * shTile r d))).map fun i => t * shTile r d + i

/-- The virtual lines that hold a byte of the tile. -/
def tileLines (r t : Nat) : List Nat :=
  if shTlf r then
    let o := tileOrigin r t
    (List.range ((o + shStride r 1 - 1) / 256 - o / 256 + 1)).map fun i => o / 256 + i
  else
    ((tileIdx r 1 (t / shN0 r)).flatMap fun i1 => (tileIdx r 0 (t % shN0 r)).flatMap fun i0 =>
      let a := shBase r + i0 * shStride r 0 + (if shNdim r = 0 then 0 else i1 * shStride r 1)
      let z := a + fmtBytes (shFmt r) - 1
      (List.range (z / 256 - a / 256 + 1)).map fun k => a / 256 + k).eraseDups

/-- The tile that holds a byte in a virtual line, if any. -/
def tileAt (r line : Nat) : Option Nat := (List.range (shTiles r)).find? fun t => (tileLines r t).contains line

/-- A shape to which a recipe can be attached (R289). -/
def recipeShapeOk (r : Nat) : Bool :=
  decide (shNdim r ≤ 1) && decide (shTiles r ≤ 65536) &&
  (List.range (shTiles r)).all fun t => (tileLines r t).all fun l => tileAt r l == some t

/-- The default state of a tile (R290). -/
def Tile.plain : Tile := { st := .present, guards := [] }

/-- A tile's state and guards; an OPEN object's tiles behave as PRESENT (R290). -/
def Obj.tile (o : Obj) (t : Nat) : Tile := if o.isSealed then look Tile.plain o.tiles t else Tile.plain

/-- Change a tile. -/
def State.onTile (s : State) (t : TileId) (f : Tile → Tile) : State :=
  s.onObj t.obj fun o => { o with tiles := upd Tile.plain o.tiles t.tile f }

/-- The sealed tile with a recipe that a virtual address lies in (R290). -/
def State.sealedTile (s : State) (va : Nat) : Option TileId :=
  let id := s.objOf va
  match s.obj? id with
  | none => none
  | some o => if o.isSealed && shDroppable o.shape then (tileAt o.shape (va / 256)).map fun t => { obj := id, tile := t } else none

/-- A tile's state. -/
def State.tile (s : State) (t : TileId) : Tile := match s.obj? t.obj with
  | none => Tile.plain
  | some o => o.tile t.tile

/-- The virtual lines of a tile. -/
def State.linesOf (s : State) (t : TileId) : List Nat := match s.obj? t.obj with
  | none => []
  | some o => tileLines o.shape t.tile

/-! ### Recipe records (Tables 21.3, 21.4) -/

def rcSrc (r i : Nat) : Nat := bitsN r (256 + 64 * i) 64
def rcNsrc (r : Nat) : Nat := bitsN r 208 3
def rcDepth (r : Nat) : Nat := bitsN r 204 3
def rcOut (r : Nat) : Nat := bitsN r 192 12
def rcArg (r i : Nat) : Nat := bitsN r (64 + 32 * i) 32
def rcEntry (r : Nat) : Nat := bitsN r 0 64

/-- An entry VA within the limits that cards, records and queues set. -/
def entryOk (e : Nat) : Bool := decide (e < 2 ^ 49) && e % 4 == 0

/-- The record's own fields (Table 21.7, first row). -/
def recipeOk (r : Nat) : Bool :=
  bitsN r 211 45 == 0 && !r.testBit 207 && decide (1 ≤ rcDepth r) && decide (rcDepth r ≤ 4) && decide (rcNsrc r ≤ 4) &&
  entryOk (rcEntry r) &&
  (List.range 4).all fun i =>
    if i < rcNsrc r then bitsN (rcSrc r i) 52 12 == 0 && bitsN (rcSrc r i) 0 12 != 0 else rcSrc r i == 0

/-- Indices of the source tiles in one dimension: scale, offset, count (R293), within `n` tiles. -/
def srcIdx (sc off cnt n t : Nat) : List Nat :=
  (List.range cnt).filterMap fun c =>
    let x : Int := (sc * t : Nat) + sextN off 12 + (c : Nat)
    if 0 ≤ x ∧ x < n then some x.toNat else none

/-- The source tiles of tile `t` of the output of a record (R293). -/
def State.sourceTiles (s : State) (rc t0 t1 : Nat) : List TileId :=
  (List.range (rcNsrc rc)).flatMap fun i =>
    let f := rcSrc rc i
    match s.obj? (bitsN f 0 12) with
    | none => []
    | some o =>
      (srcIdx (bitsN f 32 4) (bitsN f 36 12) (bitsN f 48 4 + 1) (shN1 o.shape) t1).flatMap fun s1 =>
        (srcIdx (bitsN f 12 4) (bitsN f 16 12) (bitsN f 28 4 + 1) (shN0 o.shape) t0).map fun s0 =>
          { obj := bitsN f 0 12, tile := s1 * shN0 o.shape + s0 }

end Sys2Proof.Machine
end

