-- ==== Sys2Proof/Machine/Walk.lean ====
section
/-! DEFINITION. Bytes of memory as an engine finds them, and the page-table walk (spec/09_memory_and_ordering.md R150,
R152; 27 R354). -/

namespace Sys2Proof.Machine

/-- An L2 line, if the L2 holds it. -/
def State.l2? (s : State) (line : Nat) : Option L2Line := look? s.die.l2 line

/-- Bytes of an L2 line that is present. -/
def State.l2Bytes (s : State) (pa n : Nat) : List Byte :=
  match s.l2? (pa / 256) with
  | none => List.replicate n 0
  | some l => (List.range n).map fun i => l.data.getD (pa % 256 + i) 0

/-! ### Page tables (R152) -/

/-- Bytes of memory at a physical address as an engine sees them, without changing a cache: the L2's if it holds the
line, else the home's. -/
def State.peek (s : State) (pa n fields : Nat) : Nat :=
  match s.l2? (pa / 256) with
  | some _ => bytesNat (s.l2Bytes pa n)
  | none => bytesNat (((s.pkg.readBlock s.die.die (pa / 256 * 256) fields).2.toList.drop (pa % 256)).take n)

/-- Is memory poisoned as an engine sees it (01 R24, 05 R84)? -/
def State.peekPoison (s : State) (pa fields : Nat) : Bool :=
  match s.l2? (pa / 256) with
  | some l => l.poison
  | none => (s.pkg.readBlock s.die.die (pa / 256 * 256) fields).1

/-- What a walk finds. -/
inductive Walk where
  | leaf (e : TlbEnt)
  | absent
  | prot
  /-- an entry, or the home-table entry of the frame, was read as poison (01 R24, log 61) -/
  | poison
  deriving DecidableEq, Repr

/-- Is a frame in the save area of the running job (27 R354)? -/
def State.inSave (s : State) (pa : Nat) : Bool :=
  s.host.run && decide (s.host.savebase.toNat ≤ pa) && decide (pa < s.host.savebase.toNat + s.host.savesize.toNat)

/-- A leaf entry at a level whose page has `2^bits` bytes. R18 does not say whether a leaf whose page runs past the end of
DRAM raises PROTECTION on every use or at the frames outside only; the model refuses the accessed frame (log 61). The
frame's home-table entry, which the fill reads, lies in its directory die (01 R19, R20, R24). -/
def State.leafOf (s : State) (e bits va : Nat) : Walk :=
  let base := bitsN e 16 30 * 65536
  let pa := base + va % 2 ^ bits
  if bitsN e 46 12 ≠ 0 ∨ bitsN e 6 10 ≠ 0 ∨ bitsN e 2 1 ≠ 0 ∨ base % 2 ^ bits ≠ 0 ∨ paOk pa = false ∨ s.inSave (pa / 65536 * 65536) = true then .prot
  else
    let f := pa / 65536
    if s.pkg.unreachable s.die.die (dirDie f) then .poison
    else .leaf { vpn := va / 65536, frame := f, r := e.testBit 3, w := e.testBit 4, x := e.testBit 5, hint := (s.pkg.homeEnt f).home
                 fields := leafFields (bitsN e 60 4) (e.testBit 59) (e.testBit 58) }

/-- One level of the walk: the entry at index `i` of the table at `tab`; `bits` is the size of a leaf's page there. -/
def State.walkFrom (s : State) (va : Nat) : Nat → Nat → Nat → Walk
  | tab, i, lvl =>
    let bits := if lvl = 1 then 30 else if lvl = 2 then 21 else 16
    let e := s.peek (tab + 8 * i) 8 0
    if s.peekPoison (tab + 8 * i) 0 then .poison
    else if !e.testBit 0 then .absent
    else if e.testBit 1 then s.leafOf e bits va
    else .prot

/-- The next table of a pointer entry, aligned to its size, or `none` if the entry is no good pointer. -/
def nextTable (e size : Nat) : Option Nat :=
  let n := bitsN e 8 38 * 256
  if bitsN e 46 18 ≠ 0 ∨ bitsN e 2 6 ≠ 0 ∨ n % size ≠ 0 ∨ paOk n = false then none else some n

/-- Where the entry of a virtual address lies in a level-1, level-2 or level-3 table. -/
def entryAt (tab va lvl : Nat) : Nat :=
  tab + 8 * (if lvl = 1 then va / 2 ^ 30 % 2 ^ 18 else if lvl = 2 then va / 2 ^ 21 % 512 else va / 2 ^ 16 % 32)

/-- Is the entry at an address a pointer to a next table: read without poison, valid and no leaf? -/
def State.pointerAt (s : State) (a : Nat) : Bool :=
  !s.peekPoison a 0 && (s.peek a 8 0).testBit 0 && !(s.peek a 8 0).testBit 1

/-- The three-level walk from the table root (R152). -/
def State.walk (s : State) (va : Nat) : Walk :=
  let t1 := s.host.troot.toNat
  if !s.pointerAt (entryAt t1 va 1) then s.walkFrom va t1 (va / 2 ^ 30 % 2 ^ 18) 1
  else match nextTable (s.peek (entryAt t1 va 1) 8 0) 4096 with
    | none => .prot
    | some t2 =>
      if !s.pointerAt (entryAt t2 va 2) then s.walkFrom va t2 (va / 2 ^ 21 % 512) 2
      else match nextTable (s.peek (entryAt t2 va 2) 8 0) 256 with
        | none => .prot
        | some t3 => s.walkFrom va t3 (va / 2 ^ 16 % 32) 3

/-- The addresses of the entries that a walk reads. -/
def State.walkReads (s : State) (va : Nat) : List Nat :=
  let a1 := entryAt s.host.troot.toNat va 1
  a1 :: if !s.pointerAt a1 then []
    else match nextTable (s.peek a1 8 0) 4096 with
      | none => []
      | some t2 =>
        let a2 := entryAt t2 va 2
        a2 :: if !s.pointerAt a2 then []
          else match nextTable (s.peek a2 8 0) 256 with
            | none => []
            | some t3 => [entryAt t3 va 3]

/-- What the reads of a walk leave: a block whose chunk does not decode is recoded (05 R84). -/
def State.walked (s : State) (va : Nat) : State :=
  (s.walkReads va).foldl (fun t a => if (t.l2? (a / 256)).isSome then t else t.onPkg fun p => p.recode t.die.die (a / 256 * 256) 0) s

/-- What a reader outside the cores' own loads leaves when it meets poison on its way to an address, in an entry of the tables
or in the block itself: a chunk with a decode error is recoded (05 R84). -/
def State.recodeAt (s : State) (va : Nat) : State :=
  let t := s.walked va
  match t.walk va with
  | .leaf e =>
    let pa := e.frame * 65536 + va % 65536
    if (t.l2? (pa / 256)).isSome then t else t.onPkg fun p => p.recode t.die.die (pa / 256 * 256) e.fields
  | _ => t

/-- Does the whole level-1 table lie in DRAM (log 15)? -/
def State.rootOk (s : State) : Bool := paOk (s.host.troot.toNat + 2 ^ 21 - 1)

/-- Does a page's key slot hold no key of this device (R150; 27 R363)? -/
def State.keyAbsent (s : State) (fields : Nat) : Bool :=
  fieldsKeyen fields && (fieldsKey fields / 8 != s.die.die || s.pkg.keyTag fields == 0)

/-- The bytes of a virtual line of 256 bytes in DRAM become undefined (21 R294, R305; log 4); a poisoned block stays so. -/
def State.loseLine (s : State) (line : Nat) : State :=
  match s.walk (line * 256) with
  | .leaf e =>
    let st := s.pkg.stackBlock (e.frame * 65536 + line * 256 % 65536)
    if poisonCode (s.pkg.blockMeta st).code then s
    else
      let b := s.drawBytes 256
      let m : BlockMeta := { code := 0, fields := e.fields % 64 + 64 * s.pkg.keyTag e.fields }
      b.2.onPkg fun p => { p with dram := putBytes p.dram st b.1, blkMeta := put p.blkMeta (st / 256) m }
  | _ => s

end Sys2Proof.Machine
end

