-- ==== Sys2Proof/Machine/Fabric.lean ====
section
/-! DEFINITION. Requests on the fabric: their way to the home, their service there, and their responses
(spec/01_package_and_dies.md R20 to R24; 05 R84; 09 R151; log 56). -/

namespace Sys2Proof.Machine

/-- Write bytes of a block at its home, merged with what it holds; a poisoned block that is not written whole stays as it
is (R84). -/
def Pkg.mergeBlock (p : Pkg) (d pa fields : Nat) (bs : List Byte) : Pkg :=
  let a := pa / 256 * 256
  if bs.length = 256 then p.writeBlock d a fields (Vector.ofFn fun i => bs.getD i.val 0)
  else
    let b := p.readBlock d a fields
    if b.1 then p.recode d a fields else p.writeBlock d a fields (overlay b.2 (pa % 256) bs fun _ => true)

/-- The response of a home to a reader outside the cores: poisoned or not, and the bytes. -/
def State.answer (s : State) (poison : Bool) (x : Nat) : State := s.onTabs fun t => { t with lastRead := (poison, if poison then 0 else x) }

/-- The compute die through which a requester's requests go. -/
def State.dieOf (s : State) : Requester → Nat
  | .otherDie => 1 - s.die.die
  | _ => s.die.die

/-- A response names the home of a frame, and every TLB of the die takes it as its hint (R20 step 4). -/
def State.takeHint (s : State) (frame h : Nat) : State :=
  let hint : TlbEnt → TlbEnt := fun e => if e.frame = frame then { e with hint := h } else e
  let t := forEach s.coreNos s fun k t => t.onCore k fun c => { c with tlb := c.tlb.map hint }
  t.onDie fun d => { d with tlb2 := d.tlb2.map fun e => (e.1, e.2.map hint) }

/-- A packet goes over a link that is up; how many packets of its retry buffer have been acknowledged is free (log 56). -/
def State.carry (s : State) (x : Packet) : State :=
  let r := s.draw
  r.2.onPkg fun p => p.carry x (r.1.toNat % ((p.dir x.link x.toCd).retry.length + 2))

/-- A response reaches its requester: a read's answer, and for this die the hint (R20 step 4). -/
def State.respond (s : State) (x : Packet) : State :=
  let t := if x.src = .thisDie then s.takeHint (x.pa / 65536) x.home else s
  match x.body with
  | .reply poison v => t.answer poison v
  | _ => t

/-- Has a packet's number been delivered before (R22 step 4)? -/
def Pkg.duplicate (p : Pkg) (x : Packet) : Bool := decide (x.no < (p.dir x.link x.toCd).delivered)

/-- A compute die serves its VC3 input queue ahead of what reaches it on VC0 to VC2 (R23): the responses there take effect,
but for any that was delivered before (R22 step 4). -/
def State.serveCd (s : State) (cd : Nat) : State :=
  match s.pkg.vc3At (vc3CdQueue cd) with
  | [] => s
  | xs =>
    let one : Packet → State → State := fun x t =>
      if t.pkg.duplicate x then t else (t.onPkg fun p => p.onDir x.link x.toCd fun l => { l with delivered := x.no + 1 }).respond x
    (forEach xs (s.onPkg fun p => p.onVc3 (vc3CdQueue cd) fun _ => []) one).onPkg Pkg.vc3Move

/-- The home sends the response of a request: over a link that is up it arrives, behind the VC3 packets that the compute die
has received, over a failed one it takes the detour (R20 step 4, R22 step 2, R23). The response to a write carries no data. -/
def State.sendReply (s : State) (x : Packet) (home : Nat) (r : Body) : State :=
  let y : Packet := { x with link := home, toCd := true, home := home, body := r }
  if s.pkg.linkUp home then ((s.serveCd (home / 4)).carry y).respond y else s.onPkg fun p => p.divert y

/-- A request that meets an unreachable die: a read is answered with poison, a write is discarded (R24). -/
def State.lost (s : State) (x : Packet) : State := match x.body with
  | .read => s.answer true 0
  | _ => s

/-- The home serves a request for 8 bytes under the fields that it carries (R20, R84; 09 R151). After HALT nothing is
written (27 R364). -/
def State.serve (s : State) (x : Packet) (home : Nat) : State :=
  match x.body with
  | .write v =>
    let t := if s.tabs.halted then s else s.onPkg fun p => p.mergeBlock (s.dieOf x.src) x.pa x.fields (natBytes 8 v)
    t.sendReply x home .ack
  | .read =>
    let a := x.pa / 256 * 256
    let b := s.pkg.readBlock (s.dieOf x.src) a x.fields
    let poison := b.1 || (x.src != .thisDie && match s.l2? (x.pa / 256) with | some l => l.poison | none => false)
    (s.onPkg fun p => p.recode (s.dieOf x.src) a x.fields).sendReply x home (.reply poison (bytesNat ((b.2.toList.drop (x.pa % 256)).take 8)))
  | _ => s

/-- A request stands at memory die `md`: the state, and the home if it has reached it; a die that does not hold the block
forwards it, within `n` times (R20 step 3). -/
def State.route (s : State) : Nat → Nat → Packet → State × Option Nat
  | 0, md, x => (s, if md = s.pkg.homeOf x.pa then some md else none)
  | n + 1, md, x =>
    if md = s.pkg.homeOf x.pa then (s, some md)
    else
      let d := s.dieOf x.src
      let nxt := s.pkg.forwardTo md x.pa
      let y : Packet := { x with link := nxt }
      if !s.pkg.canForward d md x.pa || s.pkg.unreachable d nxt then (s.lost x, none)
      else if s.pkg.linkUp nxt then (s.carry y).route n nxt y
      else (s.onPkg fun p => p.divert y, none)

/-- A request is sent to memory die `md`: the state, and the home if it has reached it (R20 step 2, R22 step 3). -/
def State.sendTo (s : State) (md : Nat) (x : Packet) : State × Option Nat :=
  let y : Packet := { x with link := md }
  if s.pkg.unreachable (s.dieOf x.src) md then (s.lost x, none)
  else if s.pkg.linkUp md then (s.carry y).route 3 md y
  else (s.onPkg fun p => p.divert y, none)

/-- A packet of this die takes effect at the end of its detour. -/
def State.landOwn (s : State) (x : Packet) : State :=
  if s.pkg.duplicate x then s
  else if x.toCd then s.respond x
  else match s.route 3 x.link x with
    | (t, some h) => t.serve x h
    | (t, none) => t

/-- Before this die's own access to a memory die over a failed link, the packets that the die has sent there before, and the
responses on their way to it, arrive (R22 steps 3 and 5). -/
def State.detourFirst (s : State) (md : Nat) : State :=
  if s.pkg.linkUp md then s
  else
    let own : Packet → Bool := fun x => x.src == .thisDie
    let back := (s.pkg.inFlight md true).filter own
    let out := (s.pkg.inFlight md false).filter own
    let t := s.onPkg fun p => (p.withdraw md true own).withdraw md false own
    forEach (back ++ out) t fun x u => u.landOwn x

/-- The memory die to which this die sends a request: the one that its TLBs name for the frame (R20 step 2), or the home where
no TLB of the die holds the frame any more (log 10). -/
def State.hintOf (s : State) (pa : Nat) : Nat :=
  let all := (s.cores.flatMap fun e => e.2.tlb) ++ s.die.tlb2.flatMap (·.2)
  match all.find? fun e => e.frame == pa / 65536 with
  | some e => e.hint
  | none => s.pkg.homeOf pa

/-- This die's own request stands before memory die `md`: does it reach the home, within `n` dies (R20 steps 2 and 3, R24)? -/
def State.travelFrom (s : State) (pa md : Nat) : Nat → State × Bool
  | 0 => (s, false)
  | n + 1 =>
    let t := s.detourFirst md
    if t.pkg.unreachable t.die.die md then (t, false)
    else if md = t.pkg.homeOf pa then (t, true)
    else if t.pkg.canForward t.die.die md pa then t.travelFrom pa (t.pkg.forwardTo md pa) n
    else (t, false)

/-- This die's own request for a block travels to its home, and the response brings the home's number (R20): the state, and
whether it has reached the home. -/
def State.travel (s : State) (pa : Nat) : State × Bool :=
  match s.travelFrom pa (s.hintOf pa) 4 with
  | (t, false) => (t, false)
  | (t, true) =>
    let h := t.pkg.homeOf pa
    let u := t.serveCd (h / 4)
    (if h = s.hintOf pa then u else u.takeHint (pa / 65536) h, true)

end Sys2Proof.Machine
end

