-- ==== Sys2Proof/Machine/Image.lean ====
section
/-! DEFINITION. The bytes of save images and how they reach the save area (spec/25_traps_and_preemption.md R340 to R343;
27 R354; log 18). An image is a list of 256-byte blocks of the save area, by their numbers in it. -/

namespace Sys2Proof.Machine

/-! ### A wave's image (R340, R341) -/

/-- STATE (Table 25.3). -/
def SavedWave.stateWord (x : SavedWave) : Nat :=
  let w := x.wave
  (match w.mem.region with | some r => 8 + r % 64 * 2 ^ 24 | none => 0) + w.flow.retDepth % 64 * 2 ^ 18 +
    w.flow.stack.length % 64 * 2 ^ 12 + x.stop % 16 * 2 ^ 8 + (if x.aborted then 16 else 0) + (if x.run.isSome then 4 else 0) +
    (if w.flow.contin then 2 else 0) + (if w.flow.handler then 1 else 0)

/-- 32-bit words as bytes. -/
def wordBytes (ws : List Word) : List Byte := ws.flatMap fun x => natBytes 4 x.toNat

/-- 64-bit words as bytes. -/
def addrBytes (ws : List Addr) : List Byte := ws.flatMap fun x => natBytes 8 x.toNat

/-- The header (Table 25.2). -/
def SavedWave.header (x : SavedWave) : List Byte :=
  let w := x.wave
  let c := w.csr
  addrBytes [w.flow.pc, w.flow.rpc] ++ wordBytes [w.flow.mask, BitVec.ofNat 32 x.stateWord] ++
    addrBytes [c.codebase, c.tvec, c.epc, c.cont, c.fpc, c.ftoken, c.fva] ++
    wordBytes [c.fpmode, c.arithf, c.arithe, c.fcause, c.flanes, c.copyerr, c.xword0, c.xword1, c.ximm, c.tlferr, c.lastL, c.lastTB] ++
    wordBytes c.perf.toList ++ wordBytes w.regs.p.toList ++ natBytes 16 w.regs.vfull.toNat ++ natBytes 8 w.regs.sfull.toNat ++
    addrBytes [w.flow.retRpc] ++
    wordBytes [w.flow.retMask, BitVec.ofNat 32 w.id.vregs, w.id.blockIdx, w.id.clusterIdx, w.id.waveIdx, w.flow.wbArrived, w.flow.wbPhase, 0]

/-- Kind codes of stack entries. -/
def StackKind.code : StackKind → Nat
  | .path => 1
  | .join => 2
  | .callj => 3
  | .parked => 4

/-- A stack entry, 24 bytes. -/
def StackEntry.bytes (e : StackEntry) : List Byte := addrBytes [e.pc, e.rpc] ++ wordBytes [e.mask, BitVec.ofNat 32 e.kind.code]

/-- The image of a wave, header and body. -/
def SavedWave.bytes (x : SavedWave) : List Byte :=
  let w := x.wave
  let held := match x.run with
    | none => []
    | some r => wordBytes [BitVec.ofNat 32 r.fw, BitVec.ofNat 32 r.vacc, BitVec.ofNat 32 r.n, 0] ++
        addrBytes ((List.range 2048).map fun i => BitVec.ofInt 64 (x.totals.getD i 0))
  x.header ++ w.flow.stack.flatMap StackEntry.bytes ++ List.replicate (24 * (32 - w.flow.stack.length)) 0 ++
    wordBytes w.regs.s.toList ++ ((List.range w.id.vregs).flatMap fun r => wordBytes (w.rdV r).toList) ++ held

/-- Bytes of a wave's image. -/
def waveImage (vregs : Nat) (held : Bool) : Nat := 0x500 + 128 * vregs + if held then 16 + 16384 else 0

/-! ### A block's image (R342) -/

/-- Bytes padded with zeros. -/
def padBytes (n : Nat) (bs : List Byte) : List Byte := bs ++ List.replicate (n - bs.length) 0

/-- A weight slot: its state in 64 bytes, σ in 192, and its stored bytes; 8 KiB in all (log 18). -/
def Slot.bytesOf (x : Slot) : List Byte :=
  let bit : Bool → Nat := fun b => if b then 1 else 0
  let state := [bit x.loaded, x.kind, bit x.ssc, bit x.sigma].map (BitVec.ofNat 8) ++ natBytes 4 x.lc
  padBytes 8192 (padBytes 64 state ++ padBytes 192 (x.sig.map (BitVec.ofNat 8)) ++ x.bytes.map (BitVec.ofNat 8))

/-- A barrier: its phase count and, by wave index, its arrivals. -/
def Barrier.bytesOf (x : Barrier) (waves : List SavedWave) : List Byte :=
  let mask := waves.foldl (fun m w => if x.arrived.contains w.wave.id.wid then setBit m w.wave.id.waveIdx.toNat true else m) (0 : Word)
  natBytes 4 x.phase ++ wordBytes [mask]

/-- The image of a block: tile memory, a byte for each line's tag, its weight slots and its barriers. -/
def Block.bytesOf (b : Block) (waves : List SavedWave) : List Byte :=
  ((List.range b.tmem).map fun i => look 0 b.tile i) ++ ((List.range (b.tmem / 128)).map fun i => BitVec.ofNat 8 (look 0 b.tags i)) ++
    ((List.range b.wslots).flatMap fun i => (b.slot i).bytesOf) ++
    (List.range 8).flatMap fun i => (look { phase := 0, arrived := [] } b.bars i).bytesOf waves

/-- Bytes of a block's image. -/
def blockImage (tmem wslots : Nat) : Nat := tmem + tmem / 128 + 8192 * wslots + 8 * 8

/-! ### The save area (27 R354) -/

/-- 256-byte blocks that `n` bytes take. -/
def saveBlocks (n : Nat) : Nat := (n + 255) / 256

/-- The blocks of the save area that hold images. -/
def State.saveUsed (s : State) : List Nat := s.die.saved.flatMap fun u => u.place ++ u.waves.flatMap (·.place)

/-- The `n` lowest numbers from `k` on that are not in a list. -/
def lowestNotIn (used : List Nat) : Nat → Nat → Nat → List Nat
  | 0, _, _ => []
  | f + 1, k, n => if n = 0 then [] else if used.contains k then lowestNotIn used f (k + 1) n else k :: lowestNotIn used f (k + 1) (n - 1)

/-- Free blocks of the save area for `n` bytes, if it has them. -/
def State.savePlace (s : State) (n : Nat) : Option (List Nat) :=
  let k := saveBlocks n
  let place := lowestNotIn s.saveUsed (k + s.saveUsed.length) 0 k
  if place.all fun i => decide (256 * (i + 1) ≤ s.host.savesize.toNat) then some place else none

/-- The tag of a save key as a block carries it: no key of the key slots has it. -/
def saveTag (key : Nat) : Nat := 2 ^ 600 + key

/-- Write a block at its home, encrypted under a save key. -/
def Pkg.writeSave (p : Pkg) (d pa key : Nat) (bs : List Byte) : Pkg :=
  let st := p.stackBlock pa
  if p.unreachable d (st / 2 ^ 36) || !paOk pa then p
  else
    let q := { p with dram := putBytes p.dram st (padBytes 256 bs), blkMeta := put p.blkMeta (st / 256) { code := 0, fields := 64 * saveTag key } }
    q.countWrite d st

/-- Write an image into its blocks; after HALT nothing is written (27 R364). -/
def State.storeImage (s : State) (place : List Nat) (bs : List Byte) : State :=
  if s.tabs.halted then s
  else forEach place.zipIdx s fun b t =>
    let pa := t.host.savebase.toNat + 256 * b.1
    (t.detourFirst (t.pkg.homeOf pa)).onPkg fun p => p.writeSave t.die.die pa (t.pkg.saveKey.getD 0) ((bs.drop (256 * b.2)).take 256)

/-- Change the saved waves; the images of those that change are written again (R324, R343). -/
def State.onSaved (s : State) (f : SavedWave → SavedWave) : State :=
  let t := s.onDie fun d => { d with saved := d.saved.map fun u => { u with waves := u.waves.map f } }
  forEach (s.die.saved.flatMap (·.waves)) t fun x u => if f x = x then u else u.storeImage x.place (f x).bytes

end Sys2Proof.Machine
end

