-- ==== Sys2Proof/Machine/Cache.lean ====
section
/-! DEFINITION. The L2, the L1s, the dirty-object summary, release records, and what releases, acquires and fences do to
them (spec/09_memory_and_ordering.md R125 to R142, R368; 21 R294; 23 R325). -/

namespace Sys2Proof.Machine

/-! ### The L2 -/

/-- An empty release record (R139). -/
def RelRecord.empty : RelRecord := { entries := [], all := false }

/-- The slice of a 256-byte line (R127). -/
def l2Slice (line : Nat) : Nat := line % 64 ^^^ line / 64 % 64 ^^^ line / 4096 % 64

/-- The set of a line in its slice (R127). -/
def l2Set (line : Nat) : Nat := line / 64 % 2048

/-- Do two lines share a set of a slice? -/
def sameSet (a b : Nat) : Bool := l2Slice a == l2Slice b && l2Set a == l2Set b

/-- Change an L2 line. -/
def State.onL2 (s : State) (line : Nat) (f : L2Line → L2Line) : State :=
  match s.l2? line with
  | none => s
  | some l => s.onDie fun d => { d with l2 := put d.l2 line (f l) }

/-- Pinned lines of the set of a line (21 R301). -/
def State.pinnedIn (s : State) (line : Nat) : Nat :=
  (s.die.l2.filter fun e => sameSet e.1 line && !e.2.pins.isEmpty).length

/-- Kindling waves that pin this virtual line: it lies in a tile that they pinned at their start (21 R301). -/
def State.pinners (s : State) (va : Nat) : List Nat :=
  (s.waves.filter fun w => w.id.pins.any fun t => (s.linesOf t).contains (va / 256)).map (·.id.wid)

/-- What this die has sent towards the home of a line over a failed link arrives before an outside agent's access to it
(01 R22). -/
def State.settled (s : State) (line : Nat) : State := s.detourFirst (s.pkg.homeOf (line * 256))

/-- What the home answers to this die's own read of a line: poisoned or not, and the bytes; a request that meets an
unreachable die on its way is answered with poison (01 R20, R24). -/
def State.blockFrom (s : State) (line fields : Nat) : Bool × Vector Byte 256 :=
  if (s.travel (line * 256)).2 then (s.travel (line * 256)).1.pkg.readBlock s.die.die (line * 256) fields else (true, Vector.replicate 256 0)

/-- What that read leaves (01 R20, R22; 05 R84). -/
def State.afterBlock (s : State) (line fields : Nat) : State :=
  let r := s.travel (line * 256)
  if r.2 then r.1.onPkg fun p => p.recode s.die.die (line * 256) fields else r.1

/-- Bring a line into the L2 from its home, if it is not there (R127, R151; 01 R20; 21 R301; 05 R84). -/
def State.l2Fill (s : State) (line va fields : Nat) : State :=
  match s.l2? line with
  | some _ => (s.onL2 line fun l => { l with used := s.die.useNo }).onDie fun d => { d with useNo := d.useNo + 1 }
  | none =>
    let b := s.blockFrom line fields
    let pins := if s.pinnedIn line < 4 then s.pinners va else []
    let l : L2Line := { obj := s.objOf va, va := va / 256 * 256, data := b.2, dirty := false, fields := fields, poison := b.1
                        rel := RelRecord.empty, pins := pins, used := s.die.useNo }
    (s.afterBlock line fields).onDie fun d => { d with useNo := d.useNo + 1, l2 := put d.l2 line l }

/-- Would the L2 or the home give poison for a physical address (01 R24, 05 R84)? -/
def State.fillPoison (s : State) (pa fields : Nat) : Bool := match s.l2? (pa / 256) with
  | some l => l.poison
  | none => !(s.travel (pa / 256 * 256)).2 || (s.travel (pa / 256 * 256)).1.pkg.readPoison s.die.die (pa / 256 * 256) fields

/-- Is the line poisoned? -/
def State.l2Poison (s : State) (pa : Nat) : Bool := match s.l2? (pa / 256) with
  | none => false
  | some l => l.poison

/-- Merge written bytes into an L2 line that is present; a write of the whole line clears its record and its poison
(R139, 05 R84). -/
def State.l2Merge (s : State) (pa fields : Nat) (bs : List Byte) (mask : Nat → Bool) : State :=
  s.onL2 (pa / 256) fun l =>
    let whole := decide (bs.length = 256) && (List.range 256).all mask
    { l with data := overlay l.data (pa % 256) bs mask, dirty := true, fields := fields
             rel := if whole then RelRecord.empty else l.rel, poison := l.poison && !whole }

/-- Write a dirty line back to its home; it stays in the L2, clean. Bytes merged into a poisoned block leave it poisoned
(05 R84); a write-back that meets an unreachable die on its way is discarded (01 R20, R24). -/
def State.l2WriteBack (s : State) (line : Nat) : State :=
  match s.l2? line with
  | none => s
  | some l =>
    if l.dirty && !l.poison && paOk (line * 256) then
      let r := s.travel (line * 256)
      (if r.2 then r.1.onPkg fun p => p.writeBlock s.die.die (line * 256) l.fields l.data else r.1).onL2 line fun l => { l with dirty := false }
    else s

/-- Take a line out of the L2. -/
def State.l2Drop (s : State) (line : Nat) : State := s.onDie fun d => { d with l2 := del d.l2 line }

/-! ### Region lines of other regions (23 R325) -/

/-- Does an uncommitted region other than `own` hold a region line, read or written? The line is a physical address
div 64 (log 21). -/
def State.regionHeld (s : State) (own : Option Nat) (l64 : Nat) : Bool :=
  s.die.regions.any fun e => some e.1 != own && (e.2.reads.contains l64 || e.2.versions.any fun v => v.line == l64)

/-- Does an uncommitted region hold a version of a region line? -/
def State.versionHeld (s : State) (l64 : Nat) : Bool := s.die.regions.any fun e => e.2.versions.any fun v => v.line == l64

/-! ### The L1 -/

/-- An L1 line with nothing valid. -/
def L1Line.empty (obj va fields : Nat) : L1Line :=
  { obj := obj, va := va, fields := fields, valid := 0, dirty := 0, data := Vector.replicate 128 0 }

/-- The cores whose L1s are one cache with core `c`'s (R126). -/
def State.l1Cores (s : State) (c : Nat) : List Nat := if s.fused c then (List.range 8).map fun i => c / 8 * 8 + i else [c]

/-- The L1 line of a physical address. -/
def State.l1? (s : State) (c pa : Nat) : Option L1Line := look? (s.core (s.l1Core c pa)).l1 (pa / 128)

/-- Are all of these bytes valid in the L1? -/
def State.l1Has (s : State) (c pa n : Nat) : Bool := match s.l1? c pa with
  | none => false
  | some l => (List.range n).all fun i => l.valid.getLsbD (pa % 128 + i)

/-- Bytes of an L1 line. -/
def State.l1Bytes (s : State) (c pa n : Nat) : List Byte := match s.l1? c pa with
  | none => List.replicate n 0
  | some l => (List.range n).map fun i => l.data.getD (pa % 128 + i) 0

/-- Change the L1 line of a physical address, creating it. -/
def State.onL1 (s : State) (c pa va fields : Nat) (f : L1Line → L1Line) : State :=
  s.onCore (s.l1Core c pa) fun k =>
    { k with l1 := upd (L1Line.empty (s.objOf va) (va / 128 * 128) fields) k.l1 (pa / 128) f }

/-- Fetch the L1 line of a physical address from the L2, which must hold it: bytes that are not valid become valid and
clean (R125, R135), but for those of a region line that has an uncommitted version (23 R325). -/
def State.l1Fill (s : State) (c pa va fields : Nat) : State :=
  let a := pa / 128 * 128
  let bs := s.l2Bytes a 128
  let h0 := s.versionHeld (a / 64)
  let h1 := s.versionHeld (a / 64 + 1)
  let free : BitVec 128 := (if h0 then 0 else BitVec.ofNat 128 (2 ^ 64 - 1)) ||| (if h1 then 0 else BitVec.ofNat 128 ((2 ^ 64 - 1) * 2 ^ 64))
  s.onL1 c pa va fields fun l =>
    { l with data := overlay l.data 0 bs fun i => free.getLsbD i && !l.valid.getLsbD i, valid := l.valid ||| free }

/-- A mask of `n` bits from bit `k`. -/
def maskBits (w k n : Nat) : BitVec w := BitVec.ofNat w ((2 ^ n - 1) * 2 ^ k)

/-- Write bytes into the L1 (R125). -/
def State.l1Write (s : State) (c pa va fields : Nat) (bs : List Byte) : State :=
  s.onL1 c pa va fields fun l =>
    let m := maskBits 128 (pa % 128) bs.length
    { l with data := overlay l.data (pa % 128) bs fun _ => true, valid := l.valid ||| m, dirty := l.dirty ||| m, fields := fields }

/-- Is a line's write-back held by a region (23 R325)? -/
def State.l1Blocked (s : State) (own : Option Nat) (line : Nat) (l : L1Line) : Bool :=
  (l.dirty.extractLsb' 0 64 != 0 && s.regionHeld own (2 * line)) ||
  (l.dirty.extractLsb' 64 64 != 0 && s.regionHeld own (2 * line + 1))

/-- The set of an L1 for a physical address: R125 gives 64 KiB in 4 ways, so 128 sets; which address bits choose the set is
the model's (log 17). -/
def State.l1Set (s : State) (c pa : Nat) : Nat := if s.fused c then pa / 1024 % 128 else pa / 128 % 128

/-- The lines of an L1 that share the set of a physical address. -/
def State.l1Ways (s : State) (c pa : Nat) : List Nat :=
  ((s.core (s.l1Core c pa)).l1.filter fun e => s.l1Set c (128 * e.1) == s.l1Set c pa).map (·.1)

/-! ### Eviction from the L2, and write-backs from the L1s (R127, R131, R139; 21 R294; 23 R325)

A write-back from an L1 may bring a line into the L2, whose set may then lose a line; a line that leaves the L2 may demand
further write-backs of its release record. `ev` evicts one line. `none`: something must perform first. -/

/-- Does a requester still guard a tile: until it has finished with it (21 R301, R305)? -/
def State.guardLive (s : State) (t : TileId) : TileReq → Bool
  | .prefetch _ => false
  | .copy core seq => (s.core core).copies.any fun c => c.seq == seq && c.waits.contains t
  | .wave wid => match s.wave? wid with
    | none => false
    | some w => w.id.holds.contains t || w.mem.guards.contains t || match w.flow.hold with
      | .miss ts _ => ts.contains t
      | _ => false

/-- Is a tile guarded? -/
def State.guarded (s : State) (t : TileId) : Bool := (s.tile t).guards.any fun r => s.guardLive t r

/-- Is a tile's drop allowed: sealed, PRESENT, with no guard (21 R290)? -/
def State.droppableNow (s : State) (t : TileId) : Bool := (s.tile t).st == .present && !s.guarded t

/-- Do checked accesses to the lines of a tile still have to perform, of waves on the die or in images (21 R294 step 1)? -/
def State.touched (s : State) (t : TileId) : Bool :=
  let ls := s.linesOf t
  (s.waves ++ (s.die.saved.flatMap (·.waves)).map (·.wave)).any fun w =>
    w.mem.loads.any fun e => (e.kind == .weak || e.kind == .strong) && e.lanes.any fun l => ls.contains (l.va / 256)

/-- Drop a tile (21 R294): every L2 line and every L1's bytes of it go, its bytes are lost, and it becomes DROPPED. -/
def State.dropTile (s0 : State) (t : TileId) : State :=
  let ls := s0.linesOf t
  let s := forEach ls s0 fun l x => x.loseLine l
  let u := s.onDie fun d => { d with l2 := d.l2.filter fun e => !(ls.contains (e.2.va / 256)) }
  let v := forEach s.coreNos u fun k x => x.onCore k fun c => { c with l1 := c.l1.filter fun e => !(ls.contains (e.2.va / 256)) }
  v.onTile t fun x => { x with st := .dropped }

/-- Clear the D bits of the objects that satisfy `p`. An object whose D bit goes keeps its entry, with C set: what the core
wrote of it has reached the L2, and the core's later releases still have to name it to readers that hold older bytes, as R144
has it (log 65). No entry is left without a bit, so that none becomes free before the core clears its summary. -/
def clearD (p : Nat → Bool) (es : List SumEnt) : List SumEnt :=
  es.map fun e => if p e.obj then { e with d := false, c := e.c || e.d } else e

/-- Clear D bits in the summaries of a core's L1 (R126, R137). -/
def State.clearSum (s : State) (k : Nat) (p : Nat → Bool) : State :=
  forEach (s.l1Cores k) s fun i t => t.onCore i fun x => { x with summary := clearD p x.summary }

/-- An L1 line without its clean bytes, if anything is left of it. -/
def L1Line.dirtyOnly (l : L1Line) : Option L1Line := if l.dirty = 0 then none else some { l with valid := l.dirty }

/-- Discard the clean bytes of the lines that satisfy `p`; dirty bytes stay. -/
def State.discardClean (s : State) (c : Nat) (p : L1Line → Bool) : State :=
  let keep : Nat × L1Line → Option (Nat × L1Line) := fun e => if p e.2 then e.2.dirtyOnly.map fun l => (e.1, l) else some e
  forEach (s.l1Cores c) s fun k t => t.onCore k fun x => { x with l1 := x.l1.filterMap keep }

/-- Discard the clean bytes of the L1 line of a physical address (13 R216 COP 1; R146). -/
def State.dropClean (s : State) (c pa : Nat) : State :=
  let keep : Nat × L1Line → Option (Nat × L1Line) := fun e =>
    if e.1 = pa / 128 then e.2.dirtyOnly.map fun l => (e.1, l) else some e
  s.onCore (s.l1Core c pa) fun x => { x with l1 := x.l1.filterMap keep }

/-- Discard every byte, clean or dirty, of the lines that satisfy `p`. -/
def State.l1Discard (s : State) (c : Nat) (p : L1Line → Bool) : State :=
  forEach (s.l1Cores c) s fun k t => t.onCore k fun x => { x with l1 := x.l1.filter fun e => !p e.2 }

/-- Lines of the set of a line. -/
def State.setSize (s : State) (line : Nat) : Nat := (s.die.l2.filter fun e => sameSet e.1 line).length

/-- The victim of a set that needs a way for `line` (R131): not pinned, of the lowest priority present, the least recently
used of those. -/
def State.l2Victim (s : State) (line : Nat) : Option Nat :=
  let cs := s.die.l2.filter fun e => sameSet e.1 line && e.2.pins.isEmpty && e.1 != line
  (cs.foldl (fun best e => match best with
    | none => some e
    | some b =>
      let pe := s.objPrio e.2.obj
      let pb := s.objPrio b.2.obj
      if pe < pb ∨ (pe = pb ∧ e.2.used < b.2.used) then some e else some b) none).map (·.1)

/-- Bring the set of a line back to 16 ways, within `n` victims. -/
def fitWith (ev : State → Nat → Option State) (line : Nat) : Nat → State → Option State
  | 0, s => if s.setSize line ≤ 16 then some s else none
  | n + 1, s =>
    if s.setSize line ≤ 16 then some s
    else match s.l2Victim line with
      | none => none
      | some v => (ev s v).bind (fitWith ev line n)

/-- Bring the set of a line back to 16 ways: one victim for each line that it has too many at most. -/
def fitBy (ev : State → Nat → Option State) (s : State) (line : Nat) : Option State := fitWith ev line (s.setSize line) s

/-- Leave a set as it is: an access that is under way still has to take bytes that making room could lose, and makes room when
it has them (21 R294). -/
def fitLater (s : State) (_ : Nat) : Option State := some s

/-- Write the dirty bytes of one L1 line to the L2, which merges them (R125, R127), and make room by `fit`. -/
def wb1With (fit : State → Nat → Option State) (own : Option Nat) (s : State) (k line : Nat) : Option State :=
  match look? (s.core k).l1 line with
  | none => some s
  | some l =>
    if l.dirty = 0 then some s
    else if s.l1Blocked own line l then none
    else
      let t := (s.l2Fill (line / 2) l.va l.fields).l2Merge (line * 128) l.fields l.data.toList fun i => l.dirty.getLsbD i
      fit (t.onCore k fun x => { x with l1 := put x.l1 line { l with dirty := 0 } }) (line / 2)

/-- The lines of core `c`'s L1 that satisfy `p`: (core, line). -/
def State.l1Lines (s : State) (c : Nat) (p : L1Line → Bool) : List (Nat × Nat) :=
  (s.l1Cores c).flatMap fun k => ((s.core k).l1.filter fun e => p e.2).map fun e => (k, e.1)

/-- Write back the dirty bytes of the lines that satisfy `p`. -/
def wbAllWith (fit : State → Nat → Option State) (own : Option Nat) (c : Nat) (p : L1Line → Bool) (s : State) : Option State :=
  (s.l1Lines c p).foldlM (fun t e => wb1With fit own t e.1 e.2) s

/-- Write back core `k`'s dirty bytes of the objects that satisfy `p`, and clear their D bits. -/
def drainWith (fit : State → Nat → Option State) (k : Nat) (p : Nat → Bool) (s : State) : Option State :=
  (wbAllWith fit none k (fun l => p l.obj) s).map fun t => t.clearSum k p

/-- Union of two sets kept as lists. -/
def unionL (a b : List Nat) : List Nat := a ++ b.filter fun x => !a.contains x

/-- The objects that entries of a record name. -/
def idsOf (es : List RecEntry) : List Nat := es.foldl (fun a e => unionL a (unionL e.drain e.inval)) []

/-- What the record of a line that leaves the L2 demands (R139): recorded cores write back their drain sets, every core
discards its clean bytes of the recorded objects, or of every line if ALL is set; the record is discarded. -/
def recordLeavesWith (ev : State → Nat → Option State) (s : State) (line : Nat) : Option State :=
  match s.l2? line with
  | none => some s
  | some l =>
    if l.rel.entries.isEmpty && !l.rel.all then some s
    else
      let bare := s.onL2 line fun l => { l with rel := RelRecord.empty }
      (l.rel.entries.foldlM (fun t e => drainWith (fitBy ev) e.core (fun o => e.drain.contains o) t) bare).map fun t =>
        forEach s.coreNos t fun k t => t.discardClean k fun x => l.rel.all || (idsOf l.rel.entries).contains x.obj

/-- Evict a line: a sealed droppable tile is dropped, with what the records of its lines demand, any other line is written
back if dirty (R131, R139; 21 R294). A line of a tile that checked accesses still have to reach waits for them. -/
def leaveWith (ev : State → Nat → Option State) (s : State) (line : Nat) : Option State :=
  match s.l2? line with
  | none => some s
  | some l =>
    let plain := fun (s : State) => (recordLeavesWith ev s line).map fun t => (t.l2WriteBack line).l2Drop line
    match s.sealedTile l.va with
    | none => plain s
    | some tid =>
      if !s.droppableNow tid then plain s
      else if s.touched tid then none
      else
        let mine := (s.die.l2.filter fun e => (s.linesOf tid).contains (e.2.va / 256)).map (·.1)
        (mine.foldlM (recordLeavesWith ev) s).map fun t => t.dropTile tid

/-- Eviction, with as many evictions inside evictions as `n`. -/
def State.leaveN : Nat → State → Nat → Option State
  | 0, _, _ => none
  | n + 1, s, line => leaveWith (State.leaveN n) s line

/-- Evict a line of the L2. Only a line with a record causes evictions of its own, and its record goes first, so that they
are nested at most once for each line. -/
def State.leave (s : State) (line : Nat) : Option State := s.leaveN (s.die.l2.length + 2) line

/-- Bring the set of a line back to 16 ways (R127, R131). -/
def State.fit (s : State) (line : Nat) : Option State := fitBy State.leave s line

/-- Bring the sets of several lines back to 16 ways. -/
def State.fitAll (s : State) (lines : List Nat) : Option State := lines.foldlM (fun t l => t.fit l) s

/-- Bring every set of the L2 back to 16 ways. -/
def State.fitEvery (s : State) : Option State := s.fitAll (s.die.l2.map (·.1))

/-- Write back one L1 line, as the region `own` or as none. -/
def State.wb1 (s : State) (own : Option Nat) (k line : Nat) : Option State := wb1With State.fit own s k line

/-- Write back the dirty bytes of the lines of core `c`'s L1 that satisfy `p`. -/
def State.wbTry (s : State) (own : Option Nat) (c : Nat) (p : L1Line → Bool) : Option State := wbAllWith State.fit own c p s

/-- Can the dirty bytes of the lines that satisfy `p` be written back now (23 R325; 21 R294)? -/
def State.wbReady (s : State) (c : Nat) (own : Option Nat) (p : L1Line → Bool) : Bool := (s.wbTry own c p).isSome

/-- Write back core `k`'s dirty bytes of the objects that satisfy `p`, and clear their D bits. -/
def State.drain (s : State) (k : Nat) (p : Nat → Bool) : Option State := drainWith State.fit k p s

/-- What the record of a line that leaves the L2 demands. -/
def State.recordLeaves (s : State) (line : Nat) : Option State := recordLeavesWith State.leave s line

/-- Bring a line into the L2, making room in its set (R127, R131). -/
def State.l2Ensure (s : State) (pa va fields : Nat) : Option State := (s.l2Fill (pa / 256) va fields).fit (pa / 256)

/-- Take a line out of the L2 for good, written back, its record served. -/
def State.l2Leaves (s : State) (line : Nat) : Option State :=
  (s.recordLeaves line).map fun t => (t.l2WriteBack line).l2Drop line

/-- Write back and take every line of the L2 that satisfies `p`; a droppable tile's line is dropped as on eviction. -/
def State.l2Flush (s : State) (p : L2Line → Bool) : Option State :=
  ((s.die.l2.filter fun e => p e.2).map (·.1)).foldlM (fun t line => t.leave line) s

/-- Write bytes at the L2, as a write that is not a release, and through to the home at `.sys` (R127, R141). -/
def State.l2Store (s : State) (scope pa va fields : Nat) (bs : List Byte) : State :=
  let t := (s.l2Fill (pa / 256) va fields).l2Merge pa fields bs fun _ => true
  if scope = 3 then t.l2WriteBack (pa / 256) else t

/-! ### Room in an L1 (R125; log 17) -/

/-- Evict a line of an L1: its dirty bytes are written back. -/
def State.l1Evict (s : State) (k line : Nat) : Option State :=
  (s.wb1 none k line).map fun t => t.onCore k fun c => { c with l1 := del c.l1 line }

/-- Does the L1 hold the line of a physical address, or have a way for it? -/
def State.l1Fits (s : State) (c pa : Nat) : Bool := (s.l1? c pa).isSome || decide ((s.l1Ways c pa).length < 4)

/-- Make room in the L1 for the line of a physical address: R125 names no victim, so it is a free one of those that can
leave (log 17). -/
def State.l1Room (s : State) (c pa : Nat) : Option State :=
  if s.l1Fits c pa then some s
  else
    let k := s.l1Core c pa
    let vs := (s.l1Ways c pa).filter fun v => (s.l1Evict k v).isSome
    match vs[s.draw.1.toNat % vs.length]? with
    | none => none
    | some v => s.draw.2.l1Evict k v

/-! ### The dirty-object summary (R137) -/

/-- A core has written or read bytes of a LAZY object at the L2 or has fetched them: its later releases name the object, so
that their acquirers find bytes as new (R144; log 65). Where the summary has no entry left, WIDE stands for it. -/
def State.witness (s : State) (k obj : Nat) : State :=
  if s.eager obj then s
  else s.onCore k fun x =>
    if (x.summary.any fun e => e.obj == obj) then { x with summary := x.summary.map fun e => if e.obj = obj then { e with c := true } else e }
    else if x.summary.length < 32 then { x with summary := x.summary ++ [{ obj := obj, d := false, c := true }] }
    else { x with wide := true }

/-- Set D or C for an object, replacing the oldest entry when all 32 are in use (R137). An entry replaced with D set has C from
then on, as one whose D is cleared has (log 65), so that WIDE stands for it. -/
def State.summarize (s : State) (k obj : Nat) (d c : Bool) : Option State :=
  let es := (s.core k).summary
  if (es.any fun e => e.obj == obj) then
    let add : SumEnt → SumEnt := fun e => if e.obj = obj then { e with d := e.d || d, c := e.c || c } else e
    some (s.onCore k fun x => { x with summary := x.summary.map add })
  else if es.length < 32 then some (s.onCore k fun x => { x with summary := x.summary ++ [{ obj := obj, d := d, c := c }] })
  else match es with
    | [] => some s
    | old :: _ =>
      (if old.d then s.drain k fun o => o == old.obj else some s).map fun t =>
        let rest := ((t.core k).summary.filter fun e => e.obj != old.obj) ++ [{ obj := obj, d := d, c := c }]
        t.onCore k fun x => { x with wide := x.wide || old.c || old.d, summary := rest }

/-- Does a core hold no wave? -/
def State.waveless (s : State) (k : Nat) : Bool := s.waves.all fun w => w.id.core != k

/-- A core that holds no wave writes back every dirty byte, discards what its L1 holds, and clears its summary and WIDE
(R137). In a fused L1 the bytes that it wrote may lie in any of the eight slices. -/
def State.idleCore (s : State) (k : Nat) : Option State :=
  if !s.waveless k then some s
  else (s.wbTry none k fun _ => true).map fun t => t.onCore k fun x => { x with l1 := [], summary := [], wide := false }

/-! ### Fusing the L1s of a hardware cluster (R126; 07 R95) -/

/-- The cores of a hardware cluster whose state is not that of reset. -/
def State.coresOf (s : State) (hc : Nat) : List Nat := s.coreNos.filter fun k => k / 8 == hc

/-- The L1s of a hardware cluster become one, or eight again: a line that has its place in another core's L1 from then on must
not be left behind, so that they write back every dirty byte and discard the rest first (log 66). What the cores have written
and read as one cache each of them still has to name, so that WIDE is set on all of them (R144, log 65). `none`: a write-back
must wait. -/
def State.setFuse (s : State) (hc : Nat) (on : Bool) : Option State :=
  if s.die.fusedHw.contains hc == on then some s
  else ((s.coresOf hc).foldlM (fun (t : State) k => t.wbTry none k fun _ => true) s).map fun t =>
    let named := (s.coresOf hc).any fun k => (s.core k).wide || !(s.core k).summary.isEmpty
    (forEach (s.coresOf hc) t fun k u => u.onCore k fun c => { c with l1 := [], wide := c.wide || named }).onDie fun d =>
      { d with fusedHw := if on then d.fusedHw ++ [hc] else d.fusedHw.filter fun x => x != hc }

/-! ### Release records (R138, R139) -/

/-- The record entry and ALL bit that a core forms (R138 step 3); a fused L1 is one cache (R126). -/
def State.recordEntry (s : State) (k : Nat) : RecEntry × Bool :=
  let es := (s.l1Cores k).flatMap fun i => (s.core i).summary
  ({ core := k, drain := ((es.filter (·.d)).map (·.obj)).eraseDups, inval := ((es.filter (·.c)).map (·.obj)).eraseDups },
    (s.l1Cores k).any fun i => (s.core i).wide)

/-- Apply a core's entry to a record (R139): the record, and whether the release overflowed: the entry would be a fifth, or
a merged set would pass 32 ids. -/
def RelRecord.apply (r : RelRecord) (e : RecEntry) (all : Bool) : RelRecord × Bool :=
  let old := r.entries.find? fun x => x.core == e.core
  let m : RecEntry := match old with
    | some x => { core := e.core, drain := unionL x.drain e.drain, inval := unionL x.inval e.inval }
    | none => e
  if 32 < m.drain.length ∨ 32 < m.inval.length ∨ (old.isNone ∧ 4 ≤ r.entries.length) then ({ r with all := true }, true)
  else ({ entries := if old.isSome then r.entries.map fun y => if y.core = e.core then m else y else r.entries ++ [e]
          all := r.all || all }, false)

/-- The record that a release's write meets at a line; `whole`: the write takes every byte of it. -/
def State.recordMet (s : State) (line : Nat) (whole : Bool) : RelRecord :=
  if whole then RelRecord.empty else match s.l2? line with
    | none => RelRecord.empty
    | some l => l.rel

/-- The write-backs of a release that overflows the record of the line, made before it performs (R139). -/
def State.relDrain (s : State) (line : Nat) (e : Option (RecEntry × Bool)) (whole : Bool) : Option State :=
  match e with
  | none => some s
  | some (x, all) => if ((s.recordMet line whole).apply x all).2 then s.drain x.core fun o => x.drain.contains o else some s

/-- A release's write takes its place in the record of the line (R139). -/
def State.relApply (s : State) (line : Nat) (e : Option (RecEntry × Bool)) (whole : Bool) : State :=
  match e with
  | none => s
  | some (x, all) => s.onL2 line fun l => { l with rel := ((if whole then RelRecord.empty else l.rel).apply x all).1 }

/-- An engine or a copy writes bytes of one line at the L2, with a release's record entry if it has one (R139, R272). -/
def State.l2Put (s : State) (rel : Option (RecEntry × Bool)) (scope pa va fields : Nat) (bs : List Byte) : Option State :=
  (s.relDrain (pa / 256) rel (bs.length == 256)).bind fun t =>
    ((t.l2Store scope pa va fields bs).relApply (pa / 256) rel (bs.length == 256)).fit (pa / 256)

/-- What step 2 of R138 writes back: the core's dirty bytes of object 0 and of every EAGER object. -/
def State.relWrites (s : State) (l : L1Line) : Bool := s.eager l.obj

/-- A strong load at `.die` or `.clus` reads a line with a record (R140, first part): the drains, which make room by `fit`, and
the drain sets become part of what an acquirer must discard (log 22). R140 does not say whether the reader's own drain set is
emptied with the others although it has not drained; the model keeps it (log 22). -/
def State.recordDrainBy (fit : State → Nat → Option State) (s : State) (reader line : Nat) : Option State :=
  match s.l2? line with
  | none => some s
  | some l =>
    let move : RecEntry → RecEntry := fun e =>
      if e.core = reader then e else { e with drain := [], inval := unionL e.inval e.drain }
    (l.rel.entries.foldlM (fun t e => if e.core = reader then some t else drainWith fit e.core (fun o => e.drain.contains o) t) s).map fun t =>
      t.onL2 line fun l => { l with rel := { l.rel with entries := l.rel.entries.map move } }

/-- The drains of a line's record for a reader whose bytes have been taken. -/
def State.recordDrain (s : State) (reader line : Nat) : Option State := s.recordDrainBy State.fit reader line

/-- The drains for a reader that still has to take its bytes: room is made when it has them (21 R294). -/
def State.recordDrainOver (s : State) (reader line : Nat) : Option State := s.recordDrainBy fitLater reader line

/-- The objects a line's record names, and its ALL bit. -/
def State.recordNames (s : State) (line : Nat) : List Nat × Bool :=
  match s.l2? line with
  | none => ([], false)
  | some l => (idsOf l.rel.entries, l.rel.all)

/-- The acquire side of R140 for core `k`, given the objects named and ALL. -/
def State.acquireNamed (s : State) (k : Nat) (ids : List Nat) (all : Bool) : Option State :=
  let t := s.discardClean k fun l => all || ids.contains l.obj || s.eager l.obj
  (ids.foldlM (fun (t : State) o => t.summarize k o false true) t).map fun u =>
    if all then u.onCore k fun x => { x with wide := true } else u

/-- Write back every dirty byte of the core's L1 and clear all D bits (R141, R142). -/
def State.releaseAll (s : State) (k : Nat) : Option State := s.drain k fun _ => true

/-- Discard every clean byte and set WIDE (R142, R368). -/
def State.acquireAll (s : State) (k : Nat) : State :=
  (s.discardClean k fun _ => true).onCore k fun x => { x with wide := true }

/-- Discard every clean byte (R141). -/
def State.acquireSys (s : State) (k : Nat) : State := s.discardClean k fun _ => true

/-- Is a scope's point beyond the core's cache? `.core` 0, `.clus` 1, `.die` 2, `.sys` 3 (Table 9.4). -/
def State.beyondL1 (s : State) (c scope : Nat) : Bool := decide (2 ≤ scope) || (scope == 1 && !s.fused c)

/-- The objects whose D bit a core's L1 has in its summaries. -/
def State.dirtyObjs (s : State) (k : Nat) : List Nat := ((s.l1Cores k).flatMap fun i => ((s.core i).summary.filter (·.d)).map (·.obj)).eraseDups

/-- Step 2 of a release that has no access of its own (R368). -/
def State.plainRelease (s : State) (k scope : Nat) : Option State :=
  if scope = 3 then s.releaseAll k
  else if s.beyondL1 k scope then
    let ds := s.dirtyObjs k
    (s.wbTry none k fun l => s.eager l.obj || ds.contains l.obj).map fun t => t.clearSum k fun o => ds.contains o
  else some s

/-- An acquire that has no access of its own (R368). -/
def State.plainAcquire (s : State) (k scope : Nat) : State :=
  if scope = 3 then s.acquireSys k else if s.beyondL1 k scope then s.acquireAll k else s

end Sys2Proof.Machine
end

