-- ==== Sys2Proof/Machine/Translate.lean ====
section
/-! DEFINITION. Translation and the checks of a memory access (spec/09_memory_and_ordering.md R119, R124, R148, R150,
R152 to R154; 21 R291, R296; 27 R354, R363). -/

namespace Sys2Proof.Machine

/-! ### Fault codes (Table 25.1) -/

def cPAGE_ABSENT : Nat := 0x01
def cPROTECTION : Nat := 0x02
def cPEER_DIRECT : Nat := 0x03
def cHANDOVER : Nat := 0x04
def cRANGE_LOCKED : Nat := 0x05
def cTMEM_PENDING_STORE : Nat := 0x06
def cSEALED_WRITE : Nat := 0x07
def cRECIPE_DEPTH : Nat := 0x08
def cALIGN : Nat := 0x09
def cBAD_LANDING : Nat := 0x0A
def cEMPTY_READ : Nat := 0x0B
def cFORMAT_DIVERGENCE : Nat := 0x0C
def cILLEGAL_CONVERGENCE : Nat := 0x0D
def cRESERVED_ENCODING : Nat := 0x0E
def cARITH : Nat := 0x0F
def cSTACK_OVERFLOW : Nat := 0x10
def cREGION_ILLEGAL : Nat := 0x11
def cKEY_ABSENT : Nat := 0x12
def cPOISON : Nat := 0x13
def cTERM_OPERAND : Nat := 0x14
def cCARD_TOO_LARGE : Nat := 0x15

/-! ### TLBs (R154) -/

/-- The TLB entry of a page, from the core's L1 TLB or its cluster's TLB. -/
def State.tlbHit (s : State) (c vpn : Nat) : Option TlbEnt :=
  match (s.core c).tlb.find? fun e => e.vpn == vpn with
  | some e => some e
  | none => (look [] s.die.tlb2 (c / 8)).find? fun e => e.vpn == vpn

/-- Enter a translation into both TLBs; the oldest entry leaves a full one (log 10). -/
def State.tlbFill (s : State) (c : Nat) (e : TlbEnt) : State :=
  let add (n : Nat) (l : List TlbEnt) :=
    let k := (l.filter fun x => x.vpn != e.vpn) ++ [e]
    k.drop (k.length - n)
  (s.onCore c fun k => { k with tlb := add 128 k.tlb }).onDie fun d => { d with tlb2 := upd [] d.tlb2 (c / 8) (add 8192) }

/-- Drop the entries that satisfy `p` from every TLB (R154). -/
def State.tlbDrop (s : State) (p : TlbEnt → Bool) : State :=
  let t := forEach s.coreNos s fun k t => t.onCore k fun c => { c with tlb := c.tlb.filter fun e => !p e }
  t.onDie fun d => { d with tlb2 := d.tlb2.map fun e => (e.1, e.2.filter fun x => !p x) }

/-- Does the instruction that the wave executes again wait on the outstanding fault of a page or of a handover range, one
that it created or joined before (25 R336)? -/
def State.owes (s : State) (w : Wave) (k : FaultKey) : Bool :=
  let toks := look [] w.mem.owed w.flow.pc.toNat
  s.die.faults.any fun f => f.key == k && toks.contains f.token

/-- A page as a wave on core `c` finds it: in a TLB, or ended without a leaf for the instruction at hand, or not yet
walked (`none`). A page whose fault the instruction still waits on is absent to it (25 R336). -/
def State.pageOf (s : State) (w : Wave) (vpn : Nat) : Option Walk :=
  if s.owes w (.page vpn) then some .absent
  else match s.tlbHit w.id.core vpn with
  | some e => some (.leaf e)
  | none => if w.mem.walked.contains vpn then some (s.walk (vpn * 65536)) else none

/-! ### The checks of R153 -/

/-- The handover entry whose range holds a virtual address (R148). -/
def State.hoOf (s : State) (va : Nat) : Option (Nat × HoEnt) :=
  s.tabs.hotab.find? fun e => e.2.valid && e.2.base == va / 2 ^ 21

/-- Is the address in a range that is not DEVICE? -/
def State.handedOver (s : State) (va : Nat) : Bool := match s.hoOf va with
  | none => false
  | some e => e.2.state != 0

/-- Does an access meet a range lock (R124)? -/
def State.locked (s : State) (va : Nat) (wr : Bool) : Bool :=
  s.die.locks.any fun l => decide (l.lo ≤ va / 256) && decide (va / 256 ≤ l.hi) && (l.dest || wr)

/-- Is the wave the one that rebuilds this tile (21 R291, R296)? -/
def Wave.rebuilds (w : Wave) (t : TileId) : Bool := w.id.tile == some t

/-- Does a write raise SEALED_WRITE (21 R291)? -/
def State.sealedWrite (s : State) (w : Wave) (va : Nat) : Bool := match s.sealedTile va with
  | none => false
  | some t => !w.rebuilds t

/-- What an access may do. -/
structure Rights where
  rd : Bool
  wr : Bool
  deriving DecidableEq, Repr

/-- The codes that one lane raises, by R153 step 3, the first first; pages that have been walked are given. -/
def State.laneCode (s : State) (w : Wave) (k : Rights) (va : Nat) : Option Nat :=
  if 2 ^ 49 ≤ va then some cPROTECTION
  else if 2 ^ 48 ≤ va then some cPEER_DIRECT
  else match s.pageOf w (va / 65536) with
    | none => none
    | some .prot => some cPROTECTION
    | some .absent => some cPAGE_ABSENT
    | some .poison => some cPOISON
    | some (.leaf e) =>
      if (k.rd && !e.r) || (k.wr && !e.w) then some cPROTECTION
      else if s.handedOver va then some cHANDOVER
      else if s.keyAbsent e.fields then some cKEY_ABSENT
      else if s.locked va k.wr then some cRANGE_LOCKED
      else if k.wr && s.sealedWrite w va then some cSEALED_WRITE
      else none

/-- The order of R153 step 3; POISON, which a walk may meet (01 R24), has no place in it and comes last (log 61). -/
def codeOrder : List Nat :=
  [cPEER_DIRECT, cPROTECTION, cPAGE_ABSENT, cHANDOVER, cKEY_ABSENT, cRANGE_LOCKED, cSEALED_WRITE, cPOISON]

/-- Pages of the lanes that no TLB holds and that have not been walked. -/
def State.unwalked (s : State) (w : Wave) (vas : List Nat) : List Nat :=
  ((vas.filter fun va => decide (va < 2 ^ 48)).map (· / 65536)).eraseDups.filter fun p => (s.pageOf w p).isNone

/-- The translation of an address that raised no code. -/
def State.transOf (s : State) (w : Wave) (va : Nat) : Nat × Nat :=
  match s.pageOf w (va / 65536) with
  | some (.leaf e) => (e.frame * 65536 + va % 65536, e.fields)
  | _ => (va, 0)

/-- What R153 decides of an access. -/
inductive Checked where
  /-- a TLB misses: the pages to walk -/
  | walk (pages : List Nat)
  /-- a code, the lanes that raise it with their addresses, and FVA -/
  | fault (code : Nat) (lanes : List (Nat × Nat)) (fva : Nat)
  /-- the tiles that it misses, and its lanes with their addresses -/
  | miss (tiles : List TileId) (lanes : List (Nat × Nat))
  | ok (accs : List LaneAcc)
  deriving DecidableEq, Repr

/-- The dropped or forming tiles that an access touches (21 R296). -/
def State.missTiles (s : State) (w : Wave) (vas : List Nat) : List TileId :=
  (vas.filterMap fun va => match s.sealedTile va with
    | none => none
    | some t => if w.rebuilds t || (s.tile t).st == .present then none else some t).eraseDups

/-! ### Bytes that are on their way (R135, R136) -/

/-- Do `n` bytes at `a` and `m` bytes at `b` meet? -/
def meets (a n b m : Nat) : Bool := decide (a < b + m) && decide (b < a + n)

/-- What a queue holds for some bytes. -/
inductive Seen where
  | val (x : Nat)
  | wait
  | free
  deriving DecidableEq, Repr

/-- The newest value in the wave's own store queue for bytes of a load of sequence number `seq` (R135). A load that covers
only some bytes of a queued store waits, as R135 says; that a load which covers all of the store's bytes and others beside
waits as well is the model's choice: R135 does not say how such a value is put together (log 67). -/
def Wave.queued (w : Wave) (tile : Bool) (seq addr n : Nat) : Seen :=
  let piece : StoreEnt → Option (StoreEnt × LaneAcc) := fun e =>
    if e.tile = tile ∧ e.seq < seq then (e.lanes.reverse.find? fun l => meets addr n l.pa e.size).map fun l => (e, l) else none
  match w.mem.sq.reverse.findSome? piece with
  | none => .free
  | some (e, l) => if l.pa = addr ∧ e.size = n then .val l.data else .wait

/-- Would a read of these bytes by a wave of core `c` now take poisoned data (05 R84): they would come from the L2 or the home,
where a read takes them from neither the wave's own stores nor the L1; `at2`: the access performs at the L2 or beyond? -/
def State.readsPoison (s : State) (w : Wave) (at2 : Bool) (seq size : Nat) (a : LaneAcc) : Bool :=
  (at2 || (w.queued false seq a.pa size == .free && !s.l1Has w.id.core a.pa size &&
    !(w.mem.strong.any fun e => meets a.pa size e.pa e.size) &&
    !(s.core w.id.core).wbuf.any fun q => q.2.any fun e => meets a.pa size e.pa e.size)) && s.fillPoison a.pa a.fields

/-- R153 for lanes at addresses of `size` bytes, given as (lane, address). A read of poisoned data is the last check, so that
its fault is precise: no lane's access has been performed (05 R84; 25 R331; log 61). -/
def State.check (s : State) (w : Wave) (k : Rights) (size : Nat) (ls : List (Nat × Nat)) : Checked :=
  let bad := ls.filter fun e => e.2 % size != 0
  match bad with
  | e :: _ => .fault cALIGN bad e.2
  | [] =>
    match s.unwalked w (ls.map (·.2)) with
    | p :: ps => .walk (p :: ps)
    | [] =>
      let codes := ls.map fun e => (e, s.laneCode w k e.2)
      match codeOrder.find? fun c => codes.any fun x => x.2 == some c with
      | some c =>
        let fs := codes.filter fun x => x.2 == some c
        .fault c (fs.map (·.1)) ((fs.headD ((0, 0), none)).1.2)
      | none =>
        match s.missTiles w (ls.map (·.2)) with
        | t :: ts => .miss (t :: ts) ls
        | [] =>
          let as := ls.map fun e =>
            let p := s.transOf w e.2
            ({ lane := e.1, va := e.2, pa := p.1, fields := p.2, data := 0, cmp := 0 } : LaneAcc)
          match (if k.rd then as.filter fun a => s.readsPoison w k.wr w.mem.seq size a else []) with
          | a :: t => .fault cPOISON ((a :: t).map fun x => (x.lane, x.va)) a.va
          | [] => .ok as

end Sys2Proof.Machine
end

