-- ==== Sys2Proof/Machine/Access.lean ====
section
/-! DEFINITION. How memory accesses perform: tile memory and its tags, store queues, loads, write buffers, atomics
(spec/09_memory_and_ordering.md R120 to R122, R134 to R142, R147; 13 R207 to R214; 05 R85). -/

namespace Sys2Proof.Machine

/-! ### Tile memory (R120, R121) -/

def tagPLAIN : Nat := 0
def tagPENDING : Nat := 1
def tagVALID : Nat := 2
def tagCONSUMED : Nat := 3

/-- Bytes of a block's tile memory (log 6). -/
def Block.tileBytes (b : Block) (off n : Nat) : List Byte := (List.range n).map fun i => look 0 b.tile (off + i)

/-- Write bytes of tile memory; a byte 0 is not listed (log 6). -/
def Block.putTile (b : Block) (off : Nat) (bs : List Byte) : Block := { b with tile := putBytes b.tile off bs }

/-- The tag of a tile line. -/
def Block.tag (b : Block) (line : Nat) : Nat := look tagPLAIN b.tags line

/-- Set the tag of a tile line. -/
def Block.setTag (b : Block) (line t : Nat) : Block := { b with tags := putD tagPLAIN b.tags line t }

/-- The lines of a range of tile memory. -/
def tileLinesOf (off n : Nat) : List Nat :=
  if n = 0 then [] else (List.range ((off + n - 1) / 128 - off / 128 + 1)).map fun i => off / 128 + i

/-- Does a range hold a PENDING line? -/
def Block.pending (b : Block) (off n : Nat) : Bool := (tileLinesOf off n).any fun l => b.tag l == tagPENDING

/-- A thread store to tile memory: VALID and CONSUMED lines become PLAIN (Table 9.2). -/
def Block.storeTile (b : Block) (off : Nat) (bs : List Byte) : Block :=
  let plain : Nat → Block → Block := fun l b => if b.tag l = tagPENDING then b else b.setTag l tagPLAIN
  (tileLinesOf off bs.length).foldl (fun b l => plain l b) (b.putTile off bs)

/-- Bytes of the tile memory of block `k`. -/
def State.tileBytes (s : State) (k : Nat) (off n : Nat) : List Byte := match s.blk? k with
  | none => List.replicate n 0
  | some b => b.tileBytes off n

/-! ### Waves, resident or saved -/

/-- Change the wave with a number, on the die or in a save image (25 R343). -/
def State.onAny (s : State) (wid : Nat) (f : Wave → Wave) : State :=
  if (s.wave? wid).isSome then s.onWave wid f
  else
    s.onSaved fun x => if x.wave.id.wid = wid then { x with wave := f x.wave } else x

/-- A wave on the die or in a save image. -/
def State.any? (s : State) (wid : Nat) : Option Wave :=
  match s.wave? wid with
  | some w => some w
  | none => ((s.die.saved.flatMap (·.waves)).find? fun x => x.wave.id.wid == wid).map (·.wave)

/-- The tile memory that a wave on the die or in an image loads from. -/
def State.tileOf (s : State) (w : Wave) : Option Block := w.id.blk.bind s.blk?

/-! ### Overlap -/

/-- Has an earlier weak store of the wave to the 128-byte line not drained (R136 rule 1)? -/
def Wave.undrained (w : Wave) (seq pa : Nat) : Bool :=
  w.mem.sq.any fun e => !e.tile && decide (e.seq < seq) && e.lanes.any fun l => l.pa / 128 == pa / 128

/-! ### The path to the point (R136 rule 1) -/

/-- The core writes back its dirty bytes of the line, as the region `own` or as none, and discards its copy; `none`: the
write-back must wait (23 R325). -/
def State.toPoint (s : State) (own : Option Nat) (c pa : Nat) : Option State :=
  let k := s.l1Core c pa
  (s.wb1 own k (pa / 128)).map fun t => t.onCore k fun x => { x with l1 := del x.l1 (pa / 128) }

/-- The path to the point of an access that still has to take bytes: room in the L2 is made when it has them (21 R294). -/
def State.toPointOver (s : State) (own : Option Nat) (c pa : Nat) : Option State :=
  let k := s.l1Core c pa
  (wb1With fitLater own s k (pa / 128)).map fun t => t.onCore k fun x => { x with l1 := del x.l1 (pa / 128) }

/-- A strong access reaches its line in the L2: the path, and the line fetched, whose object the core's later releases name
(R144, log 65). The set of the line is brought back to its ways when the access is done. -/
def State.reachL2 (s : State) (c : Nat) (l : LaneAcc) : Option State :=
  (s.toPointOver none c l.pa).map fun t => (t.l2Fill (l.pa / 256) l.va l.fields).witness c (s.objOf l.va)

/-! ### Loads -/

/-- What becomes of a load that tries to perform: it performs, with the state after it and its values by lane; it waits;
it meets poisoned data. -/
inductive Bound where
  | ok (s : State) (vals : Map Nat)
  | wait
  | poison (lane va : Nat)
  deriving DecidableEq, Repr

/-- Bytes of the L2's line, with the dirty bytes of the core's L1 over them. -/
def State.underDirty (s : State) (c pa n : Nat) : List Byte :=
  let own := s.l1? c pa
  (List.range n).map fun i => match own with
    | some l => if l.dirty.getLsbD (pa % 128 + i) then l.data.getD (pa % 128 + i) 0 else (s.l2Bytes pa n).getD i 0
    | none => (s.l2Bytes pa n).getD i 0

/-- The value of an L1 load (R135, R136): from the L1, fetched on a miss; `none` if the fetch meets poison. While the line
has an uncommitted version the load reads the L2, under the core's own dirty bytes, and fills nothing (23 R325); clean bytes
that the L1 still holds of it, which may be older, go (R146). A load for whose line the L1 has no way that can be freed reads
the L2 in the same way (log 17). -/
def State.l1Load (s : State) (c pa va fields n : Nat) : Option (State × Nat) :=
  let past := fun (t : State) => if t.l2Poison pa then none else some (t, bytesNat (t.underDirty c pa n))
  if s.versionHeld (pa / 64) then past ((s.dropClean c pa).l2Fill (pa / 256) va fields)
  else if s.l1Has c pa n then some (s, bytesNat (s.l1Bytes c pa n))
  else match s.l1Room c pa with
    | none => past (s.l2Fill (pa / 256) va fields)
    | some r =>
      let t := r.l2Fill (pa / 256) va fields
      if t.l2Poison pa then none else some (t.l1Fill c pa va fields, bytesNat ((t.l1Fill c pa va fields).l1Bytes c pa n))

/-- A load of the L1 for a wave: what it takes from the L2 the core's later releases name (R144, log 65), and counter 4 counts
the wave's misses (13 R225). -/
def State.l1LoadW (s : State) (w : Wave) (pa va fields n : Nat) : Option (State × Nat) :=
  let c := w.id.core
  if s.l1Has c pa n then (s.l1Load c pa va fields n).map fun r => (if s.versionHeld (pa / 64) then r.1.witness c (s.objOf va) else r.1, r.2)
  else (s.l1Load c pa va fields n).map fun r => ((r.1.witness c (s.objOf va)).onAny w.id.wid fun v => v.perfAdd 4 1, r.2)

/-- Is a buffer entry whose value a load of the wave took still to perform, for some of these bytes? A weak load of them
waits for it, so that it does not find an older value (R146). -/
def State.forwarded (s : State) (w : Wave) (pa n : Nat) : Bool :=
  (s.core w.id.core).wbuf.any fun q => q.2.any fun e => w.mem.fwd.contains e.id && meets pa n e.pa e.size

/-- One lane of a weak load. -/
def State.weakLane (s : State) (w : Wave) (seq size : Nat) (l : LaneAcc) : Bound :=
  match w.queued false seq l.pa size with
  | .val x => .ok s [(l.lane, x)]
  | .wait => .wait
  | .free =>
    if s.forwarded w l.pa size then .wait
    else match s.l1LoadW w l.pa l.va l.fields size with
      | none => .poison l.lane l.va
      | some (t, x) => .ok t [(l.lane, x)]

/-- One lane of an LDT (R121, R135). -/
def State.tileLane (s : State) (w : Wave) (seq size : Nat) (l : LaneAcc) : Bound :=
  match s.tileOf w with
  | none => .wait
  | some b =>
    if b.pending l.pa size then .wait
    else match w.queued true seq l.pa size with
      | .val x => .ok s [(l.lane, x)]
      | .wait => .wait
      | .free => .ok s [(l.lane, bytesNat (b.tileBytes l.pa size))]

/-- The newest entry in any write buffer of a core that meets the bytes of a load, with what the wave has not yet put into
a buffer counted as an entry that makes the load wait. -/
def State.buffered (s : State) (w : Wave) (seq addr n : Nat) : Option WbEnt :=
  let es := ((s.core w.id.core).wbuf.flatMap (·.2)).filter fun e => meets addr n e.pa e.size
  let own := w.mem.strong.filter fun e => decide (e.seq < seq) && meets addr n e.pa e.size
  match own.getLast? with
  | some e => some { e with aop := some 0 }
  | none => es.foldl (fun b e => match b with
      | none => some e
      | some x => if x.id < e.id then some e else b) none

/-- One lane of a strong load (R136, R140, R141). R136 says of a load that may not be forwarded only that it is never
forwarded: an acquire that meets a buffer entry of its core, and a load that meets the entry of an atomic, wait until the
entry performs (log 62). -/
def State.strongLane (s : State) (w : Wave) (e : LoadEnt) (l : LaneAcc) : Bound :=
  let c := w.id.core
  if w.undrained e.seq l.pa then .wait
  else
    match s.buffered w e.seq l.pa e.size with
    | some b =>
      if b.aop = none ∧ b.pa ≤ l.pa ∧ l.pa + e.size ≤ b.pa + b.size ∧ e.acq = false then
        .ok (s.onAny w.id.wid fun v => { v with mem := { v.mem with fwd := v.mem.fwd ++ [b.id] } })
          [(l.lane, b.data / 2 ^ (8 * (l.pa - b.pa)) % 2 ^ (8 * e.size))]
      else .wait
    | none =>
      if !s.beyondL1 c e.scope then
        match s.l1LoadW w l.pa l.va l.fields e.size with
        | none => .poison l.lane l.va
        | some (t, x) => .ok t [(l.lane, x)]
      else match s.reachL2 c l with
        | none => .wait
        | some t =>
          if t.l2Poison l.pa then .poison l.lane l.va
          else match (if e.scope = 3 then some t else t.recordDrainOver c (l.pa / 256)) with
            | none => .wait
            | some u => .ok u [(l.lane, bytesNat (u.l2Bytes l.pa e.size))]

/-! ### Term units and the order of tile accesses (15 R244; 17 R247, R261, R262) -/

/-- The bytes of tile memory that a TMM's A operand takes: of a TLF tile whose header can be read, all of it. -/
def TermOp.aBytes (o : TermOp) (b : Block) : Nat :=
  if fwAstore o.fw = 1 then
    (if b.pending o.aoff 16 then b.tmem - o.aoff
     else
      let h := TlfHdr.parse ((b.tileBytes o.aoff 16).map (·.toNat))
      if h.valid && h.kind == fwAkind o.fw && h.rows == 64 && h.e == 192 && decide (o.aoff + h.extent ≤ b.tmem) then h.extent else 16)
  else aExtent o.fw

/-- Do an earlier TMM or XMM of the wave still have to read some of these bytes (15 R244)? -/
def State.termReads (s : State) (w : Wave) (seq off n : Nat) : Bool :=
  let c := s.core w.id.core
  match s.tileOf w with
  | none => false
  | some b =>
    (c.ta.any fun a => a.2.queue.any fun o =>
      o.kind == .tmm && o.wid == w.id.wid && decide (o.seq < seq) && meets off n o.aoff (o.aBytes b)) ||
    c.xq.any fun o => o.wid == w.id.wid && decide (o.seq < seq) &&
      (meets off n o.aoff (xmmBytes o.form) || meets off n o.boff (xmmBytes o.form))

/-- Is a TLDEC or DECS of the wave, issued before access `seq`, still to perform its loads and stores? -/
def State.unitBusy (s : State) (w : Wave) (seq : Nat) : Bool :=
  let c := s.core w.id.core
  (c.tlfq ++ c.decq).any fun o => o.wid == w.id.wid && decide (o.seq < seq)

/-- Do two loads of global memory take a byte in common? -/
def LoadEnt.meets (e x : LoadEnt) : Bool :=
  e.kind != .tile && x.kind != .tile && e.lanes.any fun l => x.lanes.any fun m => Machine.meets l.pa e.size m.pa x.size

/-- May the load perform before the wave's other outstanding loads (R135, R136 rule 4, R140 step 3)? Loads of one byte keep
their order, so that the later one does not find an older value (R146). -/
def LoadEnt.inOrder (e : LoadEnt) (ls : List LoadEnt) : Bool :=
  ls.all fun x => decide (e.seq ≤ x.seq) ||
    (!x.acq && !((e.kind == .weak || e.kind == .tile) && (x.kind == .weak || x.kind == .tile)) &&
      !(e.kind == .strong && x.kind == .strong) && !e.meets x)

/-- All lanes of a load, in ascending order. -/
def boundAll (f : State → LaneAcc → Bound) : List LaneAcc → State → Bound
  | [], s => .ok s []
  | l :: t, s => match f s l with
    | .ok s' v => match boundAll f t s' with
      | .ok s'' vs => .ok s'' (v ++ vs)
      | b => b
    | b => b

/-- What an acquire does once its reads have performed, given the objects that the records named and ALL (R140, R141). -/
def State.acquireDone (s : State) (c scope : Nat) (ids : List Nat) (all : Bool) : Option State :=
  if scope = 3 then some (s.acquireSys c) else if s.beyondL1 c scope then s.acquireNamed c ids all else some s

/-- What the acquire of a load does after all its lanes. -/
def State.acquireLines (s : State) (c scope : Nat) (lines : List Nat) : Option State :=
  let ns := lines.map fun x => s.recordNames x
  s.acquireDone c scope (ns.foldl (fun a n => unionL a n.1) []) (ns.any (·.2))

/-- An outcome that goes on with a state that may have to wait. -/
def Bound.after (vs : Map Nat) : Option State → Bound
  | none => .wait
  | some t => .ok t vs

/-- The wave's load has its bytes: no eviction waits for it any more (21 R294). -/
def State.loadDone (s : State) (wid seq : Nat) : State :=
  s.onAny wid fun v => { v with mem := { v.mem with loads := v.mem.loads.filter fun x => x.seq != seq } }

/-- Try to perform an outstanding load of a wave (R135, R136, R140). Region accesses have their values; an atomic has them
once every lane has performed, and its acquire comes then (13 R211). -/
def State.bindLoad (s : State) (w : Wave) (e : LoadEnt) : Bound :=
  match e.kind with
  | .region => .ok s e.got
  | .atomic =>
    if e.got.length = e.lanes.length then
      (if e.acq then .after e.got (s.acquireDone w.id.core e.scope e.objs e.all) else .ok s e.got)
    else .wait
  | .weak => if e.inOrder w.mem.loads && !s.unitBusy w e.seq then boundAll (fun s l => s.weakLane w e.seq e.size l) e.lanes s else .wait
  | .tile => if e.inOrder w.mem.loads && !s.unitBusy w e.seq then boundAll (fun s l => s.tileLane w e.seq e.size l) e.lanes s else .wait
  | .strong =>
    if e.inOrder w.mem.loads then
      match boundAll (fun s l => s.strongLane w e l) e.lanes s with
      | .ok t vs =>
        if e.acq then .after vs ((t.loadDone w.id.wid e.seq).acquireLines w.id.core e.scope (e.lanes.map fun l => l.pa / 256)) else .ok t vs
      | b => b
    else .wait

/-- The L2 sets that a load may have filled are brought back to their ways once it has performed (R127): those of its lines,
and after a strong load, whose drains reach other lines, every set. -/
def State.loadFits (s : State) (e : LoadEnt) : Option State :=
  if e.kind = .weak then s.fitAll (e.lanes.map fun l => l.pa / 256) else if e.kind = .strong then s.fitEvery else some s

/-- A loaded value as the destination takes it (R207): sign- or zero-extended to 32 bits for one register. -/
def extendLoad (size : Nat) (sx : Bool) (x : Nat) : Nat :=
  if sx && decide (size < 4) && x.testBit (8 * size - 1) then x % 2 ^ (8 * size) + (2 ^ 32 - 2 ^ (8 * size)) else x

/-- Registers that an access of `size` bytes needs. -/
def regsOf (size : Nat) : Nat := if size ≤ 4 then 1 else size / 4

/-- Give a wave a value of several registers in one lane. -/
def Wave.putLane (w : Wave) (d n l x : Nat) : Wave :=
  (List.range n).foldl (fun w i => w.wrVMask (maskOf [l]) (d + i) fun _ => BitVec.ofNat 32 (x / 2 ^ (32 * i))) w

/-- V2S moves whose source is full write their scalar destination (R194). -/
def Wave.settleV2S (w : Wave) : Wave :=
  let ready := w.mem.v2s.filter fun m => w.fullV m.2.1 1
  let v := ready.foldl (fun w m => (w.wrS m.1 (w.lane m.2.1 m.2.2)).markS m.1 1 true) w
  { v with mem := { v.mem with v2s := v.mem.v2s.filter fun m => !ready.contains m } }

/-- A reply writes its registers and marks them full; flags of an atomic come above bit 64 (R48, R67, R207, R211). -/
def Wave.reply (w : Wave) (e : LoadEnt) (vals : Map Nat) : Wave :=
  let n := regsOf e.size
  let v := if e.scalar then
      let x := look 0 vals 0
      ((List.range n).foldl (fun w i => w.wrS (e.dst + i) (BitVec.ofNat 32 (x / 2 ^ (32 * i)))) w).markS e.dst n true
    else
      (vals.foldl (fun w p => w.putLane e.dst n p.1 (extendLoad e.size e.sx (p.2 % 2 ^ (8 * max e.size 8)))) w).markV e.dst n true
  let fl : Flags := if e.kind = .atomic ∨ (e.kind = .region ∧ e.size ≤ 8) then vals.foldl (fun f p => f ||| BitVec.ofNat 32 (p.2 / 2 ^ 64)) 0 else 0
  let u := { v with mem := { v.mem with loads := v.mem.loads.filter fun x => x.seq != e.seq } }
  (u.orFlags fl).settleV2S

/-! ### Store queues (R135) -/

/-- Is a buffer entry whose value a load of the core took still to perform, for some of these bytes? A weak store to them waits
for it: the core's dirty bytes are newer than every value that it read before (R146). -/
def State.coreForwarded (s : State) (c pa n : Nat) : Bool := s.waves.any fun v => v.id.core == c && s.forwarded v pa n

/-- May the entry drain now: earlier loads have performed, term units have read what it overwrites (15 R244), no region holds
its lines (23 R325), and the values that its core took from write buffers for its bytes have reached their point (R146)? -/
def State.canDrain (s : State) (w : Wave) (e : StoreEnt) : Bool :=
  w.mem.loads.all (fun l => decide (e.seq < l.seq)) && !s.unitBusy w e.seq &&
  (if e.tile then e.lanes.all fun l => !s.termReads w e.seq l.pa e.size
   else e.lanes.all fun l => !s.regionHeld none (l.pa / 64) && !s.coreForwarded w.id.core l.pa e.size)

/-- A store of core `c` in the L1: the bytes are dirty, and a LAZY object gets its D bit (R125, R137). In a fused L1, which is
one cache with eight summaries, the bit goes to the storing core's (log 17). `none`: the L1 has no way for the line, or the
write-back of a replaced summary entry must wait. -/
def State.l1Store (s : State) (c size : Nat) (l : LaneAcc) : Option State :=
  (s.l1Room c l.pa).bind fun r =>
    let t := r.l1Write c l.pa l.va l.fields (natBytes size l.data)
    let o := s.objOf l.va
    if s.eager o then some t else t.summarize c o true false

/-- Drain an entry, its lanes in ascending order. -/
def State.drainEntry (s : State) (w : Wave) (e : StoreEnt) : Option State :=
  if e.tile then
    match w.id.blk with
    | none => some s
    | some k => some (forEach e.lanes s fun l t => t.onBlk k fun b => b.storeTile l.pa (natBytes e.size l.data))
  else e.lanes.foldlM (fun t l => t.l1Store w.id.core e.size l) s

/-- Drain the oldest entry of a wave's store queue, if it can. -/
def State.drainOldest (s : State) (wid : Nat) : Option State :=
  match s.wave? wid with
  | none => none
  | some w => match w.mem.sq with
    | [] => none
    | e :: _ =>
      if s.canDrain w e then
        (s.drainEntry w e).map fun t => t.onWave wid fun v => { v with mem := { v.mem with sq := v.mem.sq.drop 1 } }
      else none

/-! ### Releases (R138, R141) and write buffers (R136) -/

/-- Have all accesses of the wave before sequence number `seq` performed, the tile accesses of its TLDEC and DECS among them
(R138 step 1; 17 R261, R262)? -/
def State.earlierDone (s : State) (w : Wave) (seq : Nat) : Bool :=
  !s.unitBusy w seq &&
  w.mem.sq.all (fun e => decide (seq ≤ e.seq)) && w.mem.loads.all (fun e => decide (seq ≤ e.seq)) &&
  w.mem.strong.all (fun e => decide (seq ≤ e.seq)) &&
  (s.core w.id.core).wbuf.all fun q => q.2.all fun e => e.wid != w.id.wid || decide (seq ≤ e.seq)

/-- Steps 2 and 3 of a release with an access of its own: the state, and the record entry and ALL bit; `none`: a write-back
must wait. -/
def State.releaseSteps (s : State) (c scope : Nat) : Option (State × Option (RecEntry × Bool)) :=
  if scope = 3 then (s.releaseAll c).map fun t => (t, none)
  else if s.beyondL1 c scope then (s.wbTry none c fun l => s.relWrites l).map fun t => (t, some (t.recordEntry c))
  else some (s, none)

/-- May the wave's oldest strong instruction enter the buffers (R136 rules 1 and 5, R138 step 1)? Rule 5 names strong stores;
that the model makes an ATOM, ATOMC or RED wait in the same way is its choice, and so is that all lanes of an instruction
enter together (log 68). -/
def State.mayEnter (s : State) (w : Wave) (e : WbEnt) (es : List WbEnt) : Bool :=
  w.mem.loads.all (fun l => decide (e.seq ≤ l.seq)) &&
  w.mem.fwd.all (fun i => (s.core w.id.core).wbuf.all fun q => q.2.all fun x => x.id != i) &&
  es.all (fun x => !w.undrained x.seq x.pa) && (!e.rel || s.earlierDone w e.seq)

/-- Put entries into their buffers in ascending lane order (R136 rule 2). -/
def Core.enqueue (c : Core) (no : Nat) : List WbEnt → Core
  | [] => c
  | e :: t => Core.enqueue { c with wbuf := upd [] c.wbuf (e.pa / 256 % 8) fun q => q ++ [{ e with id := no }] } (no + 1) t

/-- Move the wave's oldest strong instruction into the write buffers, if it may. -/
def State.enterOldest (s : State) (wid : Nat) : Option State :=
  match s.wave? wid with
  | none => none
  | some w => match w.mem.strong with
    | [] => none
    | e :: _ =>
      let es := w.mem.strong.filter fun x => x.seq == e.seq
      if s.mayEnter w e es then
        (if e.rel then s.releaseSteps w.id.core e.scope else some (s, none)).map fun r =>
          let t := r.1.onCore w.id.core fun c => Core.enqueue c r.1.die.useNo (es.map fun x => { x with relEnt := r.2 })
          let u := t.onDie fun d => { d with useNo := d.useNo + es.length }
          u.onWave wid fun v => { v with mem := { v.mem with fwd := [], strong := v.mem.strong.filter fun x => x.seq != e.seq } }
      else none

/-- Move what may enter the buffers of a core. -/
def State.feed (s : State) (c : Nat) : State :=
  forEach ((s.waves.filter fun w => w.id.core == c).map (·.id.wid)) s fun i t => (t.enterOldest i).getD t

/-! ### Atomic operations (Table 13.6) -/

/-- f(old, v) of an atomic of `size` bytes, and its flags. -/
def atomOp (aop size old v : Nat) : Nat × Flags :=
  let n := 8 * size
  let fm := if size = 8 then fp64 else fp32
  let so := sextN old n
  let sv := sextN v n
  if aop = 0 then ((old + v) % 2 ^ n, 0)
  else if aop = 1 then (if so ≤ sv then old else v, 0)
  else if aop = 2 then (if sv ≤ so then old else v, 0)
  else if aop = 3 then (min old v, 0)
  else if aop = 4 then (max old v, 0)
  else if aop = 5 then (old &&& v, 0)
  else if aop = 6 then (old ||| v, 0)
  else if aop = 7 then (old ^^^ v, 0)
  else if aop = 8 then (v, 0)
  else if aop = 9 then fm.add .rne (fm.unpack old) (fm.unpack v)
  else if aop = 10 then fm.minMax true old v
  else fm.minMax false old v

/-- The new value of an atomic, compare and swap included (R211, R212). -/
def atomNew (aop size old v cmp : Nat) : Nat × Flags :=
  if aop = 16 then (if old = cmp then v else old, 0) else atomOp aop size old v

/-! ### Performing a buffer entry -/

/-- What becomes of an entry at the head of a buffer. -/
inductive Performed where
  | ok (s : State)
  | wait
  | poison (wid lane va : Nat)
  deriving DecidableEq, Repr

/-- An outcome that goes on with a state that may have to wait. -/
def Performed.of : Option State → Performed
  | none => .wait
  | some s => .ok s

/-- A store at its point (R136, R138, R139, R141). -/
def State.performStore (s : State) (c : Nat) (e : WbEnt) : Performed :=
  let l : LaneAcc := { lane := e.lane, va := e.va, pa := e.pa, fields := e.fields, data := e.data, cmp := 0 }
  if s.regionHeld none (e.pa / 64) then .wait
  else if !s.beyondL1 c e.scope then .of (s.l1Store c e.size l)
  else .of (((s.reachL2 c l).bind fun t => t.relDrain (e.pa / 256) e.relEnt false).bind fun t =>
    ((t.l2Store e.scope e.pa e.va e.fields (natBytes e.size e.data)).relApply (e.pa / 256) e.relEnt false).fit (e.pa / 256))

/-- The old value of an atomic goes back to its wave, with its flags above bit 64 and, for an acquire, what the record of
the line names (R140, R211). -/
def State.atomBack (s : State) (e : WbEnt) (x : Nat) (ns : List Nat × Bool) : State :=
  let back : LoadEnt → LoadEnt := fun l =>
    if l.seq = e.seq then { l with got := put l.got e.lane x, objs := unionL l.objs ns.1, all := l.all || ns.2 } else l
  s.onAny e.wid fun w => { w with mem := { w.mem with loads := w.mem.loads.map back } }

/-- An atomic at its point: the L2 slice, or the home at `.sys` (R147, R211). The reads of an acquire drain what the record
of the line demands; the acquire itself comes after the instruction's last lane. -/
def State.performAtomic (s : State) (c : Nat) (e : WbEnt) (aop : Nat) (acq : Bool) : Performed :=
  let l : LaneAcc := { lane := e.lane, va := e.va, pa := e.pa, fields := e.fields, data := e.data, cmp := e.cmp }
  let line := e.pa / 256
  if s.regionHeld none (e.pa / 64) then .wait
  else match s.reachL2 c l with
    | none => .wait
    | some t =>
      if t.l2Poison e.pa then .poison e.wid e.lane e.va
      else
        let drains := acq && e.scope != 3 && s.beyondL1 c e.scope
        .of ((if drains then t.recordDrainOver c line else some t).bind fun x => (x.relDrain line e.relEnt false).bind fun y =>
          let u := y.l2Fill line e.va e.fields
          let old := bytesNat (u.l2Bytes e.pa e.size)
          let r := atomNew aop e.size old e.data e.cmp
          let ns := if drains then x.recordNames line else ([], false)
          let v := (u.l2Store e.scope e.pa e.va e.fields (natBytes e.size r.1)).relApply line e.relEnt false
          let z := if e.returns then v.atomBack e (old + 2 ^ 64 * r.2.toNat) ns else v
          if drains then z.fitEvery else z.fit line)

/-- Does the instruction of an entry acquire (R133)? -/
def State.entryAcq (s : State) (e : WbEnt) : Bool := match s.any? e.wid with
  | none => false
  | some w => w.mem.loads.any fun l => l.seq == e.seq && l.acq

/-- Perform the oldest entry of a buffer (R136). -/
def State.performHead (s : State) (c buf : Nat) : Performed :=
  match look [] (s.core c).wbuf buf with
  | [] => .wait
  | e :: rest =>
    let p := match e.aop with
      | none => s.performStore c e
      | some a => s.performAtomic c e a (s.entryAcq e)
    match p with
    | .ok t => .ok (t.onCore c fun x => { x with wbuf := putD [] x.wbuf buf rest })
    | q => q

end Sys2Proof.Machine
end

