-- ==== Sys2Proof/Machine/CopyGeom.lean ====
section
/-! DEFINITION. What a copy's parameter block says: options, limits, rows, extents, and the transformation of its rows
(spec/19_copy_engines.md R275 to R285). `op` of a copy: CPYT 0, CPYG 1, CPYW 2, CPYP 3, CFILL 4. -/

namespace Sys2Proof.Machine

/-! ### Fields (Tables 19.2, 19.3) -/

/-- A register of the parameter block. -/
def Copy.p (c : Copy) (i : Nat) : Nat := c.params.getD i 0

/-- The pair of registers `i`, `i+1` as an address. -/
def Copy.pair (c : Copy) (i : Nat) : Nat := c.p i + 2 ^ 32 * c.p (i + 1)

def Copy.opt (c : Copy) : Nat := c.p 7
def Copy.fill (c : Copy) : Nat := bitsN c.opt 24 8
def Copy.scope (c : Copy) : Nat := bitsN c.opt 22 2
def Copy.ord (c : Copy) : Nat := bitsN c.opt 20 2
def Copy.wc (c : Copy) : Bool := c.opt.testBit 19
def Copy.swz (c : Copy) : Nat := bitsN c.opt 17 2
def Copy.conj (c : Copy) : Bool := c.opt.testBit 16
def Copy.trans (c : Copy) : Bool := c.opt.testBit 15
def Copy.esize (c : Copy) : Nat := bitsN c.opt 12 3
def Copy.tlf (c : Copy) : Nat := bitsN c.opt 10 2
def Copy.kind (c : Copy) : Nat := bitsN c.opt 6 4
def Copy.dir (c : Copy) : Bool := c.opt.testBit 5
def Copy.form (c : Copy) : Bool := c.opt.testBit 4
def Copy.sigma (c : Copy) : Bool := c.opt.testBit 3

/-- The element size e. -/
def Copy.e (c : Copy) : Nat := 2 ^ c.esize

/-- ROWS or COUNT. -/
def Copy.rows (c : Copy) : Nat := c.p 5 % 65536

/-- ROWLEN. -/
def Copy.rowLen (c : Copy) : Nat := c.p 5 / 65536

/-- Is tile memory the destination? -/
def Copy.toTile (c : Copy) : Bool := c.op == 1 || ((c.op == 0 || c.op == 4) && !c.dir)

/-- Is tile memory the source? -/
def Copy.fromTile (c : Copy) : Bool := c.op == 0 && c.dir

/-! ### The global side -/

/-- Rows written or read in global memory by CPYT and CFILL (R276, R281). -/
def Copy.gRows (c : Copy) : Nat := if c.op = 0 ∧ c.dir ∧ c.trans then c.rowLen / c.e else c.rows

/-- Bytes of one global row. -/
def Copy.gLen (c : Copy) : Nat := if c.op = 0 ∧ c.dir ∧ c.trans then c.rows * c.e else c.rowLen

/-- A stride, 0 standing for the row length. -/
def strideOr (s n : Nat) : Nat := if s = 0 then n else s

/-- Rows at a base and stride: (address, length). -/
def rowsAt (base stride len n : Nat) : List (Nat × Nat) := (List.range n).map fun r => (base + r * stride, len)

/-- E of a TLF encode (R281). -/
def Copy.encE (c : Copy) : Nat :=
  if c.kind = 2 then 2 * c.rowLen else if isBx c.kind then 16 * c.rowLen / bxBlock c.kind else c.rowLen

/-- The header that a TLF encode starts from (R281). -/
def Copy.encHdr (c : Copy) : TlfHdr :=
  { resOk := true, esccnt := 0, esccap := bitsN (c.p 3) 16 15, l := bitsN (c.p 3) 0 16, e := c.encE, rows := c.rows
    dense := false, kind := c.kind }

/-- Bytes of a raw slot image (Table 19.5). -/
def imageSize (kind : Nat) : Nat :=
  match kind with
  | 0 => 6144
  | 2 => 3072
  | 3 => 3072
  | 4 => 4608
  | _ => 6912

/-- Bytes that a CPYW reads. -/
def Copy.srcLen (c : Copy) : Nat := if c.form then c.p 2 else imageSize c.kind

/-- Does an address lie in the peer window (R118)? -/
def inPeer (va : Nat) : Bool := va.testBit 48

/-- Global rows read, apart from those of a gather's table: (address, length). A TLF decode reads its header first. -/
def Copy.srcRows (c : Copy) : List (Nat × Nat) :=
  match c.op with
  | 0 => if c.dir then [] else if c.tlf = 2 then [(c.pair 0, 16)] else
      rowsAt (c.pair 0) (strideOr (c.p 2) c.rowLen) c.rowLen c.rows
  | 1 => [(c.pair 2, 4 * c.rows)]
  | 2 => [(c.pair 0, c.srcLen)]
  | 3 => rowsAt (c.pair 0) (strideOr (c.p 4) c.rowLen) c.rowLen c.rows
  | _ => []

/-- Global rows written: (address, length). -/
def Copy.dstRows (c : Copy) : List (Nat × Nat) :=
  match c.op with
  | 0 => if !c.dir then [] else if c.tlf = 1 then [(c.pair 0, c.encHdr.extent)] else
      rowsAt (c.pair 0) (strideOr (c.p 2) c.gLen) c.gLen c.gRows
  | 3 => rowsAt (c.pair 2) (strideOr (c.p 6) c.rowLen) c.rowLen c.rows
  | 4 => if c.dir then rowsAt (c.pair 0) (strideOr (c.p 2) c.rowLen) c.rowLen c.rows else []
  | _ => []

/-- The transaction of a copy's writes to a peer: a write, or an atomic request with its add (R284). -/
def Copy.peerOp (c : Copy) : PeerOp := match c.redop with
  | 0 => .write
  | 1 => .addI32
  | 2 => .addF32
  | _ => .addBf16

/-- The lines of 256 bytes from the lowest to the highest byte of rows. -/
def rowsRange (rs : List (Nat × Nat)) : Option (Nat × Nat) :=
  match rs with
  | [] => none
  | r :: t =>
    let hi := t.foldl (fun a x => max a (x.1 + x.2 - 1)) (r.1 + r.2 - 1)
    let lo := t.foldl (fun a x => min a x.1) r.1
    some (lo / 256, hi / 256)

/-- Operands that take a range-lock entry (R123, R281, R282): lines, and DEST or SOURCE. -/
def Copy.lockRanges (c : Copy) : List (Nat × Nat × Bool) :=
  let one (rs : List (Nat × Nat)) (d : Bool) : List (Nat × Nat × Bool) :=
    match rs.filter fun r => !inPeer r.1 with
    | [] => []
    | x => match rowsRange x with
      | none => []
      | some (lo, hi) => [(lo, hi, d)]
  let table : List (Nat × Nat × Bool) :=
    if c.op = 1 ∧ c.p 6 ≠ 0 then [(c.pair 0 / 256, (c.pair 0 + (c.p 6 - 1) * c.word1 + c.rowLen - 1) / 256, false)] else []
  one c.srcRows false ++ table ++ one c.dstRows true

/-! ### The tile side (R278) -/

/-- Rt. -/
def Copy.rt (c : Copy) : Nat := if c.op = 0 ∧ !c.dir ∧ c.trans then c.rowLen / c.e else c.rows

/-- Wt. -/
def Copy.wt (c : Copy) : Nat := if c.op = 0 ∧ !c.dir ∧ c.trans then c.rows * c.e else c.rowLen

/-- T, which may be negative. -/
def Copy.t (c : Copy) : Int := (bitsN (c.p 4) 0 20 : Nat) + if c.op = 1 then 0 else sextN c.word1 32

/-- P. -/
def Copy.pitch (c : Copy) : Nat := let x := bitsN (c.p 4) 20 12; if x = 0 then c.wt else 16 * x

/-- SWZ(o, r). -/
def swizzle (mode o r : Nat) : Nat := if mode = 1 then o ^^^ (r % 8 * 16) else if mode = 2 then o ^^^ (r % 4 * 32) else o

/-- Where byte `b` of tile row `r` lies. -/
def Copy.tileAddr (c : Copy) (r b : Nat) : Nat := c.t.toNat + swizzle c.swz (r * c.pitch + b) r

/-- The end of the tile extent, rounded out to lines when swizzled. -/
def Copy.tileEnd (c : Copy) : Nat :=
  let e := c.t.toNat + (c.rt - 1) * c.pitch + c.wt
  if c.swz = 0 then e else ceilDiv e 128 * 128

/-- Does the extent pass the block's TMEM? -/
def Copy.tileBad (c : Copy) (tmem : Nat) : Bool := decide (c.t < 0) || decide (tmem < c.tileEnd)

/-- The tile lines that the copy writes. -/
def Copy.destLines (c : Copy) : List Nat :=
  if !c.toTile then []
  else ((List.range c.rt).flatMap fun r => tileLinesOf (c.t.toNat + r * c.pitch) c.wt).eraseDups

/-- Does the copy read some of these bytes of tile memory: of the rows of a tile source, or of a σ vector (R269, R283)? -/
def Copy.readsTile (c : Copy) (off n : Nat) : Bool :=
  (c.fromTile && (List.range c.rows).any fun r => (List.range c.rowLen).any fun b =>
    decide (off ≤ c.tileAddr r b) && decide (c.tileAddr r b < off + n)) ||
  (c.op == 2 && c.sigma && meets off n c.word1 192)

/-- Does any tile operand exist? -/
def Copy.hasTile (c : Copy) : Bool := c.toTile || c.fromTile

/-! ### Limits (R280) -/

/-- Options outside Table 19.4, or reserved codes. -/
def Copy.optBad (c : Copy) : Bool :=
  let order := c.ord == 3 || (c.ord == 0 && c.scope != 0) || c.opt % 8 != 0
  let noFill := c.fill == 0
  let noWc := !c.wc
  let noSwz := c.swz == 0
  let noShape := !c.conj && !c.trans && c.esize == 0 && c.tlf == 0
  let noKind := c.kind == 0
  let noW := !c.form && !c.sigma
  order || match c.op with
  | 0 => !(noFill && (!c.dir || noWc) && c.swz != 3 && decide (c.esize ≤ 4) && c.tlf != 3 && (c.tlf != 1 || c.dir) &&
      (c.tlf != 2 || !c.dir) && (if c.tlf = 0 then noKind else decide (c.kind ≤ 5)) && noW)
  | 1 => !(noShape && noKind && noW && !c.dir && c.swz != 3)
  | 2 => !(noFill && noWc && noSwz && noShape && !c.dir && decide (c.kind ≤ 5) && c.kind != 1)
  | 3 => !(noFill && noWc && noSwz && noShape && noKind && noW && !c.dir)
  | _ => !(noShape && noKind && noW && c.swz != 3 && (!c.dir || (noWc && noSwz)))

/-- Registers of the block that must be 0 and are not. -/
def Copy.zeroBad (c : Copy) : Bool :=
  match c.op with
  | 0 => c.p 6 != 0 || (c.p 3).testBit 31
  | 1 => false
  | 2 => c.p 3 != 0 || c.p 4 != 0 || c.p 5 != 0 || c.p 6 != 0
  | 3 => false
  | _ => c.p 3 != 0 || c.p 6 != 0 || (if c.dir then c.p 4 != 0 else c.p 0 != 0 || c.p 1 != 0 || c.p 2 != 0)

/-- A nonzero stride below a row's length. -/
def strideBad (s n : Nat) : Bool := s != 0 && decide (s < n)

/-- The tile side's limits (R278). -/
def Copy.tileLimit (c : Copy) : Bool :=
  c.hasTile && (strideBad (16 * bitsN (c.p 4) 20 12) c.wt ||
    (c.swz != 0 && (c.t % 128 != 0 || !((c.pitch == 64 && decide (c.wt ≤ 64)) || (c.pitch % 128 == 0 && c.pitch != 0)))))

/-- Bytes of an element of a reduce-add. -/
def redSize (op : Nat) : Nat := if op = 3 then 2 else 4

/-- The lowest byte of rows and the first byte after their highest (R123). -/
def rowsSpan : List (Nat × Nat) → Option (Nat × Nat)
  | [] => none
  | r :: t => some (t.foldl (fun a x => min a x.1) r.1, t.foldl (fun a x => max a (x.1 + x.2)) (r.1 + r.2))

/-- Do the ranges of two operands overlap, each from its lowest byte to its highest (R123, R284)? -/
def rowsMeet (a b : List (Nat × Nat)) : Bool := match rowsSpan a, rowsSpan b with
  | some x, some y => decide (x.1 < y.2) && decide (y.1 < x.2)
  | _, _ => false

/-- The limits of each copy's own rule (R281 to R285). -/
def Copy.ownBad (c : Copy) : Bool :=
  match c.op with
  | 0 =>
    (c.trans && c.rowLen % c.e != 0) || (c.conj && !(c.esize == 3 || c.esize == 4)) ||
    (c.tlf != 0 && (c.trans || c.conj || c.swz != 0 || c.pair 0 % 16 != 0 || c.p 2 != 0)) ||
    (c.tlf == 2 && c.p 3 != 0) ||
    (c.tlf == 1 && (!c.encHdr.validShape || c.encHdr.dr != c.rowLen)) ||
    (c.dir && c.tlf == 0 && strideBad (c.p 2) c.gLen)
  | 1 => c.pair 2 % 4 != 0 || c.word1 == 0
  | 2 => if c.form then c.p 2 == 0 || decide (8192 < c.p 2) else c.p 2 != 0
  | 3 =>
    strideBad (c.p 6) c.rowLen ||
    (c.redop != 0 && (let n := redSize c.redop
      c.pair 0 % n != 0 || c.pair 2 % n != 0 || c.p 4 % n != 0 || c.p 6 % n != 0 || c.rowLen % n != 0)) ||
    (!inPeer (c.pair 0) && !inPeer (c.pair 2) && rowsMeet c.srcRows c.dstRows)
  | _ => if c.dir then c.word1 != 0 || strideBad (c.p 2) c.rowLen else false

/-- Does the block break a limit (R280)? -/
def Copy.limitBad (c : Copy) : Bool :=
  c.optBad || c.zeroBad || (c.op != 2 && (c.rows == 0 || c.rowLen == 0)) || c.tileLimit || c.ownBad

/-! ### Checks at issue (R279) -/

/-- The global VAs that the block names. -/
def Copy.vas (c : Copy) : List Nat :=
  match c.op with
  | 0 => [c.pair 0]
  | 1 => [c.pair 0, c.pair 2]
  | 2 => [c.pair 0]
  | 3 => [c.pair 0, c.pair 2]
  | _ => if c.dir then [c.pair 0] else []

/-- Check 2: PEER_DIRECT. -/
def Copy.peerBad (c : Copy) : Bool := c.op != 3 && c.vas.any inPeer

/-- Check 3: PROTECTION of an address. -/
def Copy.vaBad (c : Copy) : Bool := (c.vas.any fun v => decide (2 ^ 49 ≤ v)) || (c.op == 3 && c.vas.all inPeer)

/-- Check 5: PROTECTION of a tile extent or σ range. -/
def Copy.rangeBad (c : Copy) (tmem : Nat) (hasTmem : Bool) : Bool :=
  (c.hasTile && (!hasTmem || c.tileBad tmem)) || (c.op == 2 && c.sigma && (!hasTmem || decide (tmem < c.word1 + 192)))

/-! ### The transformation of rows (R281) -/

/-- Invert the sign bit of each whole element of e bytes. -/
def conjRow (e : Nat) (row : List Byte) : List Byte :=
  row.zipIdx.map fun x => if x.2 % e = e - 1 then x.1 ^^^ 0x80 else x.1

/-- The output rows of a CPYT without TLF, from its input rows. -/
def Copy.outRows (c : Copy) (ins : List (List Byte)) : List (List Byte) :=
  let out := if c.trans then
      (List.range (c.rowLen / c.e)).map fun k => ins.flatMap fun row => (row.drop (k * c.e)).take c.e
    else ins
  if c.conj then out.map (conjRow c.e) else out

/-- Tile bytes written by row `r`: address and byte. -/
def Copy.placeRow (c : Copy) (r : Nat) (row : List Byte) : List (Nat × Byte) := row.zipIdx.map fun x => (c.tileAddr r x.2, x.1)

/-- The bytes of tile row `r` of a tile source. -/
def Copy.tileRow (c : Copy) (b : Block) (r : Nat) : List Byte := (List.range c.rowLen).map fun i => look 0 b.tile (c.tileAddr r i)

end Sys2Proof.Machine
end

