-- ==== Sys2Proof/Machine/Flow.lean ====
section
/-! DEFINITION. Divergence, barriers and the end of a wave (spec/07_execution_and_scheduling.md R98 to R101, R111 to
R116; 23 R322; 25 R334). The stack is a list whose index 0 is its oldest entry. -/

namespace Sys2Proof.Machine

/-! ### Position and stack of a wave -/

/-- Continue at a position; its clause is to be entered. -/
def Wave.jump (w : Wave) (pc : Addr) : Wave := { w with flow := { w.flow with pc := pc, clause := none, skip := false } }

/-- Push stack entries, the last on top. -/
def Wave.push (w : Wave) (es : List StackEntry) : Wave := { w with flow := { w.flow with stack := w.flow.stack ++ es } }

/-- The depth of the stack. -/
def Wave.depth (w : Wave) : Nat := w.flow.stack.length

/-- Remove lanes from a stack entry's mask. -/
def StackEntry.less (e : StackEntry) (m : Word) : StackEntry := { e with mask := e.mask &&& ~~~m }

/-- Is an entry a PATH, parked or not, with no lane left? -/
def StackEntry.spent (e : StackEntry) : Bool := (e.kind == .path || e.kind == .parked) && e.mask == 0

/-- Remove lanes from every entry at index `k` or above and discard emptied PATH entries (R113, R115, R116). -/
def stripFrom (k : Nat) (m : Word) (st : List StackEntry) : List StackEntry :=
  st.take k ++ ((st.drop k).map fun e => e.less m).filter fun e => !e.spent

/-- The index of the nearest PATH that is not parked, between the top and the nearest JOIN or CALLJ (R101). -/
def findPath (st : List StackEntry) : Option Nat :=
  let rec go : List StackEntry → Nat → Option Nat
    | [], _ => none
    | e :: t, i => match e.kind with
      | .path => some i
      | .parked => go t (i - 1)
      | .join => none
      | .callj => none
  go st.reverse (st.length - 1)

/-- The index of the nearest CALLJ (R115). -/
def findCallj (st : List StackEntry) : Option Nat :=
  let rec go : List StackEntry → Nat → Option Nat
    | [], _ => none
    | e :: t, i => if e.kind = .callj then some i else go t (i - 1)
  go st.reverse (st.length - 1)

/-- What follows when a wave pops (R111). -/
inductive Popped where
  /-- it goes on at the entry -/
  | run (w : Wave)
  /-- no lane remains -/
  | gone (w : Wave)
  /-- the pop would take the stack below the region's or the continuation's depth (R322, R334) -/
  | below
  /-- a parked entry popped while no other path can run (R101) -/
  | stuck (w : Wave)
  deriving DecidableEq, Repr

/-- Make an entry current. -/
def Wave.enter (w : Wave) (e : StackEntry) : Wave :=
  { w with flow := { w.flow with pc := e.pc, mask := e.mask, rpc := e.rpc, clause := none, skip := false } }

/-- Set the current (position, mask, RPC) aside as parked entries and go on with the nearest path (R101). `es` are the
entries to push, the last on top. -/
def Wave.parkOn (w : Wave) (es : List StackEntry) : Option Wave :=
  match findPath w.flow.stack with
  | none => none
  | some i =>
    match w.flow.stack[i]? with
    | none => none
    | some e => some ({ w with flow := { w.flow with stack := w.flow.stack.eraseIdx i ++ es } }.enter e)

/-- The depth below which a pop may not take the stack: of the region held, else of a continuation (R322, R334). A region
counts also a pop with nothing left to pop. -/
def Wave.popBelow (w : Wave) (d0 : Option Nat) : Bool := match d0 with
  | some d => decide (w.depth ≤ d)
  | none => w.flow.contin && decide (0 < w.depth) && decide (w.depth ≤ w.flow.retDepth)

/-- Pop, again while the entry is empty (R111, R116). -/
def Wave.pop (w : Wave) (d0 : Option Nat) : Nat → Popped
  | 0 => .gone w
  | n + 1 =>
    if w.popBelow d0 then .below
    else match w.flow.stack.getLast? with
      | none => .gone w
      | some e =>
        let v := { w with flow := { w.flow with stack := w.flow.stack.dropLast } }.enter e
        if e.kind = .parked then
          match v.parkOn [e] with
          | none => .stuck v
          | some u => .run u
        else if e.mask = 0 then v.pop d0 n
        else .run v

/-- Pop as at RPC. -/
def Wave.popAll (w : Wave) (d0 : Option Nat) : Popped := w.pop d0 (w.depth + 1)

/-- The pops on entering the clause at header `hdr` (R111): while the header equals RPC. -/
def Wave.popAt (w : Wave) (d0 : Option Nat) : Nat → Popped
  | 0 => .run w
  | n + 1 =>
    if w.flow.rpc.toNat = posHdr w.flow.pc ∧ posIndex w.flow.pc = 15 ∧ w.flow.stack ≠ [] then
      match w.pop d0 (w.depth + 1) with
      | .run v => if v.flow.pc = w.flow.pc then v.popAt d0 n else .run v
      | p => p
    else .run w

/-! ### The wave barrier (R99, R101) -/

/-- Complete the phase if every lane has arrived or exited; parked entries become ordinary PATHs. -/
def Wave.wbSettle (w : Wave) : Wave :=
  if w.flow.wbArrived ≠ 0 ∧ w.flow.alive &&& ~~~w.flow.wbArrived = 0 then
    let ordinary : StackEntry → StackEntry := fun e => if e.kind = .parked then { e with kind := .path } else e
    { w with flow := { w.flow with wbArrived := 0, wbPhase := w.flow.wbPhase + 1, stack := w.flow.stack.map ordinary } }
  else w

/-- Lanes arrive at the wave barrier. -/
def Wave.wbArrive (w : Wave) (m : Word) : Wave :=
  { w with flow := { w.flow with wbArrived := w.flow.wbArrived ||| m } }.wbSettle

/-- MASK holds every lane that has not exited (R100). -/
def Wave.converged (w : Wave) : Bool := w.flow.mask == w.flow.alive

/-! ### Block, cluster and grid barriers (R98, R99) -/

/-- The key of a cluster or grid barrier in the die. -/
def barKey (launch node level idx num : Nat) : Nat :=
  (((launch * 1024 + node) * 1048576 + idx) * 2 + (level - 2)) * 8 + num

/-- Blocks that are members of the barrier of a block at a level (Table 7.6). -/
def State.barBlocks (s : State) (b : Block) (level : Nat) : List Block :=
  (s.sched.blocks.map (·.2)).filter fun x =>
    if level = 1 then x.card == b.card && x.index == b.index
    else if level = 2 then x.card == b.card && x.index / x.bpc == b.index / b.bpc
    else x.card == b.card

/-- Members that have not exited. -/
def State.barMembers (s : State) (b : Block) (level : Nat) : List Nat := (s.barBlocks b level).flatMap (·.waves)

/-- A barrier with no arrival. -/
def Barrier.empty : Barrier := { phase := 0, arrived := [] }

/-- Launch number and node of a block's card. -/
def Block.cardNo (b : Block) : Nat × Nat := b.card.getD (0, 0)

/-- Where a barrier of a level above block lies. -/
def Block.barAt (b : Block) (level num : Nat) : Nat :=
  barKey b.cardNo.1 b.cardNo.2 level (if level = 2 then b.index / b.bpc else 0) num

/-- A barrier of the block with key `k`. -/
def State.bar (s : State) (k : Nat) (b : Block) (level num : Nat) : Barrier :=
  if level = 1 then look Barrier.empty ((s.blk? k).getD b).bars num else look Barrier.empty s.die.bars (b.barAt level num)

/-- Change a barrier. -/
def State.setBar (s : State) (k : Nat) (b : Block) (level num : Nat) (x : Barrier) : State :=
  if level = 1 then s.onBlk k fun y => { y with bars := put y.bars num x }
  else s.onDie fun d => { d with bars := put d.bars (b.barAt level num) x }

/-- Complete a phase if every member has arrived or exited (R99). -/
def State.barSettle (s : State) (k : Nat) (b : Block) (level num : Nat) : State :=
  let x := s.bar k b level num
  if !x.arrived.isEmpty && (s.barMembers b level).all (fun m => x.arrived.contains m)
  then s.setBar k b level num { phase := x.phase + 1, arrived := [] } else s

/-- The scope of a barrier level: `.core`, `.clus`, `.die` (Table 7.6). -/
def barScope (level : Nat) : Nat := level - 1

/-! ### The end of a wave (R95, R116) -/

/-- No store of the wave waits in a queue or a buffer. -/
def State.quiet (s : State) (w : Wave) : Bool :=
  w.mem.sq.isEmpty && w.mem.strong.isEmpty && (s.core w.id.core).wbuf.all fun q => q.2.all fun e => e.wid != w.id.wid

/-- Does a unit of the core still work for the block? -/
def Core.busyFor (c : Core) (k : Nat) : Bool :=
  (c.copies.any fun x => x.blk == some k) || (c.ta.any fun a => a.2.queue.any fun o => o.blk == some k) ||
  (c.xq.any fun o => o.blk == some k) || (c.tlfq.any fun o => o.blk == some k) || (c.decq.any fun o => o.blk == some k)

/-- Free the resources of blocks whose waves have exited and for which no unit works (R95). -/
def State.freeBlocks (s : State) : State :=
  s.onSched fun d => { d with blocks := d.blocks.filter fun e => !e.2.waves.isEmpty || e.2.evicted || (s.core e.2.core).busyFor e.1 }

/-- Change a card of the running launch. -/
def State.onCard (s : State) (card : Option (Nat × Nat)) (f : CardRun → CardRun) : State :=
  match card, s.sched.running with
  | some (l, n), some r =>
    if r.num = l then
      s.onSched fun d => { d with running := some { r with cards := r.cards.map fun c => if c.node = n then f c else c } }
    else s
  | _, _ => s

/-- Take exited waves whose stores have all performed and whose copies have completed off the die (R93); a kindling wave
waits for its tile (21 R305). -/
def State.reap (s : State) : State :=
  let still : Wave → Bool := fun w => (s.core w.id.core).copies.any fun c => c.wid == w.id.wid
  let done := s.others.filter fun w => w.flow.alive == 0 && w.id.kind != .kindling && s.quiet w && !still w
  let t := forEach done s fun w t => t.onCard w.id.card fun c => { c with waves := c.waves - 1 }
  { t with others := t.others.filter fun w => !(done.any fun x => x.id.wid == w.id.wid) }.freeBlocks

/-- A wave that has exited: nothing of it is left but what its stores and units still do. -/
def Wave.exited (w : Wave) : Wave :=
  { w with flow := { w.flow with mask := 0, alive := 0, hold := .run, stack := [], clause := none, pc := 0, skip := false }
           mem := { w.mem with loads := [], v2s := [], fwd := [], walked := [], guards := [], region := none } }

/-- Retire the wave with this number (R116): it leaves its block, and barrier phases that waited for it complete. -/
def State.retire (s : State) (wid : Nat) : State :=
  let t := s.onWave wid Wave.exited
  match s.wave? wid with
  | none => s
  | some w =>
    let u := match w.id.blk with
      | none => t
      | some k => match t.blk? k with
        | none => t
        | some b =>
          let t1 := t.onBlk k fun b => { b with waves := b.waves.filter fun x => x != wid }
          let t2 := forEach [1, 2, 3] t1 fun l t => forEach (List.range 8) t fun n t => t.barSettle k b l n
          if (b.waves.filter fun x => x != wid).isEmpty then t2.onCard b.card fun c => { c with live := c.live - 1 } else t2
    let v := if u.w.id.wid = wid ∧ u.w.flow.hold ≠ .blank then
        { u with w := Wave.blank, others := insertWave u.w u.others } else u
    v.reap

end Sys2Proof.Machine
end

