-- ==== Sys2Proof/Machine/Region.lean ====
section
/-! DEFINITION. Forwarding regions: the region table, versions, edges and cycles, region accesses, aborts and commits
(spec/23_forwarding_regions.md R310 to R325). -/

namespace Sys2Proof.Machine

/-! ### The region table (R310, R311) -/

/-- An ACTIVE region by its id. -/
def State.region? (s : State) (r : Nat) : Option Region := look? s.die.regions r

/-- Change a region. -/
def State.onRegion (s : State) (r : Nat) (f : Region → Region) : State :=
  match s.region? r with
  | none => s
  | some x => s.onDie fun d => { d with regions := put d.regions r (f x) }

/-- The region a wave holds, with its id. -/
def State.regionOf (s : State) (w : Wave) : Option (Nat × Region) :=
  w.mem.region.bind fun r => (s.region? r).map fun x => (r, x)

/-- The stack depth below which a wave may not pop: D0 of its region. -/
def State.depth0 (s : State) (w : Wave) : Option Nat := (s.regionOf w).map fun x => x.2.depth0

/-- Is `a` younger than `b` (R310)? -/
def younger (a b : Region) : Bool := decide (0 < (a.seqNo - b.seqNo).toInt)

/-- A region's version of a line. -/
def Region.version? (r : Region) (line : Nat) : Option Version := r.versions.find? fun v => v.line == line

/-- Versions in the region buffer. -/
def State.versionCount (s : State) : Nat := s.die.regions.foldl (fun n e => n + e.2.versions.length) 0

/-! ### Edges and reachability (R313, R316, R317) -/

/-- The recorded edges. -/
def State.edges (s : State) : List (Nat × Nat) := s.die.regions.flatMap fun e => e.2.preds.map fun u => (u, e.1)

/-- The edges of stalled accesses of regions other than `v`. -/
def State.pendEdges (s : State) (v : Nat) : List (Nat × Nat) :=
  s.die.regions.flatMap fun e => if e.1 = v then [] else e.2.pend

/-- Regions reached from a set within `n` rounds. -/
def reachFrom (es : List (Nat × Nat)) : Nat → List Nat → List Nat
  | 0, xs => xs
  | n + 1, xs => reachFrom es n (unionL xs ((es.filter fun e => xs.contains e.1).map (·.2)).eraseDups)

/-- M[u][v] over a set of edges (R316). -/
def reaches (es : List (Nat × Nat)) (u v : Nat) : Bool :=
  (reachFrom es 64 ((es.filter fun e => e.1 == u).map (·.2)).eraseDups).contains v

/-- The generation of a region over a set of edges, counted up to `n` (R317). -/
def generation (es : List (Nat × Nat)) : Nat → Nat → Nat
  | 0, _ => 0
  | n + 1, v => ((es.filter fun e => e.2 == v).map fun e => generation es n e.1 + 1).foldl max 0

/-- Do both bounds of R317 hold over a set of edges? -/
def boundsOk (es : List (Nat × Nat)) (ids : List Nat) : Bool :=
  ids.all fun v => decide (((es.filter fun e => e.2 == v).map (·.1)).eraseDups.length ≤ 8) && decide (generation es 5 v ≤ 3)

/-! ### Reads and writes (R314, R315) -/

/-- The writer whose version a read by region `v` of a line takes, if any (R314). -/
def State.writerFor (s : State) (v line : Nat) : Option (Nat × Version) :=
  let cs := s.die.regions.filterMap fun e =>
    if e.1 = v || reaches s.edges v e.1 then none else (e.2.version? line).map fun x => (e.1, x)
  cs.foldl (fun b c => match b with
    | none => some c
    | some x => if x.2.order < c.2.order then some c else b) none

/-- Record an edge. -/
def State.addEdge (s : State) (u v : Nat) : State := s.onRegion v fun r => { r with preds := unionL r.preds [u] }

/-- The 64 bytes a read of a line by region `v` returns, with its edge recorded (R314). -/
def State.regionBytes (s : State) (v : Nat) (l : LaneAcc) : State × List Byte :=
  let line := l.pa / 64
  match (s.region? v).bind fun r => r.version? line with
  | some x => (s, x.data)
  | none => match s.writerFor v line with
    | some (w, x) => (s.addEdge w v, x.data)
    | none =>
      let t := s.l2Fill (l.pa / 256) l.va l.fields
      (t, t.l2Bytes (line * 64) 64)

/-- Add a line to the read set, unless the region holds a version of it (R311). -/
def Region.addRead (r : Region) (line : Nat) : Region :=
  if (r.version? line).isSome then r else { r with reads := unionL r.reads [line] }

/-- The edges that a write of a line by region `v` records (R313). -/
def State.writeEdges (s : State) (v line : Nat) : List Nat :=
  (s.die.regions.filter fun e => e.1 != v && (e.2.reads.contains line || (e.2.version? line).isSome)).map (·.1)

/-- Write bytes of a line: the edges, the version, the merge (R315). -/
def State.regionWrite (s : State) (v size : Nat) (l : LaneAcc) (x : Nat) : State :=
  let line := l.pa / 64
  let off := l.pa % 64
  let t := forEach (s.writeEdges v line) s fun u t => t.addEdge u v
  let b := t.regionBytes v l
  let made := match (b.1.region? v).bind fun r => r.version? line with
    | some _ => b.1
    | none =>
      let new : Version := { line := line, va := l.va / 64 * 64, fields := l.fields, order := b.1.die.verOrder, data := b.2, mask := 0 }
      (b.1.onRegion v fun r => { r with versions := r.versions ++ [new] }).onDie fun d => { d with verOrder := d.verOrder + 1 }
  let bs := natBytes size x
  let merge : Version → Version := fun y =>
    if y.line = line then
      { y with data := y.data.take off ++ bs ++ y.data.drop (off + size), mask := y.mask ||| maskBits 64 off size, fields := l.fields }
    else y
  made.onRegion v fun r => { r with versions := r.versions.map merge }

/-- One lane of a region access: its old value, the state after it, and flags. `f` is the new value of a write. -/
def State.regionLane (s : State) (v size : Nat) (rd wr : Bool) (f : LaneAcc → Nat → Nat × Flags) (l : LaneAcc) : State × Nat × Flags :=
  let b := if rd then s.regionBytes v l else (s, [])
  let old := bytesNat ((b.2.drop (l.pa % 64)).take size)
  let t := if rd then b.1.onRegion v fun r => r.addRead (l.pa / 64) else b.1
  let n := f l old
  if wr then (t.regionWrite v size l n.1, old, n.2) else (t, old, 0)

/-- All lanes in ascending order: the state and the old values by lane. -/
def State.regionLanes (s : State) (v size : Nat) (rd wr : Bool) (f : LaneAcc → Nat → Nat × Flags) :
    List LaneAcc → State × Map Nat
  | [] => (s, [])
  | l :: t =>
    let a := s.regionLane v size rd wr f l
    let b := a.1.regionLanes v size rd wr f t
    (b.1, (l.lane, a.2.1 + 2 ^ 64 * a.2.2.toNat) :: b.2)

/-! ### Aborts (R319 to R321) -/

/-- Causes of Table 23.1. -/
def aCYCLE : Nat := 1
def aCASCADE : Nat := 2
def aCAPACITY : Nat := 3
def aEXPLICIT : Nat := 4
def aFAULT : Nat := 5
def aILLEGAL : Nat := 6

/-- The status word (Table 23.1). -/
def abortWord (other code cause : Nat) : Word := BitVec.ofNat 32 (2 ^ 31 + other % 64 * 2 ^ 24 + code % 256 * 2 ^ 16 + cause)

/-- Replies of region accesses that have not come write undefined values, and their destinations become full (R320;
log 4). -/
def State.undefReplies (s : State) (wid : Nat) : State :=
  match s.any? wid with
  | none => s
  | some w =>
    let es := w.mem.loads.filter fun e => e.kind == .region
    forEach es s fun e t =>
      let vals := e.lanes.foldl (fun a l => put a l.lane (t.fresh + 8 * l.lane)) ([] : Map Nat)
      let words := fun k => (List.range (regsOf e.size)).foldl
        (fun a i => a + (Config.freeWord (k + i)).toNat * 2 ^ (32 * i)) 0
      let out := vals.map fun p => (p.1, words p.2)
      let back : Wave → Wave := fun v => v.reply { e with sx := false } out
      { t.onAny wid back with fresh := t.fresh + 256 }

/-- The wave part of an abort (R320 steps 2 to 4): stack, MASK, RPC, sD, and the abort label. -/
def Wave.abortTo (w : Wave) (r : Region) (status : Word) : Wave :=
  let v : Wave := { w with flow := { w.flow with stack := w.flow.stack.take r.depth0, mask := r.mask0 &&& w.flow.alive
                                                 rpc := r.rpc0, hold := .run, stalled := false }
                           mem := { w.mem with region := none, walked := [], guards := [] } }
  ((v.jump (headerPos r.label.toNat)).wrS r.sd status).markS r.sd 1 true

/-- The entry becomes FREE and every edge of it goes; every stalled access is to be evaluated again (R313, R317, R318,
R320). -/
def State.freeRegion (s : State) (r : Nat) : State :=
  let cut : Nat × Region → Nat × Region := fun e =>
    (e.1, { e.2 with preds := e.2.preds.filter fun u => u != r, pend := e.2.pend.filter fun p => p.1 != r && p.2 != r
                     waiting := false })
  s.onDie fun d => { d with regions := (del d.regions r).map cut }

/-- Mark the image of an evicted wave whose region aborted (R324, Table 25.3). -/
def State.markAborted (s : State) (wid : Nat) : State :=
  s.onSaved fun x => if x.wave.id.wid = wid then { x with aborted := true, stop := 0 } else x

/-- A wave stops waiting on the tiles that it missed: what it has posted goes on for the core of the request, which R297 keeps,
and no requester is left to receive its failure (21 R297, R303). -/
def State.unrequest (s : State) (wid core : Nat) : State :=
  let f : TileReq → TileReq := fun r => if r = .wave wid then .prefetch core else r
  s.onDie fun d =>
    { d with recipeQ := d.recipeQ.map fun e => { e with reqs := e.reqs.map f }
             chains := d.chains.map fun e => (e.1, { e.2 with first := f e.2.first }) }

/-- One region aborts (R320). -/
def State.abortOne (s : State) (r : Nat) (status : Word) : State :=
  match s.region? r with
  | none => s
  | some x =>
    let c := match s.any? x.wid with
      | some w => w.id.core
      | none => 0
    let t := ((s.undefReplies x.wid).unrequest x.wid c).freeRegion r
    let u := (t.onAny x.wid fun w => w.abortTo x status).markAborted x.wid
    match s.wave? x.wid with
    | some w => if x.mask0 &&& w.flow.alive = 0 then u.retire x.wid else u
    | none => u

/-- The regions that some regions reach, each with the lowest id of the aborted direct predecessors through which the abort
arrives (R319, R321). -/
def State.cascade (s : State) (rs : List Nat) : List (Nat × Nat) :=
  let hit := reachFrom s.edges 64 rs
  (hit.filter fun x => !rs.contains x).map fun x =>
    (x, (((s.edges.filter fun e => e.2 == x && hit.contains e.1).map (·.1)).foldl (fun a b => min a b) 63))

/-- Regions abort together with one status, and with them every region they reach (R316, R321). -/
def State.abortRegions (s : State) (rs : List Nat) (status : Word) : State :=
  let cs := s.cascade rs
  forEach cs (forEach rs s fun r t => t.abortOne r status) fun c t => t.abortOne c.1 (abortWord c.2 0 aCASCADE)

/-- One region aborts, and with it every region it reaches. -/
def State.abortRegion (s : State) (r other code cause : Nat) : State := s.abortRegions [r] (abortWord other code cause)

/-! ### Region accesses (R312, R316, R317, R325) -/

/-- What becomes of a region access. -/
inductive RegionTry where
  /-- it is performed; the values read by lane -/
  | ok (s : State) (vals : Map Nat)
  /-- it stalls -/
  | stall (s : State)
  /-- the L2 has no way for a line yet; what the tests before have aborted stays so -/
  | wait (s : State)
  /-- the region of the wave aborted -/
  | aborted (s : State)
  /-- L2 lines are poisoned: the lanes that would read them, and the lowest one's address -/
  | poison (s : State) (lanes : Word) (va : Nat)
  deriving DecidableEq, Repr

/-- Other regions that hold a line with dirty bytes in the core's L1 (R325): the write-back that the access needs. -/
def State.wbEdges (s : State) (c v pa : Nat) : List Nat :=
  match s.l1? c pa with
  | none => []
  | some l =>
    let dirtyLines := (if l.dirty.extractLsb' 0 64 != 0 then [pa / 128 * 2] else []) ++
      (if l.dirty.extractLsb' 64 64 != 0 then [pa / 128 * 2 + 1] else [])
    (s.die.regions.filter fun e => e.1 != v && dirtyLines.any fun x => e.2.reads.contains x || (e.2.version? x).isSome).map (·.1)

/-- The lines that a read would add to the read set exceed it, or a write would exceed the buffer (R315). -/
def State.capacityBad (s : State) (v : Nat) (rd wr : Bool) (ls : List LaneAcc) : Bool :=
  match s.region? v with
  | none => false
  | some r =>
    let lines := (ls.map fun l => l.pa / 64).eraseDups.filter fun x => (r.version? x).isNone
    let reads := lines.filter fun x => !r.reads.contains x
    (rd && decide (512 < r.reads.length + reads.length)) || (wr && decide (8192 < s.versionCount + lines.length))

/-- A region's access reaches its line: the path to the point, and the line in the L2. Room is made when all lanes have their
bytes, so that no lane loses what another has reached (21 R294). -/
def State.regionReach (s : State) (v c : Nat) (l : LaneAcc) : Option State :=
  (s.toPointOver (some v) c l.pa).map fun u => (u.l2Fill (l.pa / 256) l.va l.fields).witness c (s.objOf l.va)

/-- A region access, evaluated from the start; `n` bounds the repeats after older-paired regions abort (R316). -/
def State.regionAccess (s : State) (c v size : Nat) (rd wr : Bool) (f : LaneAcc → Nat → Nat × Flags) (ls : List LaneAcc) : Nat → RegionTry
  | 0 => .stall s
  | n + 1 =>
    match s.region? v with
    | none => .aborted s
    | some r =>
      let s0 := s.onRegion v fun r => { r with pend := [], waiting := false }
      let trial := (s0.regionLanes v size rd wr f ls).1
      let new := (((trial.region? v).map (·.preds)).getD []).filter fun u => !r.preds.contains u
      let wb := (ls.flatMap fun l => s0.wbEdges c v l.pa).eraseDups
      let tested := unionL new wb
      let known := s0.edges ++ s0.pendEdges v
      let cyc := tested.filter fun u => reaches known v u
      if !cyc.isEmpty then
        let mine := cyc.filter fun u => match s0.region? u with
          | some x => younger r x
          | none => false
        if !mine.isEmpty then .aborted (s0.abortRegion v (mine.foldl min 63) 0 aCYCLE)
        else (s0.abortRegions cyc (abortWord v 0 aCYCLE)).regionAccess c v size rd wr f ls n
      else if !boundsOk (s0.edges ++ new.map fun u => (u, v)) (s0.die.regions.map (·.1)) || !wb.isEmpty then
        .stall (s0.onRegion v fun r => { r with pend := tested.map fun u => (u, v), waiting := true })
      else if s0.capacityBad v rd wr ls then .aborted (s0.abortRegion v 0 0 aCAPACITY)
      else match ls.foldlM (fun (t : State) l => t.regionReach v c l) s0 with
        | none => .wait s0
        | some t => match ls.filter fun l => t.l2Poison l.pa with
          | l :: more => .poison s0 (maskOf ((l :: more).map (·.lane))) l.va
          | [] =>
            let d := t.regionLanes v size rd wr f ls
            match d.1.fitAll (ls.map fun l => l.pa / 256) with
            | none => .wait s0
            | some u => .ok u d.2

/-- Try a region access of the wave. -/
def State.tryRegion (s : State) (w : Wave) (v size : Nat) (rd wr : Bool) (f : LaneAcc → Nat → Nat × Flags) (ls : List LaneAcc) : RegionTry :=
  s.regionAccess w.id.core v size rd wr f ls 65

/-! ### Commit (R318) -/

/-- Have all predecessors committed? Committed and aborted regions leave no edge. -/
def Region.mayCommit (r : Region) : Bool := r.preds.isEmpty

/-- The 256-byte lines that a region writes. -/
def Region.lines (x : Region) : List Nat := (x.versions.map fun v => v.line / 4).eraseDups

/-- Byte `i` of a 256-byte line in a region's versions, if the region has written it. -/
def Region.byteAt (x : Region) (line i : Nat) : Option Byte :=
  match x.version? (line * 4 + i / 64) with
  | some v => if v.mask.getLsbD (i % 64) then some (v.data.getD (i % 64) 0) else none
  | none => none

/-- Does a region write every byte of a line (R139)? -/
def Region.whole (x : Region) (line : Nat) : Bool := (List.range 256).all fun i => (x.byteAt line i).isSome

/-- A region's written bytes of a line become its committed data in the L2, as a release's write (R139, R318). -/
def State.commitLine (s : State) (x : Region) (e : RecEntry × Bool) (line : Nat) : State :=
  match x.versions.find? fun v => v.line / 4 == line with
  | none => s
  | some v =>
    let bs := (List.range 256).map fun i => (x.byteAt line i).getD 0
    ((s.l2Fill line v.va v.fields).l2Merge (line * 256) v.fields bs fun i => (x.byteAt line i).isSome).relApply line (some e) (x.whole line)

/-- Every L1 of the die discards its bytes of a region line. -/
def State.discardLine (s : State) (line : Nat) : State :=
  let m := maskBits 128 (line % 2 * 64) 64
  let cut : Nat × L1Line → Nat × L1Line := fun e =>
    if e.1 = line / 2 then (e.1, { e.2 with valid := e.2.valid &&& ~~~m, dirty := e.2.dirty &&& ~~~m }) else e
  forEach s.coreNos s fun k t => t.onCore k fun c => { c with l1 := c.l1.map cut }

/-- May a commit begin: every predecessor has committed, and every earlier access of the wave has performed (R138 step 1)? -/
def State.commitReady (s : State) (w : Wave) (x : Region) : Bool := x.mayCommit && s.earlierDone w w.mem.seq

/-- Commit a region: steps 2 and 3 of R138 with the write-backs of records that overflow, the discards, the written bytes
at one point, and the entry becomes FREE; `none`: a write-back must wait (R318, R325). -/
def State.commitRegion (s : State) (w : Wave) (r : Nat) (x : Region) : Option State :=
  if x.versions.isEmpty then some (s.freeRegion r)
  else
    (s.wbTry (some r) w.id.core fun l => s.relWrites l).bind fun t =>
      let e := t.recordEntry w.id.core
      (x.lines.foldlM (fun (t : State) l => t.relDrain l (some e) (x.whole l)) t).bind fun t =>
        let u := forEach x.versions t fun v t => (t.discardLine v.line).witness w.id.core (t.objOf v.va)
        ((forEach x.lines u fun l t => t.commitLine x e l).freeRegion r).fitAll x.lines

end Sys2Proof.Machine
end

