-- ==== Sys2Proof/Machine/Recipe.lean ====
section
/-! DEFINITION. The recipe queue, recipe slots and kindling waves (spec/21_recipes.md R295 to R302). -/

namespace Sys2Proof.Machine

/-! ### BOOTCFG (R298) -/

def State.rslots (s : State) : Nat := bitsN s.tabs.bootcfg.toNat 0 3
def State.rvregs (s : State) : Nat := bitsN s.tabs.bootcfg.toNat 4 8
def State.rtmem (s : State) : Nat := bitsN s.tabs.bootcfg.toNat 12 8 * 1024
def State.rwslots (s : State) : Nat := bitsN s.tabs.bootcfg.toNat 20 6

/-- The value that BOOTCFG takes from firmware: a setting beyond the limits of R298 is not accepted, and the defaults apply;
other bits read 0 (27 R347). -/
def bootAccept (x : Word) : Word :=
  let n := bitsN x.toNat 0 3
  let v := bitsN x.toNat 4 8
  let t := bitsN x.toNat 12 8
  let w := bitsN x.toNat 20 6
  if n ≤ 4 ∧ 8 ≤ v ∧ v ≤ 128 ∧ v % 8 = 0 ∧ t ≤ 128 ∧ w ≤ 32 ∧ n * t ≤ 512 ∧ n * w ≤ 128 then BitVec.ofNat 32 (n + v * 2 ^ 4 + t * 2 ^ 12 + w * 2 ^ 20)
  else bootDefault

/-! ### Posting (R296) -/

/-- Add a requester to a tile. -/
def State.request (s : State) (t : TileId) (r : TileReq) : State :=
  s.onTile t fun x => { x with guards := if x.guards.contains r then x.guards else x.guards ++ [r] }

/-- Post a tile for a requester: the state, and whether the post was accepted. -/
def State.post (s : State) (t : TileId) (r : TileReq) : State × Bool :=
  let add : RecipeEnt → RecipeEnt := fun e =>
    if e.tile = t ∧ e.reqs.contains r = false then { e with reqs := e.reqs ++ [r] } else e
  if (s.tile t).st = .forming ∨ s.die.recipeQ.any (fun e => e.tile == t) = true then
    ((s.request t r).onDie fun d => { d with recipeQ := d.recipeQ.map add }, true)
  else if s.die.recipeQ.length < 64 then
    ((s.request t r).onDie fun d => { d with recipeQ := d.recipeQ ++ [{ tile := t, reqs := [r], chain := none }] }, true)
  else (s, false)

/-- Post for a wave or copy on core `c`; a refused post is tried again by the core every 128 cycles. -/
def State.postFor (s : State) (c : Nat) (t : TileId) (r : TileReq) : State :=
  let p := s.post t r
  if p.2 then p.1
  else p.1.onCore c fun k =>
    { k with retry := if k.retry.contains t then k.retry else k.retry ++ [t]
             retryDue := if k.retry.isEmpty then s.pkg.coreClock + 128 else k.retryDue }

/-- What a wave's miss posts: a kindling wave's DROPPED tiles are rebuilt by its own chain (R302). -/
def State.postMiss (s : State) (w : Wave) (ts : List TileId) : State :=
  forEach ts s fun t x =>
    if (x.tile t).st = .present then x
    else if w.id.kind = .kindling then x.request t (.wave w.id.wid)
    else x.postFor w.id.core t (.wave w.id.wid)

/-! ### Slots (R297) -/

/-- Free recipe slots of a core, rising. -/
def State.freeSlots (s : State) (c : Nat) : List Nat :=
  (List.range s.rslots).filter fun i => (look? (s.core c).rslots i).isNone

/-- Free recipe slots of the die as (core, slot), rising. -/
def State.freeSlotsAll (s : State) : List (Nat × Nat) := (List.range 128).flatMap fun c => (s.freeSlots c).map fun i => (c, i)

/-- The slots that a chain of depth `d` whose first requester is on core `c` would take: the first-level slot first. -/
def State.pickSlots (s : State) (c d : Nat) : Option (List (Nat × Nat)) :=
  let fs := s.freeSlotsAll
  match (fs.find? fun x => x.1 == c).orElse fun _ => fs.head? with
  | none => none
  | some x =>
    let rest := (fs.filter fun y => y != x).take (d - 1)
    if rest.length + 1 = d then some (x :: rest) else none

/-- The core of a requester, a wave on the die or in an image, a copy or a prefetch. -/
def State.reqCore (s : State) : TileReq → Nat
  | .wave wid => match s.any? wid with
    | some w => w.id.core
    | none => 0
  | .copy c _ => c
  | .prefetch c => c

/-! ### Pins (R301) -/

/-- The PRESENT source tiles of a tile that belong to droppable objects. -/
def State.pinTiles (s : State) (t : TileId) : List TileId :=
  match (s.obj? t.obj).bind fun o => o.recipe.map fun r => (o, r) with
  | none => []
  | some (o, r) => (s.sourceTiles r (t.tile % shN0 o.shape) (t.tile / shN0 o.shape)).filter fun x =>
      (match s.obj? x.obj with | some y => shDroppable y.shape | none => false) && (s.tile x).st == .present

/-- The L2 lines of tiles. -/
def State.l2LinesOf (s : State) (ts : List TileId) : List Nat :=
  (s.die.l2.filter fun e => ts.any fun t => (s.linesOf t).contains (e.2.va / 256)).map (·.1)

/-- The pin condition of a first-level wave. -/
def State.pinsFree (s : State) (t : TileId) : Bool := (s.l2LinesOf (s.pinTiles t)).all fun l => decide (s.pinnedIn l < 4)

/-- Pin what a starting kindling wave pins. -/
def State.pin (s : State) (wid : Nat) (t : TileId) : State :=
  forEach (s.l2LinesOf (s.pinTiles t)) s fun l x =>
    if x.pinnedIn l < 4 ∨ (match x.l2? l with | some e => !e.pins.isEmpty | none => false) = true then
      x.onL2 l fun e => { e with pins := unionL e.pins [wid] }
    else x

/-- Release a wave's pins. -/
def State.unpin (s : State) (wid : Nat) : State :=
  s.onDie fun d => { d with l2 := d.l2.map fun e => (e.1, { e.2 with pins := e.2.pins.filter fun x => x != wid }) }

/-! ### Kindling waves (R299) -/

/-- Thread 0's values of Table 21.5. -/
def kindlingVals (rc shape tile level depth : Nat) : List Nat :=
  let o := tileOrigin shape tile
  [rcArg rc 0, rcArg rc 1, rcArg rc 2, rcArg rc 3, rcOut rc, tile % shN0 shape, tile / shN0 shape, level, depth,
    o % 2 ^ 32, o / 2 ^ 32, tile]

/-- The wave slot of a recipe slot: the first comes from quarter 3, then 2, then 1, then 0 (R94; log 58), each the highest
of its quarter. -/
def recipeWaveSlot (i : Nat) : Nat := (3 - i % 4) * 12 + 11 - i / 4

/-- Start the kindling wave of a level of a chain for a tile. -/
def State.kindle (s : State) (chain level : Nat) (t : TileId) : State :=
  match look? s.die.chains chain, s.obj? t.obj with
  | some ch, some o =>
    match o.recipe, ch.slots[level - 1]? with
    | some rc, some (core, slot) =>
      let wid := s.sched.nextWid
      let blk := s.sched.nextBlk
      let vals := kindlingVals rc o.shape t.tile level ch.depth
      let v := (List.range 12).foldl (fun v i => v.setIfInBounds i
        (setLanes 1 (Vector.replicate 32 0) fun _ => BitVec.ofNat 32 (vals.getD i 0))) WaveRegs.launch.v
      let entry := BitVec.ofNat 64 (rcEntry rc)
      let w : Wave :=
        { id := { wid := wid, kind := .kindling, core := core, slot := recipeWaveSlot slot, blk := some blk, waveIdx := 0
                  blockIdx := 0xFFFFFFFF, clusterIdx := 0xFFFFFFFF, card := none, prio := 0, vregs := s.rvregs, spwait := 0
                  age := s.sched.ageNo, chain := some (chain, level), tile := some t, pins := s.pinTiles t, holds := [] }
          flow := WaveFlow.launch entry 0xFFFFFFFF, regs := { WaveRegs.launch with v := v }
          csr := WaveCsr.launch entry, mem := WaveMem.launch }
      let b : Block :=
        { card := none, index := 0xFFFFFFFF, core := core, bpc := 1, wpb := 1, vregs := s.rvregs, prio := 0, fuse := false
          tmem := s.rtmem, tbase := 524288 - (slot + 1) * s.rtmem, wslots := s.rwslots, waves := [wid], tile := [], tags := []
          slots := [], bars := [], evicted := false, age := s.sched.ageNo }
      let t1 := s.onSched fun d =>
        { d with nextWid := wid + 1, nextBlk := blk + 1, ageNo := d.ageNo + 1, blocks := put d.blocks blk b }
      let t2 := { t1 with others := insertWave w t1.others }
      let t3 := t2.onDie fun d => { d with chains := put d.chains chain { ch with waves := ch.waves ++ [wid] } }
      (t3.onTile t fun x => { x with st := .forming }).pin wid t
    | _, _ => s
  | _, _ => s

/-! ### The end of a chain and of a kindling wave -/

/-- Take a kindling wave off the die with its pins, its block and its term array. Stores that still wait in its own queues go
with it, and entries that have entered a write buffer stay there and perform: R303 says nothing of stores that a failed
chain's waves have issued, and this is the model's choice (log 69). -/
def State.endKindling (s : State) (wid : Nat) : State :=
  match s.wave? wid with
  | none => s
  | some w =>
    let t := (s.unpin wid).dropWave wid
    let u := t.onCore w.id.core fun c => { c with ta := c.ta.map fun e => (e.1, e.2.without wid) }
    match w.id.blk with
    | none => u
    | some k => u.onSched fun d => { d with blocks := del d.blocks k }

/-- Free a chain's slots and its entry. -/
def State.endChain (s : State) (n : Nat) : State :=
  let mine : Nat → Core → Core := fun _ c => { c with rslots := c.rslots.filter fun e => e.2 != n }
  let t := forEach s.coreNos s fun k t => t.onCore k (mine k)
  t.onDie fun d => { d with chains := del d.chains n, recipeQ := d.recipeQ.filter fun e => e.chain != some n }

/-- A FORMING tile returns to DROPPED: its lines go from the L2 and every L1 (R303 step 2). -/
def State.unform (s : State) (t : TileId) : State := if (s.tile t).st = .forming then s.dropTile t else s

/-- The tiles that the waves of a chain rebuild. -/
def State.chainTiles (s : State) (n : Nat) : List TileId :=
  match look? s.die.chains n with
  | none => []
  | some c => c.waves.filterMap fun wid => (s.wave? wid).bind fun w => w.id.tile

/-! ### Waits that would never end (R303) -/

/-- The chain that rebuilds a tile, and the level of its wave. -/
def State.rebuilder (s : State) (t : TileId) : Option (Nat × Nat) :=
  s.waves.findSome? fun w => if w.id.tile = some t then w.id.chain else none

/-- The tiles that a wave waits on: in its own access, and in the reads of its copies. -/
def State.tilesAwaited (s : State) (w : Wave) : List TileId :=
  (match w.flow.hold with
    | .miss ts _ => ts
    | _ => []) ++ ((s.core w.id.core).copies.filter fun c => c.wid == w.id.wid).flatMap (·.waits)

/-- The chains that the waves of a chain wait on. -/
def State.chainWaits (s : State) (n : Nat) : List Nat :=
  (s.waves.filter fun w => (w.id.chain.map (·.1)) == some n).flatMap fun w =>
    (s.tilesAwaited w).filterMap fun t => (s.rebuilder t).map (·.1)

/-- Chains reached by waiting, within `f` rounds. -/
def State.waitReach (s : State) : Nat → List Nat → List Nat
  | 0, xs => xs
  | f + 1, xs => s.waitReach f (unionL xs ((xs.flatMap fun n => (s.chainWaits n).filter fun m => m != n).eraseDups))

/-- Would the wait of a chain's wave at a level on a FORMING tile never end (R303)? -/
def State.deadWait (s : State) (chain level : Nat) (t : TileId) : Bool :=
  (s.tile t).st == .forming && match s.rebuilder t with
    | none => false
    | some (n, k) => if n = chain then decide (k ≤ level) else (s.waitReach 64 [n]).contains chain

/-- Does a wait of a copy of a kindling wave at a level never end (R303)? -/
def State.copyDead (s : State) (w : Wave) (chain level : Nat) : Bool :=
  (s.core w.id.core).copies.any fun c => c.wid == w.id.wid && c.waits.any fun t => s.deadWait chain level t

/-- Does a kindling wave's miss on these tiles make its chain fail (R303)? -/
def State.missFails (s : State) (chain level : Nat) (ts : List TileId) : Bool :=
  match look? s.die.chains chain with
  | none => false
  | some c => ts.any fun t => s.deadWait chain level t || ((s.tile t).st == .dropped && decide (c.depth < level + 1))

end Sys2Proof.Machine
end

