-- ==== Sys2Proof/Machine/Ops.lean ====
section
/-! DEFINITION. The shared operations: engine accesses to memory, stopping a job, taking a trap or a fault, returning
from one, servicing a fault, and the failure of a chain (spec/25_traps_and_preemption.md R331 to R337; 13 R223; 19 R273;
21 R303, R304; 23 R322, R323; 27 R353). -/

namespace Sys2Proof.Machine

/-! ### Engine accesses (R273, R335) -/

/-- How an engine's address translates. -/
inductive Eng where
  | ok (pa fields : Nat)
  | absent
  | prot
  | key
  | poison
  deriving DecidableEq, Repr

/-- Translate an address for an engine: it walks the tables itself. -/
def State.engine (s : State) (va : Nat) (rd wr : Bool) : Eng :=
  if 2 ^ 48 ≤ va then .prot
  else match s.walk va with
    | .absent => .absent
    | .prot => .prot
    | .poison => .poison
    | .leaf e =>
      if (rd && !e.r) || (wr && !e.w) then .prot
      else if s.keyAbsent e.fields then .key
      else .ok (e.frame * 65536 + va % 65536) e.fields

/-- Split `n` bytes at an address into pieces that stay in one line of 256 bytes; `f` bounds the pieces. -/
def pieces : Nat → Nat → Nat → List (Nat × Nat)
  | 0, _, _ => []
  | f + 1, a, n => if n = 0 then [] else
      let k := min n (256 - a % 256)
      (a, k) :: pieces f (a + k) (n - k)

/-- The pieces of `n` bytes. -/
def piecesOf (a n : Nat) : List (Nat × Nat) := pieces (n / 256 + 2) a n

/-- What an engine read or write meets. -/
inductive EngRes (α : Type) where
  | ok (s : State) (x : α)
  | absent (va : Nat)
  | prot (va : Nat)
  | key (va : Nat)
  | poison (va : Nat)
  /-- the L2 has no way for a line yet, or a write-back must wait (21 R294; 23 R325) -/
  | wait
  deriving DecidableEq, Repr

/-- The L2's bytes for a reader, which takes them as the line comes, before room is made in its set (R147; 21 R294): the state,
and the bytes; poison is left to the caller. `none`: the set cannot be made to fit yet. -/
def State.l2Read (s : State) (pa va fields n : Nat) : Option (State × List Byte) :=
  let t := s.l2Fill (pa / 256) va fields
  (t.fit (pa / 256)).map fun u => (u, t.l2Bytes pa n)

/-- An engine reads pieces at the L2 (R147). -/
def State.engReadP (s : State) : List (Nat × Nat) → EngRes (List Byte)
  | [] => .ok s []
  | (a, n) :: t => match s.engine a true false with
    | .absent => .absent a
    | .prot => .prot a
    | .key => .key a
    | .poison => .poison a
    | .ok pa f =>
      if s.fillPoison pa f then .poison a
      else match s.l2Read pa a f n with
        | none => .wait
        | some u => match u.1.engReadP t with
          | .ok v bs => .ok v (u.2 ++ bs)
          | r => r

/-- An engine reads `n` bytes. -/
def State.engRead (s : State) (a n : Nat) : EngRes (List Byte) := s.engReadP (piecesOf a n)

/-- An engine writes pieces at the L2, taking a release's record entry if it has one (R272). -/
def State.engWriteP (s : State) (rel : Option (RecEntry × Bool)) (scope : Nat) (bs : List Byte) : List (Nat × Nat) → EngRes Unit
  | [] => .ok s ()
  | (a, n) :: t => match s.engine a false true with
    | .absent => .absent a
    | .prot => .prot a
    | .key => .key a
    | .poison => .poison a
    | .ok pa f =>
      match s.l2Put rel scope pa a f (bs.take n) with
      | none => .wait
      | some v => v.engWriteP rel scope (bs.drop n) t

/-- An engine writes bytes. -/
def State.engWrite (s : State) (rel : Option (RecEntry × Bool)) (scope a : Nat) (bs : List Byte) : EngRes Unit :=
  s.engWriteP rel scope bs (piecesOf a bs.length)

/-- Does a region hold a line that an engine would write (23 R325)? -/
def State.engHeld (s : State) (a n : Nat) : Bool :=
  (piecesOf a n).any fun p => match s.engine p.1 false true with
    | .ok pa _ => (List.range (p.2 / 64 + 2)).any fun i => decide (pa / 64 + i ≤ (pa + p.2 - 1) / 64) && s.regionHeld none (pa / 64 + i)
    | _ => false

/-! ### Outstanding faults (R336) -/

/-- Create or join an outstanding fault: the state and its token. -/
def State.joinFault (s : State) (key : FaultKey) (va : Nat) (engine : Bool) : State × Nat :=
  match s.die.faults.find? fun f => f.key == key with
  | some f => (s, f.token)
  | none =>
    let tok := s.die.tokens + 1
    let enters := match key with
      | .page _ => true
      | .range _ => false
    let room := decide (s.host.faultq.length < 256)
    let f : OutFault := { token := tok, key := key, queued := enters && room, va := va, engine := engine }
    let t := s.onDie fun d => { d with tokens := tok, faults := d.faults ++ [f] }
    let entry : Nat × BitVec 64 := (tok, BitVec.ofNat 64 (va % 2 ^ 49 + if engine then 2 ^ 63 else 0))
    if enters && room then
      let u := t.onHost fun h => { h with faultq := h.faultq ++ [entry] }
      (if s.host.faultq.isEmpty then u.raise 1 else u, tok)
    else (t, tok)

/-- Faults that found FAULTQ full enter it (R353). -/
def State.fillFaultq (s : State) : State :=
  match s.die.faults.find? fun f => !f.queued && match f.key with | .page _ => true | .range _ => false with
  | none => s
  | some f =>
    if s.host.faultq.length < 256 then
      let entry : Nat × BitVec 64 := (f.token, BitVec.ofNat 64 (f.va % 2 ^ 49 + if f.engine then 2 ^ 63 else 0))
      let mark : OutFault → OutFault := fun x => if x.token = f.token then { x with queued := true } else x
      let t := (s.onHost fun h => { h with faultq := h.faultq ++ [entry] }).onDie fun d => { d with faults := d.faults.map mark }
      if s.host.faultq.isEmpty then t.raise 1 else t
    else s

/-- A wave after a token it waits on has been serviced (R333, R334). -/
def Wave.served (tok : Nat) (w : Wave) : Wave :=
  match w.flow.hold with
  | .fault ts =>
    if ts.contains tok then
      match ts.filter fun x => x != tok with
      | [] =>
        let v := w.withHold .run
        if w.flow.contin || w.flow.handler then v else { v with csr := { v.csr with ftoken := 0 } }
      | r => w.withHold (.fault r)
    else w
  | _ => w

/-- Change every wave, evicted ones included. -/
def State.mapWaves (s : State) (f : Wave → Wave) : State :=
  let w : Wave := if s.w.flow.hold = .blank then s.w else f s.w
  let t : State := { s with w := w, others := s.others.map f }
  t.onSaved fun x => { x with wave := f x.wave }

/-- Service an outstanding fault for every waiter at once (R335, R336). -/
def State.service (s : State) (tok : Nat) : State :=
  if (s.die.faults.any fun f => f.token == tok) then
    let t := s.mapWaves (Wave.served tok)
    let freeCopy : Copy → Copy := fun c => if c.token = some tok then { c with token := none } else c
    let u := forEach t.coreNos t fun k x => x.onCore k fun c => { c with copies := c.copies.map freeCopy }
    let clear : Option Nat → Option Nat := fun x => if x = some tok then none else x
    let freeQ : Nat × TaskQueue → Nat × TaskQueue := fun e =>
      (e.1, { e.2 with wtoken := clear e.2.wtoken, rtoken := clear e.2.rtoken })
    u.onDie fun d => { d with faults := d.faults.filter fun f => f.token != tok, queues := d.queues.map freeQ }
  else s

/-! ### Stopping the job (R337) -/

/-- Write free bytes over a row of an abandoned copy's destination, wherever its pages translate (log 19). 23 R325 speaks of a
copy's writes and not of bytes that become undefined: that they do so at once, also in a line that an uncommitted region
holds, is the model's choice (log 70). -/
def State.scramble (s : State) (r : Nat × Nat) : State :=
  let one : Nat × Nat → State → State := fun p t =>
    let b := t.drawBytes p.2
    match b.2.engWriteP none 2 b.1 [p] with
    | .ok u _ => u
    | _ => b.2
  if inPeer r.1 then s else forEach (piecesOf r.1 r.2) s one

/-- Copies that satisfy `p` are abandoned, and their destination bytes are undefined (log 19). -/
def State.abandon (s : State) (p : Copy → Bool) : State :=
  let all := (s.coreNos.flatMap fun k => (s.core k).copies.map fun c => (k, c)).filter fun e => p e.2
  let t := forEach s.coreNos s fun k t => t.onCore k fun c => { c with copies := c.copies.filter fun x => !p x }
  let u := t.onDie fun d => { d with locks := d.locks.filter fun l => !all.any fun e => e.1 == l.core && e.2.seq == l.seq }
  forEach (all.filter fun e => !e.2.bad) u fun e x => forEach e.2.dstRows x fun r y => y.scramble r

/-- Steps 1 to 4 of R337. Issued accesses are discarded. -/
def State.stopJob (s : State) : State :=
  let t := s.onHost fun h => { h with jobDead := true }
  let tiles := t.waves.filterMap fun w => w.id.tile
  let kin := (t.waves.filter fun w => w.id.kind == .kindling).map (·.id.wid)
  let u := forEach tiles t fun x y => y.unform x
  let v := forEach kin u fun i y => y.endKindling i
  let quietW : Wave → Wave := fun w =>
    { w with mem := { w.mem with sq := [], loads := [], strong := [], v2s := [], fwd := [], region := none } }
  let x := v.mapWaves quietW
  let y := forEach x.coreNos x fun k z => z.onCore k fun c => { c with wbuf := [], rslots := [], retry := [] }
  (y.onDie fun d => { d with regions := [], rwait := [], recipeQ := [], chains := [] }).abandon fun _ => true

/-- A supervisor fault: code, position, FVA, FLANES, core and slot (R337, R353). -/
def State.supervisor (s : State) (code : Nat) (pos : Addr) (fva : Nat) (lanes : Word) (core slot : Nat) : State :=
  if s.host.jobDead then
    s.onHost fun h => { h with supf := h.supf.set 7 (h.supf.getD 7 0 + 1) }
  else
    let report : List (BitVec 64) :=
      [BitVec.ofNat 64 code, pos, BitVec.ofNat 64 fva, BitVec.ofNat 64 lanes.toNat, BitVec.ofNat 64 core, BitVec.ofNat 64 slot,
        BitVec.ofNat 64 s.host.jobid.toNat, 0]
    ((s.stopJob).onHost fun h => { h with supf := report }).raise 2

/-- A supervisor fault of a wave. -/
def State.supervisorW (s : State) (w : Wave) (code fva : Nat) (lanes : Word) : State :=
  s.supervisor code w.flow.pc fva lanes w.id.core w.id.slot

/-! ### The words of a trapping instruction (R54) -/

/-- Code as it stands in memory, through the tables, for the words of a trap. -/
def State.codeWord (s : State) (va : Nat) : Word :=
  match s.engine va false false with
  | .ok pa f => BitVec.ofNat 32 (s.peek pa 4 f)
  | _ => 0

/-- XWORD0, XWORD1 and XIMM of the instruction at a position: of the clause held, else of code in memory. TRAP's second
word is 0 (R221). -/
def State.xwords (s : State) (w : Wave) : Word × Word × Word :=
  let hdr := posHdr w.flow.pc
  if posIndex w.flow.pc = 15 then
    (match w.flow.clause with | some c => c.hdr | none => s.codeWord hdr, 0, 0)
  else
    let ws := match w.flow.clause with
      | some c => wordsAt (posIndex w.flow.pc) c.words
      | none => (wordsAt (posIndex w.flow.pc) ((List.range 30).map fun i => s.codeWord (hdr + 4 + 4 * i))).take 2
    match ws with
    | [] => (0, 0, 0)
    | a :: t =>
      let b := if opcodeOf a = 0xC2 then 0 else t.headD 0
      (a, b, if opcodeWords (opcodeOf a) = 2 then b else 0)

/-! ### Taking an exception -/

/-- Record FCAUSE, FVA and FLANES. -/
def Wave.cause (w : Wave) (code fva : Nat) (lanes : Word) : Wave :=
  { w with csr := { w.csr with fcause := BitVec.ofNat 32 code, fva := BitVec.ofNat 64 fva, flanes := lanes } }

/-- Codes that stop the job wherever they are raised (Table 25.1). -/
def supervisorCode (c : Nat) : Bool := c == cPROTECTION || c == cKEY_ABSENT || c == cPOISON

/-- The delivery of a trap with TVEC ≠ 0 to a wave in no handler or continuation (R332). -/
def State.trapEntry (s : State) (w : Wave) (code fva : Nat) (lanes : Word) : Wave :=
  let x := s.xwords w
  let v := (w.cause code fva lanes).withHold .run
  let c := { v.csr with epc := w.flow.pc, xword0 := x.1, xword1 := x.2.1, ximm := x.2.2 }
  let u := { v with csr := c, flow := { v.flow with handler := true, stalled := false, ready := 0 }
                    mem := { v.mem with walked := [], guards := [] } }
  u.jump (headerPos w.csr.tvec.toNat)

/-- A trap of a wave that holds no region and is no kindling wave: the acting wave. -/
def State.plainTrap (s : State) (code fva : Nat) (lanes : Word) : State :=
  if s.w.flow.handler || s.w.flow.contin || s.w.csr.tvec == 0 then s.supervisorW s.w code fva lanes
  else { s with w := s.trapEntry s.w code fva lanes }

/-- The delivery of a fault inside a region: the region aborts (R322, R323). REGION_ILLEGAL and the pops of R322 give
cause ILLEGAL; every other code sets FCAUSE, FVA and FLANES and gives cause FAULT. -/
def State.regionFault (s : State) (r code fva : Nat) (lanes : Word) : State :=
  if code = cREGION_ILLEGAL then s.abortRegion r 0 cREGION_ILLEGAL aILLEGAL
  else (s.onW fun w => w.cause code fva lanes).abortRegion r 0 code aFAULT

/-- Enter the fault continuation, or park (R333). -/
def Wave.faultEntry (w : Wave) (code fva : Nat) (lanes : Word) (tok : Nat) (toks : List Nat) : Wave :=
  let v := w.cause code fva lanes
  let c := { v.csr with fpc := w.flow.pc, ftoken := BitVec.ofNat 64 tok }
  let f := { v.flow with retMask := w.flow.mask, retRpc := w.flow.rpc, retDepth := w.depth, ready := 0, stalled := false }
  let u := { v with csr := c, flow := f, mem := { v.mem with walked := [], owed := put w.mem.owed w.flow.pc.toNat toks } }
  if w.csr.cont ≠ 0 ∧ w.id.kind ≠ .kindling then
    { u with flow := { u.flow with contin := true }, mem := { u.mem with guards := [] } }.jump (headerPos w.csr.cont.toNat)
  else u.withHold (.fault toks)

/-! ### The failure of a chain (R303, R304) -/

/-- The lanes of a parked access that touched a tile, and the lowest of their addresses. -/
def State.missLanes (s : State) (w : Wave) (tiles : List TileId) : Word × Nat :=
  match w.flow.hold with
  | .miss _ ls =>
    let hit := ls.filter fun e => match s.sealedTile e.2 with
      | some t => tiles.contains t
      | none => false
    (maskOf (hit.map (·.1)), (hit.headD (0, 0)).2)
  | _ => (w.flow.mask, 0)

/-- Deliver RECIPE_DEPTH to a wave parked on a miss, which stops waiting on every tile of it (R304). -/
def State.recipeDepth (s : State) (wid : Nat) (tiles : List TileId) : State :=
  match s.wave? wid with
  | none => s
  | some w =>
    let m := s.missLanes w tiles
    let t := (s.unrequest wid w.id.core).switchTo wid
    let tok := t.die.tokens + 1
    match w.mem.region with
    | some r => t.regionFault r cRECIPE_DEPTH m.2 m.1
    | none =>
      if w.flow.handler || w.flow.contin then t.supervisorW w cRECIPE_DEPTH m.2 m.1
      else
        let u := t.onDie fun d => { d with tokens := tok }
        if w.csr.cont ≠ 0 then u.onW fun v => (v.withHold .run).faultEntry cRECIPE_DEPTH m.2 m.1 tok []
        else
          let named : Wave → Wave := fun v =>
            { v with csr := { v.csr with fpc := v.flow.pc, ftoken := BitVec.ofNat 64 tok }
                     flow := { v.flow with retMask := v.flow.mask, retRpc := v.flow.rpc, retDepth := v.depth } }
          (u.onW fun v => named (v.withHold .run)).plainTrap cRECIPE_DEPTH m.2 m.1

/-- The original requester of a chain receives its failure, if it still waits on the chain's first tile (Table 21.6). Where it is
a read of a copy the job stops as on poisoned data; Table 21.6 names no address for that report, and that FVA is 0 there is
the model's choice (log 71). -/
def State.failRequester (s : State) (tiles : List TileId) (c : Chain) : State :=
  match c.first with
  | .prefetch _ => s
  | .wave wid => match s.wave? wid with
    | none => s
    | some w => match w.flow.hold with
      | .miss ts _ => if ts.contains c.tile then s.recipeDepth wid tiles else s
      | _ => s
  | .copy k seq =>
    if (s.core k).copies.any fun x => x.seq == seq && x.waits.contains c.tile then s.supervisor cPOISON 0 0 0 k 0 else s

/-- Who waits on a tile: waves parked on it, kindling waves apart, and copies. -/
def State.awaiting (s : State) (t : TileId) : List (Nat × TileReq) :=
  (s.waves.filterMap fun w => match w.flow.hold with
    | .miss ts _ => if w.id.kind != .kindling && ts.contains t then some (w.id.core, .wave w.id.wid) else none
    | _ => none) ++
  s.coreNos.flatMap fun k => ((s.core k).copies.filter fun c => c.waits.contains t).map fun c => (k, .copy k c.seq)

/-- One chain fails (R303): its waves end, its tiles return to DROPPED, its first requester receives the failure, and the
others that wait post again. A kindling wave of another chain posts no entry: its miss is its own chain's (R302). -/
def State.failOne (s : State) (n : Nat) : State :=
  match look? s.die.chains n with
  | none => s
  | some c =>
    let tiles := s.chainTiles n
    let t := (forEach c.waves s fun wid x => x.endKindling wid).abandon fun x => c.waves.contains x.wid
    let u := forEach tiles (t.endChain n) fun x y => (y.unform x).onTile x fun z => { z with guards := [] }
    let v := u.failRequester tiles c
    let kin := v.waves.filter fun w => w.id.kind == .kindling
    let w := forEach tiles v fun x y => forEach (kin.filter fun k => (y.tilesAwaited k).contains x) y fun k y => y.request x (.wave k.id.wid)
    forEach tiles w fun x y => forEach ((y.awaiting x).filter fun r => r.2 != c.first) y fun r z => z.postFor r.1 x r.2

/-- A chain with a wave that now waits, itself or by a copy, on tiles as it may not (R303). -/
def State.doomed (s : State) : Option Nat :=
  s.waves.findSome? fun w => match w.id.chain with
    | none => none
    | some (n, k) =>
      let missing := match w.flow.hold with
        | .miss ts _ => s.missFails n k ts
        | _ => false
      if missing || s.copyDead w n k then some n else none

/-- Chains that the failure of another leaves waiting in vain fail too, `n` of them. -/
def State.failMore : Nat → State → State
  | 0, s => s
  | n + 1, s => match s.doomed with
    | none => s
    | some c => failMore n (s.failOne c)

/-- A chain fails, and with it those whose waves can no longer end (R303). -/
def State.failChain (s : State) (n : Nat) : State :=
  let me := s.w.id.wid
  let t := (s.failOne n).failMore s.die.chains.length
  if (t.wave? me).isSome then t.switchTo me else t

/-! ### The shared entry points -/

/-- What has been read when a fault is raised: on POISON the block that it names (05 R84). -/
def State.afterPoison (s : State) (code fva : Nat) : State := if code = cPOISON then s.recodeAt fva else s

/-- Take a trap or fault that no table services: the acting wave, at its position (R331). -/
def State.takeTrap (s : State) (code fva : Nat) (lanes : Word) : State :=
  match s.w.id.chain with
  | some (n, _) => ((s.afterPoison code fva).failChain n).supervisorW s.w code fva lanes
  | none =>
    if supervisorCode code then (s.afterPoison code fva).supervisorW s.w code fva lanes
    else match s.w.mem.region with
      | some r => s.regionFault r code fva lanes
      | none => s.plainTrap code fva lanes

/-- What an address's PAGE_ABSENT or HANDOVER waits on (R336). -/
def State.faultKey (s : State) (code va : Nat) : FaultKey :=
  if code = cPAGE_ABSENT then .page (va / 65536)
  else match s.hoOf va with
    | some (n, _) => .range n
    | none => .range 0

/-- Create or join the outstanding faults of lanes; the tokens in lane order. -/
def State.joinAll (s : State) (code : Nat) : List Nat → State × List Nat
  | [] => (s, [])
  | va :: t =>
    let a := s.joinFault (s.faultKey code va) va false
    let b := a.1.joinAll code t
    (b.1, unionL [a.2] b.2)

/-- Take a PAGE_ABSENT or a HANDOVER of the acting wave; `vas` are the faulting lanes' addresses (R333, R334, R336). In a
handler or a continuation the wave parks: FCAUSE, FVA and FLANES name the nested fault, and FPC, FTOKEN and the return
state keep the first. -/
def State.takeFault (s : State) (code : Nat) (vas : List Nat) (fva : Nat) (lanes : Word) : State :=
  let j := s.joinAll code vas
  let tok := j.2.headD 0
  match s.w.mem.region with
  | some r => j.1.regionFault r code fva lanes
  | none =>
    if s.w.flow.handler || s.w.flow.contin then
      j.1.onW fun w => { (w.cause code fva lanes).withHold (.fault j.2) with mem := { w.mem with walked := [], owed := put w.mem.owed w.flow.pc.toNat j.2 } }
    else j.1.onW fun w => w.faultEntry code fva lanes tok j.2

/-- Take whatever an access raises (R331). -/
def State.take (s : State) (code : Nat) (vas : List Nat) (fva : Nat) (lanes : Word) : State :=
  if code = cPAGE_ABSENT ∨ code = cHANDOVER then s.takeFault code vas fva lanes else s.takeTrap code fva lanes

/-- A pop below the depth that a region or a continuation keeps (R322, R334). -/
def State.takePop (s : State) : State :=
  match s.w.mem.region with
  | some r => s.abortRegion r 0 cILLEGAL_CONVERGENCE aILLEGAL
  | none => s.takeTrap cILLEGAL_CONVERGENCE 0 s.w.flow.mask

/-! ### Returning from one (R223, R333) -/

/-- The return of RESUMEF once the fault is serviced (R333). -/
def Wave.resumef (w : Wave) : Wave :=
  { w with csr := { w.csr with ftoken := 0 }
           flow := { w.flow with stack := w.flow.stack.take w.flow.retDepth, mask := w.flow.retMask &&& w.flow.alive
                                 rpc := w.flow.retRpc, contin := false, hold := .run, pc := w.csr.fpc, clause := none
                                 skip := false } }

/-- Reserved bits of a position are 0 (R35). -/
def posOk (pc : Addr) : Bool := pc.extractLsb' 49 11 == 0 && pc.extractLsb' 0 2 == 0

/-- Does an address lie on a page mapped executable (R27)? -/
def State.execPage (s : State) (va : Nat) : Bool :=
  decide (va < 2 ^ 48) && match s.walk va with
  | .leaf e => e.x && !s.keyAbsent e.fields
  | _ => false

end Sys2Proof.Machine
end

