-- ==== Sys2Proof/Machine/Operands.lean ====
section
/-! DEFINITION. Operand forms and the issue of an instruction: which registers it reads and writes and how it waits for
them, the checks of R51, what it can come to, and how the wave goes on (spec/03_instruction_encoding.md R30, R31, R33,
R34, R44, R47 to R51; 11 R155 to R157; 15 R241). -/

namespace Sys2Proof.Machine

/-! ### Registers that an instruction uses -/

/-- A source: `n` registers from `reg` of the vector or scalar file, with its W bit; a source with no W bit has W = 1
(R49). -/
structure Src where
  vec : Bool
  reg : Nat
  n : Nat
  wait : Bool
  deriving DecidableEq, Repr

/-- A destination: `n` registers from `reg` (R50). -/
structure Dst where
  vec : Bool
  reg : Nat
  n : Nat
  deriving DecidableEq, Repr

/-- What an instruction uses: class of its opcode, whether it is a control transfer, its registers, how many cycles it
holds the vector ALU (R155; 0 outside classes 0 and 1), registers that it names and neither waits for nor tests, and the
weight slots it names (R44). -/
structure Use where
  cls : Nat
  ct : Bool
  srcs : List Src
  dsts : List Dst
  occ : Nat
  named : List Dst := []
  slots : List Nat := []
  deriving DecidableEq, Repr

def vsrc (r : BitVec 7) (n : Nat) (w : Bool) : Src := { vec := true, reg := r.toNat, n := n, wait := w }
def ssrc (r : Nat) (n : Nat) (w : Bool) : Src := { vec := false, reg := r, n := n, wait := w }
def vdst (r : BitVec 7) (n : Nat) : Dst := { vec := true, reg := r.toNat, n := n }
def sdst (r : Nat) (n : Nat) : Dst := { vec := false, reg := r, n := n }

/-- The second operand of F3: vB, or sB with QB (R37, R156). -/
def bsrc (q : Bool) (r : BitVec 7) (n : Nat) (w : Bool) : Src := if q then ssrc r.toNat n w else vsrc r n w

/-- The two sources of an F3 instruction. -/
def f3srcs (f : F3) (n : Nat) : List Src := [vsrc f.a n f.wa, bsrc f.q f.b n f.wb]

/-- The source of a unary F3 instruction. -/
def u3src (u : U3) (n : Nat) : Src := vsrc u.a n u.wa

/-- The source of FI: vA, or sA with QA (R39). -/
def fisrc (f : FI) (n : Nat) : Src := bsrc f.q f.a n f.wa

/-- Use of an instruction of class 0 or 1. -/
def valu (cls occ : Nat) (srcs : List Src) (dsts : List Dst) : Use := { cls := cls, ct := false, srcs := srcs, dsts := dsts, occ := occ }

/-- Use of an instruction of another class. -/
def useOf (cls : Nat) (srcs : List Src) (dsts : List Dst) : Use := { cls := cls, ct := false, srcs := srcs, dsts := dsts, occ := 0 }

/-- Use of a control transfer. -/
def useCt (srcs : List Src) : Use := { cls := 2, ct := true, srcs := srcs, dsts := [], occ := 0 }

/-- The value of the second operand in a lane. -/
def Wave.opB (w : Wave) (q : Bool) (b : BitVec 7) (l : Nat) : Word := if q then w.rdS b.toNat else w.lane b.toNat l

/-- The pair value of the second operand in a lane (R157). -/
def Wave.opB2 (w : Wave) (q : Bool) (b : BitVec 7) (l : Nat) : BitVec 64 := if q then w.rdS2 b.toNat else w.lane2 b.toNat l

/-! ### Checks of registers -/

/-- Registers beyond the wave's allocation (R44). -/
def Wave.beyond (w : Wave) (vec : Bool) (reg n : Nat) : Bool := if vec then decide (w.id.vregs < reg + n) else decide (64 < reg + n)

/-- Does the use name a register that the wave does not have? -/
def Use.allocBad (u : Use) (w : Wave) : Bool :=
  (u.srcs.any fun x => w.beyond x.vec x.reg x.n) || (u.dsts.any fun x => w.beyond x.vec x.reg x.n) ||
  u.named.any fun x => w.beyond x.vec x.reg x.n

/-- Are registers full? -/
def Wave.full (w : Wave) (vec : Bool) (reg n : Nat) : Bool := if vec then w.fullV reg n else w.fullS reg n

/-- The sources with W = 1 that are empty (R49). -/
def Use.emptySrcs (u : Use) (w : Wave) : List (Bool × Nat × Nat) :=
  (u.srcs.filter fun x => x.wait && !w.full x.vec x.reg x.n).map fun x => (x.vec, x.reg, x.n)

/-- The registers that the instruction waits for: sources with W = 1 and destinations that are empty (R49, R50). -/
def Use.blocked (u : Use) (w : Wave) : List (Bool × Nat × Nat) :=
  u.emptySrcs w ++ ((u.dsts.filter fun x => !w.full x.vec x.reg x.n).map fun x => (x.vec, x.reg, x.n))

/-- Is a source with W = 0 empty (R49)? -/
def Use.emptyRead (u : Use) (w : Wave) : Bool := u.srcs.any fun x => !x.wait && !w.full x.vec x.reg x.n

/-- Does the clause's pipe admit the class (R30)? -/
def pipeAdmits (pipe cls : Nat) : Bool := if pipe = 0 then decide (cls ≤ 1) else pipe == cls

/-- NI of the clause a wave is in. -/
def Wave.ni (w : Wave) : Nat := match w.flow.clause with
  | none => 0
  | some c => hdrNI c.hdr

/-- The encoding checks of R51 step 1 that depend on the clause and the wave: pipe, place of a control transfer,
allocation of registers and weight slots. -/
def Use.encodingBad (u : Use) (s : State) : Bool :=
  match s.w.flow.clause with
  | none => false
  | some c => !pipeAdmits (hdrPipe c.hdr) u.cls || (u.ct && posIndex s.w.flow.pc + 1 != hdrNI c.hdr) || u.allocBad s.w ||
      u.slots.any fun n => decide (s.wslots s.w ≤ n)

/-! ### Promotion requests (R241) -/

/-- The registers of a held run's accumulator range. -/
def TermRun.holds (r : TermRun) (vec : Bool) (reg n : Nat) : Bool := vec && meets reg n r.vacc 64

/-- A promotion request (17 R251). -/
def TermOp.request (w : Wave) : TermOp :=
  { kind := .request, wid := w.id.wid, blk := w.id.blk, vacc := 0, fw := 0, aoff := 0, consume := false, p := 0, slot := 0
    seq := w.mem.seq, ssc := false, lc := 0, sigma := false, filler := none, zeroB := false }

/-- Ask for the promotion of the run that the wave's term work leaves open, behind that work; while the queue is full the
request waits (R241, R251). -/
def State.askPromotion (s : State) (w : Wave) : State :=
  let c := s.core w.id.core
  match c.arrOf w.id.wid with
  | none => s
  | some k =>
    if (s.openRun w).isSome && decide ((c.arr k).queue.length < 4) then
      s.onCore w.id.core fun c => c.onArr k fun a => { a with queue := a.queue ++ [TermOp.request w] }
    else s

/-- The queue of the array assigned to a wave. -/
def State.termQueue (s : State) (w : Wave) : List TermOp :=
  match (s.core w.id.core).arrOf w.id.wid with
  | none => []
  | some k => ((s.core w.id.core).arr k).queueOf w.id.wid

/-- Is a run of the wave held, or open behind queued work, or its promotion asked for and not yet made (R241)? -/
def State.promoting (s : State) (w : Wave) : Bool :=
  (s.heldRun w).isSome || (s.openRun w).isSome || (s.termQueue w).any fun o => o.kind == .request

/-- Do registers lie in the accumulator range of such a run? -/
def State.promotingIn (s : State) (w : Wave) (reg n : Nat) : Bool :=
  let inRun : Option TermRun → Bool := fun r => match r with
    | some r => r.holds true reg n
    | none => false
  inRun (s.heldRun w) || inRun (s.openRun w) ||
    (((s.termQueue w).any fun o => o.kind == .request) && (s.termQueue w).any fun o => o.kind == .tmm && meets reg n o.vacc 64)

/-- A wait for registers asks for a promotion when one of them lies in the open run's range; counter 2 counts the waits on
empty sources (R225). -/
def State.waitRegs (s : State) (w : Wave) (source : Bool) (rs : List (Bool × Nat × Nat)) : State :=
  let t := if source then s.onW fun w => w.perfAdd 2 1 else s
  match s.openRun w with
  | none => t
  | some r => if rs.any fun x => r.holds x.1 x.2.1 x.2.2 then t.askPromotion w else t

/-! ### What an instruction comes to -/

/-- What an instruction comes to once it reaches issue. -/
inductive Act where
  /-- its effect; the wave goes on to its next instruction -/
  | done (s : State)
  /-- its effect, which says itself how the wave goes on -/
  | goto (s : State)
  /-- the wave has left the instruction: nothing is to be added -/
  | left (s : State)
  /-- nothing yet: it is tried again -/
  | wait (s : State)
  /-- nothing yet, only because its pipe cannot accept it (R108) -/
  | pipe (s : State)
  /-- a trap or fault with this code, FVA and FLANES, from the state before -/
  | trap (code fva : Nat) (lanes : Word)
  /-- a PAGE_ABSENT or HANDOVER of lanes at these addresses -/
  | fault (code : Nat) (vas : List Nat) (fva : Nat) (lanes : Word)
  /-- a pop below the depth that a region or a continuation keeps (R322, R334) -/
  | badPop
  /-- TLB misses -/
  | walk (pages : List Nat)
  /-- misses on dropped tiles -/
  | miss (tiles : List TileId) (lanes : List (Nat × Nat))
  deriving DecidableEq, Repr

/-- What a wave holds for an instruction at `pc` that is to execute again is gone once the instruction has completed
(25 R336; 13 R189). -/
def Wave.finish (w : Wave) (pc : Addr) : Wave :=
  { w with flow := { w.flow with stalled := false, ready := 0, inBar := if w.flow.inBar.any fun b => b.1 == pc then none else w.flow.inBar }
           mem := { w.mem with walked := [], guards := [], owed := del w.mem.owed pc.toNat } }

/-- A wave past an instruction: the next instruction of its clause, or the next header (R34); its ready count restarts
(R108), counter 0 counts (R225), and YLD may apply (R33). -/
def Wave.advance (w : Wave) : Wave :=
  let u := ((w.perfAdd 0 1).withHold .run).finish w.flow.pc
  match w.flow.clause with
  | none => u
  | some c =>
    let i := posIndex w.flow.pc
    let hdr := posHdr w.flow.pc
    if i + 1 < hdrNI c.hdr then { u with flow := { u.flow with pc := mkPos (i + 1) hdr } }
    else { u with flow := { u.flow with pc := headerPos (nextHdr c hdr), clause := none, yielded := hdrYld c.hdr || u.flow.yielded } }

/-- Is the wave inside its clause's last instruction with YLD? -/
def Wave.yields (w : Wave) : Bool := match w.flow.clause with
  | none => false
  | some c => hdrYld c.hdr && posIndex w.flow.pc + 1 == hdrNI c.hdr

/-- After an effect that set the position itself. -/
def State.went (s : State) (w : Wave) : State :=
  s.onAny w.id.wid fun v =>
    let u := (v.perfAdd 0 1).finish w.flow.pc
    { u with flow := { u.flow with yielded := u.flow.yielded || w.yields } }

/-- A wave parked on tiles: each of them is guarded from then on until the wave's access performs (21 R305 step 4). -/
def Wave.missing (w : Wave) (tiles : List TileId) (lanes : List (Nat × Nat)) : Wave :=
  { w with flow := { w.flow with hold := .miss tiles lanes, stalled := false }
           mem := { w.mem with guards := w.mem.guards ++ tiles.filter fun t => !w.mem.guards.contains t } }

/-- A wave that misses on tiles parks and posts them; a chain whose wave may not wait fails (R296, R302, R303). -/
def State.takeMiss (s : State) (tiles : List TileId) (lanes : List (Nat × Nat)) : State :=
  let park (t : State) : State := (t.postMiss t.w tiles).onW fun w => w.missing tiles lanes
  match s.w.id.chain with
  | some (n, k) => if s.missFails n k tiles then s.failChain n else park s
  | none => park s

/-- The state after what an instruction came to. -/
def Act.settle (s : State) : Act → State
  | .done t => t.onW Wave.advance
  | .goto t => t.went s.w
  | .left t => t
  | .wait t => t.onW fun w => { w with flow := { w.flow with stalled := true, piped := false } }
  | .pipe t => t.onW fun w => { w with flow := { w.flow with stalled := true, piped := true } }
  | .trap code fva lanes => s.takeTrap code fva lanes
  | .fault code vas fva lanes => s.takeFault code vas fva lanes
  | .badPop => s.takePop
  | .walk ps => s.onW fun w => { (w.perfAdd 5 ps.length) with flow := { (w.perfAdd 5 ps.length).flow with hold := .walk ps, stalled := false } }
  | .miss ts ls => s.takeMiss ts ls

/-- A trap of the whole wave with FVA 0 and FLANES = MASK (R332 step 4). -/
def Wave.trapAct (w : Wave) (code : Nat) : Act := .trap code 0 w.flow.mask

/-- The result of the checks of R153 as what an instruction comes to; `whole`: FLANES := MASK (R209). -/
def Checked.act (w : Wave) (whole : Bool) (go : List LaneAcc → Act) : Checked → Act
  | .walk ps => .walk ps
  | .fault code ls fva =>
    let m := if whole then w.flow.mask else maskOf (ls.map (·.1))
    if code = cPAGE_ABSENT ∨ code = cHANDOVER then .fault code (ls.map (·.2)) fva m else .trap code fva m
  | .miss ts ls => .miss ts (if whole then w.lanes.map fun l => (l, (ls.headD (0, 0)).2) else ls)
  | .ok as => go as

/-! ### Issue -/

/-- A wave that may try its instruction: it is not parked (R108). -/
def Hold.tries : Hold → Bool
  | .run => true
  | .bar _ _ _ => true
  | .sc _ => true
  | .pop _ => true
  | .rbegin => true
  | .rcommit => true
  | .rstall => true
  | _ => false

/-- A wave parked on dropped tiles tries again once they are all PRESENT, and they stay guarded until then (21 R305). -/
def State.missOver (s : State) : Hold → Bool
  | .miss ts _ => ts.all fun t => (s.tile t).st == .present
  | _ => false

/-- Does the quarter's vector ALU still work (R155)? -/
def State.aluBusy (s : State) (w : Wave) : Bool := look 0 (s.core w.id.core).alu (w.id.slot / 12) != 0

/-- The vector ALU of the wave's quarter is held for `n` cycles. -/
def State.holdAlu (s : State) (w : Wave) (n : Nat) : State :=
  if n = 0 then s else s.onCore w.id.core fun c => { c with alu := putD 0 c.alu (w.id.slot / 12) n }

/-- A stalled region access waits until a region commits or aborts (23 R317). -/
def State.regionStall (s : State) (w : Wave) : Bool :=
  w.flow.hold == .rstall && (w.mem.region.bind (look? s.die.regions)).any fun r => r.waiting

/-- May the acting wave issue at all (R108, R337, R364)? -/
def State.issues (s : State) : Bool :=
  !s.host.jobDead && !s.tabs.halted && s.w.flow.alive != 0 && (s.w.flow.hold.tries || s.missOver s.w.flow.hold) && !s.regionStall s.w

/-- The checks of R51 steps 1 and 2, then what the instruction comes to. -/
def Use.act (u : Use) (f : State → Act) (s : State) : Act :=
  if u.encodingBad s then s.w.trapAct cRESERVED_ENCODING
  else match u.blocked s.w with
    | r :: rs => .wait (s.waitRegs s.w (!(u.emptySrcs s.w).isEmpty) (r :: rs))
    | [] =>
      if u.emptyRead s.w then s.w.trapAct cEMPTY_READ
      else if u.occ ≠ 0 ∧ s.aluBusy s.w = true then .pipe s
      else f (s.holdAlu s.w u.occ)

/-- Issue an instruction of the acting wave. -/
def issue (u : Use) (f : State → Act) (s : State) : Out :=
  if s.issues then .next ((u.act f s).settle s) else .next s

/-- Issue an instruction whose effect is on the wave alone. -/
def issueW (u : Use) (f : Wave → Wave) (s : State) : Out := issue u (fun t => .done (t.onW f)) s

/-- An instruction that R190, R247 or R271 forbids inside a region (R322). -/
def notInRegion (f : State → Act) (s : State) : Act :=
  if s.w.mem.region.isSome then s.w.trapAct cREGION_ILLEGAL else f s

/-- An instruction that R300 forbids in a kindling wave. -/
def notKindling (f : State → Act) (s : State) : Act :=
  if s.w.id.kind = .kindling then s.w.trapAct cILLEGAL_CONVERGENCE else f s

/-- Mark destinations empty (R48). -/
def Wave.markEmpty (w : Wave) (ds : List Dst) : Wave :=
  ds.foldl (fun w d => if d.vec then w.markV d.reg d.n false else w.markS d.reg d.n false) w

end Sys2Proof.Machine
end

