-- ==== Sys2Proof/Machine/Fetch.lean ====
section
/-! DEFINITION. Which step of the table a wave is at: the header of a clause, or an instruction of the clause it has
fetched (spec/03_instruction_encoding.md R27, R34, R35, R53; spec/95_what_each_step_holds.md), and how words are placed
where a wave reaches them (log 3). -/

namespace Sys2Proof.Machine

/-- The instruction that words of a clause give, or the reserved word that stands there (R53). -/
def instrOf (ws : List Word) : Instr := match decode ws with
  | .ok i => i
  | .error _ => .reservedOpcode (ws.headD 0)

/-- What a wave does next: it enters a clause at a header, or when it holds no fetched clause; else it is at an
instruction of its clause (R34, R35). -/
def Wave.instr (w : Wave) : Instr := match w.flow.clause with
  | none => .clauseEntry
  | some c => if posIndex w.flow.pc = 15 then .clauseEntry else instrOf (wordsAt (posIndex w.flow.pc) c.words)

/-- The words of an instruction whose bits, first word lowest, are the low `nbits` of `w` (R5, R27). -/
def wordsOfNat (nbits w : Nat) : List Word :=
  let v := w % 2 ^ nbits
  let a := BitVec.ofNat 32 v
  if opcodeWords (opcodeOf a) = 2 then [a, BitVec.ofNat 32 (v / 2 ^ 32)] else [a]

/-- PIPE of a clause that admits the class of an opcode (R30). -/
def pipeFor (op : Nat) : Nat := if op / 32 ≤ 1 then 0 else if op / 32 = 7 then 0 else op / 32

/-- The header of a clause of one instruction with no wait (Table 3.1). -/
def headerOne (pipe : Nat) : Word := BitVec.ofNat 32 (0xE803FE00 + 16 * pipe + 1)

/-- A clause of one instruction. -/
def clauseOne (ws : List Word) : Clause := { hdr := headerOne (pipeFor (opcodeOf (ws.headD 0))), words := ws }

/-- The block in which a program placed from outside runs (log 3). -/
def Block.outside (wid : Nat) : Block :=
  { card := none, index := 0, core := 0, bpc := 1, wpb := 1, vregs := 128, prio := 0, fuse := false, tmem := 524288
    tbase := 0, wslots := 128, waves := [wid], tile := [], tags := [], slots := [], bars := [], evicted := false, age := 0 }

/-- The wave in which a program placed from outside runs (log 3). -/
def Wave.outside (wid blk : Nat) : Wave :=
  { Wave.blank with
      id := { Wave.blank.id with wid := wid, kind := .block, blk := some blk }
      flow := WaveFlow.launch 0 0xFFFFFFFF }

/-- A machine with a wave that can run: the acting wave, or a new one (log 3). -/
def State.withWave (s : State) : State :=
  if s.w.flow.hold = .blank then
    let wid := s.sched.nextWid
    let blk := s.sched.nextBlk
    let d : Sched := { s.sched with nextWid := wid + 1, nextBlk := blk + 1, blocks := put s.sched.blocks blk (Block.outside wid) }
    { s with w := Wave.outside wid blk, sched := d }
  else s

/-- The wave at the first instruction of a clause that it has fetched, at header address 0 (log 3). -/
def Wave.atClause (w : Wave) (c : Clause) : Wave :=
  { w with flow := { w.flow with pc := mkPos 0 0, clause := some c, hold := .run, stalled := false } }

/-- Place an instruction's words where the next step runs them (log 3). -/
def State.placeWord (s : State) (nbits w : Nat) : State :=
  let t := s.withWave.onW fun x => x.atClause (clauseOne (wordsOfNat nbits w))
  { t with agenda := .wave t.w.id.wid :: s.agenda, host := { t.host with run := true, jobDead := false }
           tabs := { t.tabs with halted := false, power := .active } }

end Sys2Proof.Machine
end

