-- ==== Sys2Proof/Machine/Flags.lean ====
section
/-! DEFINITION. The flags and predicates that vector instructions compute: saturation, results with the flags of
ARITHF, predicate masks (spec/05_formats_and_arithmetic.md R67; 11 R155, R161, R169, R174, R177). -/

namespace Sys2Proof.Machine

/-- SAT32 of Table 0.3, with SAT when it clamps (R161). -/
def sat32 (x : Int) : Nat × Flags :=
  if x < -2147483648 then (0x80000000, fSAT) else if 2147483647 < x then (0x7FFFFFFF, fSAT)
  else ((x % 4294967296).toNat, 0)

/-- The flags of the active lanes, ORed together (R67, R155). -/
def Wave.laneFlags (w : Wave) (g : Nat → Flags) : Flags := w.lanes.foldl (fun x l => x ||| g l) 0

/-- Write a 32-bit result with flags in the active lanes (R67). -/
def Wave.wrF (w : Wave) (d : Nat) (g : Nat → Nat × Flags) : Wave :=
  (w.wrV d fun l => BitVec.ofNat 32 (g l).1).orFlags (w.laneFlags fun l => (g l).2)

/-- Write a 64-bit result with flags in the active lanes of a pair (R67, R157). -/
def Wave.wrF2 (w : Wave) (d : Nat) (g : Nat → Nat × Flags) : Wave :=
  (w.wrV2 d fun l => BitVec.ofNat 64 (g l).1).orFlags (w.laneFlags fun l => (g l).2)

/-- The active lanes that satisfy `p`, as a mask. -/
def Wave.maskWhere (w : Wave) (p : Nat → Bool) : Word := maskOf (w.lanes.filter p)

/-- Write the three predicates of a comparison, 0 in inactive lanes (R169, R174). -/
def Wave.wrP3 (w : Wave) (d : Nat) (x y z : Nat → Bool) : Wave :=
  ((w.wrP d (w.maskWhere x)).wrP (d + 1) (w.maskWhere y)).wrP (d + 2) (w.maskWhere z)

/-- An integer as 32 bits, two's complement (R8, R65). -/
def word32 (x : Int × Flags) : Nat × Flags := ((x.1 % 4294967296).toNat, x.2)

/-- An integer as 64 bits, two's complement (R65). -/
def word64 (x : Int × Flags) : Nat × Flags := ((x.1 % 18446744073709551616).toNat, x.2)

/-- The mode that an RM field selects (Table 11.11). -/
def RMode.ofRM (rm : BitVec 3) (mode : RMode) : RMode := if rm.toNat < 4 then mode else RMode.ofCode (rm.toNat - 4)

end Sys2Proof.Machine
end

