-- ==== Sys2Proof/Machine/Cards.lean ====
section
/-! DEFINITION. Job cards and the work that waves create: the dealer, spawn bins and task queues
(spec/07_execution_and_scheduling.md R89, R97, R102 to R107; 27 R355). A card is a 512-bit number. -/

namespace Sys2Proof.Machine

/-! ### Job cards (Table 7.2) -/

def cdSucc (c i : Nat) : Nat := bitsN c (336 + 16 * i) 16
def cdPred (c : Nat) : Nat := bitsN c 320 16
def cdSpwait (c : Nat) : Nat := bitsN c 304 16
def cdChunk (c : Nat) : Nat := bitsN c 288 16
def cdTmem (c : Nat) : Nat := bitsN c 256 32
def cdFuse (c : Nat) : Bool := c.testBit 249
def cdGridbar (c : Nat) : Bool := c.testBit 248
def cdPrio (c : Nat) : Nat := bitsN c 240 3
def cdWslots (c : Nat) : Nat := bitsN c 232 8
def cdVregs (c : Nat) : Nat := bitsN c 224 8
def cdBcap (c : Nat) : Nat := bitsN c 192 32
def cdBpc (c : Nat) : Nat := bitsN c 184 8
def cdWpb (c : Nat) : Nat := bitsN c 176 8
def cdRecSize (c : Nat) : Nat := bitsN c 160 16
def cdRecCount (c : Nat) : Nat := bitsN c 128 32
def cdArg (c : Nat) : Nat := bitsN c 64 64
def cdEntry (c : Nat) : Nat := bitsN c 0 64

/-- The bits of a card of the running launch, by launch number and node; 0 for none. -/
def State.cardBits (s : State) (card : Option (Nat × Nat)) : Nat :=
  match card, s.sched.running with
  | some (l, n), some r => if r.num = l then (look [] s.sched.graphs r.graph).getD n 0 else 0
  | _, _ => 0

/-- The state of a card of the running launch. -/
def State.cardRun? (s : State) (card : Option (Nat × Nat)) : Option CardRun :=
  match card, s.sched.running with
  | some (l, n), some r => if r.num = l then r.cards.find? fun c => c.node == n else none
  | _, _ => none

/-! ### The dealer (R97) -/

/-- What one request is dealt: first and count, from `next`, RECCOUNT, CHUNKMAX and Bres. -/
def deal (next total chunk bres : Nat) : Nat × Nat :=
  let left := total - next
  (next, if left = 0 then 0 else max 1 (min chunk (left / (2 * max 1 bres))))

/-! ### Spawn bins (R102) -/

/-- An empty bin. -/
def Bin.empty : Bin := { key := none, recs := [], due := none, expired := false }

/-- A bin of a core. -/
def Core.bin (c : Core) (k : Nat) : Bin := look Bin.empty c.bins k

/-- The timer's period in core cycles (Table 7.2). -/
def spPeriod (spwait : Nat) : Nat := if spwait = 0 then 1024 else spwait * 256

/-- The bin that takes records of an entry: the one that holds it, else the lowest empty one. -/
def Core.binFor (c : Core) (entry : Nat) : Option Nat :=
  match (List.range 4).find? fun k => (c.bin k).key == some entry with
  | some k => some k
  | none => (List.range 4).find? fun k => (c.bin k).key.isNone

/-- The bin with records added. -/
def Bin.add (b : Bin) (entry now : Nat) (rs : List SpawnRec) : Bin :=
  match rs with
  | [] => b
  | r :: _ => { b with key := some entry, recs := b.recs ++ rs
                       due := if b.recs.isEmpty then some (now + spPeriod r.spwait) else b.due }

/-- The spawn records of a wave's active lanes, registers `a .. a+7`. -/
def Wave.spawnRecs (w : Wave) (a : Nat) : List SpawnRec :=
  w.lanes.map fun l =>
    { vals := (List.range 8).map fun i => w.lane (a + i) l, card := w.id.card, prio := w.id.prio, vregs := w.id.vregs
      spwait := w.id.spwait }

/-! ### Task queues (R104 to R107, R355) -/

/-- A queue after reset (Table 27.6). -/
def TaskQueue.empty : TaskQueue :=
  { entry := 0, timer := 0, enable := false, launch := false, log2cap := 0, vregs := 0, prio := 0, ringbase := 0
    reserved := 0, chip := [], head := 0, tail := 0, unwritten := [], wtoken := none, rtoken := none, blocked := [], due := none
    expired := false }

/-- A queue of the die. -/
def State.queue (s : State) (q : Nat) : TaskQueue := look TaskQueue.empty s.die.queues q

/-- Change a queue. -/
def State.onQueue (s : State) (q : Nat) (f : TaskQueue → TaskQueue) : State :=
  s.onDie fun d => { d with queues := upd TaskQueue.empty d.queues q f }

/-- Records in the ring. -/
def TaskQueue.ring (t : TaskQueue) : Nat := t.tail - t.head

/-- Records the queue holds. -/
def TaskQueue.count (t : TaskQueue) : Nat := t.chip.length + t.ring

/-- The virtual address of a ring slot. -/
def TaskQueue.slotVa (t : TaskQueue) (i : Nat) : Nat := t.ringbase.toNat + 32 * (i % 2 ^ t.log2cap)

/-- The bytes of a record. -/
def recordBytes (r : List Word) : List Byte := r.flatMap fun x => natBytes 4 x.toNat

/-- The record of 32 bytes. -/
def recordOf (bs : List Byte) : List Word := (List.range 8).map fun i => BitVec.ofNat 32 (bytesNat ((bs.drop (4 * i)).take 4))

/-- A fault on a ring access: a write's or a refill's, which wait apart (R355). -/
def State.ringFault (s : State) (q : Nat) (write : Bool) {α : Type} : EngRes α → State
  | .ok _ _ => s
  | .wait => s
  | .absent va =>
    let j := s.joinFault (.page (va / 65536)) va true
    j.1.onQueue q fun t => if write then { t with wtoken := some j.2 } else { t with rtoken := some j.2 }
  | .prot va => s.supervisor cPROTECTION 0 va 0 0 0
  | .key va => s.supervisor cKEY_ABSENT 0 va 0 0 0
  | .poison va => (s.recodeAt va).supervisor cPOISON 0 va 0 0 0

/-- Write the oldest pushed record that is not yet in its ring slot. -/
def State.ringWrite (s : State) (q : Nat) : State :=
  let t := s.queue q
  match t.wtoken, t.unwritten with
  | none, (i, r) :: rest =>
    if s.engHeld (t.slotVa i) 32 then s
    else match s.engWrite none 2 (t.slotVa i) (recordBytes r) with
      | .ok u _ => u.onQueue q fun t => { t with unwritten := rest }
      | e => s.ringFault q true e
  | _, _ => s

/-- May an on-chip entry refill from the ring head? -/
def TaskQueue.refillable (t : TaskQueue) : Bool :=
  t.rtoken.isNone && decide (t.chip.length < 32) && decide (t.head < t.tail) && !(t.unwritten.any fun e => e.1 == t.head)

/-- A freed on-chip entry refills from the ring head. -/
def State.refill (s : State) (q : Nat) : State :=
  let t := s.queue q
  if t.refillable then
    match s.engRead (t.slotVa t.head) 32 with
    | .ok u bs => u.onQueue q fun t => { t with chip := t.chip ++ [recordOf bs], head := t.head + 1 }
    | e => s.ringFault q false e
  else s

/-- Write what is unwritten and refill what is free, as far as that goes: before a push or a pop is served (R105). After HALT no
ring is written or read (27 R364). -/
def State.tidyQueue (s : State) (q : Nat) : Nat → State
  | 0 => s
  | n + 1 => if s.host.jobDead || s.tabs.halted then s else ((s.ringWrite q).refill q).tidyQueue q n

/-- Room for `n` records: while a ring write waits on an absent page, none in the ring (R105, R106, R355). -/
def TaskQueue.room (t : TaskQueue) (n : Nat) : Bool :=
  let chip := if t.head = t.tail then 32 - t.chip.length else 0
  let spill := n - chip
  t.enable && decide (t.ring + spill ≤ 2 ^ t.log2cap) && (t.wtoken.isNone || spill == 0)

/-- Push one record (R105). -/
def TaskQueue.push (t : TaskQueue) (r : List Word) : TaskQueue :=
  if t.head = t.tail ∧ t.chip.length < 32 then { t with chip := t.chip ++ [r] }
  else { t with tail := t.tail + 1, unwritten := t.unwritten ++ [(t.tail, r)] }

/-- A LAUNCH-mode queue's timer starts when it receives its first record while empty (R104, R107). -/
def TaskQueue.startTimer (t : TaskQueue) (now : Nat) : TaskQueue :=
  if t.launch && t.due.isNone && decide (t.count ≠ 0) then { t with due := some (now + spPeriod t.timer) } else t

/-- The queue without its oldest `n` records on chip, given to the lanes of wave `wid`. A LAUNCH-mode queue that pops have
emptied has no record for its timer to run for (R104, R107). -/
def TaskQueue.popped (t : TaskQueue) (n wid : Nat) : TaskQueue :=
  let u : TaskQueue := { t with chip := t.chip.drop n, blocked := t.blocked.filter fun x => x != wid }
  if u.launch && u.count == 0 then { u with due := none, expired := false } else u

/-- The records a wave would push, in lane order. -/
def Wave.records (w : Wave) (a : Nat) : List (List Word) := w.lanes.map fun l => (List.range 8).map fun i => w.lane (a + i) l

/-- Give records to lanes, in v0..v7 (R103, R107). -/
def Wave.giveRecords (w : Wave) (ls : List Nat) (rs : List (List Word)) : Wave :=
  (ls.zip rs).foldl (fun w p => (List.range 8).foldl (fun w i => w.wrVMask (maskOf [p.1]) i fun _ => p.2.getD i 0) w) w

/-- Serve a TQPOP of the acting wave: its effect on the wave and the queue (R107). -/
def State.servePop (s : State) (q d : Nat) : State :=
  let t := s.queue q
  let ls := s.w.lanes
  let n := min ls.length t.chip.length
  let u := s.onQueue q fun t => t.popped n s.w.id.wid
  let v := u.onW fun w => (w.giveRecords ls (t.chip.take n)).wrS d (maskOf (ls.take n))
  if n = 0 then v else v.plainAcquire s.w.id.core 2

/-- The wave that waits longest in TQPOP on a queue is served, if there is a record (R107). -/
def State.wakePop (s : State) (q : Nat) : State :=
  let t := s.queue q
  match t.blocked with
  | [] => s
  | wid :: _ =>
    match s.wave? wid with
    | none => s.onQueue q fun t => { t with blocked := t.blocked.drop 1 }
    | some w =>
      if t.chip.isEmpty && t.enable && !t.launch then s
      else match w.flow.clause with
        | none => s
        | some c => match decode (wordsAt (posIndex w.flow.pc) c.words) with
          | .ok (.tqpop d _ _ _) =>
            let me := s.w.id.wid
            let u := ((s.switchTo wid).servePop q d.toNat).onW Wave.advance
            if s.w.flow.hold = .blank then u else u.switchTo me
          | _ => s

/-- Serve the waves that wait on a queue, in order, as far as there are records. -/
def State.wakePops (s : State) (q : Nat) : Nat → State
  | 0 => s
  | n + 1 => (s.wakePop q).wakePops q n

end Sys2Proof.Machine
end

