-- ==== Sys2Proof/Machine/Ctl.lean ====
section
/-! DEFINITION. Class 2: the scalar instructions, control transfers, barriers, waits and work creation
(spec/13_control_memory_system_instructions.md R188 to R204; 07 R97 to R116). -/

namespace Sys2Proof.Machine

/-! ### Scalar instructions (R191 to R194) -/

/-- USEI of an FS operand (Table 13.1). -/
def useImm (f : FS) : Bool := f.imm.getLsbD 5

/-- The second operand with a signed immediate (Table 13.1). -/
def Wave.fsSigned (w : Wave) (f : FS) : Word := if useImm f then (f.imm.extractLsb' 0 5).signExtend 32 else w.rdS f.sb.toNat

/-- The second operand with an unsigned immediate (Table 13.1). -/
def Wave.fsPlain (w : Wave) (f : FS) : Word := if useImm f then (f.imm.extractLsb' 0 5).setWidth 32 else w.rdS f.sb.toNat

/-- Use of a scalar ALU instruction: FS sources wait (R40). -/
def fsUse (f : FS) : Use :=
  useOf 2 (ssrc f.sa.toNat 1 true :: if useImm f then [] else [ssrc f.sb.toNat 1 true]) [sdst f.sd.toNat 1]

/-- A scalar ALU instruction. -/
def salu (f : FS) (b : Wave → FS → Word) (g : Word → Word → Word) (s : State) : Out :=
  issueW (fsUse f) (fun w => w.wrS f.sd.toNat (g (w.rdS f.sa.toNat) (b w f))) s

def execSadd (f : FS) (s : State) : Out := salu f Wave.fsSigned (fun a b => a + b) s
def execSsub (f : FS) (s : State) : Out := salu f Wave.fsSigned (fun a b => a - b) s
def execSmul (f : FS) (s : State) : Out := salu f Wave.fsSigned (fun a b => a * b) s
def execSand (f : FS) (s : State) : Out := salu f Wave.fsPlain (fun a b => a &&& b) s
def execSor (f : FS) (s : State) : Out := salu f Wave.fsPlain (fun a b => a ||| b) s
def execSxor (f : FS) (s : State) : Out := salu f Wave.fsPlain (fun a b => a ^^^ b) s
def execSshl (f : FS) (s : State) : Out := salu f Wave.fsPlain (fun a b => if b.toNat < 32 then a <<< b.toNat else 0) s

/-- ARITH of SSHR (R191). -/
def sshrArith (f : FS) : Bool := if useImm f then f.sb.getLsbD 0 else f.imm.getLsbD 0

/-- A right shift by an unreduced count, arithmetic or logical (R191). -/
def shiftRight (arith : Bool) (a b : Word) : Word :=
  if b.toNat < 32 then (if arith then a.sshiftRight b.toNat else a >>> b.toNat)
  else if arith && a.msb then 0xFFFFFFFF else 0

def execSshr (f : FS) (s : State) : Out := salu f Wave.fsPlain (fun a b => shiftRight (sshrArith f) a b) s

def execSmov (sd sa : BitVec 6) (s : State) : Out :=
  issueW (useOf 2 [ssrc sa.toNat 1 true] [sdst sd.toNat 1]) (fun w => w.wrS sd.toNat (w.rdS sa.toNat)) s

def execSmovi (d : BitVec 6) (imm : BitVec 32) (s : State) : Out :=
  issueW (useOf 2 [] [sdst d.toNat 1]) (fun w => w.wrS d.toNat imm) s

/-- The relation of SCMP (R192). -/
def scmpRel (rel : Nat) (a b : Word) : Bool :=
  match rel with
  | 0 => a == b
  | 1 => a != b
  | 2 => decide (a.toInt < b.toInt)
  | 3 => decide (a.toInt ≤ b.toInt)
  | 4 => decide (a.toNat < b.toNat)
  | _ => decide (a.toNat ≤ b.toNat)

def execScmp (pd : BitVec 3) (sa sb : BitVec 6) (rel : BitVec 3) (s : State) : Out :=
  issueW (useOf 2 [ssrc sa.toNat 1 true, ssrc sb.toNat 1 true] [])
    (fun w => w.wrP pd.toNat (if scmpRel rel.toNat (w.rdS sa.toNat) (w.rdS sb.toNat) then w.flow.mask else 0)) s

def execS2v (d : BitVec 7) (wb : Bool) (b : BitVec 6) (s : State) : Out :=
  issueW (useOf 2 [ssrc b.toNat 1 wb] [vdst d 1]) (fun w => w.wrV d.toNat fun _ => w.rdS b.toNat) s

/-- V2S with an empty source under WA = 1 issues and leaves its destination empty, unless the source lies in the wave's
run, whose promotion comes first (R194, R241). -/
def v2sAct (d : BitVec 6) (a : BitVec 7) (k : BitVec 5) (s : State) : Act :=
  if s.w.fullV a.toNat 1 then .done (s.onW fun w => w.wrS d.toNat (w.lane a.toNat k.toNat))
  else if s.promotingIn s.w a.toNat 1 then .wait (s.waitRegs s.w true [(true, a.toNat, 1)])
  else .done (s.onW fun w => { (w.markS d.toNat 1 false) with mem := { w.mem with v2s := w.mem.v2s ++ [(d.toNat, a.toNat, k.toNat)] } })

/-- Use of V2S. -/
def v2sUse (d : BitVec 6) (wa : Bool) (a : BitVec 7) : Use :=
  if wa then { useOf 2 [] [sdst d.toNat 1] with named := [vdst a 1] } else useOf 2 [vsrc a 1 false] [sdst d.toNat 1]

def execV2s (d : BitVec 6) (wa : Bool) (a : BitVec 7) (k : BitVec 5) (s : State) : Out :=
  issue (v2sUse d wa a) (v2sAct d a k) s

/-! ### Control transfers (R111 to R116, R195 to R198) -/

/-- The virtual address of the first word of the wave's instruction. -/
def Wave.here (w : Wave) : Nat := match w.flow.clause with
  | none => posHdr w.flow.pc
  | some c => instrVa c (posHdr w.flow.pc) (posIndex w.flow.pc)

/-- The header after the wave's clause. -/
def Wave.after (w : Wave) : Nat := match w.flow.clause with
  | none => posHdr w.flow.pc
  | some c => nextHdr c (posHdr w.flow.pc)

/-- The address at a signed word offset from the instruction's first word (R41), within the position's 49 bits. -/
def Wave.rel (w : Wave) (off : BitVec 16) : Nat := (((w.here : Int) + 4 * off.toInt) % 2 ^ 49).toNat

/-- The header position at a signed word offset. -/
def Wave.relPos (w : Wave) (off : BitVec 16) : Addr := headerPos (w.rel off)

/-- RPC at a signed word offset. -/
def Wave.relRpc (w : Wave) (off : BitVec 16) : Addr := BitVec.ofNat 64 (w.rel off)

/-- The depth below which the wave's stack may not go (R322, R334). -/
def State.floor (s : State) (w : Wave) : Nat := match s.depth0 w with
  | some d => d
  | none => if w.flow.contin then w.flow.retDepth else 0

/-- What follows when the acting wave pops. -/
def State.popped (s : State) : Popped → Act
  | .run w => .goto { s with w := w }
  | .gone w => .goto ({ s with w := w }.retire w.id.wid)
  | .below => .badPop
  | .stuck w => .goto ({ s with w := w }.takeTrap cILLEGAL_CONVERGENCE 0 w.flow.mask)

def execBra (toff : BitVec 16) (s : State) : Out :=
  issue (useCt []) (fun s => .goto (s.onW fun w => w.jump (w.relPos toff))) s

/-- R112. -/
def brcAct (neg : Bool) (pidx : BitVec 3) (toff roff : BitVec 16) (s : State) : Act :=
  let w := s.w
  let m := w.flow.mask
  let t := (if neg then ~~~(w.rdP pidx.toNat) else w.rdP pidx.toNat) &&& m
  if t = m then .goto (s.onW fun w => w.jump (w.relPos toff))
  else if t = 0 then .done s
  else if 30 < w.depth then w.trapAct cSTACK_OVERFLOW
  else
    let rpc := w.relRpc roff
    let join : StackEntry := { kind := .join, pc := w.relPos roff, mask := m, rpc := w.flow.rpc }
    let path : StackEntry := { kind := .path, pc := w.relPos toff, mask := t, rpc := rpc }
    .done (s.onW fun w => { (w.push [join, path]) with flow := { (w.push [join, path]).flow with mask := m &&& ~~~t, rpc := rpc } })

def execBrc (neg : Bool) (pidx : BitVec 3) (toff roff : BitVec 16) (s : State) : Out :=
  issue (useCt []) (brcAct neg pidx toff roff) s

/-- A wave without its active lanes in MASK and in the entries above index `k` (R113, R115). -/
def Wave.leave (w : Wave) (k : Nat) : Wave :=
  { w with flow := { w.flow with mask := 0, stack := stripFrom k w.flow.mask w.flow.stack } }

/-- R113. A BRK whose JOIN lies below D0 with a CALLJ above it fails the tests of both R113 and 23 R322, and no rule says which
comes first; the model makes R113's test first, so that it traps (in a region, 23 R323) with code 0x0D (log 72). -/
def brkAct (level : BitVec 4) (s : State) : Act :=
  let w := s.w
  let k := level.toNat
  match w.flow.stack[k]? with
  | none => w.trapAct cILLEGAL_CONVERGENCE
  | some e =>
    if e.kind ≠ .join ∨ ((w.flow.stack.drop (k + 1)).any fun x => x.kind == .callj) = true then w.trapAct cILLEGAL_CONVERGENCE
    else if k < s.floor w then .badPop
    else s.popped ((w.leave (k + 1)).popAll (s.depth0 w))

def execBrk (level : BitVec 4) (s : State) : Out := issue (useCt []) (brkAct level) s

/-- Targets sorted rising, each once. -/
def insertNat (x : Nat) : List Nat → List Nat
  | [] => [x]
  | y :: t => if x < y then x :: y :: t else if x = y then y :: t else y :: insertNat x t

/-- The target of a lane of JMPI (R114). -/
def Wave.jmpiTarget (w : Wave) (a l : Nat) : Nat := (w.csr.codebase.toNat + (w.lane a l).toNat) % 2 ^ 64

/-- Is a target a legal landing (R114)? -/
def State.lands (s : State) (va : Nat) : Bool :=
  va % 4 == 0 && s.execPage va && hdrOk (s.codeWord va) && hdrLand (s.codeWord va)

/-- R114. -/
def jmpiAct (a : BitVec 7) (roff : BitVec 16) (s : State) : Act :=
  let w := s.w
  let tg := fun l => w.jmpiTarget a.toNat l
  let bad := w.lanes.filter fun l => !s.lands (tg l)
  match bad with
  | b :: _ => .trap cBAD_LANDING (tg b) (maskOf bad)
  | [] =>
    let ts := w.lanes.foldl (fun acc l => insertNat (tg l) acc) []
    match ts with
    | [] => .done s
    | [t] => .goto (s.onW fun w => w.jump (headerPos t))
    | _ =>
      if 32 < w.depth + ts.length then w.trapAct cSTACK_OVERFLOW
      else
        let rpc := w.relRpc roff
        let join : StackEntry := { kind := .join, pc := w.relPos roff, mask := w.flow.mask, rpc := w.flow.rpc }
        let paths := ts.map fun t =>
          ({ kind := .path, pc := headerPos t, mask := w.maskWhere fun l => tg l == t, rpc := rpc } : StackEntry)
        s.popped ((w.push (join :: paths)).popAll (s.depth0 w))

def execJmpi (wa : Bool) (a : BitVec 7) (roff : BitVec 16) (s : State) : Out :=
  issue (useCt [vsrc a 1 wa]) (jmpiAct a roff) s

/-- R115: CALL. -/
def callAct (toff : BitVec 16) (s : State) : Act :=
  let w := s.w
  if 32 ≤ w.depth then w.trapAct cSTACK_OVERFLOW
  else
    let e : StackEntry := { kind := .callj, pc := headerPos w.after, mask := w.flow.mask, rpc := w.flow.rpc }
    .goto (s.onW fun w => ({ (w.push [e]) with flow := { (w.push [e]).flow with rpc := rpcNone } }).jump (w.relPos toff))

def execCall (toff : BitVec 16) (s : State) : Out := issue (useCt []) (callAct toff) s

/-- R115: RET. -/
def retAct (s : State) : Act :=
  let w := s.w
  match findCallj w.flow.stack with
  | none => w.trapAct cILLEGAL_CONVERGENCE
  | some k =>
    if k < s.floor w then .badPop
    else
      let v := w.leave (k + 1)
      let live : StackEntry → StackEntry := fun e => { e with mask := e.mask &&& w.flow.alive }
      let u : Wave := if v.depth = k + 1 then { v with flow := { v.flow with stack := v.flow.stack.map live } } else v
      s.popped (u.popAll (s.depth0 w))

def execRet (s : State) : Out := issue (useCt []) retAct s

/-- A wave whose active lanes exit (R99, R116). -/
def Wave.exitLanes (w : Wave) : Wave :=
  let v := w.leave 0
  ({ v with flow := { v.flow with alive := w.flow.alive &&& ~~~w.flow.mask } }).wbSettle

/-- R116; the wave's array is no longer assigned to it before it retires (R241). -/
def exitAct (s : State) : Act :=
  let w := s.w
  let p := w.exitLanes.popAll (s.depth0 w)
  match p with
  | .gone _ => if ((s.core w.id.core).arrOf w.id.wid).isSome then .wait (s.askPromotion w) else s.popped p
  | _ => s.popped p

def execExit (s : State) : Out := issue (useCt []) exitAct s

/-! ### NOP, YIELD (R199) -/

def execNop (s : State) : Out := issueW (useOf 2 [] []) (fun w => w) s

def execYield (s : State) : Out :=
  issueW (useOf 2 [] []) (fun w => { w with flow := { w.flow with yielded := true } }) s

/-! ### Barriers (R98 to R101, R200) -/

/-- Continue on the nearest path with entries pushed, if there is one within the region or continuation (R101). -/
def State.parkPath (s : State) (w : Wave) (es : List StackEntry) : Act :=
  match findPath w.flow.stack with
  | none => s.w.trapAct cILLEGAL_CONVERGENCE
  | some i =>
    if 32 < w.depth - 1 + es.length then s.w.trapAct cSTACK_OVERFLOW
    else if i < s.floor w then .badPop
    else match w.parkOn es with
      | none => s.w.trapAct cILLEGAL_CONVERGENCE
      | some v => .goto { s with w := v }

/-- A wave-level BAR (R101). In MODE 2 no lane arrives, so the model counts none as repeating: those that have arrived in
the phase park after the BAR with the others (log 30). -/
def waveBarAct (mode : Nat) (s : State) : Act :=
  let w := s.w
  let m := w.flow.mask
  let rep := if mode = 2 then 0 else m &&& w.flow.wbArrived
  let new := m &&& ~~~rep
  let done := mode ≠ 2 ∧ w.flow.alive &&& ~~~(w.flow.wbArrived ||| new) = 0
  let next : Addr := w.advance.flow.pc
  let self : StackEntry := { kind := .parked, pc := w.flow.pc, mask := rep, rpc := w.flow.rpc }
  let rest : StackEntry := { kind := .parked, pc := next, mask := new, rpc := w.flow.rpc }
  if done then .done (s.onW fun w => (w.wbArrive new).wbArrive rep)
  else
    let v := if mode = 2 then w else w.wbArrive new
    let again := if rep = 0 then [] else [self]
    if new = 0 then s.parkPath v again
    else if mode = 1 then
      (if 32 < w.depth + again.length then w.trapAct cSTACK_OVERFLOW
       else .done { s with w := { (v.push again) with flow := { (v.push again).flow with mask := new } } })
    else s.parkPath v (rest :: again)

/-- The members of a barrier have met: an acquire for the waiter (R99, R368). -/
def State.barAcquire (s : State) (level : Nat) : State := s.plainAcquire s.w.id.core (barScope level)

/-- The BAR in which the wave waits, also after a restore, once it has fetched it again (13 R189). -/
def Wave.waitingBar (w : Wave) : Option (Nat × Nat × Nat) :=
  match w.flow.hold with
  | .bar l n ph => some (l, n, ph)
  | _ => match w.flow.inBar with
    | some (pc, x) => if pc = w.flow.pc then some x else none
    | none => none

/-- A BAR at block, cluster or grid level by a wave of the block with key `k` (R99). -/
def blockBarAct (k : Nat) (b : Block) (level mode num : Nat) (s : State) : Act :=
  let w := s.w
  let wid := w.id.wid
  match w.waitingBar with
  | some (l, n, ph) =>
    if (s.bar k b l n).phase = ph then .wait (s.onW fun w => w.withHold (.bar l n ph)) else .done (s.barAcquire l)
  | none =>
    let x := s.bar k b level num
    if mode = 2 then .wait (s.onW fun w => w.withHold (.bar level num x.phase))
    else if x.arrived.contains wid then .wait s
    else if s.promoting w then .wait (s.askPromotion w)
    else if !s.earlierDone w w.mem.seq then .wait s
    else match s.plainRelease w.id.core (barScope level) with
      | none => .wait s
      | some t =>
        let u := (t.setBar k b level num { x with arrived := x.arrived ++ [wid] }).barSettle k b level num
        if mode = 1 then .done u
        else if (u.bar k b level num).phase = x.phase then .wait (u.onW fun w => w.withHold (.bar level num x.phase))
        else .done (u.barAcquire level)

/-- R100, R200. -/
def barAct (level mode num : Nat) (s : State) : Act :=
  if level = 0 then waveBarAct mode s
  else notInRegion (fun s =>
    match s.w.id.blk, s.blkOf s.w with
    | some k, some b =>
      if s.w.id.kind ≠ .block ∨ s.w.converged = false ∨ (level = 3 ∧ cdGridbar (s.cardBits b.card) = false) then
        s.w.trapAct cILLEGAL_CONVERGENCE
      else blockBarAct k b level mode num s
    | _, _ => s.w.trapAct cILLEGAL_CONVERGENCE) s

def execBar (level mode : BitVec 2) (num : BitVec 3) (s : State) : Out :=
  issue (useOf 2 [] []) (barAct level.toNat mode.toNat num.toNat) s

/-! ### Waits (R32, R201) -/

/-- Term operations of a wave that have not completed. -/
def State.termCount (s : State) (w : Wave) : Nat :=
  let c := s.core w.id.core
  let mine := (c.ta.map fun a => (a.2.queue.filter fun o => o.wid == w.id.wid && o.kind != .request).length).foldl (· + ·) 0
  mine + (c.xq.filter fun o => o.wid == w.id.wid).length + (c.tlfq.filter fun o => o.wid == w.id.wid).length +
    (c.decq.filter fun o => o.wid == w.id.wid).length

/-- Copy operations of a wave that have not completed. -/
def State.copyCount (s : State) (w : Wave) : Nat := ((s.core w.id.core).copies.filter fun c => c.wid == w.id.wid).length

/-- Stores of a wave that are not performed. -/
def State.storeCount (s : State) (w : Wave) : Nat :=
  let inBuf := ((s.core w.id.core).wbuf.flatMap (·.2)).filter fun e => e.wid == w.id.wid
  w.mem.sq.length + ((w.mem.strong ++ inBuf).map (·.seq)).eraseDups.length

/-- Loads of a wave whose registers are not all full. -/
def Wave.loadCount (w : Wave) : Nat := w.mem.loads.length

/-- The count of a kind of WAITC (R201). -/
def State.opCount (s : State) (kind : Nat) (w : Wave) : Nat :=
  match kind with
  | 0 => s.termCount w
  | 1 => s.copyCount w
  | 2 => s.storeCount w
  | _ => w.loadCount

def execWaitc (kind : BitVec 2) (n : BitVec 6) (s : State) : Out :=
  issue (useOf 2 [] []) (fun s => if s.opCount kind.toNat s.w ≤ n.toNat then .done s else .wait s) s

/-! ### Work creation (R202 to R204) -/

/-- R102, R202. -/
def spawnAct (a : BitVec 7) (b : BitVec 6) (s : State) : Act :=
  let entry := (s.w.rdS2 b.toNat).toNat
  if entryOk entry = false then s.w.trapAct cPROTECTION
  else
    let c := s.core s.w.id.core
    let rs := s.w.spawnRecs a.toNat
    match c.binFor entry with
    | none => .wait s
    | some k =>
      if 64 < (c.bin k).recs.length + rs.length then .wait s
      else .done (s.onCore s.w.id.core fun c => { c with bins := put c.bins k ((c.bin k).add entry s.pkg.coreClock rs) })

def execSpawn (wa : Bool) (a : BitVec 7) (wb : Bool) (b : BitVec 6) (s : State) : Out :=
  issue (useOf 2 [vsrc a 8 wa, ssrc b.toNat 2 wb] []) (notInRegion (notKindling (spawnAct a b))) s

/-- The queue that an instruction selects (R203). -/
def Wave.queueNo (w : Wave) (b : BitVec 6) : Nat := (w.rdS b.toNat).toNat % 64

/-- R106, R203: an accepted push is a release, made first. -/
def tqpushAct (d : BitVec 6) (a : BitVec 7) (b : BitVec 6) (s0 : State) : Act :=
  let q := s0.w.queueNo b
  let s := s0.tidyQueue q 64
  let rs := s.w.records a.toNat
  if (s.queue q).room rs.length then
    if !s.earlierDone s.w s.w.mem.seq then .wait s
    else match s.plainRelease s.w.id.core 2 with
      | none => .wait s
      | some t =>
        let u := t.onQueue q fun x => (rs.foldl TaskQueue.push x).startTimer t.pkg.coreClock
        .done ((u.tidyQueue q 64).onW fun w => w.wrS d.toNat 1)
  else .done (s.onW fun w => w.wrS d.toNat 0)

def execTqpush (d : BitVec 6) (wa : Bool) (a : BitVec 7) (wb : Bool) (b : BitVec 6) (s : State) : Out :=
  issue (useOf 2 [vsrc a 8 wa, ssrc b.toNat 1 wb] [sdst d.toNat 1]) (notInRegion (notKindling (tqpushAct d a b))) s

/-- A TQPOP that is blocked when its wave is to be evicted completes with an empty mask, and the wave stops after it (R189). -/
def Wave.popEmpty (w : Wave) (d : Nat) : Wave := ((w.wrS d 0).advance).withHold .popped

/-- R107, R203. On a queue in LAUNCH mode too the records that it holds go to the lanes at once, and with none the mask is
empty. -/
def tqpopAct (d : BitVec 6) (nb : Bool) (b : BitVec 6) (s0 : State) : Act :=
  let q := s0.w.queueNo b
  let wid := s0.w.id.wid
  let s := if s0.w.flow.hold = .pop q then s0 else (s0.tidyQueue q 64).wakePops q 64
  let t := s.queue q
  if s.w.flow.hold = .pop q then
    if t.enable && !t.launch then .wait s
    else .done (s.servePop q d.toNat)
  else if t.enable = false ∨ t.launch = true ∨ nb = true ∨ (t.chip ≠ [] ∧ t.blocked = []) then
    .done ((s.servePop q d.toNat).tidyQueue q 64)
  else if s.promoting s.w then .wait (s.askPromotion s.w)
  else if s.w.flow.stopReq then .left (s.onW fun w => w.popEmpty d.toNat)
  else .wait ((s.onQueue q fun t => { t with blocked := t.blocked ++ [wid] }).onW fun w => w.withHold (.pop q))

def execTqpop (d : BitVec 6) (nb : Bool) (wb : Bool) (b : BitVec 6) (s : State) : Out :=
  issue (useOf 2 [ssrc b.toNat 1 wb] [sdst d.toNat 1, vdst 0 8]) (notInRegion (notKindling (tqpopAct d nb b))) s

def execTqstat (d : BitVec 6) (wb : Bool) (b : BitVec 6) (s : State) : Out :=
  issue (useOf 2 [ssrc b.toNat 1 wb] [sdst d.toNat 1])
    (fun s => .done (s.onW fun w => w.wrS d.toNat (BitVec.ofNat 32 (s.queue (w.queueNo b)).count))) s

/-- R97, R204: a wave whose card has no dealer receives nothing. -/
def recgetAct (d : BitVec 6) (s : State) : Act :=
  match s.cardRun? s.w.id.card with
  | none => .done (s.onW fun w => w.wrS2 d.toNat 0)
  | some c =>
    let bits := s.cardBits s.w.id.card
    let x := deal c.next (cdRecCount bits) (cdChunk bits) c.live
    .done ((s.onCard s.w.id.card fun c => { c with next := c.next + x.2 }).onW fun w =>
      (w.wrS d.toNat (BitVec.ofNat 32 x.1)).wrS (d.toNat + 1) (BitVec.ofNat 32 x.2))

def execRecget (d : BitVec 6) (s : State) : Out := issue (useOf 2 [] [sdst d.toNat 2]) (notInRegion (recgetAct d)) s

end Sys2Proof.Machine
end

