-- ==== Sys2Proof/Machine/Mem.lean ====
section
/-! DEFINITION. Class 3: loads and stores, atomics, tile accesses, fences, cache control, regions, objects and recipes
(spec/13_control_memory_system_instructions.md R205 to R219; 09 R142, R143; 21 R307 to R309; 23 R326 to R330). -/

namespace Sys2Proof.Machine

/-! ### Addresses (R206) -/

/-- The effective address of a lane. -/
def eaOf {n : Nat} (m : MA n) (w : Wave) (l : Nat) : Nat :=
  if m.am then (w.rdS2 m.b.toNat + (w.lane m.a.toNat l).setWidth 64).toNat
  else (w.lane2 m.a.toNat l + m.off.signExtend 64).toNat

/-- The sources of an address operand. -/
def maSrcs {n : Nat} (m : MA n) : List Src :=
  if m.am then [vsrc m.a 1 m.wa, ssrc m.b.toNat 2 m.wb] else [vsrc m.a 2 m.wa]

/-- The active lanes with their effective addresses. -/
def eas {n : Nat} (m : MA n) (w : Wave) : List (Nat × Nat) := w.lanes.map fun l => (l, eaOf m w l)

/-- Bytes of a size code (Table 13.4). -/
def sizeOf' (size : BitVec 3) : Nat := 2 ^ size.toNat

/-- Registers of a data operand of a size code. -/
def regsFor (size : BitVec 3) : Nat := regsOf (sizeOf' size)

/-- The data of `n` registers from `r` in a lane, low register first. -/
def Wave.laneData (w : Wave) (r n l : Nat) : Nat :=
  (List.range n).foldl (fun a i => a + (w.lane (r + i) l).toNat * 2 ^ (32 * i)) 0

/-- The data that a store of `size` bytes takes from a lane (R208). -/
def Wave.storeData (w : Wave) (r size l : Nat) : Nat := w.laneData r (regsOf size) l % 2 ^ (8 * size)

/-- Accesses with their data. -/
def withData (f : Nat → Nat) (as : List LaneAcc) : List LaneAcc := as.map fun a => { a with data := f a.lane }

/-! ### What an access adds to a wave -/

/-- Issue a load: its destinations become empty (R48). -/
def Wave.addLoad (w : Wave) (e : LoadEnt) (ds : List Dst) : Wave :=
  let v := w.markEmpty ds
  { v with mem := { v.mem with loads := v.mem.loads ++ [{ e with seq := w.mem.seq, pc := w.flow.pc }], seq := w.mem.seq + 1 } }

/-- A load that is in the store queue's order; issuing it gives its number and its position. -/
def loadEnt (kind : LoadKind) (scalar : Bool) (dst size : Nat) (sx : Bool) (scope : Nat) (acq : Bool) (as : List LaneAcc) (got : Map Nat) : LoadEnt :=
  { seq := 0, kind := kind, scalar := scalar, dst := dst, size := size, sx := sx, scope := scope, acq := acq, lanes := as, got := got
    pc := 0, objs := [], all := false, flags := false }

/-- A weak store enters the store queue (R135). -/
def Wave.addStore (w : Wave) (tile : Bool) (size : Nat) (as : List LaneAcc) : Wave :=
  { w with mem := { w.mem with sq := w.mem.sq ++ [{ seq := w.mem.seq, tile := tile, size := size, lanes := as }], seq := w.mem.seq + 1 } }

/-- Strong stores or atomics, one entry for each lane (R136). -/
def Wave.addStrong (w : Wave) (size : Nat) (aop : Option Nat) (scope : Nat) (rel returns : Bool) (as : List LaneAcc) : Wave :=
  let one : LaneAcc → WbEnt := fun a =>
    { id := 0, pc := w.flow.pc, wid := w.id.wid, seq := w.mem.seq, lane := a.lane, va := a.va, pa := a.pa, fields := a.fields, size := size
      aop := aop, data := a.data, cmp := a.cmp, scope := scope, rel := rel, returns := returns, relEnt := none }
  { w with mem := { w.mem with strong := w.mem.strong ++ as.map one, seq := w.mem.seq + 1 } }

/-- A region access of the acting wave, and what follows when it is performed (R312). -/
def State.regionAct (s : State) (r size : Nat) (rd wr : Bool) (f : LaneAcc → Nat → Nat × Flags) (as : List LaneAcc)
    (go : State → Map Nat → Act) : Act :=
  match s.tryRegion s.w r size rd wr f as with
  | .ok t vals => go t vals
  | .stall t => .wait (t.onW fun w => w.withHold .rstall)
  | .wait t => .wait t
  | .aborted t => .left t
  | .poison t lanes va => .left (t.takeTrap cPOISON va lanes)

/-! ### LD, SLD, ST (R207 to R209) -/

/-- ORD codes (Table 13.4). -/
def ordAcq (ord : BitVec 3) : Bool := ord == 2 || ord == 4
def ordRel (ord : BitVec 3) : Bool := ord == 3 || ord == 4

/-- The load of checked accesses. -/
def State.load (s : State) (scalar : Bool) (d size : Nat) (sx : Bool) (scope ord : Nat) (acq : Bool) (ds : List Dst) (as : List LaneAcc) : Act :=
  match s.w.mem.region with
  | some r => s.regionAct r size true false (fun _ old => (old, 0)) as fun t vals =>
      .done (t.onW fun w => w.addLoad (loadEnt .region scalar d size sx scope false as vals) ds)
  | none =>
    .done (s.onW fun w => w.addLoad (loadEnt (if ord = 0 then .weak else .strong) scalar d size sx scope acq as []) ds)

/-- R207. -/
def ldAct (m : MA 14) (d : BitVec 7) (scope : BitVec 2) (ord size : BitVec 3) (sx : Bool) (s : State) : Act :=
  (s.check s.w { rd := true, wr := false } (sizeOf' size) (eas m s.w)).act s.w false fun as =>
    s.load false d.toNat (sizeOf' size) sx scope.toNat ord.toNat (ordAcq ord) [vdst d (regsFor size)] as

def ldUse (m : MA 14) (d : BitVec 7) (size : BitVec 3) : Use := useOf 3 (maSrcs m) [vdst d (regsFor size)]

def execLd (m : MA 14) (d : BitVec 7) (scope : BitVec 2) (ord size : BitVec 3) (sx : Bool) (s : State) : Out :=
  issue (ldUse m d size) (ldAct m d scope ord size sx) s

/-- R209. -/
def sldAct (d b : BitVec 6) (off : BitVec 14) (scope : BitVec 2) (ord size : BitVec 3) (s : State) : Act :=
  let ea := (s.w.rdS2 b.toNat + off.signExtend 64).toNat
  (s.check s.w { rd := true, wr := false } (sizeOf' size) [(0, ea)]).act s.w true fun as =>
    s.load true d.toNat (sizeOf' size) false scope.toNat ord.toNat (ordAcq ord) [sdst d.toNat (regsFor size)] as

def sldUse (d : BitVec 6) (wb : Bool) (b : BitVec 6) (size : BitVec 3) : Use :=
  useOf 3 [ssrc b.toNat 2 wb] [sdst d.toNat (regsFor size)]

def execSld (d : BitVec 6) (wb : Bool) (b : BitVec 6) (off : BitVec 14) (scope : BitVec 2) (ord size : BitVec 3) (s : State) : Out :=
  issue (sldUse d wb b size) (sldAct d b off scope ord size) s

/-- R208. -/
def stAct (m : MA 14) (v : BitVec 7) (scope : BitVec 2) (ord size : BitVec 3) (s : State) : Act :=
  let n := sizeOf' size
  (s.check s.w { rd := false, wr := true } n (eas m s.w)).act s.w false fun as0 =>
    let as := withData (fun l => s.w.storeData v.toNat n l) as0
    match s.w.mem.region with
    | some r => s.regionAct r n false true (fun a _ => (a.data, 0)) as fun t _ => .done t
    | none =>
      if ord = 0 then .done (s.onW fun w => w.addStore false n as)
      else .done (s.onW fun w => w.addStrong n none scope.toNat (ordRel ord) false as)

def stUse (m : MA 14) (wv : Bool) (v : BitVec 7) (size : BitVec 3) : Use := useOf 3 (maSrcs m ++ [vsrc v (regsFor size) wv]) []

def execSt (m : MA 14) (wv : Bool) (v : BitVec 7) (scope : BitVec 2) (ord size : BitVec 3) (s : State) : Out :=
  issue (stUse m wv v size) (stAct m v scope ord size) s

/-! ### Atomics (R210 to R213) -/

/-- The scope at which an atomic is performed: a weak one at `.die` (R133). -/
def atomScope (ord : BitVec 3) (scope : BitVec 2) : Nat := if ord = 0 then 2 else scope.toNat

/-- An atomic on checked accesses that hold their data; `d` is its destination, if it returns. -/
def State.atomic (s : State) (size aop scope : Nat) (ord : BitVec 3) (d : Option Nat) (ds : List Dst) (as : List LaneAcc) : Act :=
  match s.w.mem.region with
  | some r => s.regionAct r size true true (fun a old => atomNew aop size old a.data a.cmp) as fun t vals =>
      .done (match d with
        | some x => t.onW fun w =>
          w.addLoad { loadEnt .region false x size false scope false as vals with flags := decide (9 ≤ aop) } ds
        | none => t)
  | none =>
    .done (s.onW fun w => match d with
      | some x =>
        let v := w.addStrong size (some aop) scope (ordRel ord) true as
        let u := v.markEmpty ds
        let e : LoadEnt := { loadEnt .atomic false x size false scope (ordAcq ord) as [] with
          seq := w.mem.seq, pc := w.flow.pc, flags := decide (9 ≤ aop) }
        { u with mem := { u.mem with loads := u.mem.loads ++ [e] } }
      | none => w.addStrong size (some aop) scope (ordRel ord) false as)

/-- The checks of an atomic, then the atomic. -/
def atomAct (m : MA 10) (aop : Nat) (v : BitVec 7) (d : Option (BitVec 7)) (cmp : Bool) (scope : BitVec 2) (ord size : BitVec 3) (s : State) : Act :=
  let n := sizeOf' size
  (s.check s.w { rd := true, wr := true } n (eas m s.w)).act s.w false fun as0 =>
    let c := fun l => match d with
      | some x => if cmp then s.w.storeData x.toNat n l else 0
      | none => 0
    let as := as0.map fun a => { a with data := s.w.storeData v.toNat n a.lane, cmp := c a.lane }
    s.atomic n aop (atomScope ord scope) ord (d.map (·.toNat)) (match d with | some x => [vdst x (regsFor size)] | none => []) as

def atomUse (m : MA 10) (d : BitVec 7) (wv : Bool) (v : BitVec 7) (size : BitVec 3) : Use :=
  useOf 3 (maSrcs m ++ [vsrc v (regsFor size) wv]) [vdst d (regsFor size)]

def execAtom (m : MA 10) (d : BitVec 7) (aop : BitVec 4) (wv : Bool) (v : BitVec 7) (scope : BitVec 2) (ord size : BitVec 3) (s : State) : Out :=
  issue (atomUse m d wv v size) (atomAct m aop.toNat v (some d) false scope ord size) s

def execAtomc (m : MA 10) (d : BitVec 7) (wv : Bool) (v : BitVec 7) (scope : BitVec 2) (ord size : BitVec 3) (s : State) : Out :=
  issue (atomUse m d wv v size) (atomAct m 16 v (some d) true scope ord size) s

def redUse (m : MA 10) (wv : Bool) (v : BitVec 7) (size : BitVec 3) : Use := useOf 3 (maSrcs m ++ [vsrc v (regsFor size) wv]) []

def execRed (m : MA 10) (aop : BitVec 4) (wv : Bool) (v : BitVec 7) (scope : BitVec 2) (ord size : BitVec 3) (s : State) : Out :=
  issue (redUse m wv v size) (atomAct m aop.toNat v none false scope ord size) s

/-! ### Tile memory (R120, R121, R214, R219) -/

/-- The tile offsets of the active lanes (R214). -/
def tileOffs (t : TA) (w : Wave) : List (Nat × Nat) :=
  w.lanes.map fun l => (l, (w.opB t.q t.a l).toNat + t.off5.toNat * sizeOf' t.size)

/-- The lanes that raise a code and the offset of the lowest of them; the whole wave when the offset is the same (R332). -/
def tileTrap (code : Nat) (whole : Bool) (w : Wave) (bad : List (Nat × Nat)) : Act :=
  .trap code (bad.headD (0, 0)).2 (if whole then w.flow.mask else maskOf (bad.map (·.1)))

/-- Alignment and extent of tile accesses, then what follows (R120, R214). -/
def State.tileCheck (s : State) (whole : Bool) (size : Nat) (ls : List (Nat × Nat)) (go : Act) : Act :=
  match ls.filter fun e => e.2 % size != 0 with
  | e :: es => tileTrap cALIGN whole s.w (e :: es)
  | [] => match ls.filter fun e => decide (s.tmem s.w < e.2 + size) with
    | e :: es => tileTrap cPROTECTION whole s.w (e :: es)
    | [] => go

/-- A tile access. -/
def tileAcc (e : Nat × Nat) : LaneAcc := { lane := e.1, va := e.2, pa := e.2, fields := 0, data := 0, cmp := 0 }

/-- R214: LDT. -/
def ldtAct (t : TA) (s : State) : Act :=
  let n := sizeOf' t.size
  let ls := tileOffs t s.w
  s.tileCheck t.q n ls (.done (s.onW fun w =>
    w.addLoad (loadEnt .tile false t.d.toNat n false 0 false (ls.map tileAcc) []) [vdst t.d (regsFor t.size)]))

def ldtUse (t : TA) : Use := useOf 3 [bsrc t.q t.a 1 t.wa] [vdst t.d (regsFor t.size)]

def execLdt (t : TA) (s : State) : Out := issue (ldtUse t) (ldtAct t) s

/-- R121, R214: STT. -/
def sttAct (t : TA) (s : State) : Act :=
  let n := sizeOf' t.size
  let ls := tileOffs t s.w
  let pend := ls.filter fun e => match s.tileOf s.w with
    | some b => b.pending e.2 n
    | none => false
  s.tileCheck t.q n ls
    (if pend.isEmpty then
      .done (s.onW fun w => w.addStore true n (withData (fun l => w.storeData t.d.toNat n l) (ls.map tileAcc)))
     else tileTrap cTMEM_PENDING_STORE t.q s.w pend)

def sttUse (t : TA) : Use := useOf 3 [bsrc t.q t.a 1 t.wa, vsrc t.d (regsFor t.size) true] []

def execStt (t : TA) (s : State) : Out := issue (sttUse t) (sttAct t) s

/-- The tags that lanes read and the block after they set them, lanes ascending (R219). -/
def tmtagGo (set : Bool) (tag : Nat) : List (Nat × Nat) → Block → Block × List (Nat × Nat)
  | [], b => (b, [])
  | (l, line) :: t, b =>
    let r := tmtagGo set tag t (if set then b.setTag line tag else b)
    (r.1, (l, b.tag line) :: r.2)

/-- R219. -/
def tmtagAct (q : Bool) (d a : BitVec 7) (set : Bool) (tag : BitVec 2) (s : State) : Act :=
  let ls := s.w.lanes.map fun l => (l, (s.w.opB q a l).toNat)
  match ls.filter fun e => decide (s.tmem s.w ≤ e.2) with
  | e :: es => tileTrap cPROTECTION q s.w (e :: es)
  | [] => match s.w.id.blk, s.blkOf s.w with
    | some k, some b =>
      let r := tmtagGo set tag.toNat (ls.map fun e => (e.1, e.2 / 128)) b
      .done ((s.onBlk k fun _ => r.1).onW fun w => w.wrV d.toNat fun l => BitVec.ofNat 32 (look 0 r.2 l))
    | _, _ => s.w.trapAct cPROTECTION

def execTmtag (q : Bool) (d : BitVec 7) (wa : Bool) (a : BitVec 7) (set : Bool) (tag : BitVec 2) (s : State) : Out :=
  issue (useOf 3 [bsrc q a 1 wa] [vdst d 1]) (notInRegion (tmtagAct q d a set tag)) s

/-! ### Fences (R142, R143, R215) -/

/-- The release and acquire parts of a fence at a scope beyond a core; inside a region neither is made. `none`: a write-back
must wait (23 R325). -/
def State.fenceParts (s : State) (rel acq : Bool) (scope : Nat) : Option State :=
  if scope = 0 then some s
  else
    (if rel then s.releaseAll s.w.id.core else some s).map fun t => if acq then t.acquireAll s.w.id.core else t

/-- Have the accesses that a fence waits for performed, the tile accesses of TLDEC and DECS among them (R142; 17 R261, R262)? -/
def State.fenceOrdered (s : State) (rel acq : Bool) : Bool :=
  (!rel || s.earlierDone s.w s.w.mem.seq) && (!acq || (s.w.mem.loads.isEmpty && !s.unitBusy s.w s.w.mem.seq))

/-- What a fence does, once it can (R142). -/
def State.fenceDone (s : State) (rel acq : Bool) (scope : Nat) : Option State :=
  if s.fenceOrdered rel acq then s.fenceParts rel acq scope else none

/-- R142, R143. At its tick an SC fence writes back and discards once more, since other waves of the core may have stored and
filled lines while it waited. -/
def fenceAct (kind scope : Nat) (s : State) : Act :=
  let sc := if s.w.mem.region.isSome then 0 else scope
  let rel := kind != 2
  let acq := kind != 1
  match s.w.flow.hold with
  | .sc t =>
    if s.heartbeat.toNat = t then .wait s
    else match s.fenceParts rel acq sc with
      | none => .wait s
      | some u => .done u
  | _ => match s.fenceDone rel acq sc with
    | none => .wait s
    | some u => if kind = 4 then .wait (u.onW fun w => w.withHold (.sc s.heartbeat.toNat)) else .done u

def execFence (kind : BitVec 3) (scope : BitVec 2) (s : State) : Out :=
  issue (useOf 3 [] []) (fenceAct kind.toNat scope.toNat) s

/-! ### Cache control (R216) -/

/-- The lanes of a CCTL whose address raises no fault, with the translation. -/
def State.cctlLanes (s : State) (ls : List (Nat × Nat)) : List LaneAcc :=
  (ls.filter fun e => (s.laneCode s.w { rd := true, wr := false } e.2).isNone).map fun e =>
    let p := s.transOf s.w e.2
    { lane := e.1, va := e.2, pa := p.1, fields := p.2, data := 0, cmp := 0 }

/-- A prefetch of one lane (R216, R296); one for which no way can be freed brings nothing. -/
def State.prefetch (s : State) (l1 : Bool) (a : LaneAcc) : State :=
  let c := s.w.id.core
  match s.missTiles s.w [a.va] with
  | t :: _ => (s.post t (.prefetch c)).1
  | [] =>
    let t := s.l2Fill (a.pa / 256) a.va a.fields
    let u := match t.l1Room c a.pa with
      | some r => if l1 && !t.l2Poison a.pa then (r.l1Fill c a.pa a.va a.fields).witness c (s.objOf a.va) else t
      | none => t
    (u.fit (a.pa / 256)).getD s

/-- One lane of COP 0 to 2. -/
def State.cctlLine (s : State) (cop : Nat) (a : LaneAcc) : Option State :=
  let c := s.w.id.core
  let k := s.l1Core c a.pa
  match cop with
  | 0 => s.wb1 none k (a.pa / 128)
  | 1 => some (s.dropClean c a.pa)
  | _ => s.toPoint none c a.pa

/-- R216. -/
def cctlAct (m : MA 14) (cop : Nat) (s : State) : Act :=
  let ls := eas m s.w
  match s.unwalked s.w (ls.map (·.2)) with
  | p :: ps => .walk (p :: ps)
  | [] =>
    let as := s.cctlLanes ls
    if 3 ≤ cop then .done (forEach as s fun a t => t.prefetch (cop == 3) a)
    else if (as.any fun a => s.w.undrained s.w.mem.seq a.pa) then .wait s
    else match as.foldlM (fun t a => t.cctlLine cop a) s with
      | none => .wait s
      | some t => .done t

def execCctl (m : MA 14) (cop : BitVec 3) (s : State) : Out :=
  issue (useOf 3 (maSrcs m) []) (notInRegion (cctlAct m cop.toNat)) s

/-! ### Regions (R326 to R329) -/

/-- The lowest FREE entry of the region table. -/
def State.freeRegionId (s : State) : Option Nat := (List.range 64).find? fun i => (s.region? i).isNone

/-- The wave takes a region entry (R326 steps 3 and 4). -/
def State.takeRegion (s : State) (r : Nat) (d : BitVec 6) (aoff : BitVec 16) : State :=
  let w := s.w
  let x : Region :=
    { wid := w.id.wid, seqNo := s.die.regSeq, label := w.relRpc aoff, sd := d.toNat, mask0 := w.flow.mask, rpc0 := w.flow.rpc
      depth0 := w.depth, reads := [], versions := [], preds := [], pend := [], waiting := false }
  let t := s.onDie fun z =>
    { z with regions := put z.regions r x, regSeq := z.regSeq + 1, rwait := z.rwait.filter fun i => i != w.id.wid }
  t.onW fun v => { (v.wrS d.toNat 0) with mem := { v.mem with region := some r } }

/-- R326. -/
def rbeginAct (d : BitVec 6) (aoff : BitVec 16) (s : State) : Act :=
  if s.w.mem.region.isSome then s.w.trapAct cREGION_ILLEGAL
  else if s.w.id.kind = .kindling then s.w.trapAct cILLEGAL_CONVERGENCE
  else if s.w.converged = false then s.w.trapAct cILLEGAL_CONVERGENCE
  else
    match (if s.w.flow.hold = .rbegin then some s else s.fenceDone true true 2) with
    | none => .wait s
    | some t =>
      let wid := s.w.id.wid
      let first := match t.die.rwait with
        | [] => true
        | i :: _ => i == wid
      match t.freeRegionId with
      | some r =>
        if first then .done (t.takeRegion r d aoff)
        else .wait ((t.onDie fun z => { z with rwait := unionL z.rwait [wid] }).onW fun w => w.withHold .rbegin)
      | none => .wait ((t.onDie fun z => { z with rwait := unionL z.rwait [wid] }).onW fun w => w.withHold .rbegin)

def execRbegin (d : BitVec 6) (aoff : BitVec 16) (s : State) : Out :=
  issue (useOf 3 [] [sdst d.toNat 1]) (rbeginAct d aoff) s

/-- R318, R327. -/
def rcommitAct (s : State) : Act :=
  match s.regionOf s.w with
  | none => .done s
  | some (r, x) =>
    if s.w.converged = false ∨ s.w.depth ≠ x.depth0 then .badPop
    else match (if s.commitReady s.w x then s.commitRegion s.w r x else none) with
      | some t => .done (t.onW fun w => { w with mem := { w.mem with region := none } })
      | none => .wait (s.onW fun w => w.withHold .rcommit)

def execRcommit (s : State) : Out := issue (useOf 3 [] []) rcommitAct s

/-- R328. -/
def rabortAct (code : BitVec 7) (s : State) : Act :=
  match s.regionOf s.w with
  | none => .done s
  | some (r, _) => .left (s.abortRegion r 0 code.toNat aEXPLICIT)

def execRabort (code : BitVec 7) (s : State) : Out := issue (useOf 3 [] []) (rabortAct code) s

/-- What RSTAT reads (R329). -/
def State.rstatVal (s : State) (sel : Nat) : Nat :=
  match sel with
  | 0 => match s.regionOf s.w with
    | none => 0
    | some (r, x) => 2 ^ 31 + r * 2 ^ 24 + generation s.edges 5 r % 8 * 2 ^ 16 + x.preds.length % 16 * 2 ^ 12
  | 1 => match s.regionOf s.w with
    | none => 0
    | some (_, x) => x.versions.length
  | 2 => match s.regionOf s.w with
    | none => 0
    | some (_, x) => x.reads.length
  | 3 => 64 - s.die.regions.length
  | _ => 8192 - s.versionCount

def execRstat (d : BitVec 6) (sel : BitVec 3) (s : State) : Out :=
  issue (useOf 3 [] [sdst d.toNat 1])
    (fun s => .done (s.onW fun w => w.wrS d.toNat (BitVec.ofNat 32 (s.rstatVal sel.toNat)))) s

/-! ### Records and objects (R217, R218, R307, R308) -/

/-- Read a 64-byte record as a relaxed strong load at `.die`, then go on with it as a 512-bit number (R136, R217, R308). -/
def State.record (s : State) (va : Nat) (go : State → Nat → Act) : Act :=
  (s.check s.w { rd := true, wr := false } 64 [(0, va)]).act s.w true fun as =>
    match as with
    | [] => .wait s
    | a :: _ =>
      let c := s.w.id.core
      if s.w.undrained s.w.mem.seq a.pa || (s.w.mem.loads.any fun l => l.kind == .strong || l.acq) ||
          (s.buffered s.w s.w.mem.seq a.pa 64).isSome then .wait s
      else match s.reachL2 c a with
        | none => .wait s
        | some t =>
          if t.l2Poison a.pa then .trap cPOISON va s.w.flow.mask
          else match t.recordDrainOver c (a.pa / 256) with
            | none => .wait s
            | some u => match u.fitEvery with
              | none => .wait s
              | some v => go v (bytesNat (u.l2Bytes a.pa 64))

/-- The address of a record: S[b:b+1] plus a signed 32-bit offset. -/
def Wave.recordVa (w : Wave) (b : BitVec 6) (off : BitVec 32) : Nat := (w.rdS2 b.toNat + off.signExtend 64).toNat

/-- Every core writes back its lines that satisfy `p`, and clears the D bits of objects that satisfy `q`; `none`: a write-back
must wait. -/
def State.allWriteBack (s : State) (p : L1Line → Bool) (q : Nat → Bool) : Option State :=
  s.coreNos.foldlM (fun (t : State) k => (t.wbTry none k p).map fun u => u.clearSum k q) s

/-- Every core discards its lines that satisfy `p`. -/
def State.allDiscard (s : State) (p : L1Line → Bool) : State := forEach s.coreNos s fun k t => t.l1Discard k p

/-- Lines change their object. -/
def State.relabel (s : State) (p : Nat → Bool) (id : Nat) : State :=
  let t := s.onDie fun d => { d with l2 := d.l2.map fun e => if p e.2.va then (e.1, { e.2 with obj := id }) else e }
  let one : Nat × L1Line → Nat × L1Line := fun e => if p e.2.va then (e.1, { e.2 with obj := id }) else e
  forEach t.coreNos t fun k u => u.onCore k fun c => { c with l1 := c.l1.map one }

/-- R217: OBIND with the record read. -/
def bindRecord (d : BitVec 6) (s : State) (r : Nat) : Act :=
  let answer := fun (t : State) (x : Nat) => Act.done (t.onW fun w => w.wrS d.toNat (BitVec.ofNat 32 x))
  if shapeOk r = false then answer s 0x80000001
  else if s.die.objects.any (fun e => shapesMeet r e.2.shape) = true then answer s 0x80000002
  else match s.freeId with
    | none => answer s 0x80000003
    | some id =>
      let p : L1Line → Bool := fun l => inShape r (l.va / 256)
      match s.allWriteBack p fun _ => false with
      | none => .wait s
      | some t =>
        let o : Obj := { shape := r, prio := shPrio r, isSealed := false, recipe := none, tiles := [] }
        let u := (t.allDiscard p).onDie fun x => { x with objects := put x.objects id o }
        answer (u.relabel (fun va => inShape r (va / 256)) id) id

def execObind (d : BitVec 6) (wb : Bool) (b : BitVec 6) (off : BitVec 32) (s : State) : Out :=
  issue (useOf 3 [ssrc b.toNat 2 wb] [sdst d.toNat 1])
    (notInRegion (notKindling fun s => s.record (s.w.recordVa b off) (bindRecord d))) s

/-- The object id an instruction names (R218). -/
def Wave.objNo (w : Wave) (b : BitVec 6) : Nat := (w.rdS b.toNat).toNat % 4096

/-- Write a status. -/
def State.status (s : State) (d : BitVec 6) (x : Nat) : Act := .done (s.onW fun w => w.wrS d.toNat (BitVec.ofNat 32 x))

/-- Is a tile queued? -/
def State.queuedTile (s : State) (t : TileId) : Bool := s.die.recipeQ.any fun e => e.tile == t

/-- Does the object have a dropped tile or a running recipe? -/
def State.rebuilding (s : State) (id : Nat) (o : Obj) : Bool :=
  o.isSealed && ((o.tiles.any fun e => e.2.st != .present) || s.die.recipeQ.any fun e => e.tile.obj == id)

/-- R131, R218: OUNBIND. -/
def ounbindAct (d b : BitVec 6) (s : State) : Act :=
  let id := s.w.objNo b
  match s.obj? id with
  | none => s.status d 1
  | some o =>
    if shDroppable o.shape && s.rebuilding id o then s.status d 2
    else match s.allWriteBack (fun l => l.obj == id) fun x => x == id with
      | none => .wait s
      | some t =>
        let u := (t.relabel (fun va => inShape o.shape (va / 256)) 0).onDie fun x => { x with objects := del x.objects id }
        u.status d 0

def objUse (d : BitVec 6) (wb : Bool) (b : BitVec 6) : Use := useOf 3 [ssrc b.toNat 1 wb] [sdst d.toNat 1]

def execOunbind (d : BitVec 6) (wb : Bool) (b : BitVec 6) (s : State) : Out :=
  issue (objUse d wb b) (notInRegion (notKindling (ounbindAct d b))) s

/-- R131, R218: OPRIO. -/
def oprioAct (d : BitVec 6) (prio : BitVec 3) (b : BitVec 6) (s : State) : Act :=
  let id := s.w.objNo b
  match s.obj? id with
  | none => s.status d 1
  | some _ => (s.onObj id fun o => { o with prio := prio.toNat }).status d 0

def execOprio (d : BitVec 6) (prio : BitVec 3) (wb : Bool) (b : BitVec 6) (s : State) : Out :=
  issue (objUse d wb b) (notInRegion (oprioAct d prio b)) s

/-- The tiles of a sealed droppable object. -/
def Obj.tileIds (o : Obj) (id : Nat) : List TileId :=
  if o.isSealed && shDroppable o.shape then (List.range (shTiles o.shape)).map fun t => { obj := id, tile := t } else []

/-- Is the line one that OEVICT leaves: of a FORMING or guarded tile (21 R294)? -/
def State.keptLine (s : State) (va : Nat) : Bool := match s.sealedTile va with
  | none => false
  | some t => !s.droppableNow t

/-- A tile is dropped, after what the records of its lines demand (R139; 21 R294). -/
def State.tileLeaves (s : State) (t : TileId) : Option State :=
  ((s.die.l2.filter fun e => (s.linesOf t).contains (e.2.va / 256)).map (·.1)).foldlM (fun (x : State) l => x.recordLeaves l) s |>.map
    fun x => x.dropTile t

/-- What an OEVICT of object `id` does: every core writes back, droppable tiles are dropped, the L2 writes back and
invalidates the other lines, and every L1 discards its bytes (R131; 21 R294); `none`: something must perform first. -/
def State.evictObj (s : State) (id : Nat) (o : Obj) : Option State :=
  let drops := (o.tileIds id).filter fun t => s.droppableNow t
  if drops.any fun t => s.touched t then none
  else
    ((s.allWriteBack (fun l => l.obj == id) fun x => x == id).bind fun t => drops.foldlM (fun (x : State) y => x.tileLeaves y) t).bind fun u =>
      (u.l2Flush fun l => s.objOf l.va == id && !u.keptLine l.va).map fun v =>
        v.allDiscard fun l => l.obj == id && !v.keptLine l.va

/-- R131, R218; 21 R294: OEVICT. -/
def oevictAct (d : BitVec 6) (demote : Bool) (b : BitVec 6) (s : State) : Act :=
  let id := s.w.objNo b
  match s.obj? id with
  | none => s.status d 1
  | some o =>
    if demote then (s.onObj id fun o => { o with prio := 0 }).status d 0
    else match s.evictObj id o with
      | none => .wait s
      | some t => t.status d 0

def execOevict (d : BitVec 6) (demote : Bool) (wb : Bool) (b : BitVec 6) (s : State) : Out :=
  issue (objUse d wb b) (notInRegion (notKindling (oevictAct d demote b))) s

/-- Do thread accesses at addresses that satisfy `p` still have to perform? -/
def State.unperformed (s : State) (p : Nat → Bool) : Bool :=
  let ofWave : Wave → Bool := fun w =>
    (w.mem.sq.any fun e => !e.tile && e.lanes.any fun l => p l.va) ||
    (w.mem.loads.any fun e => (e.kind == .weak || e.kind == .strong) && e.lanes.any fun l => p l.va) ||
    w.mem.strong.any fun e => p e.va
  (s.waves.any ofWave) || (s.die.saved.any fun u => u.waves.any fun x => ofWave x.wave) ||
  s.cores.any fun c => c.2.wbuf.any fun q => q.2.any fun e => p e.va

/-- Has the object a queued, FORMING or guarded tile? -/
def State.tilesBusy (s : State) (id : Nat) (o : Obj) : Bool :=
  (s.die.recipeQ.any fun e => e.tile.obj == id) ||
  o.tiles.any fun e => e.2.st == .forming || s.guarded { obj := id, tile := e.1 }

/-- R307. -/
def osealAct (d : BitVec 6) (op : BitVec 2) (b : BitVec 6) (s : State) : Act :=
  let id := s.w.objNo b
  match s.obj? id with
  | none => s.status d 1
  | some o =>
    if shDroppable o.shape = false then s.status d 2
    else if op = 0 then
      if o.isSealed then s.status d 3
      else if o.recipe.isNone then s.status d 4
      else if s.storeCount s.w ≠ 0 ∨ s.unperformed (fun va => s.objOf va == id) = true then .wait s
      else match s.allWriteBack (fun l => l.obj == id) fun x => x == id with
        | none => .wait s
        | some t => (t.onObj id fun o => { o with isSealed := true, tiles := [] }).status d 0
    else if o.isSealed = false then s.status d 3
    else if s.tilesBusy id o then .wait s
    else (s.onObj id fun o => { o with isSealed := false, tiles := [] }).status d 0

def execOseal (d : BitVec 6) (op : BitVec 2) (wb : Bool) (b : BitVec 6) (s : State) : Out :=
  issue (objUse d wb b) (notInRegion (notKindling (osealAct d op b))) s

/-- Tile-state storage in use (21 R290). -/
def State.tileStorage (s : State) : Nat := s.die.objects.foldl (fun n e => if e.2.recipe.isSome then n + shTiles e.2.shape else n) 0

/-- The status of a record (Table 21.7); 0 if every check passes. -/
def State.recipeStatus (s : State) (r : Nat) : Nat :=
  if recipeOk r = false then 0x80000001
  else match s.obj? (rcOut r) with
    | none => 0x80000002
    | some o =>
      if shDroppable o.shape = false then 0x80000002
      else if o.isSealed && (s.tilesBusy (rcOut r) o || o.tiles.any fun e => e.2.st == .dropped) then 0x80000003
      else if recipeShapeOk o.shape = false then 0x80000004
      else if s.rslots * 128 < rcDepth r then 0x80000005
      else if o.recipe.isNone ∧ 1048576 < s.tileStorage + shTiles o.shape then 0x80000006
      else 0

/-- R308: ORECIPE with the record read. -/
def recipeRecord (d : BitVec 6) (s : State) (r : Nat) : Act :=
  if s.recipeStatus r = 0 then (s.onObj (rcOut r) fun o => { o with recipe := some r }).status d 0
  else s.status d (s.recipeStatus r)

def execOrecipe (d : BitVec 6) (wb : Bool) (b : BitVec 6) (off : BitVec 32) (s : State) : Out :=
  issue (useOf 3 [ssrc b.toNat 2 wb] [sdst d.toNat 1])
    (notInRegion (notKindling fun s => s.record (s.w.recordVa b off) (recipeRecord d))) s

end Sys2Proof.Machine
end

