-- ==== Sys2Proof/Machine/Term.lean ====
section
/-! DEFINITION. Class 4, the instructions of the term arrays and the exact unit, up to the units' queues
(spec/15_term_arrays.md R229, R233 to R235, R241; spec/17_term_instructions.md R247 to R266). What the units do is in
Machine/TermUnits.lean. -/

namespace Sys2Proof.Machine

/-! ### The format word (R233, R234) -/

/-- The part of R234 that the word alone decides. -/
def fwOk (fw : Nat) : Bool :=
  bitsN fw 24 8 == 0xA7 && bitsN fw 17 7 == 0 && decide (bitsN fw 11 3 ≤ 4) && decide (fwAkind fw ≤ 5) &&
  decide (fwBkind fw ≤ 5) && fwBkind fw != 1 && decide (fwAstore fw ≤ 2) && isBx (fwAkind fw) == isBx (fwBkind fw) &&
  (fwAstore fw != 2 || isBx (fwAkind fw)) && (!fwAcc fw || !isBx (fwAkind fw))

/-- R234 with the named slot. -/
def fwValid (fw : Nat) (x : Slot) : Bool := fwOk fw && x.loaded && x.kind == fwBkind fw && (!fwSmooth fw || x.sigma)

/-- F of R231. -/
def fillCycles (ssc : Bool) (lc : Nat) : Nat := if ssc then 16 + ceilDiv lc 128 else 24

/-- The weight slot that an instruction of a wave names. -/
def State.slotOf (s : State) (w : Wave) (n : Nat) : Slot := match s.blkOf w with
  | none => Slot.unloaded
  | some b => b.slot n

/-! ### Checks that several entries share -/

/-- MASK is full (R235 step 1). -/
def fullMask (f : State → Act) (s : State) : Act :=
  if s.w.flow.mask ≠ 0xFFFFFFFF then s.w.trapAct cILLEGAL_CONVERGENCE else f s

/-- A trap of an operand whose tile offset is the same for the whole wave (25 R332 step 4). -/
def tileTrap1 (code off : Nat) (w : Wave) : Act := .trap code off w.flow.mask

/-! ### TMM (R249 to R254) -/

/-- Where the TMM goes: the wave's array, else a free one, TA0 first. A wave without an array leaves a free one to a
recipe wave that waits for one (R229). -/
def State.arrayFor (s : State) (w : Wave) : Option Nat :=
  let c := s.core w.id.core
  let wants : Wave → Bool := fun x =>
    x.id.wid != w.id.wid && x.id.core == w.id.core && x.id.kind == .kindling && x.flow.stalled && (c.arrOf x.id.wid).isNone &&
    match x.instr with
    | .tmm v wa a wb b _ _ _ => x.fullV v.toNat 64 && (!wa || x.fullV a.toNat 1) && (!wb || x.fullS b.toNat 1)
    | _ => false
  match c.arrOf w.id.wid with
  | some k => some k
  | none =>
    if w.id.kind ≠ .kindling ∧ s.waves.any wants = true then none
    else (List.range 2).find? fun k => (c.arr k).owner.isNone

/-- The queue entry of a TMM. -/
def tmmOp (w : Wave) (x : Slot) (vacc fw aoff : Nat) (consume : Bool) (p slot : Nat) : TermOp :=
  { kind := .tmm, wid := w.id.wid, blk := w.id.blk, vacc := vacc, fw := fw, aoff := aoff, consume := consume, p := p, slot := slot
    seq := w.mem.seq, ssc := x.ssc, lc := x.lc, sigma := x.sigma, filler := x.filler, zeroB := false }

/-- A wave has issued tile work: later accesses have higher numbers. -/
def Wave.bumpSeq (w : Wave) : Wave := { w with mem := { w.mem with seq := w.mem.seq + 1 } }

/-- Put an entry into the queue of array `k`, which is then assigned to the wave. -/
def State.enqueueTerm (s : State) (k : Nat) (o : TermOp) : State :=
  s.onCore s.w.id.core fun c => c.onArr k fun a => { a with owner := some o.wid, queue := a.queue ++ [o] }

/-- The TMM of the acting wave enters array `k`, its range empty (R48, R251). -/
def State.acceptTmm (s : State) (k : Nat) (o : TermOp) : State :=
  (s.enqueueTerm k o).onW fun w => (w.markV o.vacc 64 false).bumpSeq

/-- The acceptance of a TMM that has passed its checks (R229, R241, R251): it waits for its range under R50, and for an
array and a place in its queue, which keep it from issuing only as a pipe does (R108, R229). -/
def acceptAct (o : TermOp) (s : State) : Act :=
  let w := s.w
  let joins := match s.openRun w with
    | some r => r.takes o.vacc o.fw
    | none => false
  let t := if joins then s else s.askPromotion w
  if joins = false ∧ w.fullV o.vacc 64 = false then .wait t
  else if joins = false ∧ (t.openRun w).isSome = true then .pipe t
  else match t.arrayFor w with
    | none => .pipe t
    | some k => if ((t.core w.id.core).arr k).queue.length < 4 then .done (t.acceptTmm k o) else .pipe t

/-- R235, R251, R254. -/
def tmmAct (vacc a : BitVec 7) (b : BitVec 6) (consume : Bool) (pm1 : BitVec 5) (slot : BitVec 7) : State → Act :=
  notInRegion (fullMask fun s =>
    let w := s.w
    let fw := (w.lane a.toNat 0).toNat
    let off := (w.rdS b.toNat).toNat
    let x := s.slotOf w slot.toNat
    if (List.range 32).any (fun l => w.lane a.toNat l != w.lane a.toNat 0) = true then w.trapAct cFORMAT_DIVERGENCE
    else if fwValid fw x = false then w.trapAct cTERM_OPERAND
    else if off % 128 ≠ 0 then tileTrap1 cALIGN off w
    else if s.tmem w < off + aExtent fw then tileTrap1 cPROTECTION off w
    else acceptAct (tmmOp w x vacc.toNat fw off consume (pm1.toNat + 1) slot.toNat) s)

/-- Use of TMM: its accumulator range is tested by R251, not by R50. -/
def tmmUse (vacc : BitVec 7) (wa : Bool) (a : BitVec 7) (wb : Bool) (b : BitVec 6) (slot : BitVec 7) : Use :=
  { useOf 4 [vsrc a 1 wa, ssrc b.toNat 1 wb] [] with named := [vdst vacc 64], slots := [slot.toNat] }

def execTmm (vacc : BitVec 7) (wa : Bool) (a : BitVec 7) (wb : Bool) (b : BitVec 6) (consume : Bool) (pm1 : BitVec 5) (slot : BitVec 7)
    (s : State) : Out :=
  issue (tmmUse vacc wa a wb b slot) (tmmAct vacc a b consume pm1 slot) s

/-! ### TPROM, TBOUND, TSTAT (R255, R256, R265) -/

/-- R255. -/
def tpromAct (d : BitVec 7) : State → Act :=
  notInRegion fun s =>
    match (s.core s.w.id.core).arrOf s.w.id.wid with
    | none => .done s
    | some k =>
      if ((s.core s.w.id.core).arr k).queue.length < 4 then
        .done ((s.enqueueTerm k { TermOp.request s.w with kind := .tprom, vacc := d.toNat }).onW Wave.bumpSeq)
      else .pipe s

def execTprom (d : BitVec 7) (s : State) : Out :=
  issue { useOf 4 [] [] with named := [vdst d 1] } (tpromAct d) s

/-- R256. -/
def tboundAct (d : BitVec 6) (a slot : BitVec 7) : State → Act :=
  notInRegion fun s =>
    let fw := (s.w.lane a.toNat s.w.firstLane).toNat
    let x := s.slotOf s.w slot.toNat
    if fwValid fw x then
      .done (s.onW fun w => w.wrS d.toNat (BitVec.ofNat 32 (fillCycles x.ssc x.lc + 16 * max (maxTerms (fwAkind fw)) 1 + 16)))
    else s.w.trapAct cTERM_OPERAND

def execTbound (d : BitVec 6) (wa : Bool) (a : BitVec 7) (slot : BitVec 7) (s : State) : Out :=
  issue { useOf 4 [vsrc a 1 wa] [sdst d.toNat 1] with slots := [slot.toNat] } (tboundAct d a slot) s

/-- The HOLD word (Table 17.6). -/
def State.holdWord (s : State) (w : Wave) : Nat :=
  let c := s.core w.id.core
  match c.arrOf w.id.wid with
  | none => 0
  | some k =>
    let a := c.arr k
    (match a.run with
      | some r => r.vacc * 2 ^ 12 + r.n * 2 ^ 6 + 1
      | none => 0) + (a.queueOf w.id.wid).length * 2 ^ 3 + 4 + 2 * k

/-- What TSTAT reads (R265). -/
def State.tstatVal (s : State) (w : Wave) (sel : Nat) : Word :=
  match sel with
  | 0 => BitVec.ofNat 32 (s.holdWord w)
  | 1 => match s.heldRun w with
    | some r => BitVec.ofNat 32 r.fw
    | none => 0
  | 2 => w.csr.lastL
  | 3 => w.csr.lastTB
  | _ => w.csr.tlferr

/-- R265. -/
def tstatAct (d : BitVec 6) (sel : BitVec 3) : State → Act :=
  notInRegion fun s =>
    let t := s.onW fun w => w.wrS d.toNat (s.tstatVal w sel.toNat)
    .done (if sel = 5 then t.onW fun w => { w with csr := { w.csr with tlferr := 0 } } else t)

def execTstat (d : BitVec 6) (sel : BitVec 3) (s : State) : Out :=
  issue (useOf 4 [] [sdst d.toNat 1]) (tstatAct d sel) s

/-! ### TCNT, QBX, DQBX (R257 to R259) -/

/-- The elements that a register packs (R257). -/
def tcntElems (kind : Nat) (x : Word) : List Int :=
  let bytes := (List.range 4).map fun i => bitsN x.toNat (8 * i) 8
  match kind with
  | 0 => bytes.map fun b => sextN b 8
  | 1 => bytes.map Int.ofNat
  | 2 => (List.range 8).map fun i => sextN (bitsN x.toNat (4 * i) 4) 4
  | _ => bytes.map fun b => bxSigned 7 b

/-- What TCNT writes in a lane. -/
def tcntVal (kind : Nat) (x : Word) : Word :=
  let ts := (tcntElems kind x).map terms
  let ns := ts.map (·.length)
  let wide := ts.any fun t => t.any fun e => e.2 == 8
  BitVec.ofNat 32 (ns.foldl (· + ·) 0 + 256 * ns.foldl max 0 + if wide then 65536 else 0)

def execTcnt (u : U3) (kind : BitVec 4) (s : State) : Out :=
  issue (useOf 4 [u3src u 1] [vdst u.d 1])
    (notInRegion fun s => .done (s.onW fun w => w.wrV u.d.toNat fun l => tcntVal kind.toNat (w.lane u.a.toNat l))) s

/-- The block that the lanes of half-wave `h` form (R258). -/
def Wave.qbxBlock (w : Wave) (a kind : Nat) (bf : Bool) (h : Nat) : BxQ :=
  quantize (bxB kind) ((List.range 16).map fun i =>
    let x := (w.lane a (16 * h + i)).toNat
    if w.active (16 * h + i) then (if bf then bf16.unpack (x % 65536) else fp32.unpack x) else .fin false 0 0)

/-- What QBX writes in lane `i` of a half-wave. -/
def BxQ.lane (q : BxQ) (b i : Nat) : Nat :=
  let c := q.els.getD i (false, 0)
  (if c.1 then 2 ^ b else 0) + c.2 + 256 * q.x + 65536 * q.qs

/-- R258. -/
def Wave.qbx (w : Wave) (d a kind : Nat) (bf : Bool) : Wave :=
  let q := fun h => w.qbxBlock a kind bf h
  let hs := (List.range 2).filter fun h => (List.range 16).any fun i => w.active (16 * h + i)
  (w.wrV d fun l => BitVec.ofNat 32 ((q (l / 16)).lane (bxB kind) (l % 16))).orFlags (hs.foldl (fun f h => f ||| (q h).flags) 0)

def execQbx (u : U3) (bf : Bool) (kind : BitVec 3) (s : State) : Out :=
  issue (useOf 4 [u3src u 1] [vdst u.d 1])
    (notInRegion fun s => .done (s.onW fun w => w.qbx u.d.toNat u.a.toNat kind.toNat bf)) s

/-- DQBX of one lane, `i` its place in its block (R259). -/
def dqbxLane (kind : Nat) (bf : Bool) (i : Nat) (x : Word) : Nat × Flags :=
  let b := bxB kind
  let f := bitsN x.toNat 0 8
  let fm := if bf then bf16 else fp32
  if bitsN x.toNat 8 8 = 255 then (fm.nanBits, fNANBLOCK)
  else if f % 2 ^ b = 0 then (0, 0)
  else
    let mu : Int := if x.toNat.testBit (16 + i / 4) then 1 else 0
    fm.conv .rne (.fin (f.testBit b) (f % 2 ^ b) ((bitsN x.toNat 8 8 : Int) - 127 - mu - ((b : Int) - 1)))

def execDqbx (u : U3) (bf : Bool) (kind : BitVec 3) (s : State) : Out :=
  issue (useOf 4 [u3src u 1] [vdst u.d 1])
    (notInRegion fun s => .done (s.onW fun w => w.wrF u.d.toNat fun l => dqbxLane kind.toNat bf (l % 16) (w.lane u.a.toNat l))) s

/-! ### TLENC, TLDEC, DECS (R260 to R262) -/

/-- Add work to a queue of 4, noting since when its head stands there. -/
def addUnit (q : List UnitOp) (now : Nat) (o : UnitOp) : List UnitOp := q ++ [if q.isEmpty then { o with since := now } else o]

/-- R260 up to the TLF unit's queue: the wave is past the instruction and issues nothing until its status is written. The
instruction that the unit serves keeps its place among the 4 (R248 does not say; DESIGN CHOICE, log 63). -/
def tlencAct (d b : BitVec 6) (pitch : BitVec 16) : State → Act :=
  notInRegion fun s =>
    let w := s.w
    let dst := (w.rdS (b.toNat + 1)).toNat
    if dst % 16 ≠ 0 then tileTrap1 cALIGN dst w
    else if s.tmem w < dst + 16 then tileTrap1 cPROTECTION dst w
    else if 4 ≤ (s.core w.id.core).tlfq.length then .pipe s
    else
      let o : UnitOp := { wid := w.id.wid, blk := w.id.blk, enc := true, d := d.toNat, src := (w.rdS b.toNat).toNat, dst := dst
                          arg := pitch.toNat, lanes := [], seq := w.mem.seq, since := 0 }
      let t := s.onCore w.id.core fun c => { c with tlfq := addUnit c.tlfq s.pkg.coreClock o }
      .left (t.onW fun w => w.advance.bumpSeq.withHold .tlenc)

def execTlenc (d : BitVec 6) (wb : Bool) (b : BitVec 6) (pitch : BitVec 16) (s : State) : Out :=
  issue (useOf 4 [ssrc b.toNat 2 wb] [sdst d.toNat 1]) (tlencAct d b pitch) s

/-- R261 up to the TLF unit's queue. The instruction that the unit serves keeps its place among the 4 (R248 does not say;
DESIGN CHOICE, log 63). -/
def tldecAct (d a : BitVec 7) (b : BitVec 6) (hoff : BitVec 16) : State → Act :=
  notInRegion fun s =>
    let w := s.w
    let at' := (w.rdS b.toNat).toNat + hoff.toNat
    if at' % 16 ≠ 0 then tileTrap1 cALIGN at' w
    else if s.tmem w < at' + 16 then tileTrap1 cPROTECTION at' w
    else if 4 ≤ (s.core w.id.core).tlfq.length then .pipe s
    else
      let o : UnitOp := { wid := w.id.wid, blk := w.id.blk, enc := false, d := d.toNat, src := at', dst := 0, arg := 0
                          lanes := w.lanes.map fun l => (l, (w.lane a.toNat l).toNat), seq := w.mem.seq, since := 0 }
      let t := s.onCore w.id.core fun c => { c with tlfq := addUnit c.tlfq s.pkg.coreClock o }
      .done (t.onW fun w => (w.markV d.toNat 2 false).bumpSeq)

def execTldec (d : BitVec 7) (wa : Bool) (a : BitVec 7) (wb : Bool) (b : BitVec 6) (hoff : BitVec 16) (s : State) : Out :=
  issue (useOf 4 [vsrc a 1 wa, ssrc b.toNat 1 wb] [vdst d 2]) (tldecAct d a b hoff) s

/-- R262 up to the stream decoder's queue. The DECS that the decoder serves keeps its place among the 4 (R248 does not say;
DESIGN CHOICE, log 63). -/
def decsAct (d b l : BitVec 6) : State → Act :=
  notInRegion fun s =>
    let w := s.w
    if 4 ≤ (s.core w.id.core).decq.length then .pipe s
    else
      let o : UnitOp := { wid := w.id.wid, blk := w.id.blk, enc := false, d := d.toNat, src := (w.rdS b.toNat).toNat
                          dst := (w.rdS (b.toNat + 1)).toNat, arg := (w.rdS l.toNat).toNat, lanes := [], seq := w.mem.seq, since := 0 }
      let t := s.onCore w.id.core fun c => { c with decq := addUnit c.decq s.pkg.coreClock o }
      .done (t.onW fun w => (w.markS d.toNat 1 false).bumpSeq)

def execDecs (d : BitVec 6) (wb : Bool) (b : BitVec 6) (wl : Bool) (l : BitVec 6) (s : State) : Out :=
  issue (useOf 4 [ssrc b.toNat 2 wb, ssrc l.toNat 1 wl] [sdst d.toNat 1]) (decsAct d b l) s

/-! ### XMM (R263, R264) -/

/-- Registers of the C range. -/
def xmmRegs (form : Nat) : Nat := if form = 0 then 16 else 8

/-- R264 up to the exact unit's queue. The XMM that runs keeps its place among the 4 (R245 does not say; R265 says so of a
term array's queue; DESIGN CHOICE, log 63). -/
def xmmAct (d : BitVec 7) (b : BitVec 6) (zc conjb : Bool) (form : BitVec 2) : State → Act :=
  notInRegion (fullMask fun s =>
    let w := s.w
    let ao := (w.rdS b.toNat).toNat
    let bo := (w.rdS (b.toNat + 1)).toNat
    let n := xmmBytes form.toNat
    match [ao, bo].find? (fun o => o % 64 != 0) with
    | some o => tileTrap1 cALIGN o w
    | none => match [ao, bo].find? (fun o => decide (s.tmem w < o + n)) with
      | some o => tileTrap1 cPROTECTION o w
      | none =>
        if 4 ≤ (s.core w.id.core).xq.length then .pipe s
        else
          let o : XmmOp := { wid := w.id.wid, blk := w.id.blk, d := d.toNat, aoff := ao, boff := bo, form := form.toNat, conjb := conjb
                             zc := zc, seq := w.mem.seq, started := none }
          let t := s.onCore w.id.core fun c => { c with xq := c.xq ++ [o] }
          .done (t.onW fun w => (w.markV d.toNat (xmmRegs form.toNat) false).bumpSeq))

def execXmm (d : BitVec 7) (wb : Bool) (b : BitVec 6) (zc conjb : Bool) (form : BitVec 2) (s : State) : Out :=
  issue (useOf 4 [ssrc b.toNat 2 wb] [vdst d (xmmRegs form.toNat)]) (xmmAct d b zc conjb form) s

end Sys2Proof.Machine
end

