-- ==== Sys2Proof/Machine/TermUnits.lean ====
section
/-! DEFINITION. What the term arrays, the exact unit, the TLF unit and the stream decoder do with queued work: the events
TMM_START to DECS_COMPLETE (spec/15_term_arrays.md R228 to R246; spec/17_term_instructions.md R250 to R252, R255, R260 to
R264; spec/19_copy_engines.md R283). -/

namespace Sys2Proof.Machine

/-! ### Operands of a TMM (R230 to R232, R250) -/

/-- Bytes of a block's tile memory as numbers. -/
def Block.nums (b : Block) (off n : Nat) : List Nat := (b.tileBytes off n).map (·.toNat)

/-- σ(k) of a slot for an instruction that saw SIGMA (R231). -/
def sigmaOf (sigma : Bool) (x : Slot) (k : Nat) : Nat := if sigma then x.sig.getD k 0 else 0

/-- The A operand: its rows, the recoder's flags, and the code and row of the first TLF error (R252). -/
structure AOp where
  rows : List (List Elem)
  flags : Flags
  err : Option (Nat × Nat)
  deriving DecidableEq, Repr

/-- A row of zeros with no terms. -/
def zeroRow : List Elem := List.replicate 192 Elem.zero

/-- One recoded block: 16 BF16 values from offset `off`, divided by 2^σ under SMOOTH (R230, R232). -/
def Block.recode (b : Block) (fw off q : Nat) (sg : Nat → Nat) : BxQ :=
  quantize (bxB (fwAkind fw)) ((List.range 16).map fun i =>
    let k := 16 * q + i
    match bf16.unpack (leN (b.nums (off + 2 * k) 2)) with
    | .fin n m e => if fwSmooth fw then .fin n m (e - (sg k : Int)) else .fin n m e
    | v => v)

/-- The header of a TLF A operand is good (R250). -/
def TlfHdr.goodFor (h : TlfHdr) (fw off tmem : Nat) : Bool :=
  h.valid && h.kind == fwAkind fw && h.rows == 64 && h.e == 192 && decide (off + h.extent ≤ tmem)

/-- The A operand of a TMM (R230, R250, R252). -/
def Block.aOp (b : Block) (fw off : Nat) (sg : Nat → Nat) : AOp :=
  if fwAstore fw = 0 then
    let dr := denseRow (fwAkind fw) 192
    { rows := (List.range 64).map fun m => denseElems (fwAkind fw) 192 (b.nums (off + m * dr) dr), flags := 0, err := none }
  else if fwAstore fw = 2 then
    let qs := (List.range 64).map fun m => (List.range 12).map fun q => b.recode fw (off + 384 * m) q sg
    { rows := qs.map fun r => r.flatMap BxQ.elems, flags := qs.foldl (fun f r => r.foldl (fun f q => f ||| q.flags) f) 0, err := none }
  else
    let h := TlfHdr.parse (b.nums off 16)
    if h.goodFor fw off b.tmem then
      let rs := (List.range 64).map fun m => tlfRow h (fun o n => b.nums (off + o) n) m
      let bad := (List.range 64).find? fun m => (rs.getD m none).isNone
      { rows := rs.map fun r => r.getD zeroRow, flags := if bad.isSome then fINVALID else 0, err := bad.map fun m => (2, m) }
    else { rows := List.replicate 64 zeroRow, flags := fINVALID, err := some (1, 0) }

/-- The image bytes that SSC records hold, or `none` on an error (19 R283); `f` bounds the records. -/
def sscImage : Nat → Nat → List Nat → Option (List Nat)
  | 0, _, _ => none
  | f + 1, size, bs =>
    if size = 0 then (if bs.isEmpty then some [] else none)
    else
      let n := leN (bs.take 2)
      let chunk := (bs.drop 2).take n
      if bs.length < 2 ∨ n = 0 ∨ 2047 < n ∨ chunk.length < n then none
      else match sscDecode chunk with
        | none => none
        | some raw =>
          if raw.length = min 512 size then (sscImage f (size - raw.length) (bs.drop (2 + n))).map (raw ++ ·) else none

/-- The raw image of a slot (19 R283). -/
def slotImage (kind : Nat) (ssc : Bool) (bytes : List Nat) : List Nat :=
  if ssc then (sscImage 32 (imageSize kind) bytes).getD [] else bytes

/-- The B operand: Bmult[k][n] and XB[q][n] (R231). -/
structure BOp where
  mult : List (List Int)
  x : List (List Nat)
  deriving DecidableEq, Repr

/-- Bmult of one element: the integer, or (−1)^s · m · 2^(1−μ) of a BX element (R231). -/
def Elem.mult (kind : Nat) (e : Elem) : Int := if isBx kind then e.v * 2 ^ (1 - e.mu) else e.v

/-- The B operand of an image of a kind (Table 19.5). -/
def bOpOf (kind : Nat) (img : List Nat) : BOp :=
  if isBx kind then
    let blk := bxBlock kind
    let bl := (List.range 12).map fun q => (List.range 32).map fun n => bxElems kind (slice img (blk * (32 * q + n)) blk)
    { mult := (List.range 192).map fun k => (bl.getD (k / 16) []).map fun es => (es.getD (k % 16) Elem.zero).mult kind
      x := bl.map fun r => r.map fun es => (es.headD Elem.zero).x }
  else
    { mult := (List.range 192).map fun k => (List.range 32).map fun n =>
        if kind = 2 then sextN (bitsN (img.getD (16 * k + n / 2) 0) (4 * (n % 2)) 4) 4 else sextN (img.getD (32 * k + n) 0) 8
      x := [] }

/-- Zeros in place of a slot that a failed CPYW left (19 R283). -/
def BOp.zero : BOp := { mult := List.replicate 192 (List.replicate 32 0), x := [] }

/-! ### The cycle model (R236) -/

/-- Row by row: p of the row before, done(j, i−1) of each lane, and the greatest done of each earlier row, the latest
first. Answers p(15) and the greatest done(j, 15). -/
def groupGo (depth : Nat) : Option Nat → List Nat → List Nat → List (List Nat) → Nat × Nat
  | p, dn, _, [] => (p.getD 0, dn.foldl max 0)
  | p, dn, hist, row :: rest =>
    let p' := match p with
      | none => 0
      | some x => max (x + 1) (hist.getD depth 0)
    let dn' := (dn.zip row).map fun e => max p' e.1 + e.2
    groupGo depth (some p') dn' (dn'.foldl max 0 :: hist) rest

/-- Lanes `j0 .. j0+g-1` of slice `q`: p(15) and the greatest done(j, 15). -/
def groupTime (rows : List (List Elem)) (depth g q j0 : Nat) : Nat × Nat :=
  let t := (List.range 16).map fun i => (List.range g).map fun j => ((rows.getD (j0 + j) []).getD (16 * q + i) Elem.zero).cnt
  groupGo depth none (List.replicate g 0) [] t

/-- The times of every group of every slice. -/
def groupTimes (rows : List (List Elem)) (depth g : Nat) : List (Nat × Nat) :=
  (List.range 12).flatMap fun q => (List.range (64 / g)).map fun k => groupTime rows depth g q (k * g)

/-- The lane phase of an instruction and its term-barrier count (R236, R237). -/
def laneTime (rows : List (List Elem)) (depth g : Nat) : Nat × Nat :=
  (groupTimes rows depth g).foldl (fun a e => (max a.1 e.2, a.2 + (e.1 - 15))) (0, 0)

/-! ### Slice sums and promotion (R238 to R240) -/

/-- One row of a slice: the sum over i of a(i) · B(i, n) · 2^σ(i), for every n. -/
def sliceRow (as : List Int) (bs : List (List Int)) : List Int :=
  (as.zip bs).foldl (fun acc e => if e.1 = 0 then acc else (acc.zip e.2).map fun x => x.1 + e.1 * x.2) (List.replicate 32 0)

/-- What an instruction adds to S[q][m][n], at index 2048 q + 32 m + n. -/
def sliceSums (akind : Nat) (rows : List (List Elem)) (b : BOp) (sg : Nat → Nat) : List Int :=
  let bs := b.mult.zipIdx.map fun r => r.1.map fun x => x * 2 ^ sg r.2
  let as := rows.map fun r => r.map fun e => e.mult akind
  (List.range 12).flatMap fun q => as.flatMap fun r => sliceRow ((r.drop (16 * q)).take 16) ((bs.drop (16 * q)).take 16)

/-- Sums added in place; the empty list stands for zeros. -/
def addSums (old new : List Int) : List Int := if old.isEmpty then new else (old.zip new).map fun x => x.1 + x.2

/-- A total before promotion: `none` a NaN, else value and exponent (R240). -/
abbrev Cell := Option (Int × Int)

/-- The total of integer kinds at (m, n). -/
def intCell (sums : List Int) (m n : Nat) : Cell := some ((List.range 12).foldl (fun a q => a + sums.getD (2048 * q + 32 * m + n) 0) 0, 0)

/-- The total of BX kinds at (m, n). -/
def bxCell (akind bkind : Nat) (rows : List (List Elem)) (b : BOp) (sums : List Int) (m n : Nat) : Cell :=
  let xa := fun q => ((rows.getD m []).getD (16 * q) Elem.zero).x
  let xb := fun q => (b.x.getD q []).getD n 0
  if (List.range 12).any fun q => xa q == 255 || xb q == 255 then none
  else some ((List.range 12).foldl (fun a q => a + sums.getD (2048 * q + 32 * m + n) 0 * 2 ^ (xa q + xb q)) 0,
    -254 - ((bxB akind : Int) - 1) - ((bxB bkind : Int) - 1) - 2)

/-- The new value of an accumulator, and its flags (R240). -/
def promoteCell (acc : Bool) (old : Word) : Cell → Nat × Flags
  | none => (fp32.nanBits, fNANBLOCK ||| (fp32.unpack old.toNat).nanFlag)
  | some (t, e) => if acc then sat32 (old.toInt + t) else fp32.add .rne (fp32.unpack old.toNat) (.fin (decide (t < 0)) t.natAbs e)

/-- Promotion into the accumulator range of a wave (R240). -/
def Wave.promote (w : Wave) (vacc : Nat) (acc : Bool) (cell : Nat → Nat → Cell) : Wave :=
  let v := (List.range 64).foldl (fun v m =>
    let r := (List.range 32).map fun n => promoteCell acc (w.lane (vacc + m) n) (cell m n)
    (v.wrVMask 0xFFFFFFFF (vacc + m) fun n => BitVec.ofNat 32 (r.getD n (0, 0)).1).orFlags (r.foldl (fun f x => f ||| x.2) 0)) w
  (v.markV vacc 64 true).settleV2S

/-- The number of an array. -/
def arrNo (ta : Bool) : Nat := if ta then 1 else 0

/-! ### Starting a TMM (R237, R244) -/

/-- Do earlier tile stores, or loads and stores of TLDEC and DECS, of the wave still have to perform? -/
def State.tileBefore (s : State) (wid seq : Nat) : Bool := match s.wave? wid with
  | none => false
  | some w => (w.mem.sq.any fun e => e.tile && decide (e.seq < seq)) || s.unitBusy w seq

/-- Is copy number `a` not after number `b` (19 R267)? -/
def seqLe (a b : Nat) : Bool := decide ((b + 2 ^ 32 - a) % 2 ^ 32 < 2 ^ 31)

/-- May the TMM at the head of an array's queue start? Its fill waits for every CPYW of the slot issued before it (R244, 19
R283). -/
def State.tmmMayStart (s : State) (c : Nat) (a : TermArray) : Bool :=
  match a.queue with
  | [] => false
  | o :: _ =>
    o.kind == .tmm && a.started.isNone && !s.tileBefore o.wid o.seq &&
    (match o.filler with
      | none => true
      | some f => !((s.core c).copies.any fun x => x.op == 2 && x.blk == o.blk && x.slot == o.slot && seqLe x.seq f)) &&
    match o.blk.bind s.blk? with
    | none => true
    | some b => !b.pending o.aoff (o.aBytes b)

/-- Nothing happens: an event that is not enabled (log 2). -/
def quietly (s : State) : Out := .next s

/-- The slot that the head of an array's queue names. -/
def State.headSlot (s : State) (a : TermArray) : Slot := match a.queue with
  | [] => Slot.unloaded
  | o :: _ => match o.blk.bind s.blk? with
    | none => Slot.unloaded
    | some b => b.slot o.slot

/-- TMM_START: the fill takes the slot, which no CPYW changes before the fill has ended (R244). -/
def execTmmStart (core : BitVec 7) (ta : Bool) (s : State) : Out :=
  let a := (s.core core.toNat).arr (arrNo ta)
  if s.tmmMayStart core.toNat a then
    .next (s.onCore core.toNat fun c => c.onArr (arrNo ta) fun a => { a with started := some s.pkg.coreClock, file := s.headSlot a })
  else quietly s

/-! ### Completing a TMM (R237 to R240, R251, R252) -/

/-- What a TMM does: its time and term-barrier count, the array's sums, the promotion if it promotes, and its flags. -/
structure TmmOut where
  cycles : Nat
  waits : Nat
  n : Nat
  sums : List Int
  promotes : Bool
  cell : Nat → Nat → Cell
  flags : Flags
  err : Option (Nat × Nat)

/-- The result of the TMM `o` on block `b` with the filled slot `x`, from the run and the sums that its array holds. A fill
that a failed CPYW left without weights gives zeros, and σ(k) = 0 with them (19 R283 speaks of Bmult alone; DESIGN CHOICE,
log 43). -/
def tmmResult (o : TermOp) (b : Block) (x : Slot) (run : Option TermRun) (old : List Int) : TmmOut :=
  let sg := if o.zeroB then fun _ => 0 else sigmaOf o.sigma x
  let ak := fwAkind o.fw
  let a := b.aOp o.fw o.aoff sg
  let bo := if o.zeroB then BOp.zero else bOpOf (fwBkind o.fw) (slotImage (fwBkind o.fw) o.ssc x.bytes)
  let n := (match run with | some r => r.n | none => 0) + 1
  let sums := addSums (if run.isSome then old else []) (sliceSums ak a.rows bo sg)
  let promotes := isBx ak || decide (o.p ≤ n)
  let t := laneTime a.rows (fwDepth o.fw) (fwG o.fw)
  { cycles := fillCycles o.ssc o.lc + t.1 + 6 + (if promotes then 10 else 2), waits := t.2, n := n, sums := sums, promotes := promotes
    cell := if isBx ak then bxCell ak (fwBkind o.fw) a.rows bo sums else intCell sums
    flags := a.flags ||| (if o.zeroB then fINVALID else 0), err := a.err }

/-- TLFERR takes the first error (Table 17.7). -/
def Wave.tlfError (w : Wave) : Option (Nat × Nat) → Wave
  | none => w
  | some (code, row) =>
    if w.csr.tlferr = 0 then { w with csr := { w.csr with tlferr := BitVec.ofNat 32 (2 ^ 31 + code * 2 ^ 28 + row) } } else w

/-- What a completed TMM does to its wave. -/
def Wave.afterTmm (w : Wave) (o : TermOp) (r : TmmOut) : Wave :=
  let v := ((w.perfAdd 3 r.waits).orFlags r.flags).tlfError r.err
  let u := { v with csr := { v.csr with lastL := BitVec.ofNat 32 r.cycles, lastTB := BitVec.ofNat 32 r.waits } }
  if r.promotes then u.promote o.vacc (fwAcc o.fw) r.cell else u

/-- `.consume`: each A line that is VALID becomes CONSUMED (R121, R251). -/
def Block.consume (b : Block) (off n : Nat) : Block :=
  (tileLinesOf off n).foldl (fun b l => if b.tag l = tagVALID then b.setTag l tagCONSUMED else b) b

/-- The array after its TMM. -/
def TermArray.afterTmm (a : TermArray) (o : TermOp) (r : TmmOut) : TermArray :=
  let run := if r.promotes then none else some ({ vacc := o.vacc, fw := o.fw, n := r.n } : TermRun)
  { a.drop with run := run, sums := if r.promotes then [] else r.sums }.settle

/-- TMM_COMPLETE. -/
def execTmmComplete (core : BitVec 7) (ta : Bool) (s : State) : Out :=
  let c := core.toNat
  let a := (s.core c).arr (arrNo ta)
  match a.queue, a.started with
  | o :: _, some t0 =>
    match o.blk.bind fun k => (s.blk? k).map fun b => (k, b) with
    | none => .next (s.onCore c fun x => x.onArr (arrNo ta) fun a => a.drop.settle)
    | some (k, b) =>
      let r := tmmResult o b a.file a.run a.sums
      let t := (s.passTo (t0 + r.cycles)).onAny o.wid fun w => w.afterTmm o r
      let u := if o.consume then t.onBlk k fun b' => b'.consume o.aoff (o.aBytes b) else t
      .next (u.onCore c fun x => x.onArr (arrNo ta) fun a => a.afterTmm o r)
  | _, _ => quietly s

/-! ### Queued promotions (R240, R241, R255) -/

/-- Does the entry promote the held run? -/
def TermOp.promotes (o : TermOp) (r : TermRun) : Bool :=
  o.kind == .request || (o.kind == .tprom && decide (r.vacc ≤ o.vacc) && decide (o.vacc < r.vacc + 64))

/-- PROMOTION: the TPROM or the request at the head of an array's queue, 10 cycles if it promotes a run of its wave, else
1. -/
def execPromotion (core : BitVec 7) (ta : Bool) (s : State) : Out :=
  let c := core.toNat
  let a := (s.core c).arr (arrNo ta)
  match a.queue with
  | [] => quietly s
  | o :: _ =>
    if o.kind = .tmm then quietly s
    else
      match a.run with
      | some r =>
        if a.owner = some o.wid ∧ o.promotes r = true then
          let t := (s.pass 10).onAny o.wid fun w => w.promote r.vacc (fwAcc r.fw) (intCell a.sums)
          .next (t.onCore c fun x => x.onArr (arrNo ta) fun a => { a.drop with run := none, sums := [] }.settle)
        else .next ((s.pass 1).onCore c fun x => x.onArr (arrNo ta) fun a => a.drop.settle)
      | none => .next ((s.pass 1).onCore c fun x => x.onArr (arrNo ta) fun a => a.drop.settle)

/-! ### The exact unit (R245, R246, R264) -/

/-- XMM_START. -/
def execXmmStart (core : BitVec 7) (s : State) : Out :=
  match (s.core core.toNat).xq with
  | [] => quietly s
  | o :: rest =>
    let pend := match o.blk.bind s.blk? with
      | none => false
      | some b => b.pending o.aoff (xmmBytes o.form) || b.pending o.boff (xmmBytes o.form)
    if o.started.isSome || pend || s.tileBefore o.wid o.seq then quietly s
    else .next (s.onCore core.toNat fun c => { c with xq := { o with started := some s.pkg.coreClock } :: rest })

/-- c := RNE(c + a·b), with its flags. -/
def fmaStep (fm : FFmt) (c : Nat × Flags) (a b : FVal) : Nat × Flags :=
  let r := fm.fma .rne a b (fm.unpack c.1)
  (r.1, c.2 ||| r.2)

/-- A number of `n` bytes in row-major tile memory, in format `fm`. -/
def Block.numAt (b : Block) (fm : FFmt) (n off : Nat) : FVal := fm.unpack (leN (b.nums off n))

/-- One element of C for the real forms: K products from element size `n` in format `fin`, accumulated in `fm` (R246). -/
def xmmReal (b : Block) (o : XmmOp) (fin fm : FFmt) (n k m j c0 : Nat) : Nat × Flags :=
  (List.range k).foldl (fun c i => fmaStep fm c (b.numAt fin n (o.aoff + (m * k + i) * n)) (b.numAt fin n (o.boff + (i * 16 + j) * n))) (c0, 0)

/-- The real and the imaginary part of one element of C of form `.z` (R246). -/
def xmmComplex (b : Block) (o : XmmOp) (m j cr ci : Nat) : (Nat × Flags) × (Nat × Flags) :=
  (List.range 4).foldl (fun c i =>
    let ar := b.numAt fp64 8 (o.aoff + (m * 4 + i) * 16)
    let ai := b.numAt fp64 8 (o.aoff + (m * 4 + i) * 16 + 8)
    let br := b.numAt fp64 8 (o.boff + (i * 8 + j) * 16)
    let bi0 := b.numAt fp64 8 (o.boff + (i * 8 + j) * 16 + 8)
    let bi := if o.conjb then bi0.neg else bi0
    (fmaStep fp64 (fmaStep fp64 c.1 ar br) ai.neg bi, fmaStep fp64 (fmaStep fp64 c.2 ar bi) ai br)) ((cr, 0), (ci, 0))

/-- The old value of an element of C (R264). -/
def XmmOp.old (o : XmmOp) (x : Nat) : Nat := if o.zc then 0 else x

/-- The C registers of lane `l` in group `g`: register number, value (Table 17.5), and flags. -/
def xmmLane (b : Block) (o : XmmOp) (w : Wave) (g l : Nat) : List (Nat × Word) × Flags :=
  let e := 32 * g + l
  let pair := fun (d : Nat) (x : Nat) => [(d, BitVec.ofNat 32 x), (d + 1, BitVec.ofNat 32 (x / 2 ^ 32))]
  match o.form with
  | 0 =>
    let d := o.d + 2 * g
    let r := xmmReal b o fp64 fp64 8 8 (e / 16) (e % 16) (o.old (w.lane2 d l).toNat)
    (pair d r.1, r.2)
  | 1 =>
    let r := xmmReal b o fp32 fp32 4 16 (e / 16) (e % 16) (o.old (w.lane (o.d + g) l).toNat)
    ([(o.d + g, BitVec.ofNat 32 r.1)], r.2)
  | 2 =>
    let r := xmmReal b o bf16 fp32 2 32 (e / 16) (e % 16) (o.old (w.lane (o.d + g) l).toNat)
    ([(o.d + g, BitVec.ofNat 32 r.1)], r.2)
  | _ =>
    let d := o.d + 4 * g
    let r := xmmComplex b o (e / 8) (e % 8) (o.old (w.lane2 d l).toNat) (o.old (w.lane2 (d + 2) l).toNat)
    (pair d r.1.1 ++ pair (d + 2) r.2.1, r.1.2 ||| r.2.2)

/-- Groups of C. -/
def xmmGroups (form : Nat) : Nat := if form = 3 then 2 else 8

/-- Write the C range (R264). -/
def Wave.afterXmm (w : Wave) (b : Block) (o : XmmOp) : Wave :=
  let cells := (List.range (xmmGroups o.form)).flatMap fun g => (List.range 32).map fun l => (l, xmmLane b o w g l)
  let v := cells.foldl (fun v c => c.2.1.foldl (fun v x => v.wrVMask (maskOf [c.1]) x.1 fun _ => x.2) v) w
  ((v.markV o.d (xmmRegs o.form) true).orFlags (cells.foldl (fun f c => f ||| c.2.2) 0)).settleV2S

/-- Latency of a form (Table 15.6). -/
def xmmCycles (form : Nat) : Nat := if form = 3 then 24 else 40

/-- XMM_COMPLETE. -/
def execXmmComplete (core : BitVec 7) (s : State) : Out :=
  match (s.core core.toNat).xq with
  | [] => quietly s
  | o :: rest => match o.started with
    | none => quietly s
    | some t0 =>
      let t := (s.passTo (t0 + xmmCycles o.form)).onCore core.toNat fun c => { c with xq := rest }
      match o.blk.bind s.blk? with
      | none => .next t
      | some b => .next (t.onAny o.wid fun w => w.afterXmm b o)

/-! ### The TLF unit (R260, R261) -/

/-- The queue after its head, whose successor stands at the head from now on. -/
def popUnit (q : List UnitOp) (now : Nat) : List UnitOp := match q.drop 1 with
  | [] => []
  | o :: t => { o with since := now } :: t

/-- What TLENC writes: its status and tile bytes (R260). -/
def tlencResult (b : Block) (o : UnitOp) : Nat × List (Nat × List Nat) :=
  let h := TlfHdr.parse (b.nums o.dst 16)
  let p := if o.arg = 0 then h.dr else o.arg
  if h.validShape = false then (0x80000001, [])
  else if b.tmem < o.src + h.rows * p ∨ b.tmem < o.dst + h.extent then (0x80000002, [])
  else if meets o.src (h.rows * p) o.dst h.extent = true ∨ p < h.dr then (0x80000003, [])
  else
    let e := tlfEncode h ((List.range h.rows).map fun i => b.nums (o.src + i * p) h.dr)
    (e.2.esccnt + (if e.2.dense then 65536 else 0), e.1.map fun w => (o.dst + w.1, w.2))

/-- Write tile bytes, tags unchanged (R247). -/
def Block.putNums (b : Block) (ws : List (Nat × List Nat)) : Block :=
  ws.foldl (fun b w => b.putTile w.1 (w.2.map (BitVec.ofNat 8))) b

/-- Cycles of a TLENC. -/
def tlencCycles (b : Block) (o : UnitOp) (r : Nat × List (Nat × List Nat)) : Nat :=
  let h := TlfHdr.parse (b.nums o.dst 16)
  if r.1 < 0x80000000 then 8 + h.rows * ceilDiv h.e 32 else 8

/-- Do the tile lines that TLENC touches stand ready, and the wave's earlier tile accesses (R260)? -/
def State.tlencReady (s : State) (c : Nat) (b : Block) (o : UnitOp) : Bool :=
  let h := TlfHdr.parse (b.nums o.dst 16)
  let p := if o.arg = 0 then h.dr else o.arg
  !b.pending o.dst 16 &&
  (decide (0x80000000 ≤ (tlencResult b o).1) || (!b.pending o.src (h.rows * p) && !b.pending o.dst h.extent)) &&
  match s.wave? o.wid with
  | none => true
  | some w => (w.mem.sq.all fun e => !e.tile) && (w.mem.loads.all fun l => l.kind != .tile) && !s.unitBusy w o.seq &&
      !((s.core c).ta.any fun a => a.2.queue.any fun x => x.kind == .tmm && x.wid == o.wid) &&
      !((s.core c).xq.any fun x => x.wid == o.wid)

/-- TLENC_COMPLETE. -/
def execTlencComplete (core : BitVec 7) (s : State) : Out :=
  let c := core.toNat
  match (s.core c).tlfq with
  | [] => quietly s
  | o :: _ =>
    if o.enc = false then quietly s
    else match o.blk.bind fun k => (s.blk? k).map fun b => (k, b) with
      | none => .next (s.onCore c fun x => { x with tlfq := popUnit x.tlfq s.pkg.coreClock })
      | some (k, b) =>
        if s.tlencReady c b o then
          let r := tlencResult b o
          let t := (s.passTo (o.since + tlencCycles b o r)).onBlk k fun b => b.putNums r.2
          let u := t.onCore c fun x => { x with tlfq := popUnit x.tlfq t.pkg.coreClock }
          .next (u.onAny o.wid fun w => ((w.wrS o.d (BitVec.ofNat 32 r.1)).markS o.d 1 true).withHold .run)
        else quietly s

/-- The tile bytes that a read of row `i` of a tile takes, as (offset in the tile, length): the row's whole slot of L bytes,
and its escape row, or the whole dense row (R261 does not say which bytes an element's read takes; DESIGN CHOICE, log 63). -/
def tlfReads (h : TlfHdr) (rd : Nat → Nat → List Nat) (i : Nat) : List (Nat × Nat) :=
  if h.dense then [(16 + i * h.dr, h.dr)]
  else
    let hd := leN ((rd (16 + i * h.l) h.l).take 2)
    (16 + i * h.l, h.l) :: if hd.testBit 15 && decide (bitsN hd 0 15 < h.esccnt) then [(16 + h.rows * h.l + bitsN hd 0 15 * h.dr, h.dr)] else []

/-- The element that a lane of TLDEC reads: `none` on an error (R261). -/
def tldecElem (b : Block) (o : UnitOp) (arg : Nat) : Option Elem :=
  let h := TlfHdr.parse (b.nums o.src 16)
  let rd := fun a n => b.nums (o.src + a) n
  let row := bitsN arg 0 16
  let i := bitsN arg 16 16
  if h.valid = false ∨ h.rows ≤ row ∨ h.e ≤ i then none
  else if (tlfReads h rd row).any (fun r => decide (b.tmem < o.src + r.1 + r.2)) = true then none
  else (tlfRow h rd row).map fun es => es.getD i Elem.zero

/-- What a lane of TLDEC writes, and its flags: INVALID on an error (R261), NANBLOCK for an element of a BX NaN block (05 R66,
R70). -/
def tldecLane (b : Block) (o : UnitOp) (arg : Nat) : Word × Word × Flags :=
  let kind := (TlfHdr.parse (b.nums o.src 16)).kind
  match tldecElem b o arg with
  | none => (if isBx kind then BitVec.ofNat 32 fp32.nanBits else 0, 0xFFFFFFFF, fINVALID)
  | some e =>
    let y := if isBx kind then BitVec.ofNat 32 (fp32.conv .rne (bxValue kind e)).1 else BitVec.ofInt 32 e.v
    let wide := e.tms.any fun t => t.2 == 8
    let nibs := if wide then 0 else leNibbles (e.tms.map termNibble)
    (y, BitVec.ofNat 32 (e.cnt + nibs * 16 + if wide then 2 ^ 24 else 0), if isBx kind && e.x == 255 then fNANBLOCK else 0)
where
  /-- Nibbles as a number, the first lowest. -/
  leNibbles : List Nat → Nat
    | [] => 0
    | x :: t => x + 16 * leNibbles t

/-- Do the tile lines that TLDEC reads stand ready, and the wave's earlier tile accesses (R135, R247)? -/
def State.tldecReady (s : State) (b : Block) (o : UnitOp) : Bool :=
  let h := TlfHdr.parse (b.nums o.src 16)
  let rd := fun a n => b.nums (o.src + a) n
  !b.pending o.src 16 &&
  (o.lanes.all fun l => decide (h.rows ≤ bitsN l.2 0 16) || !h.valid ||
    (tlfReads h rd (bitsN l.2 0 16)).all fun r => decide (b.tmem < o.src + r.1 + r.2) || !b.pending (o.src + r.1) r.2) &&
  !s.tileBefore o.wid o.seq &&
  match s.wave? o.wid with
  | none => true
  | some w => w.mem.loads.all fun l => decide (o.seq ≤ l.seq)

/-- The registers of a TLDEC. -/
def Wave.afterTldec (w : Wave) (b : Block) (o : UnitOp) : Wave :=
  let v := o.lanes.foldl (fun v l =>
    let r := tldecLane b o l.2
    ((v.wrVMask (maskOf [l.1]) o.d fun _ => r.1).wrVMask (maskOf [l.1]) (o.d + 1) fun _ => r.2.1).orFlags r.2.2) w
  (v.markV o.d 2 true).settleV2S

/-- TLDEC_COMPLETE. -/
def execTldecComplete (core : BitVec 7) (s : State) : Out :=
  let c := core.toNat
  match (s.core c).tlfq with
  | [] => quietly s
  | o :: _ =>
    if o.enc then quietly s
    else match o.blk.bind s.blk? with
      | none => .next (s.onCore c fun x => { x with tlfq := popUnit x.tlfq s.pkg.coreClock })
      | some b =>
        if s.tldecReady b o then
          let t := s.passTo (o.since + 4 + ceilDiv o.lanes.length 8)
          let u := t.onCore c fun x => { x with tlfq := popUnit x.tlfq t.pkg.coreClock }
          .next (u.onAny o.wid fun w => w.afterTldec b o)
        else quietly s

/-! ### The stream decoder (R262) -/

/-- Status, output bytes and cycles of a DECS. -/
def decsResult (b : Block) (o : UnitOp) : Nat × List Nat × Nat :=
  if o.arg = 0 ∨ 2047 < o.arg then (0x80000002, [], 4)
  else if b.tmem < o.src + o.arg then (0x80000003, [], 4)
  else match sscHeader (b.nums o.src o.arg) with
    | none => (0x80000001, [], 4)
    | some h =>
      if b.tmem < o.dst + h.raw ∨ meets o.src o.arg o.dst h.raw = true then (0x80000003, [], 4)
      else match sscBody h with
        | none => (0x80000001, [], 12 + ceilDiv h.raw h.n)
        | some out => (h.raw, out, 12 + ceilDiv h.raw h.n)

/-- The status of a DECS of a wave with no tile memory, where TMEM is 0 (R120, R262): the length first, then the range. -/
def decsBare (o : UnitOp) : Nat := if o.arg = 0 ∨ 2047 < o.arg then 0x80000002 else 0x80000003

/-- The status register of a DECS becomes full. -/
def Wave.afterDecs (w : Wave) (d status : Nat) : Wave := (w.wrS d (BitVec.ofNat 32 status)).markS d 1 true

/-- Do the tile lines that DECS touches stand ready, and the wave's earlier tile accesses (R247, R262)? -/
def State.decsReady (s : State) (b : Block) (o : UnitOp) : Bool :=
  let r := decsResult b o
  (o.arg == 0 || decide (2047 < o.arg) || decide (b.tmem < o.src + o.arg) || !b.pending o.src o.arg) &&
  !b.pending o.dst r.2.1.length && !s.tileBefore o.wid o.seq &&
  match s.wave? o.wid with
  | none => true
  | some w => (w.mem.loads.all fun l => decide (o.seq ≤ l.seq)) && !s.termReads w o.seq o.dst r.2.1.length

/-- DECS_COMPLETE. -/
def execDecsComplete (core : BitVec 7) (s : State) : Out :=
  let c := core.toNat
  match (s.core c).decq with
  | [] => quietly s
  | o :: _ =>
    match o.blk.bind fun k => (s.blk? k).map fun b => (k, b) with
    | none =>
      let t := s.passTo (o.since + 4)
      let u := t.onCore c fun x => { x with decq := popUnit x.decq t.pkg.coreClock }
      .next (u.onAny o.wid fun w => w.afterDecs o.d (decsBare o))
    | some (k, b) =>
      if s.decsReady b o then
        let r := decsResult b o
        let t := (s.passTo (o.since + r.2.2)).onBlk k fun b => b.putNums [(o.dst, r.2.1)]
        let u := t.onCore c fun x => { x with decq := popUnit x.decq t.pkg.coreClock }
        .next (u.onAny o.wid fun w => w.afterDecs o.d r.1)
      else quietly s

end Sys2Proof.Machine
end

