-- ==== Sys2Proof/Machine/Copy.lean ====
section
/-! DEFINITION. Class 5, the copies, CWAIT and CSEQ, and what the copy engines do: the events COPY_START, COPY_LINE_ARRIVAL,
COPY_COMPLETE and CWAIT_SATISFIED (spec/19_copy_engines.md R267 to R288; 09 R122 to R124, R147; 21 R296). -/

namespace Sys2Proof.Machine

/-! ### Issue (R267, R275, R279) -/

/-- The copy that an instruction describes, as the queue holds it. -/
def State.newCopy (s : State) (op : Nat) (b : BitVec 6) (word1 slot redop : Nat) : Copy :=
  { seq := ((s.core s.w.id.core).copySeq + 1) % 2 ^ 32, wid := s.w.id.wid, blk := s.w.id.blk, op := op
    params := (List.range 8).map fun i => (s.w.rdS (b.toNat + i)).toNat, word1 := word1, slot := slot, redop := redop, bad := false
    acc := s.w.mem.seq, started := false, err := 0, lines := [], idx := [], token := none, waits := [], objs := [], all := false
    relEnt := none, timedOut := false }

/-- The slot that a CPYW names, at its issue (R279, R283). -/
def Slot.named (x : Slot) (c : Copy) : Slot :=
  if c.bad then { x with loaded := false }
  else { x with loaded := true, kind := c.kind, ssc := c.form, sigma := c.sigma, lc := c.p 2, filler := some c.seq }

/-- The copy takes its number and its place in the queue. -/
def State.acceptCopy (s : State) (c : Copy) : State :=
  let t := s.onCore s.w.id.core fun k => { k with copySeq := c.seq, copies := k.copies ++ [c] }
  let u := match c.blk with
    | some k => if c.op = 2 then t.onBlk k fun b => b.onSlot c.slot fun x => x.named c else t
    | none => t
  u.onW fun w => { w.bumpSeq with mem := { w.bumpSeq.mem with lastCopy := some c.seq } }

/-- A copy that has passed its checks enters the queue. For `.rel` the wave first performs its release at issue, up to the
record entry that the copy's writes carry; until then it waits (R272, log 46). -/
def releaseThenCopy (c : Copy) (s : State) : Act :=
  if c.ord = 1 then
    (if s.earlierDone s.w c.acc then
      match s.releaseSteps s.w.id.core c.scope with
      | some (t, r) => .done (t.acceptCopy { c with relEnt := r })
      | none => .wait s
    else .wait s)
  else .done (s.acceptCopy c)

/-- The checks of R279 in their order, then the queue. -/
def copyAct (op : Nat) (b : BitVec 6) (word1 slot redop : Nat) (s : State) : Act :=
  if 16 ≤ (s.core s.w.id.core).copies.length then .pipe s
  else notInRegion (fun s =>
    let c := s.newCopy op b word1 slot redop
    if c.peerBad then .trap cPEER_DIRECT ((c.vas.find? inPeer).getD 0) s.w.flow.mask
    else if c.vaBad then .trap cPROTECTION ((c.vas.find? fun v => decide (2 ^ 49 ≤ v) || c.op == 3).getD 0) s.w.flow.mask
    else if c.limitBad then .done (s.acceptCopy { c with bad := true, err := 32 })
    else if c.rangeBad (s.tmem s.w) (decide (s.tmem s.w ≠ 0)) then s.w.trapAct cPROTECTION
    else releaseThenCopy { c with lines := c.destLines } s) s

/-- Use of a copy: its parameter block, read under WB (R275). -/
def copyUse (wb : Bool) (b : BitVec 6) : Use := useOf 5 [ssrc b.toNat 8 wb] []

def execCpyt (wb : Bool) (b : BitVec 6) (tadd : BitVec 32) (s : State) : Out :=
  issue (copyUse wb b) (copyAct 0 b tadd.toNat 0 0) s

def execCpyg (wb : Bool) (b : BitVec 6) (tstride : BitVec 32) (s : State) : Out :=
  issue (copyUse wb b) (copyAct 1 b tstride.toNat 0 0) s

def execCpyw (slot : BitVec 7) (wb : Bool) (b : BitVec 6) (sig : BitVec 32) (s : State) : Out :=
  issue { copyUse wb b with slots := [slot.toNat] } (copyAct 2 b sig.toNat slot.toNat 0) s

def execCpyp (wb : Bool) (b : BitVec 6) (redop : BitVec 3) (s : State) : Out :=
  issue (copyUse wb b) (copyAct 3 b 0 0 redop.toNat) s

def execCfill (wb : Bool) (b : BitVec 6) (tadd : BitVec 32) (s : State) : Out :=
  issue (copyUse wb b) (copyAct 4 b tadd.toNat 0 0) s

/-! ### Copies by core and number -/

/-- A copy that has not completed. -/
def State.copy? (s : State) (core seq : Nat) : Option Copy := (s.core core).copies.find? fun c => c.seq == seq

/-- Change a copy. -/
def State.onCopy (s : State) (core seq : Nat) (f : Copy → Copy) : State :=
  s.onCore core fun k => { k with copies := k.copies.map fun c => if c.seq = seq then f c else c }

/-- OR error bits into a copy. -/
def State.copyErr (s : State) (core seq e : Nat) : State := s.onCopy core seq fun c => { c with err := c.err ||| e }

/-- The core's watermark (R267). -/
def Core.watermark (c : Core) : Nat := match c.copies with
  | [] => c.copySeq
  | x :: _ => (x.seq + (2 ^ 32 - 1)) % 2 ^ 32

/-! ### Start (R268, R269) -/

/-- Does a virtual address lie in a line of the copy's global operands? -/
def Copy.covers (c : Copy) (va : Nat) : Bool := c.lockRanges.any fun r => decide (r.1 ≤ va / 256) && decide (va / 256 ≤ r.2.1)

/-- Does a virtual address lie in a destination line? -/
def Copy.covDest (c : Copy) (va : Nat) : Bool := c.lockRanges.any fun r => r.2.2 && decide (r.1 ≤ va / 256) && decide (va / 256 ≤ r.2.1)

/-- Condition 4: the tile destination lines meet R122. -/
def State.copyTagsOk (s : State) (c : Copy) : Bool := match c.blk.bind s.blk? with
  | none => true
  | some b => c.destLines.all fun l => b.tag l != tagPENDING && (!c.wc || b.tag l != tagVALID)

/-- Has the TMM at the head of an array finished its fill (R231)? -/
def State.filled (s : State) (a : TermArray) (o : TermOp) : Bool := match a.started with
  | none => false
  | some t0 => a.queue.head? == some o && decide (t0 + fillCycles o.ssc o.lc ≤ s.pkg.coreClock)

/-- Condition 5: every TMM that names the slot and was issued before the CPYW has finished its fill (R244). -/
def State.copySlotOk (s : State) (core : Nat) (c : Copy) : Bool :=
  c.op != 2 || !((s.core core).ta.any fun a => a.2.queue.any fun o =>
    o.kind == .tmm && o.blk == c.blk && o.slot == c.slot && !s.filled a.2 o && match o.filler with
      | none => true
      | some f => !seqLe c.seq f)

/-- Condition 6: no global operand meets a range in TRANSIT or HOST (R148). -/
def State.copyOwned (s : State) (c : Copy) : Bool :=
  !(s.tabs.hotab.any fun e => e.2.valid && e.2.state != 0 &&
    c.lockRanges.any fun r => decide (r.1 < (e.2.base + 1) * 8192) && decide (e.2.base * 8192 ≤ r.2.1))

/-- Have the accesses that come before the copy's start performed: thread accesses to its lines (R124, R269) and, of its own
wave, the earlier stores to bytes of tile memory that it reads, DECS's among them, which write at most 512 bytes (R269; log
44)? -/
def State.copyQuiet (s : State) (core : Nat) (c : Copy) : Bool :=
  !s.unperformed c.covers && match s.wave? c.wid with
    | none => true
    | some w =>
      (w.mem.sq.all fun e => !e.tile || decide (c.acc ≤ e.seq) || e.lanes.all fun l => !c.readsTile l.pa e.size) &&
        (s.core core).decq.all fun o => o.wid != c.wid || decide (c.acc ≤ o.seq) || !c.readsTile o.dst 512

/-- The conditions of R268 but that of the entries; of a PARAM copy, which moves nothing, only its place after the earlier
copies of its wave (R279). Condition 2 has been met at issue. -/
def State.copyMay (s : State) (core : Nat) (c : Copy) : Bool :=
  !((s.core core).copies.any fun x => x.wid == c.wid && !x.started && seqLe x.seq c.seq && x.seq != c.seq) &&
  (c.bad || (s.copyTagsOk c && s.copySlotOk core c && s.copyOwned c && s.copyQuiet core c))

/-- Condition 3: the entries are there, and no earlier copy waits for entries alone (R123, R268). -/
def State.copyLocksOk (s : State) (core : Nat) (c : Copy) : Bool :=
  c.bad || c.lockRanges.isEmpty ||
    (decide (s.die.locks.length + c.lockRanges.length ≤ 256) &&
      !((s.core core).copies.any fun x => !x.started && seqLe x.seq c.seq && x.seq != c.seq && !x.bad && !x.lockRanges.isEmpty && s.copyMay core x))

/-- The core writes back its dirty bytes of the copy's lines and discards its clean bytes of the destination lines; `none`: a
write-back must wait (23 R325). -/
def State.copyCaches (s : State) (core : Nat) (p q : Nat → Bool) : Option State :=
  (s.wbTry none core fun l => p l.va).map fun t => t.discardClean core fun l => q l.va

/-- A copy starts (R269). -/
def State.startCopy (s : State) (core : Nat) (c : Copy) : Option State :=
  if c.bad then some (s.onCopy core c.seq fun x => { x with started := true })
  else
    let mine : List Lock := c.lockRanges.map fun x => { lo := x.1, hi := x.2.1, dest := x.2.2, core := core, seq := c.seq }
    let t := s.onDie fun d => { d with locks := d.locks ++ mine }
    let u := match c.blk with
      | none => t
      | some k => t.onBlk k fun b => c.destLines.foldl (fun b l => b.setTag l tagPENDING) b
    (u.copyCaches core c.covers c.covDest).map fun v => v.onCopy core c.seq fun x => { x with started := true }

/-- COPY_START. -/
def execCopyStart (core : BitVec 7) (seq : BitVec 32) (s : State) : Out :=
  match s.copy? core.toNat seq.toNat with
  | none => quietly s
  | some c =>
    if !s.host.jobDead && !s.tabs.halted && !c.started && s.copyMay core.toNat c && s.copyLocksOk core.toNat c then
      .next ((s.startCopy core.toNat c).getD s)
    else quietly s

/-! ### Reading and writing global memory (R271 to R273, R284, R358) -/

/-- What a piece of a copy's work meets. -/
inductive Move (α : Type) where
  | ok (s : State) (x : α)
  /-- a page is absent -/
  | absent (va : Nat)
  /-- a tile is dropped -/
  | miss (t : TileId)
  /-- region state or another engine's entry holds it up -/
  | held
  /-- the job stops -/
  | stop (code va : Nat)
  deriving DecidableEq, Repr

/-- Go on with what a piece gave. -/
def Move.bind {α β : Type} (m : Move α) (f : State → α → Move β) : Move β := match m with
  | .ok s x => f s x
  | .absent va => .absent va
  | .miss t => .miss t
  | .held => .held
  | .stop c va => .stop c va

/-- All elements of a list in turn. -/
def Move.each {α β : Type} (f : State → α → Move β) : List α → State → Move (List β)
  | [], s => .ok s []
  | x :: t, s => (f s x).bind fun u y => (Move.each f t u).bind fun v ys => .ok v (y :: ys)

/-- The number of the valid import entry whose range holds a peer address, the lowest, with the entry (R357, R358). -/
def State.importOf (s : State) (va : Nat) : Option Nat :=
  (s.tabs.imports.find? fun e =>
    e.2.testBit 63 && decide (bitsN e.2 16 33 * 65536 ≤ va) && decide (va < (bitsN e.2 16 33 + bitsN e.2 64 32) * 65536)).map (·.2)

/-- The request that an import entry makes of a peer address: the port's accelerator ID unless it goes over the bridge,
EXPIDX, the offset and the transaction (R356 to R358). -/
def peerSend (e va : Nat) (port : BitVec 10) (op : PeerOp) (n : Nat) (data : List Byte) : PeerSend :=
  { src := if e.testBit 60 then none else some port, peer := bitsN e 50 10, other := e.testBit 60, entry := bitsN e 0 8
    off := va - bitsN e 16 33 * 65536, op := op, n := n, data := data }

/-- One request of a copy to a peer, of at most 256 bytes in a line of 256 (R356, R358): no import entry sets PEERERR, and so
does a refusal by the exporter. Which of the two answers an exporter gives, and the bytes that it sends, are outside the
machine (log 4); which of the 8 ports carries the request is not said either and is as free (log 76). -/
def State.peerAsk (s : State) (core seq va : Nat) (op : PeerOp) (n : Nat) (data : List Byte) : State × List Byte :=
  let d := s.draw
  let b := d.2.drawBytes n
  match s.importOf va with
  | none => (b.2.copyErr core seq 4, b.1)
  | some e =>
    let port := s.tabs.ports.toList.getD (d.1.toNat / 2 % 8) 0
    let t := { b.2 with tabs := { b.2.tabs with lastSent := some (peerSend e va port op n data) } }
    (if d.1.getLsbD 0 then t.copyErr core seq 4 else t, b.1)

/-- The requests of one row (R356). -/
def State.peerRow (s : State) (core seq : Nat) (op : PeerOp) : List (Nat × List Byte) → Nat → State × List Byte
  | [], _ => (s, [])
  | (va, data) :: t, n =>
    let k := min n (256 - va % 256)
    let a := s.peerAsk core seq va op k data
    let r := a.1.peerRow core seq op t (n - k)
    (r.1, a.2 ++ r.2)

/-- Is the copy one that the wave rebuilding this tile issued (R271)? -/
def State.copyRebuilds (s : State) (c : Copy) (t : TileId) : Bool := match s.wave? c.wid with
  | none => false
  | some w => w.rebuilds t

/-- The bytes of a line for a copy that reads it: those of the L2, before room is made in its set (21 R294). As `.acq`, its reads
drain the records that they find and take their names, as strong loads do (R272), and the core's later releases name what it
read (09 R144, log 65). -/
def State.copyTake (s : State) (core : Nat) (c : Copy) (pa va fields n : Nat) : Option (State × List Byte) :=
  if c.ord = 2 then
    let t := (s.l2Fill (pa / 256) va fields).witness core (s.objOf va)
    if c.scope ≠ 3 ∧ s.beyondL1 core c.scope = true then
      let ids := t.recordNames (pa / 256)
      (t.recordDrainOver core (pa / 256)).bind fun u => u.fitEvery.map fun v =>
        (v.onCopy core c.seq fun x => { x with objs := unionL x.objs ids.1, all := x.all || ids.2 }, u.l2Bytes pa n)
    else (t.fit (pa / 256)).map fun u => (u, t.l2Bytes pa n)
  else s.l2Read pa va fields n

/-- A copy reads one piece in a line of global memory: the checks of its page, then a dropped tile (21 R296), then the line. -/
def State.copyPiece (s : State) (core : Nat) (c : Copy) (p : Nat × Nat) : Move (List Byte) :=
  match s.engine p.1 true false with
  | .absent => .absent p.1
  | .prot => .stop cPROTECTION p.1
  | .key => .stop cKEY_ABSENT p.1
  | .poison => .stop cPOISON p.1
  | .ok pa f =>
    let missed := match s.sealedTile p.1 with
      | none => none
      | some t => if s.copyRebuilds c t || (s.tile t).st == .present then none else some t
    match missed with
    | some t => .miss t
    | none =>
      if s.fillPoison pa f then .stop cPOISON p.1
      else match s.copyTake core c pa p.1 f p.2 with
        | none => .held
        | some u => .ok u.1 u.2

/-- Does a copy's row go to a peer? Only a CPYP has such operands (R279), and only the address that the row begins at decides:
bytes past 2^48 within a row of device memory are no address (PROTECTION). The spec is silent on rows that a stride carries
past 2^48 (DESIGN CHOICE, log 46). -/
def Copy.atPeer (c : Copy) (va : Nat) : Bool := c.op == 3 && inPeer va

/-- A copy reads `n` bytes. -/
def State.copyRead (s : State) (core : Nat) (c : Copy) (va n : Nat) : Move (List Byte) :=
  if c.atPeer va then (let a := s.peerRow core c.seq .read ((piecesOf va n).map fun p => (p.1, [])) n; .ok a.1 a.2)
  else (Move.each (fun t p => t.copyPiece core c p) (piecesOf va n) s).bind fun u bs => .ok u bs.flatten

/-- One element of a reduce-add (R284). -/
def raddElem (op old new : Nat) : Nat :=
  match op with
  | 1 => (old + new) % 2 ^ 32
  | 2 => (fp32.add .rne (fp32.unpack old) (fp32.unpack new)).1
  | _ => (bf16.add .rne (bf16.unpack old) (bf16.unpack new)).1

/-- Bytes of a reduce-add, element by element. -/
def raddBytes (op : Nat) (old new : List Byte) : List Byte :=
  let n := redSize op
  (List.range (new.length / n)).flatMap fun i =>
    natBytes n (raddElem op (bytesNat ((old.drop (n * i)).take n)) (bytesNat ((new.drop (n * i)).take n)))

/-- A copy writes one piece in a line: the address and the bytes (R271, R272, R284). -/
def State.copyPut (s : State) (core : Nat) (c : Copy) (p : Nat × List Byte) : Move Unit :=
  let shut := match s.sealedTile p.1 with
    | none => false
    | some t => !s.copyRebuilds c t
  if shut then .ok (s.copyErr core c.seq 16) ()
  else if s.engHeld p.1 p.2.length then .held
  else match s.engine p.1 (decide (c.redop ≠ 0)) true with
    | .absent => .absent p.1
    | .prot => .stop cPROTECTION p.1
    | .key => .stop cKEY_ABSENT p.1
    | .poison => .stop cPOISON p.1
    | .ok pa f =>
      if c.redop ≠ 0 ∧ s.fillPoison pa f = true then .stop cPOISON p.1
      else
        let summed := fun (r : State × List Byte) => (r.1, raddBytes c.redop r.2 p.2)
        match (if c.redop = 0 then some (s, p.2) else (s.l2Read pa p.1 f p.2.length).map summed) with
        | none => .held
        | some u =>
          match u.1.l2Put c.relEnt (if c.redop = 0 then c.scope else 3) pa p.1 f u.2 with
          | none => .held
          | some v => .ok v ()

/-- Bytes cut into the pieces of an address. -/
def cutPieces : List (Nat × Nat) → List Byte → List (Nat × List Byte)
  | [], _ => []
  | (a, n) :: t, bs => (a, bs.take n) :: cutPieces t (bs.drop n)

/-- A copy writes bytes at an address. -/
def State.copyWrite (s : State) (core : Nat) (c : Copy) (w : Nat × List Byte) : Move Unit :=
  let ps := cutPieces (piecesOf w.1 w.2.length) w.2
  if c.atPeer w.1 then .ok (s.peerRow core c.seq c.peerOp ps w.2.length).1 ()
  else (Move.each (fun t p => t.copyPut core c p) ps s).bind fun u _ => .ok u ()

/-! ### Rows into tile memory (R281, R282, R285) -/

/-- Grow the entry of a TLF decode from its header to the whole tile, unless that would meet another copy's DEST entry or
accesses to the new lines still have to perform (R281). -/
def State.growLock (s : State) (core : Nat) (c : Copy) (h : TlfHdr) : Move Unit :=
  let lo := c.pair 0 / 256
  let hi := (c.pair 0 + h.extent - 1) / 256
  let mine : Lock → Bool := fun l => l.core == core && l.seq == c.seq
  let cov : Nat → Bool := fun va => decide (lo ≤ va / 256) && decide (va / 256 ≤ hi)
  if s.die.locks.any (fun l => mine l && decide (hi ≤ l.hi)) = true then .ok s ()
  else if s.die.locks.any (fun l => !mine l && l.dest && decide (l.lo ≤ hi) && decide (lo ≤ l.hi)) = true ∨ s.unperformed cov = true then
    .held
  else
    let t := s.onDie fun d => { d with locks := d.locks.map fun l => if mine l then { l with hi := max l.hi hi } else l }
    match t.copyCaches core cov fun _ => false with
    | none => .held
    | some u => .ok u ()

/-- Row `i` of a TLF tile in global memory, dense; `none` on a decode error (R281). -/
def State.tlfGlobalRow (s : State) (core : Nat) (c : Copy) (h : TlfHdr) (i : Nat) : Move (Option (List Byte)) :=
  let base := c.pair 0
  if h.dense then (s.copyRead core c (base + 16 + i * h.dr) h.dr).bind fun u bs => .ok u (some bs)
  else (s.copyRead core c (base + 16 + i * h.l) h.l).bind fun u slot =>
    let hd := bytesNat (slot.take 2)
    if hd.testBit 15 then
      let k := bitsN hd 0 15
      if h.esccnt ≤ k then .ok u none
      else (u.copyRead core c (base + 16 + h.rows * h.l + k * h.dr) h.dr).bind fun v bs => .ok v (some bs)
    else .ok u ((termRow h (slot.map (·.toNat))).map fun es => denseBytes h.kind (slot.map (·.toNat)) es)
where
  /-- A row of elements as dense bytes, as a writer sets them (R60, R68, R70). -/
  denseBytes (kind : Nat) (slot : List Nat) (es : List Elem) : List Byte :=
    if isBx kind then (List.range (es.length / 16)).flatMap fun q =>
      let field : Elem → Nat := fun e => e.v.natAbs + if e.v < 0 then 2 ^ bxB kind else 0
      (bxPack kind (slot.getD (2 + 2 * q) 0) (slot.getD (3 + 2 * q) 0) (((es.drop (16 * q)).take 16).map field)).map (BitVec.ofNat 8)
    else if kind = 2 then (List.range (es.length / 2)).flatMap fun i =>
      natBytes 1 (((es.getD (2 * i) Elem.zero).v % 16).toNat + 16 * ((es.getD (2 * i + 1) Elem.zero).v % 16).toNat)
    else es.flatMap fun e => natBytes 1 (e.v % 256).toNat

/-- The header of a TLF decode, its entry grown to the whole tile; `none` on a header error (R281). -/
def State.tlfHeader (s : State) (core : Nat) (c : Copy) : Move (Option TlfHdr) :=
  (s.copyRead core c (c.pair 0) 16).bind fun t hb =>
    let h := TlfHdr.parse (hb.map (·.toNat))
    if h.valid = false ∨ h.kind ≠ c.kind ∨ h.rows ≠ c.rows ∨ h.dr ≠ c.rowLen then .ok t none
    else (t.growLock core c h).bind fun u _ => .ok u (some h)

/-- Row `r` of a TLF decode: zeros with DECERR on a header or a row error (R281). -/
def State.decodeRow (s : State) (core : Nat) (c : Copy) (r : Nat) : Move (List Byte) :=
  let zero := fun (t : State) => Move.ok (t.copyErr core c.seq 8) (List.replicate c.rowLen (0 : Byte))
  (s.tlfHeader core c).bind fun t x => match x with
    | none => zero t
    | some h => (t.tlfGlobalRow core c h r).bind fun v x => match x with
      | some bs => .ok v bs
      | none => zero v

/-- A TLF decode reads its tile whole, escape rows that no slot names among it (R281). -/
def State.decodeWhole (s : State) (core : Nat) (c : Copy) : Move Unit :=
  (s.tlfHeader core c).bind fun t x => match x with
    | none => .ok t ()
    | some h => (t.copyRead core c (c.pair 0) h.extent).bind fun u _ => .ok u ()

/-- The index of row `r` of a gather: its batch of 8 is fetched first, after the batches before it (R282). -/
def State.copyIdx (core : Nat) (c : Copy) (r : Nat) : Nat → State → Move Nat
  | 0, _ => .held
  | n + 1, s =>
    let got := match s.copy? core c.seq with
      | none => []
      | some x => x.idx
    match got[r]? with
    | some k => .ok s k
    | none =>
      let m := min 8 (c.rows - got.length)
      (s.copyRead core c (c.pair 2 + 4 * got.length) (4 * m)).bind fun t bs =>
        State.copyIdx core c r n (t.onCopy core c.seq fun x =>
          { x with idx := got ++ (List.range m).map fun i => bytesNat ((bs.drop (4 * i)).take 4) })

/-- The bytes of tile row `r` of a copy into tile memory. -/
def State.copyRow (s : State) (core : Nat) (c : Copy) (r : Nat) : Move (List Byte) :=
  match c.op with
  | 0 =>
    if c.tlf = 2 then s.decodeRow core c r
    else
      let st := strideOr (c.p 2) c.rowLen
      let m := if c.trans then
          (Move.each (fun t i => t.copyRead core c (c.pair 0 + i * st + r * c.e) c.e) (List.range c.rows) s).bind fun u bs => .ok u bs.flatten
        else s.copyRead core c (c.pair 0 + r * st) c.rowLen
      m.bind fun u bs => .ok u (if c.conj then conjRow c.e bs else bs)
  | 1 => (State.copyIdx core c r (r / 8 + 2) s).bind fun u k =>
      if c.p 6 ≤ k then .ok (u.copyErr core c.seq 1) (List.replicate c.rowLen (BitVec.ofNat 8 c.fill))
      else u.copyRead core c (c.pair 0 + k * c.word1) c.rowLen
  | _ => .ok s (List.replicate c.rowLen (BitVec.ofNat 8 c.fill))

/-- Move the rows that meet some tile lines into those lines. -/
def State.copyToTile (s : State) (core : Nat) (c : Copy) (ls : List Nat) : Move Unit :=
  let rows := (List.range c.rt).filter fun r => (tileLinesOf (c.t.toNat + r * c.pitch) c.wt).any fun l => ls.contains l
  (Move.each (fun t r => (t.copyRow core c r).bind fun u bs =>
    let put : Block → Block := fun b =>
      { b with tile := (c.placeRow r bs).foldl (fun m x => if ls.contains (x.1 / 128) then putD 0 m x.1 x.2 else m) b.tile }
    .ok (match c.blk with
      | some k => u.onBlk k put
      | none => u) ()) rows s).bind fun u _ => .ok u ()

/-! ### Rows out to global memory (R281, R284, R285) -/

/-- The writes of a copy to global or peer memory: address and bytes. -/
def State.copyOut (s : State) (core : Nat) (c : Copy) : Move (List (Nat × List Byte)) :=
  match c.op with
  | 0 => match c.blk.bind s.blk? with
    | none => .ok s []
    | some b =>
      let ins := (List.range c.rows).map fun r => c.tileRow b r
      if c.tlf = 1 then
        .ok s ((tlfEncode c.encHdr (ins.map fun r => r.map (·.toNat))).1.map fun w => (c.pair 0 + w.1, w.2.map (BitVec.ofNat 8)))
      else .ok s ((c.outRows ins).zipIdx.map fun x => (c.pair 0 + x.2 * strideOr (c.p 2) c.gLen, x.1))
  | 3 => (Move.each (fun t r => (t.copyRead core c r.1 r.2)) c.srcRows s).bind fun u bs =>
      .ok u ((c.dstRows.zip bs).map fun x => (x.1.1, x.2))
  | _ => .ok s (c.dstRows.map fun r => (r.1, List.replicate r.2 (BitVec.ofNat 8 c.fill)))

/-! ### Weight slots (R283) -/

/-- The slot after a CPYW, and whether it failed; `others`: another CPYW of the slot has not completed. One that was issued
before another that has completed changes nothing any more (R244). -/
def Slot.fill (x : Slot) (c : Copy) (others : Bool) (bytes : List Nat) (sig : List Nat) : Slot × Bool :=
  let good := (!c.form || (sscImage 32 (imageSize c.kind) bytes).isSome) && sig.all fun v => decide (v ≤ 7)
  let late := match x.source with
    | none => false
    | some n => seqLe c.seq n
  let y := if late then x
    else if good then { x with bytes := bytes, sig := sig, source := some c.seq }
    else if x.filler = some c.seq then { x with loaded := false, source := some c.seq } else x
  (if others then y else { y with filler := none, source := none }, !good)

/-- TMMs whose fill waited on a failed CPYW fill with zeros. -/
def Core.zeroFills (k : Core) (c : Copy) : Core :=
  let mark : TermOp → TermOp := fun o => if o.filler = some c.seq then { o with zeroB := true } else o
  { k with ta := k.ta.map fun a => (a.1, { a.2 with queue := a.2.queue.map mark }) }

/-- A CPYW loads its slot. -/
def State.copySlot (s : State) (core : Nat) (c : Copy) : Move Unit :=
  (s.copyRead core c (c.pair 0) c.srcLen).bind fun t bs =>
    match c.blk.bind fun k => (t.blk? k).map fun b => (k, b) with
    | none => .ok t ()
    | some (k, b) =>
      let sig := if c.sigma then b.nums c.word1 192 else []
      let others := (t.core core).copies.any fun x => x.op == 2 && !x.bad && x.blk == c.blk && x.slot == c.slot && x.seq != c.seq
      let r := (b.slot c.slot).fill c others (bs.map (·.toNat)) sig
      let u := t.onBlk k fun b => b.onSlot c.slot fun _ => r.1
      .ok (if r.2 then (u.copyErr core c.seq 8).onCore core fun x => x.zeroFills c else u) ()

/-! ### Arrival and completion (R122, R270, R273, R274) -/

/-- A copy's read misses on a dropped tile: it waits and posts the tile (21 R296). R302 speaks of a miss by a kindling wave and
not of one by a copy of such a wave: that this posts an entry of its own, at no DEPTH of its wave's chain, is the model's choice
(log 71). A wait of such a copy that cannot end makes its wave's chain fail, as a wait of the wave does (21 R303). -/
def State.copyMiss (s : State) (core : Nat) (c : Copy) (t : TileId) : State :=
  let u := s.onCopy core c.seq fun x => { x with waits := t :: x.waits.filter fun y => y != t }
  match (u.wave? c.wid).bind (·.id.chain) with
  | some (n, k) => if u.deadWait n k t then u.failChain n else u.postFor core t (.copy core c.seq)
  | none => u.postFor core t (.copy core c.seq)

/-- What follows when work of a copy cannot go on: the copy waits on an engine fault or on a tile, or the job stops; what the
work had done is undone. -/
def State.copyBlocked (s : State) (core : Nat) (c : Copy) {α : Type} : Move α → State
  | .ok _ _ => s
  | .absent va =>
    let j := s.joinFault (.page (va / 65536)) va true
    j.1.onCopy core c.seq fun x => { x with token := some j.2 }
  | .miss t => s.copyMiss core c t
  | .held => s
  | .stop code va => (s.afterPoison code va).supervisor code 0 va 0 core 0

/-- Tile lines of a copy have all their bytes: they become VALID (R122). The tiles that the copy waited on stay guarded until it
completes (21 R301, R305; log 58). -/
def State.arrived (s : State) (core : Nat) (c : Copy) (ls : List Nat) : State :=
  let t := match c.blk with
    | none => s
    | some k => s.onBlk k fun b => ls.foldl (fun b l => b.setTag l tagVALID) b
  t.onCopy core c.seq fun x => { x with lines := x.lines.filter fun l => !ls.contains l }

/-- May the work of a copy go on: it has started, no fault keeps it (R273), and the tiles that it missed on are PRESENT (21
R296, R305)? -/
def State.copyGoes (s : State) (c : Copy) : Bool :=
  c.started && c.token.isNone && !s.host.jobDead && !s.tabs.halted && c.waits.all fun t => (s.tile t).st == .present

/-- COPY_LINE_ARRIVAL. -/
def execCopyLineArrival (core : BitVec 7) (seq : BitVec 32) (line : BitVec 12) (s : State) : Out :=
  match s.copy? core.toNat seq.toNat with
  | none => quietly s
  | some c =>
    if s.copyGoes c && !c.bad && c.lines.contains line.toNat then
      match s.copyToTile core.toNat c [line.toNat] with
      | .ok t _ => .next (t.arrived core.toNat c [line.toNat])
      | m => .next (s.copyBlocked core.toNat c m)
    else quietly s

/-- The rest of a copy's work. The bytes of a copy out of tile memory or into global memory, its reads included, move in one
step, one of the orders that R269 allows (DESIGN CHOICE, log 16). -/
def State.copyRest (s : State) (core : Nat) (c : Copy) : Move Unit :=
  if c.bad then .ok s ()
  else if c.op = 2 then s.copySlot core c
  else if c.toTile then
    (if c.op = 0 ∧ c.tlf = 2 then s.decodeWhole core c else .ok s ()).bind fun u _ =>
      (u.copyToTile core c c.lines).bind fun t _ => .ok (t.arrived core c c.lines) ()
  else (s.copyOut core c).bind fun t ws => (Move.each (fun u w => u.copyWrite core c w) ws t).bind fun u _ => .ok u ()

/-- COPYERR takes a copy's bits (Table 19.1). -/
def Wave.copyErr (w : Wave) (seq err : Nat) : Wave :=
  let old := w.csr.copyerr.toNat
  let base := if bitsN old 0 6 = 0 then seq % 65536 * 65536 else old
  if err = 0 then w else { w with csr := { w.csr with copyerr := BitVec.ofNat 32 (base ||| err) } }

/-- The objects that a copy's global destination meets. -/
def State.destObjs (s : State) (c : Copy) : List Nat :=
  (s.die.objects.filter fun o => !shEager o.2.shape && c.lockRanges.any fun r =>
    r.2.2 && decide (r.1 ≤ (shLines o.2.shape).2) && decide ((shLines o.2.shape).1 ≤ r.2.1)).map (·.1)

/-- The bytes that a copy moves (13 R225). -/
def Copy.moved (c : Copy) : Nat := if c.op = 2 then c.srcLen else c.rows * c.rowLen

/-- A copy completes: COPYERR, entries, D bits, then the queue (R270, R272, R273); `none`: a summary entry that a D bit
replaces has bytes whose write-back must wait (09 R137). -/
def State.finishCopy (s0 : State) (core : Nat) (seq : Nat) : Option State :=
  match s0.copy? core seq with
  | none => some s0
  | some c =>
    let undone := c.err &&& 6 ≠ 0
    let s := if undone then forEach c.dstRows s0 fun r x => x.scramble r else s0
    let t := s.onAny c.wid fun w => (w.copyErr c.seq c.err).perfAdd 6 (if c.bad || undone then 0 else c.moved)
    let u := t.onDie fun d => { d with locks := d.locks.filter fun l => !(l.core == core && l.seq == seq) }
    (if c.bad then some u else (u.destObjs c).foldlM (fun (x : State) o => x.summarize core o true false) u).map fun v =>
      let x := v.onCore core fun k => { k with copies := k.copies.filter fun y => y.seq != seq }
      if c.ord = 2 ∧ c.bad = false then
        x.onAny c.wid fun w => { w with mem := { w.mem with acqs := w.mem.acqs ++ [(c.seq, c.scope, c.objs, c.all)] } }
      else x

/-- COPY_COMPLETE. -/
def execCopyComplete (core : BitVec 7) (seq : BitVec 32) (s : State) : Out :=
  match s.copy? core.toNat seq.toNat with
  | none => quietly s
  | some c =>
    if s.copyGoes c then
      match s.copyRest core.toNat c with
      | .ok t _ => .next ((t.finishCopy core.toNat seq.toNat).getD s)
      | m => .next (s.copyBlocked core.toNat c m)
    else quietly s

/-! ### CWAIT and CSEQ (R272, R286, R287) -/

/-- The acquires that a CWAIT owes for its `.acq` copies. -/
def State.cwaitAcquire (s : State) : Option State :=
  (s.w.mem.acqs.foldlM (fun (t : State) a => t.acquireDone s.w.id.core a.2.1 a.2.2.1 a.2.2.2) s).map fun t =>
    t.onW fun w => { w with mem := { w.mem with acqs := [] } }

/-- A CWAIT whose condition is given. -/
def cwaitAct (ok : State → Bool) : State → Act :=
  notInRegion fun s => if ok s then (match s.cwaitAcquire with
    | some t => .done t
    | none => .wait s) else .wait s

def execCwaitCnt (n : BitVec 6) (s : State) : Out :=
  issue (useOf 5 [] []) (cwaitAct fun s => decide (s.copyCount s.w ≤ n.toNat)) s

def execCwaitSeq (wa : Bool) (a : BitVec 6) (s : State) : Out :=
  issue (useOf 5 [ssrc a.toNat 1 wa] [])
    (cwaitAct fun s => seqLe (s.w.rdS a.toNat).toNat (s.core s.w.id.core).watermark) s

/-- CWAIT_SATISFIED: a wave that waits in a CWAIT tries again. -/
def execCwaitSatisfied (wid : Nat) (s : State) : Out :=
  match s.wave? wid with
  | none => quietly s
  | some w => match w.instr with
    | .cwaitCnt n => if w.flow.stalled then execCwaitCnt n (s.switchTo wid) else quietly s
    | .cwaitSeq wa a => if w.flow.stalled then execCwaitSeq wa a (s.switchTo wid) else quietly s
    | _ => quietly s

/-- R287. -/
def cseqVal (wm : Bool) (w : Wave) (c : Core) : Nat := if wm then c.watermark else w.mem.lastCopy.getD c.watermark

def execCseq (d : BitVec 6) (wm : Bool) (s : State) : Out :=
  issue (useOf 5 [] [sdst d.toNat 1])
    (notInRegion fun s => .done (s.onW fun w => w.wrS d.toNat (BitVec.ofNat 32 (cseqVal wm w (s.core w.id.core))))) s

/-! ### Peers that do not answer (27 R359) -/

/-- PEER_TIMEOUT: a peer request of a started copy has had no response for PEERTO; the copy completes. -/
def execPeerTimeout (core : BitVec 7) (seq : BitVec 32) (s : State) : Out :=
  match s.copy? core.toNat seq.toNat with
  | none => quietly s
  | some c =>
    if c.started && !c.bad && c.op == 3 && !s.host.jobDead && !s.tabs.halted && c.vas.any inPeer then
      let t := s.copyErr core.toNat c.seq 2
      let u := t.passTo (t.pkg.coreClock + max 1 (bitsN s.host.peerto.toNat 0 24) * 1024)
      .next ((u.finishCopy core.toNat seq.toNat).getD s)
    else quietly s

end Sys2Proof.Machine
end

