-- ==== Sys2Proof/Machine/Code.lean ====
section
/-! DEFINITION. Code in memory: the words of a clause as a wave fetches them, and the position at which a return resumes
(spec/03_instruction_encoding.md R27, R29, R34, R35, R54). -/

namespace Sys2Proof.Machine

/-! ### Fetching words (R27, R34) -/

/-- What fetching words comes to. -/
inductive Fetched where
  | words (ws : List Word)
  | walk (page : Nat)
  | fault (code va : Nat)
  deriving DecidableEq, Repr

/-- Fetch one word of code; it lies on a page mapped executable (R27). -/
def State.fetchWord (s : State) (w : Wave) (va : Nat) : Fetched :=
  if 2 ^ 48 ≤ va then .fault cPROTECTION va
  else match s.pageOf w (va / 65536) with
    | none => .walk (va / 65536)
    | some .prot => .fault cPROTECTION va
    | some .absent => .fault cPAGE_ABSENT va
    | some .poison => .fault cPOISON va
    | some (.leaf e) =>
      let pa := e.frame * 65536 + va % 65536
      if e.x = false then .fault cPROTECTION va
      else if s.handedOver va then .fault cHANDOVER va
      else if s.keyAbsent e.fields then .fault cKEY_ABSENT va
      else if s.peekPoison pa e.fields then .fault cPOISON va
      else .words [BitVec.ofNat 32 (s.peek pa 4 e.fields)]

/-- Fetch `n` words. -/
def State.fetchWords (s : State) (w : Wave) : Nat → Nat → Fetched
  | 0, _ => .words []
  | n + 1, va => match s.fetchWord w va with
    | .words a => match s.fetchWords w n (va + 4) with
      | .words b => .words (a ++ b)
      | r => r
    | r => r

/-- Fetch `n` instructions, whose lengths their opcodes give (R27). -/
def State.fetchInstrs (s : State) (w : Wave) : Nat → Nat → Fetched
  | 0, _ => .words []
  | n + 1, va => match s.fetchWord w va with
    | .words a =>
      let len := opcodeWords (opcodeOf (a.headD 0))
      match s.fetchWords w (len - 1) (va + 4) with
      | .words b => match s.fetchInstrs w n (va + 4 * len) with
        | .words c => .words (a ++ b ++ c)
        | r => r
      | r => r
    | r => r

/-! ### Fetching a clause (R29, R34) -/

/-- What fetching a clause comes to. -/
inductive ClauseFetch where
  | clause (c : Clause)
  /-- its header is one that R29 rejects -/
  | badHeader
  | walk (page : Nat)
  | fault (code va : Nat)
  deriving DecidableEq, Repr

/-- A fetch that gave no words. -/
def Fetched.stop : Fetched → ClauseFetch
  | .words _ => .badHeader
  | .walk p => .walk p
  | .fault code va => .fault code va

/-- Fetch the clause at a header, whole. -/
def State.fetchClause (s : State) (w : Wave) (hdr : Nat) : ClauseFetch :=
  if hdr % 4 ≠ 0 then .badHeader
  else match s.fetchWord w hdr with
    | .words (h :: _) =>
      if hdrOk h = false then .badHeader
      else match s.fetchInstrs w (hdrNI h) (hdr + 4) with
        | .words ws => .clause { hdr := h, words := ws }
        | r => r.stop
    | r => r.stop

/-- What a fault of a fetch comes to: FVA is the lowest word that faults, FLANES the whole wave (R34). -/
def fetchFaultAct (w : Wave) (code va : Nat) : Act :=
  if code = cPAGE_ABSENT ∨ code = cHANDOVER then .fault code [va] va w.flow.mask else .trap code va w.flow.mask

/-! ### Resuming at a position (R35, R54) -/

/-- The position after instruction `i` of a clause (R34). -/
def afterIn (c : Clause) (i hdr : Nat) : Addr :=
  if i + 1 < hdrNI c.hdr then mkPos (i + 1) hdr else headerPos (nextHdr c hdr)

/-- Resume at a position, or with `after` at the one that follows it: `go` is what the instruction then comes to. A header
position is retried; reserved bits, and an index that names no instruction of the clause, trap (log 25). Where the clause
cannot be fetched or its header is bad, the return takes effect all the same: what is wrong with the clause is met at its
header's position (R29, R34), and the wave then stands at the position itself, with a mark that it goes on behind it (log 29). -/
def State.resumeAct (s : State) (pc : Addr) (after : Bool) (go : Addr → Bool → Act) : Act :=
  let i := posIndex pc
  let hdr := posHdr pc
  if posOk pc = false then s.w.trapAct cRESERVED_ENCODING
  else if i = 15 then go pc false
  else match s.fetchClause s.w hdr with
    | .clause c =>
      if hdrNI c.hdr ≤ i then s.w.trapAct cRESERVED_ENCODING else go (if after then afterIn c i hdr else pc) false
    | .badHeader => go pc after
    | .walk p => .walk [p]
    | .fault _ _ => go pc after

end Sys2Proof.Machine
end

