-- ==== Sys2Proof/Machine/Entry.lean ====
section
/-! DEFINITION. CLAUSE_ENTRY and RESERVED_OPCODE: how a wave enters a clause, and what it does at a word that is no
instruction (spec/03_instruction_encoding.md R27 to R35, R53, R54; 07 R111; 25 R331 to R334). -/

namespace Sys2Proof.Machine

/-! ### The wait fields (R32) -/

/-- Is a count at or below a wait field; 7 is no wait? -/
def waitOk (field n : Nat) : Bool := field == 7 || decide (n ≤ field)

/-- Are the wait fields of a header satisfied? -/
def State.waitsOk (s : State) (w : Wave) (h : Word) : Bool :=
  waitOk (hdrWtm h) (s.termCount w) && waitOk (hdrWcp h) (s.copyCount w) && waitOk (hdrWst h) (s.storeCount w)

/-- The wave waits at a clause that it has fetched, or goes to its first instruction. -/
def State.waitAct (s : State) (c : Clause) : Act :=
  if s.waitsOk s.w c.hdr then
    .left (s.onW fun w => { w with flow := { w.flow with pc := mkPos 0 (posHdr w.flow.pc), stalled := false } })
  else .wait s

/-- A wave with a clause that it has fetched. -/
def Wave.withClause (w : Wave) (c : Clause) : Wave :=
  { w with flow := { w.flow with clause := some c }, mem := { w.mem with walked := [] } }

/-- A wave inside a clause that it has fetched for a resume: it stands at its position, or behind it after an RFT (R54; 13
R223). -/
def Wave.resumeIn (w : Wave) (c : Clause) : Wave :=
  let i := posIndex w.flow.pc
  let hdr := posHdr w.flow.pc
  let v : Wave := { w with flow := { w.flow with stalled := false } }
  if w.flow.skip then
    (if i + 1 < hdrNI c.hdr then { v.withClause c with flow := { (v.withClause c).flow with pc := mkPos (i + 1) hdr, skip := false } }
     else { v with mem := { v.mem with walked := [] } }.jump (afterIn c i hdr))
  else v.withClause c

/-- After the fetch of a clause whole: the wait fields at a header, or a resume inside the clause, at which they are not
applied again (R29, R35); an index that names no instruction of the clause traps. -/
def State.fetched (s : State) (c : Clause) : Act :=
  let i := posIndex s.w.flow.pc
  if i = 15 then (s.onW fun w => w.withClause c).waitAct c
  else if i < hdrNI c.hdr then .left (s.onW fun w => w.resumeIn c)
  else s.w.trapAct cRESERVED_ENCODING

/-- A header that fails traps at its own position (R29). -/
def State.badHeader (s : State) (hdr : Nat) : State :=
  (s.onW fun w => { w with flow := { w.flow with pc := headerPos hdr } }).takeTrap cRESERVED_ENCODING 0 s.w.flow.mask

/-- What a wave owes for the header position is what it owes for the position that it parks at. -/
def owedAt (o : Map (List Nat)) (hdr : Nat) (pc : Addr) : Map (List Nat) :=
  let h := (headerPos hdr).toNat
  put (del o h) pc.toNat (look [] o h)

/-- A fault of a fetch is delivered at the header's position (R34); a wave that parks on it executes again at the position it
had (log 29). -/
def State.fetchFault (s : State) (a : Act) : State :=
  let t := a.settle (s.onW fun w => { w with flow := { w.flow with pc := headerPos (posHdr w.flow.pc) } })
  match t.w.flow.hold with
  | .fault _ =>
    if t.w.id.wid = s.w.id.wid then
      t.onW fun w => { w with flow := { w.flow with pc := s.w.flow.pc }, mem := { w.mem with owed := owedAt w.mem.owed (posHdr s.w.flow.pc) s.w.flow.pc } }
    else t
  | _ => t

/-- Fetch the clause at the wave's position and check its header (R29, R34). -/
def fetchAct (s : State) : Act :=
  match s.fetchClause s.w (posHdr s.w.flow.pc) with
  | .clause c => s.fetched c
  | .badHeader => .left (s.badHeader (posHdr s.w.flow.pc))
  | .walk p => .walk [p]
  | .fault code va => .left (s.fetchFault (fetchFaultAct s.w code va))

/-- The wave at a header: pops (R111), then the clause. -/
def State.enterClause (s : State) : State :=
  match s.w.popAt (s.depth0 s.w) (s.w.depth + 1) with
  | .run v =>
    let t : State := { s with w := v }
    if v.flow.pc = s.w.flow.pc then (fetchAct t).settle t else t.onW fun w => { w with flow := { w.flow with stalled := false } }
  | .gone v => { s with w := v }.retire v.id.wid
  | .below => s.takePop
  | .stuck v => { s with w := v }.takeTrap cILLEGAL_CONVERGENCE 0 v.flow.mask

/-- CLAUSE_ENTRY. A wave that is to stop for eviction stays at the boundary (25 R339). -/
def execClauseEntry (s : State) : Out :=
  if s.issues then
    match s.w.flow.clause with
    | some c =>
      if s.w.flow.stopReq then .next s else .next ((s.waitAct c).settle s)
    | none =>
      if posIndex s.w.flow.pc = 15 then
        (if s.w.flow.stopReq then .next s else .next s.enterClause)
      else .next ((fetchAct s).settle s)
  else .next s

/-- RESERVED_OPCODE: the wave reaches this word, which no encoding matches (R53, R54). -/
def execReservedOpcode (word : BitVec 32) (s : State) : Out :=
  match s.w.flow.clause with
  | some c =>
    if s.issues && posIndex s.w.flow.pc != 15 && (wordsAt (posIndex s.w.flow.pc) c.words).headD 0 == word then
      .next ((s.w.trapAct cRESERVED_ENCODING).settle s)
    else quietly s
  | none => quietly s

end Sys2Proof.Machine
end

