-- ==== Sys2Proof/Machine/Package.lean ====
section
/-! DEFINITION. Events of the package: links, homes, blocks, migration, the heartbeat, resets and sleep
(spec/01_package_and_dies.md R18 to R24; 05 R83, R84; 09 R127, R143, R149; 00 R6; 27 R366). -/

namespace Sys2Proof.Machine

/-! ### Homes (R20, R84, R127) -/

/-- A read at the home of `n` bytes by an agent outside the die, after dirty data in the L2 has been recalled (R127, R349). -/
def State.homeRead (s : State) (pa n fields : Nat) : State :=
  let t := (s.l2WriteBack (pa / 256)).settled (pa / 256)
  let a := pa / 256 * 256
  let b := t.pkg.readBlock t.die.die a fields
  (t.onPkg fun p => p.recode t.die.die a fields).answer (b.1 || t.l2Poison pa) (bytesNat ((b.2.toList.drop (pa % 256)).take n))

/-- The L2's copy of a line that another agent writes at its home goes first, written back (R127, R139, R349); `none`: regions
hold some of the `n` bytes, or a write-back must wait (23 R325). -/
def State.homeYields (s : State) (pa n : Nat) : Option State :=
  if (List.range ((pa + n - 1) / 64 - pa / 64 + 1)).any fun i => s.regionHeld none (pa / 64 + i) then none
  else s.l2Leaves (pa / 256)

/-- A write at the home by an agent outside the die. -/
def State.homeWrite (s : State) (pa fields : Nat) (bs : List Byte) : Option State :=
  (s.homeYields pa bs.length).map fun t =>
    (t.settled (pa / 256)).onPkg fun p => p.mergeBlock t.die.die pa fields bs

/-- A request has reached its home: this die's L2 gives way to one of another agent first. -/
def State.serveAt (s : State) (x : Packet) (home : Nat) : Option State :=
  if x.src = .thisDie ∨ s.tabs.halted = true then some (s.serve x home)
  else match x.body with
    | .write _ => (s.homeYields x.pa 8).map fun t => t.serve x home
    | _ => some ((s.l2WriteBack (x.pa / 256)).serve x home)

/-- Go on with a request that has arrived at a home, or not (R20). -/
def serveRouted (x : Packet) : State × Option Nat → Option State
  | (t, none) => some t
  | (t, some h) => t.serveAt x h

/-- HOME_REQUEST: a request for 8 bytes under page fields travels to the die that the hint names, and from there to its home
(R20; 09 R151). -/
def execHomeRequest (src : Requester) (hint : BitVec 3) (pa : PagedAddr) (wr : Bool) (data : BitVec 64) (s : State) : Out :=
  let a := pa.pa.toNat / 8 * 8
  let x : Packet := { no := 0, link := hint.toNat, toCd := false, src := src, pa := a, fields := pa.fields.toNat, home := 0
                      body := if wr then .write data.toNat else .read }
  if paOk a then
    match serveRouted x (s.sendTo hint.toNat x) with
    | none => quietly s
    | some t => .next (t.onPkg Pkg.vc3Move)
  else quietly s

/-- Packets whose detour is broken are lost: a read returns poison, and a write is discarded (R24). -/
def State.loseStranded (s : State) (md : Nat) : State :=
  let all : Packet → Bool := fun _ => true
  let out := s.pkg.inFlight md false
  let back := s.pkg.inFlight md true
  let t := s.onPkg fun p => (p.withdraw md false all).withdraw md true all
  let gone : Packet → State → State := fun x u => match x.body with
    | .read => u.answer true 0
    | .reply _ _ => u.answer true 0
    | _ => u
  forEach (back ++ out) t gone

/-- Is the detour of a failed near link broken (R22, R24)? -/
def Pkg.stranded (p : Pkg) (md : Nat) : Bool := !p.linkUp md && (!p.bridge || !p.side.getLsbD md || !p.linkUp (md ^^^ 4))

/-- A link goes down. -/
def Pkg.cut (p : Pkg) : FabricLink → Pkg
  | .near md => p.failNear md.toNat
  | .bridge => { p with bridge := false }
  | .side k => { p with side := p.side &&& ~~~(BitVec.ofNat 8 (17 * 2 ^ k.toNat)) }

/-- Is a link up? -/
def Pkg.isUp (p : Pkg) : FabricLink → Bool
  | .near md => p.linkUp md.toNat
  | .bridge => p.bridge
  | .side k => p.side.getLsbD k.toNat

/-- LINK_FAILURE: the packets of a near link's retry buffers go onto the detour, in order, packets that no detour can carry any
more are lost, and a change of LINKSTAT raises vector 5 (R22, R24, R367). -/
def execLinkFailure (l : FabricLink) (s : State) : Out :=
  if s.pkg.isUp l then
    let t := s.onPkg fun p => p.cut l
    let u := forEach ((List.range 8).filter t.pkg.stranded) t fun md x => x.loseStranded md
    let v := u.onPkg Pkg.vc3Move
    .next (if v.pkg.linkstat s.die.die = s.pkg.linkstat s.die.die then v else v.raise 5)
  else quietly s

/-- REROUTED_PACKET_RECEIPT: the packet at the head of the VC3 input queue of a memory die, or of the compute die near it; one
that was delivered before is discarded, and any other takes effect (R22). With no packet there, those on the way move on. -/
def execReroutedPacketReceipt (k : BitVec 4) (s : State) : Out :=
  let q := inputQueue (k.toNat % 8) (k.getLsbD 3)
  match s.pkg.vc3At q with
  | [] => .next (s.onPkg Pkg.vc3Move)
  | x :: rest =>
    let t := s.onPkg fun p => p.onVc3 q fun _ => rest
    if s.pkg.duplicate x then .next (t.onPkg Pkg.vc3Move)
    else
      let u := t.onPkg fun p => p.onDir x.link x.toCd fun l => { l with delivered := x.no + 1 }
      match (if x.toCd then some (u.respond x) else serveRouted x (u.route 3 x.link x)) with
      | none => quietly s
      | some v => .next (v.onPkg Pkg.vc3Move)

/-- BLOCK_WRITE_BACK: a dirty line of the L2 is written back to its home (R84, R151). -/
def execBlockWriteBack (pa : BitVec 46) (s : State) : Out :=
  if s.tabs.halted then quietly s else .next (s.l2WriteBack (pa.toNat / 256))

/-- A translation that a TLB of the die holds for a frame. -/
def State.tlbOf (s : State) (frame : Nat) : Option TlbEnt :=
  ((s.cores.flatMap fun e => e.2.tlb) ++ s.die.tlb2.flatMap fun e => e.2).find? fun e => e.frame == frame

/-- BLOCK_READ: the home reads a block for an access whose page a TLB holds, and the L2 takes it (R84, R151). -/
def execBlockRead (pa : BitVec 46) (s : State) : Out :=
  match s.tlbOf (pa.toNat / 65536) with
  | none => quietly s
  | some e =>
    if s.tabs.halted || s.keyAbsent e.fields || !paOk pa.toNat then quietly s
    else .next ((s.l2Ensure (pa.toNat / 256 * 256) (e.vpn * 65536 + pa.toNat % 65536 / 256 * 256) e.fields).getD s)

/-! ### Migration (R149) -/

/-- The frame that lies at a local frame of a memory die. -/
def Pkg.frameAt (p : Pkg) (md lf : Nat) : Nat :=
  match p.home.find? fun e => e.2.home == md && e.2.lframe == lf with
  | some e => e.1
  | none => lf * 8 + md

/-- Key of a group. -/
def groupKey (md g : Nat) : Nat := md * 2 ^ 15 + g

/-- Windows of a memory die that have ended. -/
def Pkg.windowNo (p : Pkg) (md : Nat) : Nat := look 0 p.windows md

/-- Writes of a compute die to a group of a memory die, in the window of die `of` that ends: if the group's own die has ended
that window already, as it was counted then (R149). -/
def Pkg.groupCount (p : Pkg) (of d md g : Nat) : Nat :=
  let c := look (0, 0) (if p.windowNo of < p.windowNo md then p.ended else p.counts) (groupKey md g)
  if d = 0 then c.1 else c.2

/-- Is a frame of the group in a move? -/
def Pkg.groupMoves (p : Pkg) (md g : Nat) : Bool :=
  p.home.any fun e => e.2.moving && e.2.home == md && e.2.lframe / 32 == g

/-- Do a group and its partner swap at the end of a window? -/
def Pkg.swaps (p : Pkg) (md g : Nat) : Bool :=
  let far := 1 - md / 4
  let n := p.groupCount md far md g
  decide (g < 32700) && decide (4096 ≤ n) && decide (2 * p.groupCount md (1 - far) md g ≤ n) &&
    decide (2 * p.groupCount md far (md ^^^ 4) g < n) && !p.groupMoves md g && !p.groupMoves (md ^^^ 4) g &&
    [0, 1].all fun d => !p.unreachable d md && !p.unreachable d (md ^^^ 4)

/-- Both frames at a local frame of a pair of memory dies are to move to each other's place. -/
def Pkg.startMove (p : Pkg) (md lf : Nat) : Pkg :=
  let a := p.frameAt md lf
  let b := p.frameAt (md ^^^ 4) lf
  let go : Nat → HomeEnt → HomeEnt := fun d e => { e with moving := true, nhome := d, nframe := lf }
  { p with home := put (put p.home a (go (md ^^^ 4) (p.homeEnt a))) b (go md (p.homeEnt b)) }

/-- A swap begins: its 32 pairs of frames, and its counts restart. -/
def Pkg.startSwap (p : Pkg) (md g : Nat) : Pkg :=
  let q := (List.range 32).foldl (fun q i => q.startMove md (32 * g + i)) p
  { q with counts := del (del q.counts (groupKey md g)) (groupKey (md ^^^ 4) g) }

/-- A memory die's window ends: every group of it is tested, and its counts restart, those of the window kept for the tests
of its partner's. -/
def Pkg.windowEnd (p : Pkg) (m : Nat) : Pkg :=
  let mine : Nat × (Nat × Nat) → Bool := fun e => e.1 / 2 ^ 15 == m
  let gs := (p.counts.filter mine).map fun e => e.1 % 2 ^ 15
  let q := (gs.filter fun g => p.swaps m g).foldl (fun q g => if q.swaps m g then q.startSwap m g else q) p
  { q with counts := q.counts.filter fun e => !mine e
           ended := (p.counts.filter mine).foldl (fun x e => put x e.1 e.2) (q.ended.filter fun e => !mine e)
           windows := upd 0 q.windows m (· + 1) }

/-- MIGRATION_WINDOW_END. -/
def execMigrationWindowEnd (md : BitVec 3) (s : State) : Out := .next (s.onPkg fun p => p.windowEnd md.toNat)

/-- Exchange two blocks of DRAM with their metadata. -/
def Pkg.exchange (p : Pkg) (a b : Nat) : Pkg :=
  let bytes : Nat → List Byte := fun x => (List.range 256).map fun i => look 0 p.dram (x + i)
  { p with dram := putBytes (putBytes p.dram a (bytes b)) b (bytes a)
           blkMeta := put (put p.blkMeta (a / 256) (p.blockMeta b)) (b / 256) (p.blockMeta a)
           exchanged := p.exchanged ++ [a / 256, b / 256] }

/-- A frame's entry after the switch (R149 step 4). -/
def HomeEnt.switched (e : HomeEnt) : HomeEnt := { valid := e.valid, moving := false, nhome := 0, nframe := 0, home := e.nhome, lframe := e.nframe }

/-- Both entries of a pair switch once all 256 blocks are exchanged. -/
def Pkg.switch (p : Pkg) (md lf : Nat) : Pkg :=
  let base := stackBase md lf / 256
  if (List.range 256).all fun i => p.exchanged.contains (base + i) then
    let a := p.frameAt md lf
    let b := p.frameAt (md ^^^ 4) lf
    let other := stackBase (md ^^^ 4) lf / 256
    { p with home := put (put p.home a (p.homeEnt a).switched) b (p.homeEnt b).switched
             exchanged := p.exchanged.filter fun x => !(decide (base ≤ x ∧ x < base + 256) || decide (other ≤ x ∧ x < other + 256)) }
  else p

/-- HOME_BLOCK_EXCHANGE. -/
def execHomeBlockExchange (md : BitVec 3) (lframe : BitVec 20) (blk : BitVec 8) (s : State) : Out :=
  let m := md.toNat
  let lf := lframe.toNat
  let a := stackBase m lf + blk.toNat * 256
  let e := s.pkg.homeEnt (s.pkg.frameAt m lf)
  if e.moving && e.nframe == lf && e.nhome == (m ^^^ 4) && !s.pkg.exchanged.contains (a / 256) then
    .next (s.onPkg fun p => (p.exchange a (stackBase (m ^^^ 4) lf + blk.toNat * 256)).switch m lf)
  else quietly s

/-! ### Time, reset, sleep (R6, R143, R366) -/

/-- HEARTBEAT_TICK: the package clock reaches its next multiple of 128. -/
def execHeartbeatTick (s : State) : Out := .next (s.pass (128 - s.pkg.clock % 128))

/-- Does the boot ROM take a firmware image: its signature verifies, and its security version is not below the fused rollback
counter (27 R360)? -/
def bootsImage (i : Image) : Bool := i.good && decide (Config.rollbackCounter.toNat ≤ i.version.toNat)

/-- The firmware image that a cold reset finds, which the spec leaves open: free values (log 4, log 14). -/
def State.foundImage (s : State) : Image × State :=
  let a := s.draw
  let b := a.2.draw
  let c := b.2.draw
  ({ good := a.1.getLsbD 0, version := b.1, bootcfg := c.1 }, c.2)

/-- The machine after a cold reset of this die, booted from a firmware image: a refused image leaves the dies not enabled (27
R360; 21 R298). The accelerator IDs that the host gives the UALink ports are free values: R356 has the host set them and gives
no register for it (log 4, log 76). What the model adds to the spec's state goes on (log 1, log 4). -/
def State.cold (s : State) (i : Image) : State :=
  let t : State := { State.reset with die := { Die.reset with die := s.die.die }, agenda := s.agenda, fresh := s.fresh + 8 }
  let u := t.onTabs fun x => { x with ports := Vector.ofFn fun k => (Config.freeWord (s.fresh + k.val)).setWidth 10 }
  u.onTabs fun x => if bootsImage i then { x with bootcfg := bootAccept i.bootcfg, firmware := some i } else { x with enabled := false }

/-- COLD_RESET. -/
def execColdReset (s : State) : Out := .next (s.foundImage.2.cold s.foundImage.1)

/-- SLEEP_ENTRY: only with RUN = 0. -/
def execSleepEntry (s : State) : Out :=
  if s.host.run then quietly s else .next (s.onTabs fun t => { t with power := .sleep })

/-- SLEEP_EXIT. -/
def execSleepExit (s : State) : Out :=
  if s.tabs.power = .sleep then .next (s.onTabs fun t => { t with power := .idle }) else quietly s

/-- D3COLD: power is removed, and a cold reset follows. -/
def execD3cold (s : State) : Out := .next (s.foundImage.2.cold s.foundImage.1)

end Sys2Proof.Machine
end

