-- ==== Sys2Proof/Machine/MemEv.lean ====
section
/-! DEFINITION. Events of the memory system: replies, drains, write buffers, L2 slices, page walks and region commits
(spec/09_memory_and_ordering.md R127, R131, R135, R136, R139, R152, R153; 03 R48; 23 R318; 25 R343). -/

namespace Sys2Proof.Machine

/-- Let another wave act, then the wave that acted before, if it is still there. -/
def State.asWave (s : State) (wid : Nat) (f : State → State) : State :=
  let t := f (s.switchTo wid)
  if s.w.flow.hold = .blank then t else if (t.wave? s.w.id.wid).isSome then t.switchTo s.w.id.wid else t

/-- POISON met by an access that a wave has issued at position `pc`, which the report names with the lanes that meet it (05 R84;
21 R303; 25 R331, R337). Bytes that are poisoned when an instruction issues fault there, precisely; this is for bytes that
have become poisoned since (log 61). -/
def State.poisoned (s0 : State) (wid : Nat) (pc : Addr) (lanes : Word) (va : Nat) : State :=
  let s := s0.recodeAt va
  match s.any? wid with
  | none => s.supervisor cPOISON 0 va lanes 0 0
  | some w0 =>
    let w := { w0 with flow := { w0.flow with pc := pc } }
    match w.id.chain with
    | some (n, _) => (s.failChain n).supervisorW w cPOISON va lanes
    | none => s.supervisorW w cPOISON va lanes

/-- The lanes of a load that meet poison, one of which has done so. -/
def State.poisonLanes (s : State) (w : Wave) (e : LoadEnt) (lane : Nat) : Word :=
  maskOf (lane :: (e.lanes.filter fun l => s.readsPoison w (e.kind == .atomic) e.seq e.size l).map (·.lane))

/-- LOAD_REPLY: an outstanding load or atomic performs, if it can, and its registers become full (R48, R135, R136); of an
evicted wave, in its image (R343). Once the job has stopped, or after HALT, none does (25 R337; 27 R364). -/
def execLoadReply (wid : Nat) (k : Nat) (s : State) : Out :=
  if s.host.jobDead || s.tabs.halted then quietly s
  else match s.any? wid with
  | none => quietly s
  | some w => match w.mem.loads[k]? with
    | none => quietly s
    | some e => match s.bindLoad w e with
      | .ok t vals => match (t.onAny wid fun v => v.reply e vals).loadFits e with
        | some u => .next u
        | none => quietly s
      | .wait => quietly s
      | .poison lane va => .next (s.poisoned wid e.pc (s.poisonLanes w e lane) va)

/-- STORE_QUEUE_DRAIN. -/
def execStoreQueueDrain (wid : Nat) (s : State) : Out :=
  if s.host.jobDead || s.tabs.halted then quietly s
  else match s.drainOldest wid with
    | none => quietly s
    | some t => .next t.reap

/-- The position of the instruction whose entry stands at the head of a buffer. -/
def State.headPc (s : State) (c buf : Nat) : Addr := match look [] (s.core c).wbuf buf with
  | [] => 0
  | e :: _ => e.pc

/-- The lanes of the instruction at the head of a buffer that have not performed and meet poison. -/
def State.headLanes (s : State) (c buf : Nat) : Word := match look [] (s.core c).wbuf buf with
  | [] => 0
  | e :: _ =>
    let es := ((s.core c).wbuf.flatMap (·.2)).filter fun x => x.wid == e.wid && x.seq == e.seq
    maskOf (e.lane :: (es.filter fun x => s.fillPoison x.pa x.fields).map (·.lane))

/-- WRITE_BUFFER_PERFORM: what may enter the core's buffers enters, and the oldest entry of one performs. -/
def execWriteBufferPerform (core : BitVec 7) (buf : BitVec 3) (s : State) : Out :=
  if s.host.jobDead || s.tabs.halted then quietly s
  else
    let t := s.feed core.toNat
    match t.performHead core.toNat buf.toNat with
    | .ok u => .next u.reap
    | .wait => .next t
    | .poison wid _ va => .next (t.poisoned wid (t.headPc core.toNat buf.toNat) (t.headLanes core.toNat buf.toNat) va)

/-- The entry of a core's TLBs for a frame. -/
def State.tlbFrame (s : State) (c frame : Nat) : Option TlbEnt :=
  ((s.core c).tlb ++ look [] s.die.tlb2 (c / 8)).find? fun e => e.frame == frame

/-- One access of 8 bytes at the slice of a line, for a core whose TLB translates its page; `none`: it must wait (23 R325; 21
R294). -/
def State.sliceAccess (s : State) (c pa va fields : Nat) (op : L2Req) (data : Nat) : Option State :=
  match op with
  | .read => ((s.l2Fill (pa / 256) va fields).recordDrainOver c (pa / 256)).bind fun t => t.fitEvery.map fun u =>
      u.answer (t.l2Poison pa) (bytesNat (t.l2Bytes pa 8))
  | .write => (s.toPoint none c pa).bind fun t => t.l2Put none 2 pa va fields (natBytes 8 data)
  | .writeBack => s.wb1 none (s.l1Core c pa) (pa / 128)
  | .release => (s.releaseSteps c 2).bind fun r => (r.1.toPoint none c pa).bind fun t => t.l2Put r.2 2 pa va fields (natBytes 8 data)

/-- May that access be made now: its page's rights, and what regions hold (23 R325)? -/
def State.sliceReady (s : State) (pa : Nat) (e : TlbEnt) (op : L2Req) : Bool :=
  !s.keyAbsent e.fields && paOk pa && !s.host.jobDead && !s.tabs.halted &&
  match op with
  | .read => e.r
  | .writeBack => true
  | .write => e.w && !s.regionHeld none (pa / 64)
  | .release => e.w && !s.regionHeld none (pa / 64)

/-- L2_SLICE_ACCESS. -/
def execL2SliceAccess (core : BitVec 7) (pa : BitVec 46) (op : L2Req) (data : BitVec 64) (s : State) : Out :=
  let a := pa.toNat / 8 * 8
  match s.tlbFrame core.toNat (a / 65536) with
  | none => quietly s
  | some e =>
    if s.sliceReady a e op then
      .next ((s.sliceAccess core.toNat a (e.vpn * 65536 + a % 65536) e.fields op data.toNat).getD s)
    else quietly s

/-- A walk has ended for a wave that is parked on pages: the first of them. -/
def Wave.walkedOne (w : Wave) (leaf : Bool) (p : Nat) (rest : List Nat) : Wave :=
  let m := if leaf then w.mem else { w.mem with walked := w.mem.walked ++ [p] }
  let h : Hold := if rest.isEmpty then .run else .walk rest
  { w with flow := { w.flow with hold := h }, mem := m }

/-- The pages that the 64 page walkers of the die serve, of those that waves are parked on (01 R13, R153; log 32). -/
def State.walking (s : State) : List Nat :=
  ((s.waves.filterMap fun w => match w.flow.hold with
    | .walk (p :: _) => some p
    | _ => none).eraseDups).take 64

/-- PAGE_WALK_COMPLETE: the page's leaf enters the TLBs, or the walk has ended without one (R152, R153). -/
def execPageWalkComplete (wid : Nat) (s : State) : Out :=
  match s.wave? wid with
  | none => quietly s
  | some w => match w.flow.hold with
    | .walk (p :: rest) =>
      if !s.walking.contains p then quietly s
      else if s.rootOk then
        (match s.walk (p * 65536) with
        | .leaf e => .next (((s.walked (p * 65536)).tlbFill w.id.core e).onWave wid fun v => v.walkedOne true p rest)
        | _ => .next ((s.walked (p * 65536)).onWave wid fun v => v.walkedOne false p rest))
      else .fault .noSuchAddress
    | _ => quietly s

/-- REGION_COMMIT: the wave that waits in RCOMMIT for this region commits it, if it can (R318). -/
def execRegionCommit (rid : BitVec 6) (s : State) : Out :=
  match s.region? rid.toNat with
  | none => quietly s
  | some r => match s.wave? r.wid with
    | none => quietly s
    | some w =>
      if w.flow.hold = .rcommit ∧ r.mayCommit = true ∧ s.host.jobDead = false ∧ s.tabs.halted = false then
        .next (s.asWave r.wid fun t => (rcommitAct t).settle t)
      else quietly s

end Sys2Proof.Machine
end

