-- ==== Sys2Proof/Machine/Launch.lean ====
section
/-! DEFINITION. Graphs, launches and the placement of blocks and waves (spec/07_execution_and_scheduling.md R86 to R96,
R103 to R107; spec/27_host_peers_security.md R350, R355). -/

namespace Sys2Proof.Machine

/-! ### Checks of cards and graphs (R89, R90) -/

/-- The successors of a card. -/
def cdSuccs (c : Nat) : List Nat := ((List.range 11).map (cdSucc c)).filter (· != 0xFFFF)

/-- Is every entry after an unused one unused? -/
def succPacked (c : Nat) : Bool := (List.range 10).all fun i => cdSucc c i != 0xFFFF || cdSucc c (i + 1) == 0xFFFF

/-- The limits of Table 7.2. -/
def cardOk (c : Nat) : Bool :=
  succPacked c && decide (cdPred c ≤ 1023) && decide (cdSpwait c ≤ 256) && decide (1 ≤ cdChunk c) &&
  decide (cdTmem c ≤ 524288) && cdTmem c % 128 == 0 && bitsN c 250 6 == 0 && bitsN c 243 5 == 0 &&
  (!cdFuse c || cdBpc c == 8) && decide (cdWslots c ≤ 128) && decide (8 ≤ cdVregs c) && decide (cdVregs c ≤ 128) &&
  cdVregs c % 8 == 0 && decide (1 ≤ cdBpc c) && decide (cdBpc c ≤ 8) && decide (1 ≤ cdWpb c) && decide (cdWpb c ≤ 16) &&
  decide (1 ≤ cdBcap c) && decide (cdBcap c ≤ 1048576) && cdBcap c % max 1 (cdBpc c) == 0 &&
  decide (cdRecSize c ≤ 256) && cdRecSize c % 4 == 0 && entryOk (cdArg c) && entryOk (cdEntry c)

/-- Cards of a graph that list a node as a successor. -/
def predCards (g : List Nat) (n : Nat) : Nat := (g.filter fun c => (cdSuccs c).contains n).length

/-- Nodes left when nodes without a predecessor among those left are taken away, `f` times. -/
def cyclic (g : List Nat) : Nat → List Nat → List Nat
  | 0, ns => ns
  | f + 1, ns => cyclic g f (ns.filter fun n => ns.any fun m => (cdSuccs (g.getD m 0)).contains n)

/-! ### What a core offers and a block needs (R94) -/

/-- What a unit of work needs of one core: waves, registers per thread, tile memory, weight slots. -/
structure Need where
  wpb : Nat
  vregs : Nat
  tmem : Nat
  wslots : Nat
  deriving DecidableEq, Repr

/-- What a block of a card needs. -/
def cardNeed (c : Nat) : Need := { wpb := cdWpb c, vregs := cdVregs c, tmem := cdTmem c, wslots := cdWslots c }

/-- Waves of a unit of `n` waves in quarter `q`. -/
def wavesIn (n q : Nat) : Nat := ((List.range n).filter fun w => w % 4 == q).length

/-- Bytes of the register file for a wave, in units of 1 KiB. -/
def regBytes (vregs : Nat) : Nat := ceilDiv (vregs * 128) 1024 * 1024

/-- Wave slots of quarter `q` that recipe slots take. -/
def State.recipeSlotsIn (s : State) (q : Nat) : Nat := ((List.range s.rslots).filter fun i => recipeWaveSlot i / 12 == q).length

/-- Does a copy of the core target the tile memory of block `k`? -/
def Core.copiesInto (c : Core) (k : Nat) : Bool := c.copies.any fun x => x.blk == some k && x.toTile

/-- Does a block hold its resources: until its last wave has exited and every copy that targets its tile memory has
completed, or until it has been evicted (R95, 25 R342)? A kindling wave's are the recipe slot's own. -/
def State.holds (s : State) (e : Nat × Block) : Bool :=
  !e.2.evicted && e.2.index != 0xFFFFFFFF && (!e.2.waves.isEmpty || (s.core e.2.core).copiesInto e.1)

/-- The blocks that hold resources of a core, by their keys. -/
def State.coreBlocks (s : State) (c : Nat) : List (Nat × Block) := s.sched.blocks.filter fun e => e.2.core == c && s.holds e

/-- The waves of a block whose images have been written: their slots and registers are free (25 R339 step 6). -/
def State.savedWaves (s : State) (k : Nat) : List SavedWave := (s.die.saved.filter fun u => u.blk == some k).flatMap (·.waves)

/-- Wave slots of quarter `q` that a block holds. -/
def State.blockSlots (s : State) (e : Nat × Block) (q : Nat) : Nat :=
  wavesIn e.2.wpb q - ((s.savedWaves e.1).filter fun x => x.wave.id.waveIdx.toNat % 4 == q).length

/-- The waves of a core that belong to no block. -/
def State.looseWaves (s : State) (c : Nat) : List Wave :=
  s.waves.filter fun w => w.id.core == c && w.id.blk.isNone && w.flow.alive != 0

/-- Wave slots of a quarter that nothing holds. -/
def State.freeIn (s : State) (c q : Nat) : Nat :=
  12 - s.recipeSlotsIn q - ((s.coreBlocks c).foldl (fun n e => n + s.blockSlots e q) 0) -
    ((s.looseWaves c).filter fun w => w.id.slot / 12 == q).length

/-- Bytes of the register file that nothing holds. -/
def State.freeRegs (s : State) (c : Nat) : Nat :=
  262144 - s.rslots * regBytes s.rvregs -
    (s.coreBlocks c).foldl (fun n e => n + (e.2.wpb - (s.savedWaves e.1).length) * regBytes e.2.vregs) 0 -
    (s.looseWaves c).foldl (fun n w => n + regBytes w.id.vregs) 0

/-- Weight slots that nothing holds. -/
def State.freeWslots (s : State) (c : Nat) : Nat :=
  128 - s.rslots * s.rwslots - (s.coreBlocks c).foldl (fun n e => n + e.2.wslots) 0

/-- The lowest range of tile memory that fits and that nothing holds or keeps. -/
def State.freeTile (s : State) (c n : Nat) : Option Nat :=
  let top := 524288 - s.rslots * s.rtmem
  let bs := (s.coreBlocks c).map (·.2) ++ (s.sched.reserved.flatMap (·.blocks)).filter fun b => b.core == c
  let used := (bs.filter fun b => b.tmem != 0).map fun b => (b.tbase, b.tmem)
  let ends := 0 :: used.map fun r => r.1 + r.2
  let ok := ends.filter fun a => decide (a + n ≤ top) && used.all fun r => !meets a n r.1 r.2
  match ok with
  | [] => none
  | a :: t => some (t.foldl min a)

/-- Is a unit leaving: chosen as a victim, its images not all written? -/
def State.leavingUnit (s : State) (u : Nat) : Bool := s.die.saved.any fun x => x.unit == u && !x.written

/-- The die as it will be when every victim has left and the blocks that wait for them stand in their places. -/
def State.vacated (s : State) : State :=
  if s.sched.reserved.isEmpty then s
  else
    let go : Nat × Block → Nat × Block := fun e => if s.leavingUnit (2 * e.1) then (e.1, { e.2 with evicted := true }) else e
    let kept := (s.sched.reserved.flatMap (·.blocks)).zipIdx.map fun b => (s.sched.nextBlk + b.2, { b.1 with waves := [0] })
    let stay : Wave → Bool := fun w => !(w.id.blk.isNone && s.leavingUnit (2 * w.id.wid + 1))
    { s with others := s.others.filter stay, w := if stay s.w then s.w else Wave.blank
             sched := { s.sched with blocks := s.sched.blocks.map go ++ kept, reserved := [] } }

/-- Does a unit fit what nothing holds on a core? -/
def State.fitsFree (s : State) (c : Nat) (n : Need) : Bool :=
  ([0, 1, 2, 3].all fun q => decide (wavesIn n.wpb q ≤ s.freeIn c q)) && decide (n.wpb * regBytes n.vregs ≤ s.freeRegs c) &&
  decide (n.wslots ≤ s.freeWslots c) && (s.freeTile c n.tmem).isSome

/-- Does a unit fit a core now, and beside what is kept there for others (R338)? -/
def State.fits (s : State) (c : Nat) (n : Need) : Bool := s.fitsFree c n && s.vacated.fitsFree c n

/-- How many units an empty core holds (R96). -/
def State.unitsPerCore (s : State) (n : Need) : Nat :=
  let slots := ([0, 1, 2, 3].filter fun q => wavesIn n.wpb q != 0).map fun q => (12 - s.recipeSlotsIn q) / wavesIn n.wpb q
  let regs := (262144 - s.rslots * regBytes s.rvregs) / max 1 (n.wpb * regBytes n.vregs)
  let tile := if n.tmem = 0 then 12 else (524288 - s.rslots * s.rtmem) / n.tmem
  let ws := if n.wslots = 0 then 12 else (128 - s.rslots * s.rwslots) / n.wslots
  slots.foldl min (min regs (min tile ws))

/-- Gmax of a card (R96). -/
def State.gmax (s : State) (c : Nat) : Nat := 16 * cdBpc c * (8 * s.unitsPerCore (cardNeed c) / max 1 (cdBpc c))

/-- Is a card too large (R90 step 3)? -/
def State.tooLarge (s : State) (c : Nat) : Bool :=
  s.unitsPerCore (cardNeed c) == 0 || (cdGridbar c && decide (s.gmax c < cdBcap c))

/-- The first failure of a graph, as a code and a node, for the cards that `p` selects (R90). -/
def State.graphFault (s : State) (g : List Nat) (p : Nat → Bool) : Option (Nat × Nat) :=
  let ns := (List.range g.length).filter p
  let card := fun n => g.getD n 0
  match ns.find? fun n => !cardOk (card n) with
  | some n => some (0x80, n)
  | none => match ns.find? fun n => (cdSuccs (card n)).any fun m => decide (g.length ≤ m) with
    | some n => some (0x81, n)
    | none => match ns.find? fun n => cdPred (card n) != predCards g n with
      | some n => some (0x81, n)
      | none => match cyclic g g.length (List.range g.length) with
        | n :: _ => some (0x81, n)
        | [] => (ns.find? fun n => s.tooLarge (card n)).map fun n => (0x15, n)

/-! ### GUPLOAD and GTRIG (R91, R350) -/

/-- BUSY: an upload, or the patching of a launch, is in progress. -/
def HostRegs.busy (h : HostRegs) : Bool := h.upload.isSome || h.patching

/-- GSTAT after its BUSY bit has been brought up to date. -/
def HostRegs.shown (h : HostRegs) : HostRegs := { h with gstat := setBit h.gstat 31 h.busy }

/-- A report in GSTAT. -/
def State.report (s : State) (graph node code : Nat) : State :=
  s.onHost fun h =>
    ({ h with gstat := BitVec.ofNat 32 (graph % 32 * 2 ^ 26 + node % 1024 * 2 ^ 16 + code % 256) } : HostRegs).shown

/-- Numbers of 64 bytes each. -/
def cardsOf (bs : List Byte) (n : Nat) : List Nat := (List.range n).map fun i => bytesNat ((bs.drop (64 * i)).take 64)

/-- Read, check and store a graph; after HALT the read waits, as it could make the L2 write back (27 R364). -/
def State.uploadGraph (s : State) (val : BitVec 64) : State :=
  let g := bitsN val.toNat 59 5
  let n := bitsN val.toNat 49 10 + 1
  let va := bitsN val.toNat 6 43 * 64
  if s.tabs.halted then s.onHost fun h => ({ h with upload := some (val, 0) } : HostRegs).shown
  else match s.engRead va (64 * n) with
  | .absent a =>
    let j := s.joinFault (.page (a / 65536)) a true
    j.1.onHost fun h => ({ h with upload := some (val, j.2) } : HostRegs).shown
  | .wait => s.onHost fun h => ({ h with upload := some (val, 0) } : HostRegs).shown
  | .ok t bs =>
    let u := t.onHost fun h => { h with upload := none }
    let cards := cardsOf bs n
    if (u.sched.waiting.any fun l => l.graph == g) || (match u.sched.running with | some l => l.graph == g | none => false) then
      u.report g 0 0x83
    else match u.graphFault cards fun _ => true with
      | some (code, node) => u.report g node code
      | none => (u.onSched fun d => { d with graphs := put d.graphs g cards }).report g 0 0
  | .poison a => ((s.recodeAt a).onHost fun h => { h with upload := none }).report g 0 0x84
  | _ => (s.onHost fun h => { h with upload := none }).report g 0 0x84

/-- A write of GUPLOAD. -/
def State.writeGupload (s : State) (val : BitVec 64) : State :=
  let g := bitsN val.toNat 59 5
  if s.host.busy then s
  else if bitsN val.toNat 0 6 ≠ 0 then s.report g 0 0x80
  else if (s.sched.waiting.any fun l => l.graph == g) || (match s.sched.running with | some l => l.graph == g | none => false) then
    s.report g 0 0x83
  else s.uploadGraph val

/-- GUPLOAD. -/
def execGuploadW (val : BitVec 64) (s : State) : Out := .next (s.writeGupload val)

/-- An upload that waits goes on, once the fault that it waits on has been serviced (R335); token 0 is none. -/
def State.resumeUpload (s : State) : State :=
  match s.host.upload with
  | none => s
  | some (val, tok) => if s.die.faults.any (fun f => f.token == tok) then s else s.uploadGraph val

/-- A write of GTRIG: its checks in the order of R350, then the launch waits its turn. -/
def State.writeGtrig (s : State) (val : BitVec 64) : State :=
  let g := bitsN val.toNat 59 5
  if bitsN val.toNat 0 4 ≠ 0 then s.report g 0 0x80
  else if (look? s.sched.graphs g).isNone then s.report g 0 0x85
  else if 8 ≤ s.sched.waiting.length then s.report g 0 0x82
  else s.onSched fun d =>
    { d with waiting := d.waiting ++ [{ num := d.launchNo, graph := g, gtrig := val, cards := [], readyNo := 0, token := none }], launchNo := d.launchNo + 1 }

/-- GTRIG. -/
def execGtrigW (val : BitVec 64) (s : State) : Out := .next (s.writeGtrig val)

/-! ### The start of a launch (R92, R349) -/

/-- Does the die schedule work: a job runs, and neither it nor the device is stopped? -/
def State.schedules (s : State) : Bool := s.host.run && !s.host.jobDead && !s.tabs.halted

/-- A patch entry's node, offset and value, if its fields are good for a graph of `n` cards (Table 7.4). -/
def patchOk (n x : Nat) : Bool :=
  bitsN x 32 32 == 0 && decide (bitsN x 0 16 < n) && decide (bitsN x 16 16 ≤ 32) && bitsN x 16 16 % 8 == 0

/-- What reading a patch list gives: the entries that could be read, and what stopped it. -/
def State.readPatches (s : State) : Nat → Nat → State × List Nat × EngRes Unit
  | 0, _ => (s, [], .ok s ())
  | n + 1, va => match s.engRead va 16 with
    | .ok t bs =>
      let r := t.readPatches n (va + 16)
      (r.1, bytesNat bs :: r.2.1, r.2.2)
    | .absent a => (s, [], .absent a)
    | .prot a => (s, [], .prot a)
    | .key a => (s, [], .key a)
    | .poison a => (s, [], .poison a)
    | .wait => (s, [], .wait)

/-- Write VALUE over 8 bytes of a card. -/
def patchCard (c off val : Nat) : Nat := c - bitsN c (8 * off) 64 * 2 ^ (8 * off) + val * 2 ^ (8 * off)

/-- Apply patch entries in list order. -/
def patchGraph (g : List Nat) (ps : List Nat) : List Nat :=
  ps.foldl (fun g x => g.set (bitsN x 0 16) (patchCard (g.getD (bitsN x 0 16) 0) (bitsN x 16 16) (bitsN x 64 64))) g

/-- A card at the start of its launch. -/
def CardRun.start (node pred : Nat) : CardRun :=
  { node := node, counter := pred, ready := none, launched := 0, live := 0, waves := 0, next := 0, cores := [], done := false }

/-- Cards whose counter is 0 become ready, in node order. -/
def Launch.makeReady (l : Launch) : Launch :=
  l.cards.foldl (fun l c =>
    if c.counter = 0 ∧ c.ready = none then
      { l with cards := l.cards.map fun x => if x.node = c.node then { x with ready := some l.readyNo } else x, readyNo := l.readyNo + 1 }
    else l) l

/-- Every core's L1 discards its clean bytes (R349). -/
def State.discardAll (s : State) : State := forEach s.coreNos s fun k t => t.discardClean k fun _ => true

/-- The launch at the head of the queue leaves it without running. -/
def State.abandonLaunch (s : State) (l : Launch) (node code : Nat) : State :=
  ((s.onSched fun d => { d with waiting := d.waiting.drop 1 }).onHost fun h => { h with patching := false }).report l.graph node code

/-- The launch at the head of the queue goes on patching later. -/
def State.patchLater (s : State) : State := s.onHost fun h => ({ h with patching := true } : HostRegs).shown

/-- The launch at the head of the queue waits on an outstanding fault (25 R336). -/
def State.launchWaits (s : State) (tok : Nat) : State :=
  s.onSched fun d => { d with waiting := match d.waiting with
    | [] => []
    | l :: t => { l with token := some tok } :: t }

/-- Does a launch still wait on the fault that the reading of its patch list met? -/
def State.launchHeld (s : State) (l : Launch) : Bool := l.token.any fun tok => s.die.faults.any fun f => f.token == tok

/-- Start the oldest waiting launch. -/
def State.startLaunch (s : State) (l : Launch) : State :=
  let g := look [] s.sched.graphs l.graph
  let r := (if s.host.patching then s else s.discardAll).readPatches (bitsN l.gtrig.toNat 49 10) (bitsN l.gtrig.toNat 4 45 * 16)
  if r.2.1.all (patchOk g.length) then
    match r.2.2 with
    | .ok _ _ =>
      let h := patchGraph g r.2.1
      let t := r.1.onSched fun d => { d with graphs := put d.graphs l.graph h }
      match t.graphFault h fun n => r.2.1.any fun x => bitsN x 0 16 == n with
      | some (code, node) => t.abandonLaunch l node code
      | none =>
        let cards := h.zipIdx.map fun c => CardRun.start c.2 (cdPred c.1)
        ((t.onSched fun d => { d with waiting := d.waiting.drop 1, running := some ({ l with cards := cards, token := none }.makeReady) }).onHost
          fun h => { h with patching := false }).report l.graph 0 0
    | .absent a =>
      let j := r.1.joinFault (.page (a / 65536)) a true
      (j.1.launchWaits j.2).patchLater
    | .wait => r.1.patchLater
    | .poison a => (r.1.recodeAt a).abandonLaunch l 0 0x84
    | _ => r.1.abandonLaunch l 0 0x84
  else r.1.abandonLaunch l 0 0x80

/-- LAUNCH_START; one whose patch list has met an absent page goes on when that fault has been serviced (R92; 25 R336). -/
def execLaunchStart (s : State) : Out :=
  match s.sched.running, s.sched.waiting with
  | none, l :: _ => if s.schedules && !s.launchHeld l then .next (s.startLaunch l) else quietly s
  | _, _ => quietly s

/-! ### Placing waves and blocks (R87, R88, R94, R95) -/

/-- The lowest wave slot of a quarter that no resident wave has. -/
def State.slotIn (s : State) (c q : Nat) : Nat :=
  let used := (s.waves.filter fun w => w.id.core == c && w.flow.alive != 0).map (·.id.slot)
  12 * q + (((List.range 12).find? fun i => !used.contains (12 * q + i)).getD 0)

/-- Add a wave to the die. -/
def State.addWave (s : State) (w : Wave) : State := { s with others := insertWave w s.others }

/-- A wave at launch (R88). -/
def Wave.start (id : WaveId) (entry : Addr) (mask : Word) (regs : WaveRegs) : Wave :=
  { id := id, flow := WaveFlow.launch entry mask, regs := regs, csr := WaveCsr.launch entry, mem := WaveMem.launch }

/-- Wave `w` of a block. -/
def State.placeWave (s : State) (blk : Nat) (b : Block) (entry spwait w : Nat) : State :=
  let bpc := max 1 b.bpc
  let id : WaveId :=
    { wid := s.sched.nextWid, kind := .block, core := b.core, slot := s.slotIn b.core (w % 4), blk := some blk
      waveIdx := BitVec.ofNat 32 w, blockIdx := BitVec.ofNat 32 b.index, clusterIdx := BitVec.ofNat 32 (b.index / bpc)
      card := b.card, prio := b.prio, vregs := b.vregs, spwait := spwait, age := s.sched.ageNo, chain := none, tile := none
      pins := [], holds := [] }
  let t := s.addWave (Wave.start id (BitVec.ofNat 64 entry) 0xFFFFFFFF WaveRegs.launch)
  (t.onSched fun d => { d with nextWid := d.nextWid + 1, ageNo := d.ageNo + 1 }).onBlk blk fun x => { x with waves := x.waves ++ [id.wid] }

/-- Place one block of a card on a core; its waves acquire at die scope (R93, R368). -/
def State.placeBlock (s : State) (launch node card index core : Nat) : State :=
  let blk := s.sched.nextBlk
  let b : Block :=
    { card := some (launch, node), index := index, core := core, bpc := cdBpc card, wpb := cdWpb card, vregs := cdVregs card
      prio := cdPrio card, fuse := cdFuse card, tmem := cdTmem card, tbase := (s.freeTile core (cdTmem card)).getD 0
      wslots := cdWslots card, waves := [], tile := [], tags := [], slots := [], bars := [], evicted := false, age := s.sched.ageNo }
  let t := (s.onSched fun d => { d with nextBlk := blk + 1, blocks := put d.blocks blk b }).plainAcquire core 2
  forEach (List.range b.wpb) t fun w x => x.placeWave blk b (cdEntry card) (cdSpwait card) w

/-- Is a bin of the core ready to launch a wave (R103)? -/
def State.binReady (s : State) (c : Nat) : Bool :=
  (s.core c).bins.any fun e => decide (32 ≤ e.2.recs.length) || (e.2.expired && !e.2.recs.isEmpty)

/-- May blocks of a card with this L1FUSE bit launch on a hardware cluster (R95)? -/
def State.fuseOk (s : State) (hc : Nat) (fuse : Bool) : Bool :=
  (s.sched.blocks.all fun e => !s.holds e || e.2.card.isNone || e.2.core / 8 != hc || e.2.fuse == fuse) &&
  (s.sched.reserved.all fun r => r.blocks.all fun b => b.core / 8 != hc || b.fuse == fuse)

/-- Is this what is kept for a card? -/
def Reserve.isFor (r : Reserve) (launch node : Nat) : Bool := r.launch == launch && r.node == node

/-- The die as a card finds it: what is kept for the card itself is free for it (R338). -/
def State.freeFor (s : State) (launch node : Nat) : State :=
  s.onSched fun d => { d with reserved := d.reserved.filter fun r => !r.isFor launch node }

/-- Does a card still wait for victims: its blocks launch only when all of them have left (R338)? -/
def State.awaitsVictims (s : State) (launch node : Nat) : Bool :=
  s.sched.reserved.any fun r => r.isFor launch node && r.victims.any s.leavingUnit

/-- The cores on which a cluster of blocks of a card launches now, if any. -/
def State.clusterPlace (s : State) (card : Nat) : Option (List Nat) :=
  (List.range 16).findSome? fun hc =>
    if s.fuseOk hc (cdFuse card) then
      let cs := ((List.range 8).map fun i => 8 * hc + i).filter fun c => !s.binReady c && s.fits c (cardNeed card)
      if cdBpc card ≤ cs.length then some (cs.take (cdBpc card)) else none
    else none

/-- Cores that take work; one that held no wave has emptied its L1 before (09 R137). -/
def State.takeCores (s : State) (cs : List Nat) : Option State := cs.foldlM (fun t c => t.idleCore c) s

/-- The cores of a cluster of blocks, ready for it: their L1s are one under L1FUSE and eight without (R95; 09 R126). -/
def State.readyCores (s : State) (cs : List Nat) (fuse : Bool) : Option State :=
  (s.takeCores cs).bind fun t => t.setFuse (cs.headD 0 / 8) fuse

/-- Launch one cluster of blocks of a card of the running launch, on what is free for the card. -/
def State.launchCluster (s0 : State) (launch node card : Nat) : Option State :=
  if s0.awaitsVictims launch node then none
  else
    let s := s0.freeFor launch node
    match s.cardRun? (some (launch, node)), s.clusterPlace card with
    | some r, some cs => (s.readyCores cs (cdFuse card)).map fun s1 =>
      let t := forEach (cs.zipIdx) s1 fun p x => x.placeBlock launch node card (r.launched + p.2) p.1
      let n := cs.length
      t.onCard (some (launch, node)) fun c =>
        { c with launched := c.launched + n, live := c.live + n, waves := c.waves + n * cdWpb card, cores := unionL c.cores cs }
    | _, _ => none

/-- Insert into a list in the order `before`. -/
def insertBy {α : Type} (before : α → α → Bool) (x : α) : List α → List α
  | [] => [x]
  | y :: t => if before x y then x :: y :: t else y :: insertBy before x t

/-- A list in the order `before`. -/
def sortBy {α : Type} (before : α → α → Bool) (l : List α) : List α := l.foldr (insertBy before) []

/-- Ready cards of the running launch with blocks to launch, in the order of R95. -/
def State.readyCards (s : State) : List (Nat × Nat × Nat × CardRun) :=
  match s.sched.running with
  | none => []
  | some l =>
    let g := look [] s.sched.graphs l.graph
    let rs := (l.cards.filter fun c => c.ready.isSome && !c.done && decide (c.launched < cdBcap (g.getD c.node 0))).map
      fun c => (l.num, c.node, g.getD c.node 0, c)
    let before : (Nat × Nat × Nat × CardRun) → (Nat × Nat × Nat × CardRun) → Bool := fun a b =>
      decide (cdPrio b.2.2.1 < cdPrio a.2.2.1) || (cdPrio a.2.2.1 == cdPrio b.2.2.1 && decide (a.2.2.2.ready.getD 0 ≤ b.2.2.2.ready.getD 0))
    sortBy before rs

/-- Does an evicted unit of the card wait: restored blocks come before new ones (R345)? -/
def State.savedOf (s : State) (launch node : Nat) : Bool :=
  s.die.saved.any fun u => match u.blk with
    | some k => (match s.blk? k with | some b => b.card == some (launch, node) | none => false)
    | none => false

/-- Launch `n` clusters of blocks of a card, or none. -/
def State.launchMany (s : State) (launch node card : Nat) : Nat → Option State
  | 0 => some s
  | n + 1 => match s.launchCluster launch node card with
    | some t => t.launchMany launch node card n
    | none => none

/-- The clusters that a card launches together: all of a gang (R96), else one. -/
def clustersOf (card : Nat) : Nat := if cdGridbar card then cdBcap card / max 1 (cdBpc card) else 1

/-- The next launch of a ready card, if it fits. -/
def State.launchNext (s : State) (c : Nat × Nat × Nat × CardRun) : Option State := s.launchMany c.1 c.2.1 c.2.2.1 (clustersOf c.2.2.1)

/-- Ready cards that may launch blocks, in the order of R95: none of a priority equal to or below that of a gang that waits
for space (R96), and none with an evicted unit (R345). Of gangs of one priority the first in order goes on (log 55). -/
def State.openCards (s : State) : List (Nat × Nat × Nat × CardRun) :=
  let cards := s.readyCards
  let stuck := cards.filter fun c => cdGridbar c.2.2.1 && (s.launchNext c).isNone
  cards.filter fun c => !s.savedOf c.1 c.2.1 && stuck.all fun g => g.2.1 == c.2.1 || decide (cdPrio g.2.2.1 < cdPrio c.2.2.1) ||
    (cdGridbar c.2.2.1 && cdPrio g.2.2.1 == cdPrio c.2.2.1 && decide (c.2.2.2.ready.getD 0 ≤ g.2.2.2.ready.getD 0))

/-- The first of these cards that fits, whether it is a gang, and the die after its launch. -/
def State.placeNext (s : State) : Option (Bool × State) :=
  if s.schedules then s.openCards.findSome? fun c => (s.launchNext c).map fun t => (cdGridbar c.2.2.1, t) else none

/-- CLUSTER_LAUNCH: a cluster of blocks of a card is next. -/
def execClusterLaunch (s : State) : Out :=
  match s.placeNext with
  | some (false, t) => .next t
  | _ => quietly s

/-- GANG_LAUNCH: a gang is next (R96). -/
def execGangLaunch (s : State) : Out :=
  match s.placeNext with
  | some (true, t) => .next t
  | _ => quietly s

/-! ### Completion (R93) -/

/-- Have all blocks and waves of a card exited? -/
def CardRun.finished (c : CardRun) (card : Nat) : Bool :=
  c.ready.isSome && !c.done && c.launched == cdBcap card && c.live == 0 && c.waves == 0

/-- No record of a card is left in a spawn bin. -/
def State.noSpawns (s : State) (card : Option (Nat × Nat)) : Bool :=
  s.cores.all fun e => e.2.bins.all fun b => b.2.recs.all fun r => r.card != card

/-- A card completes: its successors' counters count down, and cards become ready. -/
def Launch.complete (l : Launch) (node : Nat) (succs : List Nat) : Launch :=
  let one : CardRun → CardRun := fun c =>
    { c with done := c.done || c.node == node, counter := if succs.contains c.node then c.counter - 1 else c.counter }
  { l with cards := l.cards.map one }.makeReady

/-- Cores make a release at a scope, if each can now (23 R325). -/
def State.releases (s : State) (scope : Nat) (cs : List Nat) : Option State := cs.foldlM (fun t k => t.plainRelease k scope) s

/-- The launch completes once every card has: a system-scope release on the cores of its waves (log 55), then the count. -/
def State.endLaunch (s : State) : Option State :=
  match s.sched.running with
  | none => some s
  | some l =>
    if l.cards.all (·.done) then
      (s.releases 3 (l.cards.foldl (fun cs c => unionL cs c.cores) [])).map fun t =>
        ((t.onSched fun d => { d with running := none, reserved := [] }).onHost fun h => { h with lcount := h.lcount + 1 }).raise 0
    else some s

/-- CARD_COMPLETE: a die-scope release on each core of the card's waves (R93). -/
def execCardComplete (node : BitVec 10) (s : State) : Out :=
  match s.sched.running with
  | none => quietly s
  | some l => match l.cards.find? fun c => c.node == node.toNat with
    | none => quietly s
    | some c =>
      let card := (look [] s.sched.graphs l.graph).getD node.toNat 0
      if s.schedules && c.finished card && s.noSpawns (some (l.num, node.toNat)) then
        match (s.releases 2 c.cores).bind fun t =>
          (t.onSched fun d => { d with running := some (l.complete node.toNat (cdSuccs card)) }).endLaunch with
        | some t => .next t
        | none => quietly s
      else quietly s

/-! ### The end of a fused L1 (09 R126) -/

/-- Is a hardware cluster's L1 still one: a resident block of a card with L1FUSE, or a wave of such a card, is on it? -/
def State.keepsFuse (s : State) (hc : Nat) : Bool :=
  (s.sched.blocks.any fun e => e.2.fuse && !e.2.evicted && e.2.core / 8 == hc) ||
  s.waves.any fun w => w.id.core / 8 == hc && cdFuse (s.cardBits w.id.card)

/-- Fused L1s whose last user has gone become eight again, once what must be written back can be (log 66); after HALT nothing
is written back (27 R364). -/
def State.unfuse (s : State) : State :=
  if s.tabs.halted then s else forEach s.die.fusedHw s fun hc t => if t.keepsFuse hc then t else (t.setFuse hc false).getD t

/-! ### Waves of spawn bins and queues (R103, R107) -/

/-- A wave slot for a wave of no block: the lowest quarter with a free one, beside what is kept for others (25 R338). -/
def State.looseSlot (s : State) (c vregs : Nat) : Option Nat :=
  let t := s.vacated
  if s.freeRegs c < regBytes vregs ∨ t.freeRegs c < regBytes vregs then none
  else ([0, 1, 2, 3].find? fun q => s.freeIn c q != 0 && t.freeIn c q != 0).map fun q => s.slotIn c q

/-- A wave of no block with records in v0..v7; threads without a record start inactive. -/
def State.placeLoose (s : State) (kind : WaveKind) (core slot entry : Nat) (card : Option (Nat × Nat)) (prio vregs spwait : Nat)
    (recs : List (List Word)) : State :=
  let id : WaveId :=
    { wid := s.sched.nextWid, kind := kind, core := core, slot := slot, blk := none, waveIdx := 0, blockIdx := 0xFFFFFFFF
      clusterIdx := 0xFFFFFFFF, card := card, prio := prio, vregs := vregs, spwait := spwait, age := s.sched.ageNo
      chain := none, tile := none, pins := [], holds := [] }
  let ls := List.range recs.length
  let w := (Wave.start id (BitVec.ofNat 64 entry) (maskOf ls) WaveRegs.launch).giveRecords ls recs
  ((s.addWave w).onSched fun d => { d with nextWid := d.nextWid + 1, ageNo := d.ageNo + 1 }).onCard card fun c =>
    { c with waves := c.waves + 1, cores := unionL c.cores [core] }

/-- SPAWN_BIN_TIMER_EXPIRY: time passes to the timer's end. -/
def execSpawnBinTimerExpiry (core : BitVec 7) (bin : BitVec 2) (s : State) : Out :=
  match ((s.core core.toNat).bin bin.toNat).due with
  | none => quietly s
  | some t => .next ((s.passTo t).onCore core.toNat fun c =>
      { c with bins := put c.bins bin.toNat { c.bin bin.toNat with due := none, expired := true } })

/-- A bin after its oldest `n` records have gone. -/
def Bin.taken (b : Bin) (n now : Nat) : Bin :=
  match b.recs.drop n with
  | [] => Bin.empty
  | r :: t => { b with recs := r :: t, due := some (now + spPeriod r.spwait), expired := false }

/-- SPAWN_BIN_LAUNCH. -/
def execSpawnBinLaunch (core : BitVec 7) (bin : BitVec 2) (s : State) : Out :=
  let b := (s.core core.toNat).bin bin.toNat
  match b.recs, b.key with
  | r :: _, some entry =>
    if s.schedules && (decide (32 ≤ b.recs.length) || b.expired) then
      (match s.looseSlot core.toNat r.vregs, s.idleCore core.toNat with
      | some slot, some u =>
        let t := u.placeLoose .spawned core.toNat slot entry r.card r.prio r.vregs r.spwait ((b.recs.take 32).map (·.vals))
        .next (t.onCore core.toNat fun c => { c with bins := put c.bins bin.toNat (b.taken 32 s.pkg.coreClock) })
      | _, _ => quietly s)
    else quietly s
  | _, _ => quietly s

/-- TQ_TIMER_EXPIRY. -/
def execTqTimerExpiry (q : BitVec 6) (s : State) : Out :=
  match (s.queue q.toNat).due with
  | none => quietly s
  | some t => .next ((s.passTo t).onQueue q.toNat fun x => { x with due := none, expired := true })

/-- TQ_LAUNCH. -/
def execTqLaunch (q : BitVec 6) (core : BitVec 7) (s0 : State) : Out :=
  let s := s0.tidyQueue q.toNat 64
  let t := s.queue q.toNat
  if s0.schedules && t.enable && t.launch && !t.chip.isEmpty && (decide (32 ≤ t.count) || t.expired) then
    match s.looseSlot core.toNat t.vregs, s.idleCore core.toNat with
    | some slot, some s1 =>
      let u := (s1.placeLoose .queue core.toNat slot t.entry.toNat none t.prio t.vregs t.timer (t.chip.take 32)).plainAcquire core.toNat 2
      let v := u.onQueue q.toNat fun x =>
        ({ x with chip := x.chip.drop 32, due := none, expired := false } : TaskQueue).startTimer s.pkg.coreClock
      .next v
    | _, _ => quietly s0
  else quietly s0

/-- TQ_REFILL; after HALT no ring is read (27 R364). -/
def execTqRefill (q : BitVec 6) (s : State) : Out := if s.host.jobDead || s.tabs.halted then quietly s else .next (s.refill q.toNat)

/-- TQ_RING_WRITE; after HALT no ring is written (27 R364). -/
def execTqRingWrite (q : BitVec 6) (s : State) : Out := if s.host.jobDead || s.tabs.halted then quietly s else .next (s.ringWrite q.toNat)

/-- TQPOP_WAKE. -/
def execTqpopWake (q : BitVec 6) (s : State) : Out := if s.host.jobDead || s.tabs.halted then quietly s else .next (s.wakePop q.toNat)

end Sys2Proof.Machine
end

