-- ==== Sys2Proof/Machine/Sys.lean ====
section
/-! DEFINITION. Class 6: special registers, traps and returns, counters, breakpoints
(spec/13_control_memory_system_instructions.md R220 to R226; spec/03_instruction_encoding.md R45, R46, R54). -/

namespace Sys2Proof.Machine

/-! ### Special registers (Table 3.10, R46, R220) -/

/-- The value that CSRR reads from a special register in a lane. -/
def State.csrVal (s : State) (w : Wave) (n l : Nat) : Word :=
  let c := w.csr
  match n with
  | 0x00 => BitVec.ofNat 32 l
  | 0x01 => w.id.waveIdx
  | 0x02 => w.id.blockIdx
  | 0x03 => w.id.clusterIdx
  | 0x04 => BitVec.ofNat 32 w.id.core
  | 0x05 => BitVec.ofNat 32 s.die.die
  | 0x06 => s.host.jobid
  | 0x07 => w.flow.mask
  | 0x08 => lowHalf c.codebase
  | 0x09 => highHalf c.codebase
  | 0x0A => c.fpmode
  | 0x0B => c.arithf
  | 0x0C => c.arithe
  | 0x0D => lowHalf c.tvec
  | 0x0E => highHalf c.tvec
  | 0x0F => lowHalf c.epc
  | 0x10 => highHalf c.epc
  | 0x11 => lowHalf c.cont
  | 0x12 => highHalf c.cont
  | 0x13 => lowHalf c.fpc
  | 0x14 => highHalf c.fpc
  | 0x15 => lowHalf c.ftoken
  | 0x16 => highHalf c.ftoken
  | 0x17 => c.fcause
  | 0x18 => lowHalf c.fva
  | 0x19 => highHalf c.fva
  | 0x1A => c.flanes
  | 0x1B => c.xword0
  | 0x1C => c.xword1
  | 0x1D => c.xword0 >>> 24
  | 0x1E => c.xword0 >>> 16 &&& 0xFF
  | 0x1F => c.xword0 >>> 8 &&& 0xFF
  | 0x20 => c.xword0 &&& 0xFF
  | 0x21 => c.ximm
  | 0x22 => c.copyerr
  | 0x23 => lowHalf s.heartbeat
  | 0x24 => c.hbLatch.getD (highHalf s.heartbeat)
  | _ => 0

/-- The latch of HBEAT's high half after a read of a special register (R46). -/
def State.csrRead (s : State) (n : Nat) (w : Wave) : Wave :=
  match n with
  | 0x23 => { w with csr := { w.csr with hbLatch := some (highHalf s.heartbeat) } }
  | 0x24 => { w with csr := { w.csr with hbLatch := none } }
  | _ => w

/-- R220: CSRR. -/
def csrrAct (q : Bool) (d : BitVec 7) (n : BitVec 8) (s : State) : Act :=
  .done (s.onW fun w => s.csrRead n.toNat
    (if q then w.wrS d.toNat (s.csrVal w n.toNat w.firstLane) else w.wrV d.toNat fun l => s.csrVal w n.toNat l))

/-- Use of CSRR. -/
def csrrUse (q : Bool) (d : BitVec 7) : Use := useOf 6 [] [if q then sdst d.toNat 1 else vdst d 1]

def execCsrr (q : Bool) (d : BitVec 7) (n : BitVec 8) (s : State) : Out := issue (csrrUse q d) (csrrAct q d n) s

/-- A 64-bit register with its low half replaced. -/
def withLow (r : Addr) (x : Word) : Addr := pairBits (highHalf r) x

/-- A 64-bit register with its high half replaced. -/
def withHigh (r : Addr) (x : Word) : Addr := pairBits x (lowHalf r)

/-- A write of a special register: reserved bits are ignored (R7, R220; Tables 3.10, 5.3, 19.9). -/
def WaveCsr.write (c : WaveCsr) (n : Nat) (x : Word) : WaveCsr :=
  match n with
  | 0x08 => { c with codebase := withLow c.codebase (x &&& 0xFFFFFFFC) }
  | 0x09 => { c with codebase := withHigh c.codebase x }
  | 0x0A => { c with fpmode := x &&& 3 }
  | 0x0B => { c with arithf := x &&& 0xFF }
  | 0x0C => { c with arithe := x &&& 0xFF }
  | 0x0D => { c with tvec := withLow c.tvec x }
  | 0x0E => { c with tvec := withHigh c.tvec x }
  | 0x0F => { c with epc := withLow c.epc x }
  | 0x10 => { c with epc := withHigh c.epc x }
  | 0x11 => { c with cont := withLow c.cont x }
  | 0x12 => { c with cont := withHigh c.cont x }
  | 0x22 => { c with copyerr := x &&& 0xFFFF003F }
  | _ => c

/-- The value that CSRW writes: of a vector, the lowest-numbered active lane's. -/
def Wave.csrwVal (w : Wave) (q : Bool) (a : BitVec 7) : Word := if q then w.rdS a.toNat else w.lane a.toNat w.firstLane

def execCsrw (q : Bool) (wa : Bool) (a : BitVec 7) (n : BitVec 8) (s : State) : Out :=
  issueW (useOf 6 [bsrc q a 1 wa] []) (fun w => { w with csr := w.csr.write n.toNat (w.csrwVal q a) }) s

/-! ### Traps and returns (R221 to R223) -/

def execTrap (code : BitVec 7) (s : State) : Out :=
  issue (useOf 6 [] []) (fun s => .trap (0x80 + code.toNat) 0 s.w.flow.mask) s

/-- Does an operation of the wave that may OR flags when it completes still run (R67, R222)? -/
def State.flagsPending (s : State) (w : Wave) : Bool :=
  let c := s.core w.id.core
  (c.ta.any fun a => a.2.queue.any fun o => o.wid == w.id.wid && o.kind != .request) ||
  (c.xq.any fun o => o.wid == w.id.wid) || (c.tlfq.any fun o => o.wid == w.id.wid && !o.enc) ||
  (c.decq.any fun o => o.wid == w.id.wid) ||
  w.mem.loads.any fun l => l.flags

/-- R222. -/
def tfenceAct (s : State) : Act :=
  if s.flagsPending s.w then .wait s
  else if s.w.csr.arithf &&& s.w.csr.arithe ≠ 0 then s.w.trapAct cARITH
  else .done s

def execTfence (s : State) : Out := issue (useOf 6 [] []) tfenceAct s

/-- R223: RFT, which resumes at the position that follows EPC and ends handler state (R54). -/
def rftAct (s : State) : Act :=
  s.resumeAct s.w.csr.epc true fun pc skip => .goto (s.onW fun w =>
    let v := { w with flow := { w.flow with handler := false } }.jump pc
    { v with flow := { v.flow with skip := skip } })

def execRft (s : State) : Out := issue (useOf 6 [] []) rftAct s

/-- R223, R333: RESUMEF. -/
def resumefAct (s : State) : Act :=
  let t := s.w.csr.ftoken
  if t = 0 then .done s
  else if (s.die.faults.any fun f => f.token == t.toNat) then .wait (s.onW fun w => w.withHold (.fault [t.toNat]))
  else s.resumeAct s.w.csr.fpc false fun _ _ => .goto (s.onW Wave.resumef)

def execResumef (s : State) : Out := issue (useOf 6 [] []) resumefAct s

/-! ### Counters (R224, R225) -/

def execHbeat (d : BitVec 6) (s : State) : Out :=
  issue (useOf 6 [] [sdst d.toNat 2]) (fun s => .done (s.onW fun w => w.wrS2 d.toNat s.heartbeat)) s

/-- The cycle counter of a core: core cycles since cold reset (R224; that the cores count alike is log 12). -/
def State.cycleCount (s : State) (_core : Nat) : BitVec 64 := BitVec.ofNat 64 s.pkg.coreClock

def execClock (d : BitVec 6) (s : State) : Out :=
  issue (useOf 6 [] [sdst d.toNat 2]) (fun s => .done (s.onW fun w => w.wrS2 d.toNat (s.cycleCount w.id.core))) s

def execPerfc (d : BitVec 6) (n : BitVec 8) (s : State) : Out :=
  issueW (useOf 6 [] [sdst d.toNat 1]) (fun w => w.wrS d.toNat (w.csr.perf.getD n.toNat 0)) s

/-! ### Breakpoints (R226, R353) -/

/-- A wave that stops enters BKQ, or waits to be entered while it is full (R353). -/
def State.enterBkq (s : State) (e : Nat × Addr × Nat) : State :=
  if s.host.bkq.length < 64 then
    let t := s.onHost fun h => { h with bkq := h.bkq ++ [e] }
    if s.host.bkq.isEmpty then t.raise 3 else t
  else s.onHost fun h => { h with bkwait := h.bkwait ++ [e] }

/-- R226. -/
def bkptAct (s : State) : Act :=
  if s.host.bkpten then
    .left ((s.enterBkq (s.w.id.core, s.w.flow.pc, s.w.id.slot)).onW fun w =>
      { w with flow := { w.flow with hold := .bkpt, stalled := false } })
  else .done s

def execBkpt (s : State) : Out := issue (useOf 6 [] []) bkptAct s

end Sys2Proof.Machine
end

