-- ==== Sys2Proof/Machine/Host.lean ====
section
/-! DEFINITION. The host interface: commands, job control, fault queues, tables, the mailbox, host memory, peers and
alarms (spec/27_host_peers_security.md R346 to R367, R370; 09 R148, R154). -/

namespace Sys2Proof.Machine

/-! ### Kicks and shootdowns (R148, R154, R352) -/

/-- Is a virtual address in a 2 MiB range? -/
def inRange (base va : Nat) : Bool := va / 2 ^ 21 == base

/-- Does any access that waves have issued touch an address that satisfies `p`? -/
def State.accessing (s : State) (p : Nat → Bool) : Bool :=
  s.waves.any (fun w => (w.mem.sq.any fun e => !e.tile && e.lanes.any fun l => p l.va) ||
    (w.mem.loads.any fun e => e.kind != .tile && e.lanes.any fun l => p l.va) || w.mem.strong.any fun e => p e.va) ||
  (s.die.saved.any fun u => u.waves.any fun x => x.wave.mem.loads.any fun e => e.kind != .tile && e.lanes.any fun l => p l.va) ||
  s.cores.any fun c => c.2.wbuf.any fun q => q.2.any fun e => p e.va

/-- Do lines of 256 bytes meet a range of 2 MiB? -/
def linesIn (base lo hi : Nat) : Bool := decide (lo < (base + 1) * 8192) && decide (base * 8192 ≤ hi)

/-- Does a copy that has started touch a range, by its operands or by the range-lock entry of a decode that has read its
header? -/
def State.copying (s : State) (base : Nat) : Bool :=
  (s.cores.any fun c => c.2.copies.any fun x => x.started && !x.bad && x.lockRanges.any fun r => linesIn base r.1 r.2.1) ||
  s.die.locks.any fun l => linesIn base l.lo l.hi

/-- Does a region hold a line of a range? -/
def State.regionIn (s : State) (p : Nat → Bool) : Bool := s.die.regions.any fun e => e.2.versions.any fun v => p v.va

/-- Change the state of a handover entry. -/
def State.setHo (s : State) (n : Nat) (e : HoEnt) : State := s.onTabs fun t => { t with hotab := put t.hotab n e }

/-- A command completes (R352). -/
def State.cmdOver (s : State) (err : Bool) : State :=
  (s.onHost fun h => { h with cmdq := h.cmdq.drop 1, cmdDone := h.cmdDone + 1, kerr := h.kerr || err }).raise 7

/-- Serve an outstanding HANDOVER of a range (R335). -/
def State.serviceRange (s : State) (n : Nat) : State :=
  match s.die.faults.find? fun f => f.key == .range n with
  | none => s
  | some f => s.service f.token

/-- A kick to the device: every L1 and L2 copy of the range's lines goes, with what the records of those lines demand (R139),
and the range is DEVICE; `none`: a write-back that a record demands must wait (23 R325), or none is made after HALT. -/
def State.toDevice (s : State) (n : Nat) (e : HoEnt) : Option State :=
  if s.tabs.halted then none else
  let t := forEach s.coreNos s fun k t => t.onCore k fun c => { c with l1 := c.l1.filter fun l => !inRange e.base l.2.va }
  let lines := (t.die.l2.filter fun l => inRange e.base l.2.va).map (·.1)
  (lines.foldlM (fun (t : State) l => (t.recordLeaves l).map fun u => u.l2Drop l) t).map fun u =>
    (u.setHo n { e with state := 0 }).serviceRange n

/-- Every core writes back its dirty bytes of a range and drops its lines, and the L2 writes back and invalidates its own;
`none`: regions hold lines of it (23 R325). -/
def State.flushRange (s : State) (p : Nat → Bool) : Option State :=
  (s.coreNos.foldlM (fun (t : State) k => (t.wbTry none k fun l => p l.va).map fun u => u.l1Discard k fun l => p l.va) s).bind fun t =>
    ((t.die.l2.filter fun l => p l.2.va).map (·.1)).foldlM (fun (u : State) l => u.l2Leaves l) t

/-- The valid handover entry of a kick. -/
def State.kickEnt (s : State) (n : Nat) : Option HoEnt := (look? s.tabs.hotab n).bind fun e => if e.valid then some e else none

/-- Drop the translations that a shootdown names (R154). -/
def State.shootDown (s : State) (val : Nat) : State :=
  s.tlbDrop fun e => val.testBit 0 || (decide (bitsN val 16 33 ≤ e.vpn) && decide (e.vpn ≤ bitsN val 16 33 + bitsN val 49 15))

/-- Serve the commands at the head of the queue as far as that goes at once; `n` bounds them. -/
def State.serveCmds (s : State) : Nat → State
  | 0 => s
  | n + 1 => match s.host.cmdq with
    | [] => s
    | .todev r :: _ => match s.kickEnt r with
      | none => (s.cmdOver true).serveCmds n
      | some e => match s.toDevice r e with
        | some t => (t.cmdOver false).serveCmds n
        | none => s
    | .tohost r :: _ => match s.kickEnt r with
      | none => (s.cmdOver true).serveCmds n
      | some e => s.setHo r { e with state := 1 }
    | .shoot v :: _ => s.shootDown v

/-- A kick to the device that had to wait is tried again. -/
def State.retryCmd (s : State) : State := match s.host.cmdq with
  | .todev _ :: _ => s.serveCmds 17
  | _ => s

/-- A command enters the queue, or is dropped with OVF (R352). -/
def State.command (s : State) (c : Cmd) : State :=
  if 16 ≤ s.host.cmdq.length then s.onHost fun h => { h with ovf := true }
  else
    let t := s.onHost fun h => { h with cmdq := h.cmdq ++ [c] }
    if s.host.cmdq.isEmpty then t.serveCmds 17 else t

def execKickTodev (n : BitVec 8) (s : State) : Out := .next (s.command (.todev n.toNat))
def execKickTohost (n : BitVec 8) (s : State) : Out := .next (s.command (.tohost n.toNat))
def execShoot (val : BitVec 64) (s : State) : Out := .next (s.command (.shoot val.toNat))

/-- KICK_TOHOST_COMPLETE: once every access and copy on the range has ended, its bytes go home and it is HOST (R148). -/
def execKickTohostComplete (s : State) : Out :=
  match s.host.cmdq with
  | .tohost n :: _ => match s.kickEnt n with
    | none => quietly s
    | some e =>
      let p := inRange e.base
      if s.accessing p || s.copying e.base || s.regionIn p || s.tabs.halted then quietly s
      else match s.flushRange p with
        | none => quietly s
        | some u => .next (((u.setHo n { e with state := 2 }).cmdOver false).serveCmds 17)
  | _ => quietly s

/-- SHOOTDOWN_COMPLETE: once every access that was translated with the entries has performed (R154). -/
def execShootdownComplete (s : State) : Out :=
  match s.host.cmdq with
  | .shoot v :: _ =>
    let p : Nat → Bool := fun va => v.testBit 0 ||
      (decide (bitsN v 16 33 ≤ va / 65536) && decide (va / 65536 ≤ bitsN v 16 33 + bitsN v 49 15))
    if s.accessing p then quietly s else .next (((s.shootDown v).cmdOver false).serveCmds 17)
  | _ => quietly s

/-- CMDSTAT as it reads (R352). -/
def HostRegs.cmdstat (h : HostRegs) : Nat :=
  h.cmdDone.toNat * 65536 + (if h.kerr then 512 else 0) + (if h.ovf then 256 else 0) + h.cmdq.length

/-- CMDSTAT_READ. -/
def execCmdstatRead (s : State) : Out :=
  .next ((s.answer false s.host.cmdstat).onHost fun h => { h with kerr := false, ovf := false })

/-! ### Job control (R354, R370) -/

/-- BKPTEN, STOP and JOBID of a JOBCTL write; JOBID is latched while a job runs. -/
def State.jobBits (s : State) (val : BitVec 64) : State :=
  s.onHost fun h => { h with bkpten := val.getLsbD 2, stop := val.getLsbD 1, jobid := if h.run then h.jobid else highHalf val }

/-- RUN = 1 while no job runs starts the job, under a fresh save key; a die that the boot has not enabled starts none (log
14). -/
def State.startJob (s : State) (val : BitVec 64) : State :=
  if s.host.run then s.jobBits val
  else if !s.tabs.enabled then s
  else
    let t := (s.jobBits val).onHost fun h => { h with run := true, jobDead := false, supf := List.replicate 8 0 }
    { (t.onTabs fun x => { x with power := .active }).onPkg fun p => { p with saveKey := some s.fresh } with fresh := s.fresh + 1 }

/-- JOB_RUN. -/
def execJobRun (val : BitVec 64) (s : State) : Out := .next (s.startJob val)

/-- Every dirty byte of the L1s, then of the L2, is written back, once no region, load or pin is left that could hold one; no
write-back is made after HALT (R354, R364). -/
def State.writeBackAll (s : State) : State :=
  if s.tabs.halted then s
  else
    let t := forEach s.coreNos s fun k t => (t.wbTry none k fun _ => true).getD t
    forEach (t.die.l2.map (·.1)) t fun l u => u.l2WriteBack l

/-- A queue when a job has ended: disabled, its other fields as written (R370). -/
def TaskQueue.off (t : TaskQueue) : TaskQueue :=
  { t with enable := false, chip := [], head := 0, tail := 0, unwritten := [], wtoken := none, rtoken := none, blocked := [], due := none, expired := false }

/-- What is left of a job's state once it has ended (R354 steps 3 to 5, R370). -/
def State.clearJob (s : State) : State :=
  let d : Die := { Die.reset with die := s.die.die, tokens := s.die.tokens, queues := s.die.queues.map fun e => (e.1, e.2.off) }
  let cs := s.cores.map fun e => (e.1, { Core.empty with copySeq := e.2.copySeq })
  let sc : Sched :=
    { Sched.reset with launchNo := s.sched.launchNo, nextWid := s.sched.nextWid, nextBlk := s.sched.nextBlk, ageNo := s.sched.ageNo }
  let t : State := { s with w := Wave.blank, others := [], cores := cs, die := d, sched := sc }
  let u := t.onHost fun h => { h with run := false, jobDead := false, upload := none, patching := false, gstat := h.gstat &&& 0x7FFFFFFF
                                      faultq := [], faultLatch := (0, 0), bkq := [], bkwait := [], bkLatch := (0, 0) }
  let keep : Nat × Nat → Bool := fun e => e.1 / 8 != s.die.die
  (u.onPkg fun p => { p with keys := p.keys.filter keep, saveKey := none }).onTabs fun x =>
    { x with power := if x.power = .active then .idle else x.power, mbox := [], peerWait := [] }

/-- STOP = 1 ends the job. -/
def State.endJob (s : State) (val : BitVec 64) : State :=
  if s.host.run then ((s.jobBits val).stopJob.writeBackAll).clearJob else s.jobBits val

/-- JOB_STOP. -/
def execJobStop (val : BitVec 64) (s : State) : Out := .next (s.endJob val)

/-! ### FAULTQ, FAULTDONE, BKQ, BKREL (R353) -/

/-- FAULTQ_POP. -/
def execFaultqPop (wide : Bool) (s : State) : Out :=
  match s.host.faultq with
  | [] => .next ((s.answer false 0).onHost fun h => { h with faultLatch := (0, 0) })
  | (tok, w1) :: rest =>
    let t := s.onHost fun h => { h with faultq := rest, faultLatch := (BitVec.ofNat 64 tok, w1) }
    .next ((t.answer false (if wide then tok else tok % 2 ^ 32)).fillFaultq)

/-- A stop that waited enters BKQ. -/
def State.fillBkq (s : State) : State :=
  match s.host.bkwait with
  | [] => s
  | e :: rest => if s.host.bkq.length < 64 then (s.onHost fun h => { h with bkwait := rest }).enterBkq e else s

/-- BKQ_POP. -/
def execBkqPop (wide : Bool) (s : State) : Out :=
  match s.host.bkq with
  | [] => .next ((s.answer false 0).onHost fun h => { h with bkLatch := (0, 0) })
  | (core, pos, slot) :: rest =>
    let t := s.onHost fun h => { h with bkq := rest, bkLatch := (pos, BitVec.ofNat 32 (core * 256 + slot)) }
    .next ((t.answer false (if wide then pos.toNat else (lowHalf pos).toNat)).fillBkq)

/-- BKREL: the wave resumes after its BKPT. -/
def execBkrel (val : BitVec 32) (s : State) : Out :=
  let core := bitsN val.toNat 8 8
  let slot := bitsN val.toNat 0 8
  match s.waves.find? fun w => w.id.core == core && w.id.slot == slot && w.flow.hold == .bkpt with
  | none => quietly s
  | some w =>
    let t := s.onHost fun h => { h with bkwait := h.bkwait.filter fun e => !(e.1 == core && e.2.2 == slot) }
    .next (t.onWave w.id.wid Wave.advance)

/-! ### Host accesses to memory (R348, R349) -/

/-- The page of an HDM byte, if its entry is valid and its leaf permits the access and has no key. -/
def State.hdmPage (s : State) (hdm : Nat) (wr : Bool) : Option (Nat × Nat) :=
  match s.kickEnt (hdm / 2 ^ 21) with
  | none => none
  | some e => match s.walk (e.base * 2 ^ 21 + hdm % 2 ^ 21) with
    | .leaf l =>
      if (if wr then l.w else l.r) && !fieldsKeyen l.fields then some (l.frame * 65536 + hdm % 65536, l.fields) else none
    | _ => none

/-- What the walk for an HDM byte leaves where it leads to no page: a block of the tables whose chunk has a decode error is
recoded (05 R84). -/
def State.hdmWalked (s : State) (hdm : Nat) : State := match s.kickEnt (hdm / 2 ^ 21) with
  | none => s
  | some e => s.walked (e.base * 2 ^ 21 + hdm % 2 ^ 21)

/-- HOST_MEM_READ: an access lies in one line of 64 bytes. -/
def execHostMemRead (hdm : BitVec 29) (n : BitVec 7) (s : State) : Out :=
  match s.hdmPage hdm.toNat false with
  | none => .next ((s.hdmWalked hdm.toNat).answer true 0)
  | some (pa, f) => .next (s.homeRead pa (min n.toNat (64 - hdm.toNat % 64)) f)

/-- HOST_MEM_WRITE: up to 8 bytes of one line of 64 bytes. -/
def execHostMemWrite (hdm : BitVec 29) (n : BitVec 4) (data : BitVec 64) (s : State) : Out :=
  match s.hdmPage hdm.toNat true with
  | none => .next (s.hdmWalked hdm.toNat)
  | some (pa, f) =>
    if s.tabs.halted then .next s
    else match s.homeWrite pa f (natBytes (min (min n.toNat 8) (64 - hdm.toNat % 64)) data.toNat) with
      | some t => .next t
      | none => quietly s

/-! ### Peers (R356 to R358) -/

/-- The REDOP of a peer's reduce-add, 0 for a read or a write (R284, R356). -/
def peerRedop : PeerOp → Nat
  | .read => 0
  | .write => 0
  | .addI32 => 1
  | .addF32 => 2
  | .addBf16 => 3

/-- Does an export entry permit a request (R358)? -/
def exportOk (e : Nat) (peer off : Nat) (op : PeerOp) : Bool :=
  e.testBit 63 && (e.testBit 49 || bitsN e 50 10 == peer) && decide (off / 65536 < bitsN e 64 32) &&
  match op with
  | .read => true
  | .write => e.testBit 62
  | _ => e.testBit 61

/-- A request that UALink carries: at most 256 bytes, in one block of 256 bytes, whole elements of a reduce-add (R356). -/
def peerFits (off n : Nat) (op : PeerOp) : Bool :=
  decide (1 ≤ n) && decide (off % 256 + n ≤ 256) &&
  (peerRedop op == 0 || (n % redSize (peerRedop op) == 0 && off % redSize (peerRedop op) == 0))

/-- A request at the exporter's home, once translated; a reduce-add of poisoned bytes changes nothing. -/
def State.peerServe (s : State) (pa fields : Nat) (op : PeerOp) (n data : Nat) : Option State :=
  match op with
  | .read => some (s.homeRead pa n fields)
  | .write => if s.tabs.halted then some s else s.homeWrite pa fields (natBytes n data)
  | _ =>
    let t := s.homeRead pa n fields
    if s.tabs.halted || t.tabs.lastRead.1 then some t
    else t.homeWrite pa fields (raddBytes (peerRedop op) (natBytes n t.tabs.lastRead.2) (natBytes n data))

/-- A request that has passed the checks of the export entry, for the virtual address that the entry gave it then: the die
translates it through its own tables. An absent page is an engine fault here, and the request waits; a refusal is answered
with an error. `none`: it cannot be performed yet. -/
def State.peerTry (s : State) (r : PeerReq) : Option State :=
  match s.engine r.va (r.op != .write) (r.op != .read) with
  | .absent =>
    let j := s.joinFault (.page (r.va / 65536)) r.va true
    some (j.1.onTabs fun t => { t with peerWait := t.peerWait ++ [{ r with token := j.2 }] })
  | .ok pa f => s.peerServe pa f r.op r.n r.data
  | .poison => some ((s.recodeAt r.va).answer true 0)
  | _ => some (s.answer true 0)

/-- PEER_REQUEST (R358). -/
def execPeerRequest (idx : BitVec 8) (peer : BitVec 10) (off : BitVec 48) (op : PeerOp) (data : PeerData) (s : State) : Out :=
  if peerFits off.toNat data.len.toNat op then
    if exportOk (look 0 s.tabs.exports idx.toNat) peer.toNat off.toNat op then
      let r : PeerReq :=
        { va := bitsN (look 0 s.tabs.exports idx.toNat) 16 33 * 65536 + off.toNat, op := op, n := data.len.toNat
          data := data.bytes.toNat, token := 0 }
      match s.peerTry r with
      | some t => .next t
      | none => quietly s
    else .next (s.answer true 0)
  else quietly s

/-- Requests of peers that waited are served, once the faults that they wait on have been serviced. -/
def State.servePeers (s : State) : State :=
  let due : PeerReq → Bool := fun r => !s.die.faults.any fun f => f.token == r.token
  forEach (s.tabs.peerWait.filter due) s fun r t =>
    ((t.onTabs fun x => { x with peerWait := x.peerWait.erase r }).peerTry r).getD t

/-- A write of FAULTDONE: the fault is serviced for every waiter; an upload and peers' requests that waited go on. -/
def State.faultDone (s : State) (tok : BitVec 64) : State := (s.service tok.toNat).resumeUpload.servePeers

/-- FAULTDONE. -/
def execFaultdone (token : BitVec 64) (s : State) : Out := .next (s.faultDone token)

/-! ### Tables (R351, R355, R357) -/

/-- A handover entry that no write has made valid. -/
def HoEnt.none : HoEnt := { valid := false, state := 0, base := 0 }

/-- A write of a handover entry (R351). -/
def State.writeHotab (s : State) (n : Nat) (val : BitVec 64) : State :=
  let old := look HoEnt.none s.tabs.hotab n
  let base := bitsN val.toNat 21 28
  let new : HoEnt := { valid := val.getLsbD 63, state := if val.getLsbD 63 then 2 else 0, base := base }
  if old.valid && old.state != 2 then s
  else if new.valid && s.tabs.hotab.any (fun e => e.1 != n && e.2.valid && e.2.base == base) then s
  else s.setHo n new

/-- HOTAB_WRITE. -/
def execHotabWrite (n : BitVec 8) (val : BitVec 64) (s : State) : Out := .next (s.writeHotab n.toNat val)

/-- Does a queue's entry pass the checks of ENABLE (R355)? -/
def TaskQueue.ok (t : TaskQueue) : Bool :=
  decide (t.log2cap ≤ 20) && t.ringbase.toNat % (32 * 2 ^ t.log2cap) == 0 && decide (t.ringbase.toNat < 2 ^ 49) && t.reserved == 0 &&
  (!t.launch || (entryOk t.entry.toNat && decide (8 ≤ t.vregs) && decide (t.vregs ≤ 128) && t.vregs % 8 == 0 && decide (t.timer ≤ 256)))

/-- ENABLE := 1, if the entry passes. -/
def State.enableQueue (s : State) (q : Nat) : State :=
  if (s.queue q).ok then s.onQueue q fun t => { t with enable := true } else s

/-- ENABLE := 0: every record is discarded, and blocked TQPOPs complete with an empty mask. -/
def State.disableQueue (s : State) (q : Nat) : State :=
  if (s.queue q).enable then
    let b := (s.queue q).blocked
    (s.onQueue q fun t => { t.off with blocked := b }).wakePops q b.length
  else s

/-- TQCFG_ENABLE. -/
def execTqcfgEnable (q : BitVec 6) (s : State) : Out :=
  .next (if (s.queue q.toNat).enable then s else s.enableQueue q.toNat)

/-- TQCFG_DISABLE. -/
def execTqcfgDisable (q : BitVec 6) (s : State) : Out := .next (s.disableQueue q.toNat)

/-- The low 192 bits of a configuration entry as they read: reserved bits read 0 (Table 27.6, 00 R7). -/
def TaskQueue.raw (t : TaskQueue) : Nat :=
  t.ringbase.toNat + t.prio * 2 ^ 77 + t.vregs * 2 ^ 80 + t.log2cap * 2 ^ 88 + (if t.launch then 2 ^ 94 else 0) +
    (if t.enable then 2 ^ 95 else 0) + t.timer * 2 ^ 96 + t.entry.toNat * 2 ^ 128

/-- The entry with the fields of a written value, ENABLE apart. -/
def TaskQueue.ofRaw (t : TaskQueue) (r : Nat) : TaskQueue :=
  { t with ringbase := BitVec.ofNat 64 (bitsN r 0 64), prio := bitsN r 77 3, vregs := bitsN r 80 8, log2cap := bitsN r 88 5
           launch := r.testBit 94, timer := bitsN r 96 16, entry := BitVec.ofNat 64 (bitsN r 128 64)
           reserved := bitsN r 64 13 * 2 ^ 64 + bitsN r 93 1 * 2 ^ 93 + bitsN r 112 16 * 2 ^ 112 }

/-- `n` bytes of a number replaced from byte `o` on. -/
def spliceBytes (x o n v : Nat) : Nat := x - bitsN x (8 * o) (8 * n) * 2 ^ (8 * o) + v % 2 ^ (8 * n) * 2 ^ (8 * o)

/-- A write in TQCFG: COUNT is read-only, and other fields than ENABLE are written only while ENABLE = 0. Reserved bits that
a write sets are kept for the check of ENABLE. -/
def State.writeTqcfg (s : State) (q o n v : Nat) : State :=
  let t := s.queue q
  if 24 ≤ o then s
  else
    let r := spliceBytes (t.raw + t.reserved) o n v
    if t.enable then (if r.testBit 95 then s else s.disableQueue q)
    else
      let u := s.onQueue q fun t => t.ofRaw r
      if r.testBit 95 then u.enableQueue q else u

/-! ### Registers without behaviour of their own (R347) -/

/-- A write to a W register's high half, with the low half of the last write at + 0 (R347). -/
def State.highWrite (s : State) (off : Nat) (val : BitVec 64) : State :=
  if off = 0x00 then s.writeGtrig val
  else if off = 0x08 then s.writeGupload val
  else if off = 0x28 then s.command (.shoot val.toNat)
  else s.faultDone val

/-- The low half stored for a W register. -/
def HostRegs.low (h : HostRegs) (off : Nat) : Word :=
  if off = 0x00 then h.gtrigLow else if off = 0x08 then h.guploadLow else if off = 0x28 then h.shootLow else h.faultdoneLow

/-- Is an offset that of a 64-bit register of Access W? -/
def wReg (off : Nat) : Bool := [0x00, 0x08, 0x28, 0x70].contains off

/-- A part of a 64-bit register replaced. -/
def splice64 (x : BitVec 64) (off n : Nat) (val : BitVec 64) : BitVec 64 := BitVec.ofNat 64 (spliceBytes x.toNat (off % 8) n val.toNat)

/-- A JOBCTL write that may set RUN or STOP. -/
def State.writeJobctl (s : State) (val : BitVec 64) : State :=
  if val.getLsbD 1 then s.endJob val else if val.getLsbD 0 then s.startJob val else s.jobBits val

/-- Registers that are written only while no job runs. -/
def State.writeIdle (s : State) (off n : Nat) (val : BitVec 64) : State :=
  if s.host.run then s
  else if off / 8 = 7 then s.onHost fun h => { h with troot := splice64 h.troot off n val &&& 0x00003FFFFFE00000 }
  else if off / 8 = 9 then s.onHost fun h => { h with savebase := splice64 h.savebase off n val }
  else s.onHost fun h => { h with savesize := splice64 h.savesize off n val }

/-- The import and export tables: reserved bits are ignored (R7, Table 27.7). -/
def peerMask (imp : Bool) : Nat :=
  bitsN (2 ^ 32 - 1) 0 32 * 2 ^ 64 + 2 ^ 63 + 2 ^ 62 + 2 ^ 61 + (if imp then 2 ^ 60 else 0) + (2 ^ 10 - 1) * 2 ^ 50 +
    (if imp then 0 else 2 ^ 49) + (2 ^ 33 - 1) * 2 ^ 16 + (if imp then 255 else 0)

/-- A write in a table of 128-bit entries. -/
def writeEntry (m : Map Nat) (imp : Bool) (off n v : Nat) : Map Nat :=
  upd 0 m (off / 16) fun x => (spliceBytes x (off % 16) n v) &&& peerMask imp

/-- A handover entry as it reads (Table 27.5). -/
def HoEnt.bits (e : HoEnt) : Nat := (if e.valid then 2 ^ 63 else 0) + e.state * 2 ^ 61 + e.base * 2 ^ 21

/-- A write of 4 or 8 bytes in HOTAB: a half is written with the other half as it reads (R347, R351). -/
def State.hotabBytes (s : State) (off n v : Nat) : State :=
  s.writeHotab (off / 8) (BitVec.ofNat 64 (spliceBytes (look HoEnt.none s.tabs.hotab (off / 8)).bits (off % 8) n v))

/-- A write of `n` bytes of the mailbox buffer. -/
def putMbox (m : Map Byte) (off : Nat) (bs : List Byte) : Map Byte := putBytes m off bs

/-- The bytes of a write in the mailbox: a command word, at its offset 0, reads with bit 31 set until the command completes
(R362). -/
def mboxWrite (off n v : Nat) : List Byte :=
  let bs := natBytes n v
  if off = 0 then natBytes 4 (v % 65536 + 2 ^ 31) ++ bs.drop 4 else bs

/-- An MMIO write of 4 or 8 bytes, naturally aligned; an offset that is not listed, or not writable, ignores it. R362 does not
say what a command does that is written while bit 31 of the last one still reads 1; the model lets it take that one's place
(log 75). -/
def State.mmioWrite (s : State) (off n : Nat) (val : BitVec 64) : State :=
  let v := val.toNat % 2 ^ (8 * n)
  if off % n ≠ 0 then s
  else if wReg (off / 8 * 8) then
    (if n = 8 then s.highWrite off val
     else if off % 8 = 4 then s.highWrite (off - 4) (pairBits (lowHalf val) (s.host.low (off - 4)))
     else s)
  else if off / 8 = 8 then
    (if n = 8 then s.writeJobctl val
     else if off = 0x40 then s.writeJobctl (pairBits s.host.jobid (lowHalf val))
     else s.onHost fun h => { h with jobid := if h.run then h.jobid else lowHalf val })
  else if off / 8 = 7 ∨ off / 8 = 9 ∨ off / 8 = 10 then s.writeIdle off n val
  else if off = 0x58 then s.onHost fun h => { h with peerto := lowHalf val &&& 0xFFFFFF }
  else if 0x100 ≤ off ∧ off < 0x900 then s.hotabBytes (off - 0x100) n v
  else if 0x1000 ≤ off ∧ off < 0x1800 then s.writeTqcfg ((off - 0x1000) / 32) (off % 32) n v
  else if 0x2000 ≤ off ∧ off < 0x3000 then s.onTabs fun t => { t with imports := writeEntry t.imports true (off - 0x2000) n v }
  else if 0x3000 ≤ off ∧ off < 0x4000 then s.onTabs fun t => { t with exports := writeEntry t.exports false (off - 0x3000) n v }
  else if 0x5000 ≤ off ∧ off < 0x6000 then s.onTabs fun t => { t with mbox := putMbox t.mbox (off - 0x5000) (mboxWrite (off - 0x5000) n v) }
  else if off = 0x6000 ∧ s.die.die = 0 ∧ s.tabs.alarmcfg.getLsbD 31 = false then
    s.onTabs fun t => { t with alarmcfg := lowHalf val &&& 0x800000FF }
  else s

/-- REGISTER_WRITE. -/
def execRegisterWrite (off : BitVec 16) (wide : Bool) (val : BitVec 64) (s : State) : Out :=
  .next (s.mmioWrite off.toNat (if wide then 8 else 4) val)

/-- LOW_HALF_WRITE. -/
def execLowHalfWrite (off : BitVec 16) (val : BitVec 32) (s : State) : Out :=
  .next (s.onHost fun h =>
    if off.toNat = 0x00 then { h with gtrigLow := val }
    else if off.toNat = 0x08 then { h with guploadLow := val }
    else if off.toNat = 0x28 then { h with shootLow := val }
    else if off.toNat = 0x70 then { h with faultdoneLow := val } else h)

/-! ### The security mailbox (R361 to R363) -/

/-- Bytes of the mailbox. -/
def State.mboxBytes (s : State) (off n : Nat) : List Byte := (List.range n).map fun i => look 0 s.tabs.mbox (off + i)

/-- A mailbox command has completed, with a status and bytes for the buffer: bit 31 of its word reads 0 (R362). -/
def State.mboxDone (s : State) (cmd slot status : Nat) (buf : List Byte) : State :=
  (s.onTabs fun t => { t with mbox := putMbox (putMbox t.mbox 0 (natBytes 4 (cmd + 256 * slot) ++ natBytes 4 status)) 0x800 (buf.take 2048) }).raise 6

/-- SLOT of the mailbox's command word. -/
def State.mboxSlot (s : State) : Nat := (look 0 s.tabs.mbox 1).toNat

/-- GETCERT. -/
def execGetcert (s : State) : Out := .next (s.mboxDone 1 s.mboxSlot 0 Config.certificate)

/-- The security version and the measurement of the firmware that booted the package (27 R360). -/
def HostTabs.firmwareOf (t : HostTabs) : Word × BitVec 384 := match t.firmware with
  | none => (Config.firmwareVersion, Config.measurement)
  | some i => (i.version, Config.measurementOf i.version i.bootcfg)

/-- BOOTCFG, ALARMCFG and the key slots as a report gives them, and the report up to the nonce (Table 27.8). -/
def State.attestBytes (s : State) (nonce : List Byte) : List Byte :=
  let held := (List.range 8).foldl (fun a i => a + if (look? s.pkg.keys (8 * s.die.die + i)).isSome then 2 ^ i else 0) 0
  natBytes 4 1 ++ natBytes 4 s.die.die ++ natBytes 16 Config.serial.toNat ++ natBytes 4 s.tabs.firmwareOf.1.toNat ++
    natBytes 4 s.tabs.bootcfg.toNat ++ natBytes 4 (if s.die.die = 0 then s.tabs.alarmcfg.toNat else 0) ++ natBytes 4 held ++
    natBytes 4 (if s.host.run then s.host.jobid.toNat else 0) ++ natBytes 4 0 ++ natBytes 48 s.tabs.firmwareOf.2.toNat ++ nonce

/-- ATTEST; with the private keys zeroed the signature is undefined (R364). -/
def execAttest (s : State) : Out :=
  let body := s.attestBytes (s.mboxBytes 0x800 48)
  if s.tabs.erased then
    let b := s.drawBytes 96
    .next (b.2.mboxDone 2 s.mboxSlot 0 (body ++ b.1))
  else .next (s.mboxDone 2 s.mboxSlot 0 (body ++ Config.signature body))

/-- Is a key slot this device's (R363)? -/
def State.ownSlot (s : State) (slot : Nat) : Bool := slot / 8 == s.die.die

/-- KEYLOAD. -/
def execKeyload (slot : BitVec 8) (s : State) : Out :=
  let k := slot.toNat
  if s.ownSlot k = false then .next (s.mboxDone 3 k 2 [])
  else if (look? s.pkg.keys k).isSome then .next (s.mboxDone 3 k 1 [])
  else match (if s.tabs.erased then none else Config.unwrap (s.mboxBytes 0x800 169)) with
    | none => .next (s.mboxDone 3 k 3 [])
    | some key => .next ((s.onPkg fun p => { p with keys := put p.keys k (key + 1) }).mboxDone 3 k 0 [])

/-- KEYERASE. -/
def execKeyerase (slot : BitVec 8) (s : State) : Out :=
  let k := slot.toNat
  if s.ownSlot k then .next ((s.onPkg fun p => { p with keys := del p.keys k }).mboxDone 4 k 0 [])
  else .next (s.mboxDone 4 k 2 [])

/-- UNKNOWN_COMMAND. -/
def execUnknownCommand (cmd : BitVec 16) (s : State) : Out :=
  let c := cmd.toNat % 256
  if 1 ≤ c ∧ c ≤ 4 then quietly s else .next (s.mboxDone c (cmd.toNat / 256) 4 [])

/-! ### Alarms and monitors (R364, R365) -/

/-- The ACTION of an alarm source. -/
def State.action (s : State) (src : BitVec 2) : Nat := bitsN s.tabs.alarmcfg.toNat (2 * src.toNat) 2

/-- Set a monitor word. -/
def State.setMon (s : State) (k : Nat) (x : Word) : State := s.onTabs fun t => { t with mon := put t.mon k x }

/-- A monitor word. -/
def State.monWord (s : State) (k : Nat) : Word := look 0 s.tabs.mon k

/-- LOG. -/
def State.alarmLog (s : State) (src : BitVec 2) : State := (s.setMon 63 (setBit (s.monWord 63) src.toNat true)).raise 4

/-- HALT: LOG, then every core stops issuing and copies are abandoned. -/
def State.alarmHalt (s : State) (src : BitVec 2) : State :=
  ((s.alarmLog src).abandon fun _ => true).onTabs fun t => { t with halted := true }

/-- ERASE: HALT, then every key is zeroed. -/
def State.alarmErase (s : State) (src : BitVec 2) : State :=
  ((s.alarmHalt src).onTabs fun t => { t with erased := true }).onPkg fun p => { p with keys := [], saveKey := none }

/-- An alarm of a source. -/
def State.alarm (s : State) (src : BitVec 2) : State :=
  if s.action src = 0 then s.alarmLog src else if s.action src = 1 then s.alarmHalt src else s.alarmErase src

def execAlarmLog (src : BitVec 2) (s : State) : Out := if s.action src = 0 then .next (s.alarmLog src) else quietly s
def execAlarmHalt (src : BitVec 2) (s : State) : Out := if s.action src = 1 then .next (s.alarmHalt src) else quietly s
def execAlarmErase (src : BitVec 2) (s : State) : Out := if 2 ≤ s.action src then .next (s.alarmErase src) else quietly s

/-- TEMPERATURE_THRESHOLD: a monitor takes a reading. Words 0..31 are temperatures in units of 1/8 degree: rising through 105
degrees raises vector 4, and through 115 degrees the temperature alarm. Words 32..55, the voltages and the ring-oscillator
counts, are only kept (R365). -/
def execTemperatureThreshold (word : BitVec 6) (val : BitVec 32) (s : State) : Out :=
  if word.toNat < 32 then
    let old := (s.monWord word.toNat).toInt
    let new := val.toInt
    let t := s.setMon word.toNat val
    let u := if old < 840 ∧ 840 ≤ new then t.raise 4 else t
    .next (if old < 920 ∧ 920 ≤ new then u.alarm 2 else u)
  else if word.toNat < 56 then .next (s.setMon word.toNat val)
  else quietly s

/-- MON_ALARM_READ: the alarm log's bits are cleared when read. -/
def execMonAlarmRead (s : State) : Out := .next ((s.answer false (s.monWord 63).toNat).setMon 63 0)

end Sys2Proof.Machine
end

