-- ==== Sys2Proof/Machine/RecipeEv.lean ====
section
/-! DEFINITION. Events of the recipe unit (spec/21_recipes.md R293, R296, R297, R299, R302, R305). -/

namespace Sys2Proof.Machine

/-- Post again, for each requester of a core that still waits on it, a tile whose post was refused. -/
def State.postAgain (s : State) (core : Nat) (t : TileId) : State :=
  if (s.tile t).st = .present then s
  else forEach ((s.awaiting t).filter fun r => r.1 == core) s fun r x => x.postFor core t r.2

/-- RECIPE_POST_RETRY: time passes to the core's next retry, 128 cycles after the refusal, and it posts its refused tiles
again, in order. -/
def execRecipePostRetry (core : BitVec 7) (s : State) : Out :=
  let c := core.toNat
  let again := (s.core c).retry
  if again.isEmpty then quietly s
  else
    let t := (s.passTo (s.core c).retryDue).onCore c fun k => { k with retry := [] }
    .next (forEach again t fun tile x => x.postAgain c tile)

/-- The first entry of the recipe queue that has not begun. -/
def State.nextEntry (s : State) : Option RecipeEnt := s.die.recipeQ.find? fun e => e.chain.isNone

/-- DEPTH of the record of a tile's object. -/
def State.tileDepth (s : State) (t : TileId) : Option Nat := ((s.obj? t.obj).bind fun o => o.recipe).map rcDepth

/-- Begin a chain for an entry: its slots are reserved and its first wave starts. -/
def State.beginChain (s : State) (e : RecipeEnt) (depth : Nat) (slots : List (Nat × Nat)) : State :=
  let n := s.die.chainNo
  let ch : Chain := { depth := depth, slots := slots, waves := [], first := e.reqs.headD (.prefetch 0), tile := e.tile }
  let mark : RecipeEnt → RecipeEnt := fun x => if x.tile = e.tile then { x with chain := some n } else x
  let t := s.onDie fun d => { d with chainNo := n + 1, chains := put d.chains n ch, recipeQ := d.recipeQ.map mark }
  let u := forEach slots t fun p x => x.onCore p.1 fun c => { c with rslots := put c.rslots p.2 n }
  u.kindle n 1 e.tile

/-- CHAIN_BEGIN; an entry whose tile is no longer DROPPED leaves the queue. -/
def execChainBegin (s : State) : Out :=
  if s.schedules then
    match s.nextEntry with
    | none => quietly s
    | some e =>
      let drop : State := s.onDie fun d => { d with recipeQ := d.recipeQ.filter fun x => x.tile != e.tile }
      if (s.tile e.tile).st ≠ .dropped then .next drop
      else match s.tileDepth e.tile with
        | none => .next drop
        | some depth => match s.pickSlots (s.reqCore (e.reqs.headD (.prefetch 0))) depth with
          | none => quietly s
          | some slots => match (if s.pinsFree e.tile then s.idleCore (slots.headD (0, 0)).1 else none) with
            | some t => .next (t.beginChain e depth slots)
            | none => quietly s
  else quietly s

/-- The DROPPED tile with the lowest origin that a kindling wave misses on. -/
def State.lowestDropped (s : State) (ts : List TileId) : Option TileId :=
  let origin : TileId → Nat := fun t => match s.obj? t.obj with
    | none => 0
    | some o => tileOrigin o.shape t.tile
  (ts.filter fun t => (s.tile t).st == .dropped).foldl (fun b t => match b with
    | none => some t
    | some x => if origin t < origin x then some t else some x) none

/-- A nested recipe starts: the wave of level `k + 1`, whose tile wave `wid` holds until it ends (R301, R302). Another chain may
have waited for this tile, so that a wait which never ends can close here (R303). -/
def State.nest (s : State) (wid n k : Nat) (t : TileId) : State :=
  ((s.kindle n (k + 1) t).onWave wid fun w => { w with id := { w.id with holds := w.id.holds ++ [t] } }).failMore s.die.chains.length

/-- NESTED_RECIPE_START: the recipes of a miss run one at a time, in the chain's slot for the next level. -/
def execNestedRecipeStart (wid : Nat) (s : State) : Out :=
  match s.wave? wid with
  | none => quietly s
  | some w => match w.id.chain, w.flow.hold with
    | some (n, k), .miss ts _ =>
      let busy := s.waves.any fun x => x.id.chain == some (n, k + 1)
      (match s.lowestDropped ts, look? s.die.chains n with
      | some t, some c =>
        (match (if s.schedules && !busy && decide (k + 1 ≤ c.depth) then s.idleCore (c.slots.getD k (0, 0)).1 else none) with
        | some u => .next (u.nest wid n k t)
        | none => quietly s)
      | _, _ => quietly s)
    | _, _ => quietly s

/-- The requesters of a tile that are parked waves: their cores acquire at die scope (R305 step 4, R368). -/
def State.acquireWaiters (s : State) (t : TileId) : State :=
  let cores := (s.waves.filterMap fun w => match w.flow.hold with
    | .miss ts _ => if ts.contains t then some w.id.core else none
    | _ => none).eraseDups
  forEach cores s fun k x => x.plainAcquire k 2

/-- Steps 2 and 3 of R305 at core `c`: its dirty bytes of the tile go to the L2, and it makes a die-scope release. -/
def State.rebuilt (s : State) (c : Nat) (t : TileId) : Option State :=
  let lines := s.linesOf t
  (s.wbTry none c fun l => lines.contains (l.va / 256)).bind fun u => u.plainRelease c 2

/-- TILE_REBUILD_COMPLETE: the kindling wave has exited, and its stores and copies have ended. -/
def execTileRebuildComplete (wid : Nat) (s : State) : Out :=
  match s.wave? wid with
  | none => quietly s
  | some w => match w.id.chain, w.id.tile with
    | some (n, k), some t =>
      let c := w.id.core
      let busy := (s.core c).copies.any fun x => x.wid == wid
      match (if w.flow.alive == 0 && s.quiet w && !busy && s.schedules then s.rebuilt c t else none) with
      | none => quietly s
      | some t1 =>
        let t2 := (t1.onTile t fun x => { x with st := .present }).acquireWaiters t
        let t3 := t2.endKindling wid
        .next (if k = 1 then t3.endChain n
          else t3.onDie fun d => { d with chains := d.chains.map fun e =>
            if e.1 = n then (e.1, { e.2 with waves := e.2.waves.filter fun x => x != wid }) else e })
    | _, _ => quietly s

end Sys2Proof.Machine
end

