-- ==== Sys2Proof/Machine/Evict.lean ====
section
/-! DEFINITION. Preemption: the choice of victims, how they stop, their images, and their return
(spec/25_traps_and_preemption.md R338 to R345; 13 R189; 15 R242; 21 R306; 23 R324; 27 R354; log 18). -/

namespace Sys2Proof.Machine

/-! ### Victims (R338) -/

/-- What may be evicted: a block, or a wave of no block. -/
inductive Victim where
  | block (k : Nat) (b : Block)
  | wave (w : Wave)
  deriving DecidableEq, Repr

def Victim.core : Victim → Nat
  | .block _ b => b.core
  | .wave w => w.id.core

def Victim.prio : Victim → Nat
  | .block _ b => b.prio
  | .wave w => w.id.prio

def Victim.age : Victim → Nat
  | .block _ b => b.age
  | .wave w => w.id.age

/-- A block whose waves have all exited cannot be evicted: it goes when the copies into it have completed. -/
def Victim.gone : Victim → Bool
  | .block _ b => b.waves.isEmpty
  | .wave _ => false

/-- The number under which a unit is kept in the save area. -/
def Victim.unit : Victim → Nat
  | .block k _ => 2 * k
  | .wave w => 2 * w.id.wid + 1

/-- Bytes of the save area that a unit's images take: each stands in blocks of 256 bytes (R340 to R342; log 18). -/
def State.imageBytes (s : State) : Victim → Nat
  | .block k b =>
    let ws := s.waves.filter fun w => w.id.blk == some k
    256 * ws.foldl (fun n w => n + saveBlocks (waveImage w.id.vregs (s.openRun w).isSome)) (saveBlocks (blockImage b.tmem b.wslots))
  | .wave w => 256 * saveBlocks (waveImage w.id.vregs (s.openRun w).isSome)

/-- Is a unit being evicted already? -/
def State.leaving (s : State) (v : Victim) : Bool := s.die.saved.any fun u => u.unit == v.unit

/-- The candidates on a core for a card of a priority, in the order in which they are evicted. R338 names blocks of cards and
spawned waves; a wave that a LAUNCH-mode queue has launched starts like a spawned one (07 R107), and that it is a candidate too
is the model's choice (log 73). -/
def State.candidates (s : State) (core prio : Nat) : List Victim :=
  let blocks := (s.sched.blocks.filter fun e => e.2.core == core && !e.2.evicted && e.2.card.isSome && !e.2.waves.isEmpty).map fun e => Victim.block e.1 e.2
  let waves := (s.looseWaves core).map Victim.wave
  let cs := (blocks ++ waves).filter fun v => decide (v.prio < prio) && !s.leaving v
  sortBy (fun a b => decide (a.prio < b.prio) || (a.prio == b.prio && decide (b.age ≤ a.age))) cs

/-- The state as it would be without a unit's resources. -/
def State.without (s : State) : Victim → State
  | .block k _ => s.onBlk k fun b => { b with evicted := true }
  | .wave w => s.dropWave w.id.wid

/-- Victims on a core, taken one at a time until a unit fits; `room` is the free part of the save area. -/
def State.victimsOn (s : State) (core room : Nat) (n : Need) : List Victim → Option (List Victim × Nat)
  | [] => if s.fits core n then some ([], room) else none
  | v :: t =>
    if s.fits core n then some ([], room)
    else if room < s.imageBytes v then s.victimsOn core room n t
    else (s.without v).victimsOn core (room - s.imageBytes v) n t |>.map fun r => (v :: r.1, r.2)

/-- The free part of the save area. -/
def State.saveRoom (s : State) : Nat := s.host.savesize.toNat - s.die.saved.foldl (fun n u => n + u.bytes) 0

/-- Victims for `need` more cores of a hardware cluster, lowest-numbered first. -/
def State.victimsIn (s : State) (prio : Nat) (n : Need) (room need : Nat) : List Nat → Option (List Victim)
  | [] => if need = 0 then some [] else none
  | c :: cs =>
    if need = 0 then some []
    else if s.binReady c then s.victimsIn prio n room need cs
    else match s.victimsOn c room n (s.candidates c prio) with
      | some (vs, r) => (s.victimsIn prio n r (need - 1) cs).map fun rest => vs ++ rest
      | none => s.victimsIn prio n room need cs

/-- Blocks on a hardware cluster that L1FUSE keeps a card from (R95). -/
def State.fuseVictims (s : State) (hc : Nat) (fuse : Bool) : List Victim :=
  (s.sched.blocks.filter fun e => s.holds e && e.2.card.isSome && e.2.core / 8 == hc && e.2.fuse != fuse).map fun e => Victim.block e.1 e.2

/-- The hardware cluster and the victims that a card chooses. -/
def State.chooseVictims (s : State) (card : Nat) : Option (Nat × List Victim) :=
  (List.range 16).findSome? fun hc =>
    if s.sched.reserved.any fun r => r.blocks.any fun b => b.core / 8 == hc && b.fuse != cdFuse card then none else
    let fv := s.fuseVictims hc (cdFuse card)
    let fbytes := fv.foldl (fun n v => n + s.imageBytes v) 0
    if (fv.any fun v => decide (cdPrio card ≤ v.prio) || s.leaving v || v.gone) || decide (s.saveRoom < fbytes) then none
    else
      let t := forEach fv s fun v t => t.without v
      (t.victimsIn (cdPrio card) (cardNeed card) (s.saveRoom - fbytes) (cdBpc card) ((List.range 8).map fun i => 8 * hc + i)).map
        fun vs => (hc, fv ++ vs)

/-- A wave chosen as a victim: a TQPOP in which it is blocked completes with an empty mask, and the wave stops after it (13
R189). -/
def State.stopWave (s : State) (wid : Nat) : State :=
  match s.wave? wid with
  | none => s
  | some w =>
    let ask : Wave → Wave := fun v => { v with flow := { v.flow with stopReq := true } }
    match w.flow.hold with
    | .pop q =>
      let d := match w.instr with
        | .tqpop d _ _ _ => d.toNat
        | _ => 0
      let t := s.onQueue q fun t => { t with blocked := t.blocked.filter fun x => x != wid }
      t.onWave wid fun v => ask (v.popEmpty d)
    | _ => s.onWave wid ask

/-- A unit begins to leave. -/
def State.beginEvict (s : State) (v : Victim) : State :=
  let u : SavedUnit :=
    { unit := v.unit, core := v.core, blk := match v with | .block k _ => some k | .wave _ => none, waves := [], written := false
      bytes := s.imageBytes v, place := [] }
  let t := s.onDie fun d => { d with saved := d.saved ++ [u] }
  match v with
  | .block _ b => forEach b.waves t fun wid x => x.stopWave wid
  | .wave w => t.stopWave w.id.wid

/-- What a card evicts to launch `k` clusters: the victims, and the die with its blocks in place, found by launching one
cluster after another in a copy of the state; a gang evicts for all of its clusters or for none (R96). -/
def State.victimPlan (s : State) (launch node card : Nat) : Nat → Option (List Victim × State)
  | 0 => some ([], s)
  | k + 1 => match s.launchCluster launch node card with
    | some t => t.victimPlan launch node card k
    | none => match s.chooseVictims card with
      | none => none
      | some (_, vs) =>
        let t := forEach vs s fun v t => (t.beginEvict v).without v
        match t.launchCluster launch node card with
        | none => none
        | some u => (u.victimPlan launch node card k).map fun r => (vs ++ r.1, r.2)

/-- What a card keeps while its victims leave: its blocks as the plan places them (R338). -/
def State.reserve (s : State) (launch node : Nat) (vs : List Victim) (plan : State) : Reserve :=
  { launch := launch, node := node, victims := vs.map Victim.unit
    blocks := (plan.sched.blocks.filter fun e => (s.blk? e.1).isNone).map (·.2) }

/-- EVICTION_DECISION: the first card that cannot be placed, waits for no victims yet, and finds some. -/
def execEvictionDecision (s : State) : Out :=
  if s.schedules then
    let stuck := s.openCards.filter fun c => !(s.sched.reserved.any fun r => r.isFor c.1 c.2.1) && (s.launchNext c).isNone
    match stuck.findSome? fun c => (s.victimPlan c.1 c.2.1 c.2.2.1 (clustersOf c.2.2.1)).map fun r => (c.1, c.2.1, r.1, r.2) with
    | some (l, n, vs, plan) =>
      if vs.isEmpty then quietly s
      else .next ((forEach vs s fun v t => t.beginEvict v).onSched fun d => { d with reserved := d.reserved ++ [s.reserve l n vs plan] })
    | none => quietly s
  else quietly s

/-! ### Stopping (R189, R324, R339) -/

/-- Has the wave arrived at the barrier that its BAR waits in: in the phase that it waits for, or that phase is over? -/
def State.arrivedAt (s : State) (w : Wave) (level num : Nat) (phase : BitVec 64) : Bool :=
  match w.id.blk, s.blkOf w with
  | some k, some b => (s.bar k b level num).phase != phase || (s.bar k b level num).arrived.contains w.id.wid
  | _, _ => false

/-- STOP of a wave at a point where it may stop, if it is at one (Table 25.3): in a BAR only after it has arrived, and in a
SPAWN only where the bins stall it (07 R102), not where it waits for its sources (R189). -/
def State.stopPoint (s : State) (w : Wave) : Option Nat :=
  match w.flow.hold with
  | .bar level num phase => if s.arrivedAt w level num phase then some 1 else none
  | .popped => some 5
  | .walk _ => some 4
  | .fault _ => some 4
  | .miss _ _ => some 4
  | .rcommit => some 4
  | .rstall => some 4
  | .run =>
    if posIndex w.flow.pc = 15 then some 0
    else if w.flow.stalled then
      match w.instr with
      | .waitc _ _ => some 2
      | .spawn _ a _ b => if w.fullV a.toNat 8 && w.fullS b.toNat 2 then some 3 else none
      | _ => none
    else none
  | _ => none

/-- Has all that the wave issued completed but for replies of loads and atomics (R339 steps 3 to 5)? -/
def State.stopReady (s : State) (w : Wave) : Bool :=
  s.termCount w == 0 && (s.termQueue w).isEmpty && w.mem.sq.isEmpty && w.mem.strong.isEmpty &&
  (s.core w.id.core).wbuf.all fun q => q.2.all fun e => e.wid != w.id.wid || e.returns

/-- The totals of a run over all slices (R242). -/
def runTotals (sums : List Int) : List Int :=
  if sums.isEmpty then [] else (List.range 2048).map fun i => (List.range 12).foldl (fun a q => a + sums.getD (2048 * q + i) 0) 0

/-- The image of a wave: the latch of HBEAT is not kept (03 R46). -/
def State.image (s : State) (w : Wave) (stop : Nat) : SavedWave :=
  let a := match (s.core w.id.core).arrOf w.id.wid with
    | some k => (s.core w.id.core).arr k
    | none => TermArray.free
  let v : Wave := { w with flow := { w.flow with stopReq := false, stalled := false, ready := 0, clause := none }
                           csr := { w.csr with hbLatch := none }, mem := { w.mem with walked := [], guards := [] } }
  { wave := v, stop := stop, aborted := false, run := a.run, totals := if a.run.isSome then runTotals a.sums else [], place := [] }

/-- The unit of a wave. -/
def Wave.unit (w : Wave) : Nat := match w.id.blk with
  | some k => 2 * k
  | none => 2 * w.id.wid + 1

/-- Write a wave's image into free blocks of the save area, if it has them; its slot, registers and term array are then free
(R339 step 6, R340). 23 R324 does not say whether the edges of a stalled region access still count in the test for cycles
while its wave is away; the model keeps them (Region.pend; log 74). -/
def State.saveWave (s : State) (w : Wave) (stop : Nat) : Option State :=
  let x := s.image w stop
  (s.savePlace (waveImage w.id.vregs x.run.isSome)).map fun place =>
    let y : SavedWave := { x with place := place }
    let add : SavedUnit → SavedUnit := fun u =>
      if u.unit = w.unit then { u with waves := u.waves ++ [y], written := u.blk.isNone } else u
    let t := ((s.unrequest w.id.wid w.id.core).dropWave w.id.wid).onDie fun d => { d with saved := d.saved.map add, rwait := d.rwait.filter fun i => i != w.id.wid }
    (t.onCore w.id.core fun c => { c with ta := c.ta.map fun e => (e.1, e.2.without w.id.wid) }).storeImage place y.bytes

/-- Take a unit out of the save area. -/
def State.unsave (s : State) (unit : Nat) : State := s.onDie fun d => { d with saved := d.saved.filter fun u => u.unit != unit }

/-- Is there a victim that is this wave alone, and that has not been saved? -/
def State.waitsFor (s : State) (wid : Nat) : Bool := s.die.saved.any fun u => u.unit == 2 * wid + 1 && u.blk.isNone && u.waves.isEmpty

/-- WAVE_STOP. A wave that ends before it stops is a victim no more. -/
def execWaveStop (wid : Nat) (s : State) : Out :=
  match (s.wave? wid).filter fun w => w.flow.alive != 0 with
  | none => if s.waitsFor wid then .next (s.unsave (2 * wid + 1)) else quietly s
  | some w =>
    if w.flow.stopReq && s.stopReady w && !s.host.jobDead && !s.tabs.halted then
      match (s.stopPoint w).bind fun n => s.saveWave w n with
      | some t => .next t
      | none => quietly s
    else quietly s

/-- Write a block's own image, if the save area has room; the block is evicted. -/
def State.saveBlock (s : State) (k : Nat) (b : Block) (u : SavedUnit) : Option State :=
  (s.savePlace (blockImage b.tmem b.wslots)).map fun place =>
    let t := (s.onBlk k fun b => { b with evicted := true }).onDie fun d =>
      { d with saved := d.saved.map fun x => if x.unit = u.unit then { x with written := true, place := place } else x }
    t.storeImage place (b.bytesOf u.waves)

/-- BLOCK_IMAGE_WRITE: every wave has been evicted, and nothing works on the block's memory (R342). A block whose waves have
all ended is a victim no more. -/
def execBlockImageWrite (blk : Nat) (s : State) : Out :=
  match s.die.saved.find? fun u => u.blk == some blk with
  | none => quietly s
  | some u => match (s.blk? blk).filter fun b => !b.waves.isEmpty with
    | none => .next (s.unsave u.unit)
    | some b =>
      if !u.written && !b.evicted && (b.waves.all fun i => u.waves.any fun x => x.wave.id.wid == i) && !(s.core b.core).busyFor blk &&
          !s.host.jobDead && !s.tabs.halted then
        match s.saveBlock blk b u with
        | some t => .next t
        | none => quietly s
      else quietly s

/-! ### Restore (R345) -/

/-- Free term arrays of a core. -/
def Core.freeArrays (c : Core) : List Nat := [0, 1].filter fun k => (c.arr k).owner.isNone

/-- A restored wave goes on at POS: a BAR resumes its wait without arriving again, a wave that waits on an outstanding fault
still waits on it (R336), and any other parked instruction executes again (13 R189). It has issued no copy yet (19 R287). -/
def SavedWave.resumed (x : SavedWave) (slot : Nat) : Wave :=
  let f := x.wave.flow
  let g : WaveFlow := match f.hold with
    | .bar l n p => { f with hold := .run, inBar := some (f.pc, l, n, p) }
    | .fault ts => { f with hold := .fault ts }
    | _ => { f with hold := .run }
  { x.wave with id := { x.wave.id with slot := slot }, flow := g, mem := { x.wave.mem with lastCopy := none } }

/-- Put a wave back on its core, with its held run (R242). Its core may have cleared its summary since; WIDE makes its releases
name what it saw before (09 R144; log 65). -/
def State.restoreWave (s : State) (x : SavedWave) (slot : Nat) : State :=
  let t := (s.addWave (x.resumed slot)).onCore x.wave.id.core fun c => { c with wide := true }
  match x.run, (t.core x.wave.id.core).freeArrays with
  | some r, k :: _ =>
    let sums := if x.totals.isEmpty then [] else x.totals ++ List.replicate (11 * 2048) 0
    t.onCore x.wave.id.core fun c => c.onArr k fun a => { a with owner := some x.wave.id.wid, run := some r, sums := sums }
  | _, _ => t

/-- Do a unit's images stand ready: all written, every reply in them, and enough free term arrays on its core? -/
def State.imagesReady (s : State) (u : SavedUnit) : Bool :=
  u.written && u.waves.all (fun x => x.wave.mem.loads.isEmpty && x.wave.mem.v2s.isEmpty) &&
  decide ((u.waves.filter fun x => x.run.isSome).length ≤ (s.core u.core).freeArrays.length)

/-- Does a ready card of higher priority wait for resources of a core that the unit would take: a block of it fits the core
now, and not in `t`, where the unit is back (R345; log 55)? -/
def State.wanted (s t : State) (core prio : Nat) : Bool :=
  s.readyCards.any fun c => decide (prio < cdPrio c.2.2.1) && s.fits core (cardNeed c.2.2.1) && !t.fits core (cardNeed c.2.2.1)

/-- The die with an evicted block back: the block's part first, then its waves. -/
def State.restoreBlock (s : State) (u : SavedUnit) (k : Nat) (b : Block) : State :=
  let base := (s.freeTile b.core b.tmem).getD 0
  let t := (s.unsave u.unit).onBlk k fun b => { b with evicted := false, tbase := base }
  forEach u.waves t fun x y => y.restoreWave x (y.slotIn u.core (x.wave.id.waveIdx.toNat % 4))

/-- The die with an evicted unit back, if its core can hold it. -/
def State.restored (s : State) (u : SavedUnit) : Option (Nat × State) :=
  match u.blk, u.waves with
  | some k, _ => match s.blk? k with
    | none => none
    | some b =>
      let n : Need := { wpb := b.wpb, vregs := b.vregs, tmem := b.tmem, wslots := b.wslots }
      if s.fits u.core n && s.fuseOk (u.core / 8) b.fuse then (s.setFuse (u.core / 8) b.fuse).map fun t => (b.prio, t.restoreBlock u k b)
      else none
  | none, x :: _ => (s.looseSlot u.core x.wave.id.vregs).map fun slot => (x.wave.id.prio, (s.unsave u.unit).restoreWave x slot)
  | none, [] => none

/-- WAVE_RESTORE; a core that held no wave has emptied its L1 before (09 R137). -/
def execWaveRestore (unit : Nat) (s : State) : Out :=
  match (s.die.saved.find? fun u => u.unit == unit).filter fun u => s.schedules && s.imagesReady u with
  | none => quietly s
  | some u => match (s.idleCore u.core).bind fun t => t.restored u with
    | none => quietly s
    | some (prio, t) => if s.wanted t u.core prio then quietly s else .next t

end Sys2Proof.Machine
end

