-- ==== Sys2Proof/Machine/Int.lean ====
section
/-! DEFINITION. Class 0, the integer instructions (spec/11_vector_instructions.md R155 to R170). -/

namespace Sys2Proof.Machine

/-! ### Shapes -/

/-- Use of an F3 instruction of classes 0 and 1 on single registers (R156). -/
def f3use (cls occ : Nat) (f : F3) : Use := valu cls occ (f3srcs f 1) [vdst f.d 1]

/-- Use of a unary F3 instruction (R156). -/
def u3use (cls occ : Nat) (u : U3) : Use := valu cls occ [u3src u 1] [vdst u.d 1]

/-- A two-source integer instruction in the active lanes (R161). -/
def alu2 (occ : Nat) (f : F3) (g : Word → Word → Word) (s : State) : Out :=
  issueW (f3use 0 occ f) (fun w => w.wrV f.d.toNat fun l => g (w.lane f.a.toNat l) (w.opB f.q f.b l)) s

/-- A unary integer instruction in the active lanes (R164). -/
def alu1 (u : U3) (g : Word → Word) (s : State) : Out :=
  issueW (u3use 0 1 u) (fun w => w.wrV u.d.toNat fun l => g (w.lane u.a.toNat l)) s

/-- A unary integer instruction that saturates (R164). -/
def alu1Sat (u : U3) (g : Int → Int) (s : State) : Out :=
  issueW (u3use 0 1 u) (fun w => w.wrF u.d.toNat fun l => sat32 (g (w.lane u.a.toNat l).toInt)) s

/-! ### Two sources (R161 to R163) -/

def execIadd (f : F3) (s : State) : Out := alu2 1 f (fun a b => a + b) s
def execIsub (f : F3) (s : State) : Out := alu2 1 f (fun a b => a - b) s
def execImul (f : F3) (s : State) : Out := alu2 2 f (fun a b => a * b) s
def execImulh (f : F3) (s : State) : Out := alu2 2 f (fun a b => BitVec.ofNat 32 (a.toNat * b.toNat / 2 ^ 32)) s

/-- R163: the destination is also the addend. -/
def execImad (f : F3) (s : State) : Out :=
  issueW (f3use 0 2 f)
    (fun w => w.wrV f.d.toNat fun l => w.lane f.a.toNat l * w.opB f.q f.b l + w.lane f.d.toNat l) s

def execImin (f : F3) (s : State) : Out := alu2 1 f (fun a b => if a.toInt ≤ b.toInt then a else b) s
def execImax (f : F3) (s : State) : Out := alu2 1 f (fun a b => if b.toInt ≤ a.toInt then a else b) s
def execUmin (f : F3) (s : State) : Out := alu2 1 f (fun a b => if a.toNat ≤ b.toNat then a else b) s
def execUmax (f : F3) (s : State) : Out := alu2 1 f (fun a b => if b.toNat ≤ a.toNat then a else b) s
def execAnd (f : F3) (s : State) : Out := alu2 1 f (fun a b => a &&& b) s
def execOr (f : F3) (s : State) : Out := alu2 1 f (fun a b => a ||| b) s
def execXor (f : F3) (s : State) : Out := alu2 1 f (fun a b => a ^^^ b) s
def execAndn (f : F3) (s : State) : Out := alu2 1 f (fun a b => a &&& ~~~b) s

/-- A shift count that is not reduced: 32 or more shifts everything out (R162). -/
def execShl (f : F3) (s : State) : Out := alu2 1 f (fun a b => if b.toNat < 32 then a <<< b.toNat else 0) s
def execShr (f : F3) (s : State) : Out := alu2 1 f (fun a b => if b.toNat < 32 then a >>> b.toNat else 0) s
def execSar (f : F3) (s : State) : Out :=
  alu2 1 f (fun a b => if b.toNat < 32 then a.sshiftRight b.toNat else if a.msb then 0xFFFFFFFF else 0) s

/-- IADDS saturates and sets SAT (R161). -/
def execIadds (f : F3) (s : State) : Out :=
  issueW (f3use 0 1 f)
    (fun w => w.wrF f.d.toNat fun l => sat32 ((w.lane f.a.toNat l).toInt + (w.opB f.q f.b l).toInt)) s

/-! ### One source (R164 to R166) -/

/-- The number of 1 bits. -/
def popCount (a : Word) : Nat := (List.range 32).countP fun i => a.getLsbD i

/-- The number of 0 bits above the highest 1 bit. -/
def leadZeros (a : Word) : Nat := ((List.range 32).find? fun i => a.getLsbD (31 - i)).getD 32

/-- The number of 0 bits below the lowest 1 bit. -/
def trailZeros (a : Word) : Nat := ((List.range 32).find? fun i => a.getLsbD i).getD 32

def execPopc (u : U3) (s : State) : Out := alu1 u (fun a => BitVec.ofNat 32 (popCount a)) s
def execClz (u : U3) (s : State) : Out := alu1 u (fun a => BitVec.ofNat 32 (leadZeros a)) s
def execCtz (u : U3) (s : State) : Out := alu1 u (fun a => BitVec.ofNat 32 (trailZeros a)) s
def execBrev (u : U3) (s : State) : Out := alu1 u (fun a => a.reverse) s
def execMov (u : U3) (s : State) : Out := alu1 u (fun a => a) s
def execIabs (u : U3) (s : State) : Out := alu1Sat u (fun x => (x.natAbs : Int)) s
def execIneg (u : U3) (s : State) : Out := alu1Sat u (fun x => -x) s

/-- R165: vA or sA plus a signed 8-bit immediate. -/
def execIaddi (f : FI) (s : State) : Out :=
  issueW (valu 0 1 [fisrc f 1] [vdst f.d 1])
    (fun w => w.wrV f.d.toNat fun l => w.opB f.q f.a l + f.imm.signExtend 32) s

/-- R166. -/
def execMovi (d : BitVec 7) (imm : BitVec 32) (s : State) : Out :=
  issueW (valu 0 1 [] [vdst d 1]) (fun w => w.wrV d.toNat fun _ => imm) s

/-! ### Fields, addresses, comparison and selection (R167 to R170) -/

/-- The field of `len` bits at `pos`, sign-extended or not (R167). -/
def bitField (sx : Bool) (len pos a : Nat) : Nat :=
  let f := a / 2 ^ pos % 2 ^ len
  if sx && f.testBit (len - 1) then f + (2 ^ 32 - 2 ^ len) else f

/-- `a` inserted into `b` at `pos`, `len` bits (R167). -/
def bitInsert (len pos : Nat) (a b : Word) : Word :=
  let m := BitVec.ofNat 32 ((2 ^ len - 1) * 2 ^ pos)
  (b &&& ~~~m) ||| ((a <<< pos) &&& m)

def execBfe (u : U3) (sx : Bool) (lenm1 pos : BitVec 5) (s : State) : Out :=
  alu1 u (fun a => BitVec.ofNat 32 (bitField sx (lenm1.toNat + 1) pos.toNat a.toNat)) s

def execBfi (f : F3) (lenm1 pos : BitVec 5) (s : State) : Out := alu2 1 f (fun a b => bitInsert (lenm1.toNat + 1) pos.toNat a b) s

/-- R168. -/
def execLea (f : F3) (off : BitVec 16) (sx : Bool) (sh : BitVec 3) (s : State) : Out :=
  issueW (valu 0 1 [vsrc f.a 1 f.wa, bsrc f.q f.b 2 f.wb] [vdst f.d 2])
    (fun w => w.wrV2 f.d.toNat fun l =>
      let a := w.lane f.a.toNat l
      let idx : BitVec 64 := if sx then a.signExtend 64 else a.setWidth 64
      w.opB2 f.q f.b l + idx <<< sh.toNat + off.signExtend 64) s

/-- R169. -/
def execIcmp (f : F3) (s : State) : Out :=
  issueW (valu 0 1 (f3srcs f 1) [])
    (fun w => w.wrP3 f.d.toNat
      (fun l => decide ((w.lane f.a.toNat l).toInt < (w.opB f.q f.b l).toInt))
      (fun l => w.lane f.a.toNat l == w.opB f.q f.b l)
      (fun l => decide ((w.lane f.a.toNat l).toNat < (w.opB f.q f.b l).toNat))) s

/-- R170. -/
def execSel (f : F3) (neg : Bool) (pidx : BitVec 3) (s : State) : Out :=
  issueW (f3use 0 1 f)
    (fun w => w.wrV f.d.toNat fun l =>
      if (w.rdP pidx.toNat).getLsbD l != neg then w.lane f.a.toNat l else w.opB f.q f.b l) s

end Sys2Proof.Machine
end

