-- ==== Sys2Proof/Machine/Flt.lean ====
section
/-! DEFINITION. Class 1, the floating-point and cross-lane instructions (spec/11_vector_instructions.md R171 to R187). -/

namespace Sys2Proof.Machine

/-! ### FP32 arithmetic (R171 to R175) -/

/-- A value read as FP32. -/
def f32 (x : Word) : FVal := fp32.unpack x.toNat

/-- A two-source FP32 instruction in the active lanes. -/
def flt2 (f : F3) (g : RMode → Word → Word → Nat × Flags) (s : State) : Out :=
  issueW (f3use 1 1 f) (fun w => w.wrF f.d.toNat fun l => g w.mode (w.lane f.a.toNat l) (w.opB f.q f.b l)) s

def execFadd (f : F3) (s : State) : Out := flt2 f (fun m a b => fp32.add m (f32 a) (f32 b)) s
def execFsub (f : F3) (s : State) : Out := flt2 f (fun m a b => fp32.add m (f32 a) (f32 b).neg) s
def execFmul (f : F3) (s : State) : Out := flt2 f (fun m a b => fp32.mul m (f32 a) (f32 b)) s
def execFmin (f : F3) (s : State) : Out := flt2 f (fun _ a b => fp32.minMax true a.toNat b.toNat) s
def execFmax (f : F3) (s : State) : Out := flt2 f (fun _ a b => fp32.minMax false a.toNat b.toNat) s

/-- R171: D is the addend. -/
def execFfma (f : F3) (s : State) : Out :=
  issueW (f3use 1 1 f)
    (fun w => w.wrF f.d.toNat fun l =>
      fp32.fma w.mode (f32 (w.lane f.a.toNat l)) (f32 (w.opB f.q f.b l)) (f32 (w.lane f.d.toNat l))) s

/-- R172: the addend is vC. -/
def execFfma3 (f : F3) (wc : Bool) (c : BitVec 7) (s : State) : Out :=
  issueW (valu 1 1 (f3srcs f 1 ++ [vsrc c 1 wc]) [vdst f.d 1])
    (fun w => w.wrF f.d.toNat fun l =>
      fp32.fma w.mode (f32 (w.lane f.a.toNat l)) (f32 (w.opB f.q f.b l)) (f32 (w.lane c.toNat l))) s

/-- R174. -/
def execFcmp (f : F3) (s : State) : Out :=
  issueW (valu 1 1 (f3srcs f 1) [])
    (fun w =>
      let x := fun l => f32 (w.lane f.a.toNat l)
      let y := fun l => f32 (w.opB f.q f.b l)
      let un := fun l => (x l).isNan || (y l).isNan
      (w.wrP3 f.d.toNat (fun l => !un l && (x l).cmp (y l) == -1) (fun l => !un l && (x l).cmp (y l) == 0) un).orFlags
        (w.laneFlags fun l => (x l).nanFlag ||| (y l).nanFlag)) s

/-- A function of R175 in the active lanes. -/
def fltFun (fn : FFun) (u : U3) (s : State) : Out :=
  issueW (u3use 1 4 u) (fun w => w.wrF u.d.toNat fun l => fp32.apply fn w.mode (f32 (w.lane u.a.toNat l))) s

def execFrcp (u : U3) (s : State) : Out := fltFun .rcp u s
def execFrsq (u : U3) (s : State) : Out := fltFun .rsq u s
def execFsqrt (u : U3) (s : State) : Out := fltFun .sqrt u s
def execFexp2 (u : U3) (s : State) : Out := fltFun .exp2 u s
def execFlog2 (u : U3) (s : State) : Out := fltFun .log2 u s
def execFtanh (u : U3) (s : State) : Out := fltFun .tanh u s

/-! ### Conversions (R176 to R178) -/

/-- FCVT of one lane (Table 11.12). -/
def fcvtLane (kind : Nat) (m : RMode) (a : Word) : Nat × Flags :=
  let h := a.toNat % 65536
  match kind with
  | 0 => word32 (cvti m (-2147483648) 2147483647 (f32 a))
  | 1 => word32 (cvti m 0 4294967295 (f32 a))
  | 2 => fp32.ofInt m a.toInt
  | 3 => fp32.ofInt m a.toNat
  | 4 => fp16.conv m (f32 a)
  | 5 => fp32.conv m (fp16.unpack h)
  | 6 => bf16.conv m (f32 a)
  | 7 => fp32.conv m (bf16.unpack h)
  | _ => fp32.rintBits m a.toNat

def execFcvt (f : FC) (s : State) : Out :=
  issueW (valu 1 1 [bsrc f.q f.a 1 f.wa] [vdst f.d 1])
    (fun w => w.wrF f.d.toNat fun l => fcvtLane f.kind.toNat (RMode.ofRM f.rm w.mode) (w.opB f.q f.a l)) s

/-- DCVT of one lane (Table 11.13): the source as one register and as a pair. -/
def dcvtLane (kind : Nat) (m : RMode) (a : Word) (aa : BitVec 64) : Nat × Flags :=
  match kind with
  | 0 => fp32.conv m (fp64.unpack aa.toNat)
  | 1 => fp64.conv m (f32 a)
  | 2 => word32 (cvti m (-2147483648) 2147483647 (fp64.unpack aa.toNat))
  | 3 => fp64.ofInt m a.toInt
  | 4 => word64 (cvti m (-9223372036854775808) 9223372036854775807 (fp64.unpack aa.toNat))
  | 5 => fp64.ofInt m aa.toInt
  | _ => fp64.rintBits m aa.toNat

/-- Registers of DCVT's destination and source. -/
def dcvtDst (k : BitVec 4) : Nat := if dcvtDstPair k then 2 else 1
def dcvtSrc (k : BitVec 4) : Nat := if dcvtSrcPair k then 2 else 1

def execDcvt (f : FC) (s : State) : Out :=
  issueW (valu 1 4 [bsrc f.q f.a (dcvtSrc f.kind) f.wa] [vdst f.d (dcvtDst f.kind)])
    (fun w =>
      let g := fun l => dcvtLane f.kind.toNat (RMode.ofRM f.rm w.mode) (w.opB f.q f.a l) (w.opB2 f.q f.a l)
      if dcvtDstPair f.kind then w.wrF2 f.d.toNat g else w.wrF f.d.toNat g) s

/-! ### Packed and double-precision arithmetic (R179, R180) -/

/-- A fused multiply-add on two packed 16-bit elements (R179). -/
def fma2 (fm : FFmt) (m : RMode) (a b c : Nat) : Nat × Flags :=
  let lo := fm.fma m (fm.unpack (a % 65536)) (fm.unpack (b % 65536)) (fm.unpack (c % 65536))
  let hi := fm.fma m (fm.unpack (a / 65536)) (fm.unpack (b / 65536)) (fm.unpack (c / 65536))
  (lo.1 + 65536 * hi.1, lo.2 ||| hi.2)

/-- HFMA2 or BFMA2 in the active lanes. -/
def packed (fm : FFmt) (f : F3) (s : State) : Out :=
  issueW (f3use 1 1 f)
    (fun w => w.wrF f.d.toNat fun l =>
      fma2 fm w.mode (w.lane f.a.toNat l).toNat (w.opB f.q f.b l).toNat (w.lane f.d.toNat l).toNat) s

def execHfma2 (f : F3) (s : State) : Out := packed fp16 f s
def execBfma2 (f : F3) (s : State) : Out := packed bf16 f s

/-- An FP64 instruction on pairs, its result from a, b and the destination (R180). -/
def dbl (f : F3) (g : RMode → FVal → FVal → FVal → Nat × Flags) (s : State) : Out :=
  issueW (valu 1 4 (f3srcs f 2) [vdst f.d 2])
    (fun w => w.wrF2 f.d.toNat fun l =>
      g w.mode (fp64.unpack (w.lane2 f.a.toNat l).toNat) (fp64.unpack (w.opB2 f.q f.b l).toNat)
        (fp64.unpack (w.lane2 f.d.toNat l).toNat)) s

def execDadd (f : F3) (s : State) : Out := dbl f (fun m a b _ => fp64.add m a b) s
def execDmul (f : F3) (s : State) : Out := dbl f (fun m a b _ => fp64.mul m a b) s
def execDfma (f : F3) (s : State) : Out := dbl f (fun m a b c => fp64.fma m a b c) s

/-! ### Cross-lane instructions (R181 to R187) -/

/-- The value that VOTE writes (R181). -/
def Wave.voteVal (w : Wave) (a mode : Nat) : Word :=
  let beta := w.maskWhere fun l => w.lane a l != 0
  match mode with
  | 0 => beta
  | 1 => if beta = w.flow.mask then 1 else 0
  | 2 => if beta = 0 then 0 else 1
  | _ => if w.lanes.all fun l => w.lane a l == w.lane a w.firstLane then 1 else 0

def execVote (d : BitVec 6) (wa : Bool) (a : BitVec 7) (mode : BitVec 2) (s : State) : Out :=
  issueW (valu 1 1 [vsrc a 1 wa] [sdst d.toNat 1]) (fun w => w.wrS d.toNat (w.voteVal a.toNat mode.toNat)) s

/-- The lane that lane `l` reads (R183): segment width `w`, lane argument `k`. -/
def shflSrc (mode w k l : Nat) : Nat :=
  let base := l - l % w
  let off := l % w
  match mode with
  | 0 => base + k % w
  | 1 => if k ≤ off then l - k else l
  | 2 => if off + k < w then l + k else l
  | _ => base + (off ^^^ k) % w

def execShfl (f : F3) (wcode : BitVec 3) (mode : BitVec 2) (useb : Bool) (imm : BitVec 5) (s : State) : Out :=
  issueW (valu 1 1 (if useb then f3srcs f 1 else [vsrc f.a 1 f.wa]) [vdst f.d 1])
    (fun w => w.wrV f.d.toNat fun l =>
      let k := if useb then (w.opB f.q f.b l).toNat % 32 else imm.toNat
      w.lane f.a.toNat (shflSrc mode.toNat (32 / 2 ^ wcode.toNat) k l)) s

/-- The integer operation of a REDX (Table 11.17). -/
def redInt (rop : Nat) (x y : Word) : Word :=
  match rop with
  | 0 => x + y
  | 1 => if x.toInt ≤ y.toInt then x else y
  | 2 => if y.toInt ≤ x.toInt then x else y
  | 3 => if x.toNat ≤ y.toNat then x else y
  | 4 => if y.toNat ≤ x.toNat then x else y
  | 5 => x &&& y
  | 6 => x ||| y
  | _ => x ^^^ y

/-- The contribution of an inactive lane (Table 11.17). -/
def redNone (rop : Nat) : Word :=
  match rop with
  | 1 => 0x7FFFFFFF
  | 2 => 0x80000000
  | 3 => 0xFFFFFFFF
  | 5 => 0xFFFFFFFF
  | 10 => 0xFFFFFFFF
  | _ => 0

/-- COMBINE of R186. -/
def redCombine (rop : Nat) (m : RMode) (x y : Nat) : Nat × Flags :=
  if rop = 8 then fp32.minMax true x y else if rop = 9 then fp32.minMax false x y
  else fp32.add m (fp32.unpack x) (fp32.unpack y)

/-- One level of the tree of R186; absent lanes are `none`. -/
def redLevel (rop : Nat) (m : RMode) : List (Option Nat) → List (Option Nat) × Flags
  | u :: v :: t =>
    let r := redLevel rop m t
    match u, v with
    | some x, some y => let c := redCombine rop m x y; (some c.1 :: r.1, c.2 ||| r.2)
    | some x, none => (some x :: r.1, r.2)
    | none, y => (y :: r.1, r.2)
  | l => (l, 0)

/-- `n` levels of the tree. -/
def redTree (rop : Nat) (m : RMode) : Nat → List (Option Nat) → Flags → Nat × Flags
  | 0, xs, fl => (((xs.headD none).getD 0), fl)
  | n + 1, xs, fl => let r := redLevel rop m xs; redTree rop m n r.1 (fl ||| r.2)

/-- The winning pair of an index operation (R185). -/
def redPair (rop : Nat) (x y : Word × Word) : Word × Word :=
  let better := if rop = 10 then decide (y.1.toNat < x.1.toNat) else decide (x.1.toNat < y.1.toNat)
  if better || (x.1 == y.1 && decide (y.2.toNat < x.2.toNat)) then y else x

/-- The result of a REDX: the value, the index, the flags (R185, R186). -/
def Wave.redVal (w : Wave) (rop : Nat) (a : Nat) (idx : Nat → Word) : Word × Word × Flags :=
  if rop = 8 ∨ rop = 9 ∨ rop = 12 then
    let xs := (List.range 32).map fun l => if w.active l then some (w.lane a l).toNat else none
    let r := redTree rop w.mode 5 xs 0
    (BitVec.ofNat 32 r.1, 0, r.2)
  else if rop = 10 ∨ rop = 11 then
    let ps := (List.range 32).map fun l => if w.active l then (w.lane a l, idx l) else (redNone rop, 0xFFFFFFFF)
    let p := ps.foldl (redPair rop) (redNone rop, 0xFFFFFFFF)
    (p.1, p.2, 0)
  else
    let xs := (List.range 32).map fun l => if w.active l then w.lane a l else redNone rop
    (xs.foldl (redInt rop) (redNone rop), 0, 0)

/-- Does the operation give an index? -/
def redIndexed (rop : BitVec 4) : Bool := rop == 10 || rop == 11

/-- Use of a REDX. -/
def redxUse (f : F3) (sdst' : Bool) (rop : BitVec 4) : Use :=
  let n := if redIndexed rop then 2 else 1
  valu 1 2 (if redIndexed rop then f3srcs f 1 else [vsrc f.a 1 f.wa]) [if sdst' then sdst f.d.toNat n else vdst f.d n]

/-- What a REDX does to the wave. -/
def Wave.redx (w : Wave) (f : F3) (sdst' : Bool) (rop : BitVec 4) : Wave :=
  let r := w.redVal rop.toNat f.a.toNat fun l => w.opB f.q f.b l
  let d := f.d.toNat
  let v := if sdst' then w.wrS d r.1 else w.wrV d fun _ => r.1
  let u := if redIndexed rop then (if sdst' then v.wrS (d + 1) r.2.1 else v.wrV (d + 1) fun _ => r.2.1) else v
  u.orFlags r.2.2

def execRedx (f : F3) (sdst' : Bool) (rop : BitVec 4) (s : State) : Out :=
  issueW (redxUse f sdst' rop) (fun w => w.redx f sdst' rop) s

end Sys2Proof.Machine
end

