-- ==== Sys2Proof/Machine/Dispatch.lean ====
section
/-! DEFINITION. The meaning of every step of the table: one arm per constructor of Instr. -/

namespace Sys2Proof.Machine

def exec (i : Instr) (s : State) : Host.Outcome State Fault Refusal :=
  match i with
  | .iadd f => Sys2Proof.Machine.execIadd f s
  | .isub f => Sys2Proof.Machine.execIsub f s
  | .imul f => Sys2Proof.Machine.execImul f s
  | .imulh f => Sys2Proof.Machine.execImulh f s
  | .imad f => Sys2Proof.Machine.execImad f s
  | .imin f => Sys2Proof.Machine.execImin f s
  | .imax f => Sys2Proof.Machine.execImax f s
  | .umin f => Sys2Proof.Machine.execUmin f s
  | .umax f => Sys2Proof.Machine.execUmax f s
  | .and f => Sys2Proof.Machine.execAnd f s
  | .or f => Sys2Proof.Machine.execOr f s
  | .xor f => Sys2Proof.Machine.execXor f s
  | .andn f => Sys2Proof.Machine.execAndn f s
  | .shl f => Sys2Proof.Machine.execShl f s
  | .shr f => Sys2Proof.Machine.execShr f s
  | .sar f => Sys2Proof.Machine.execSar f s
  | .popc u => Sys2Proof.Machine.execPopc u s
  | .clz u => Sys2Proof.Machine.execClz u s
  | .ctz u => Sys2Proof.Machine.execCtz u s
  | .brev u => Sys2Proof.Machine.execBrev u s
  | .bfe u sx lenm1 pos => Sys2Proof.Machine.execBfe u sx lenm1 pos s
  | .bfi f lenm1 pos => Sys2Proof.Machine.execBfi f lenm1 pos s
  | .icmp f => Sys2Proof.Machine.execIcmp f s
  | .sel f neg pidx => Sys2Proof.Machine.execSel f neg pidx s
  | .mov u => Sys2Proof.Machine.execMov u s
  | .movi d imm => Sys2Proof.Machine.execMovi d imm s
  | .iaddi f => Sys2Proof.Machine.execIaddi f s
  | .lea f off sx sh => Sys2Proof.Machine.execLea f off sx sh s
  | .iadds f => Sys2Proof.Machine.execIadds f s
  | .iabs u => Sys2Proof.Machine.execIabs u s
  | .ineg u => Sys2Proof.Machine.execIneg u s
  | .fadd f => Sys2Proof.Machine.execFadd f s
  | .fsub f => Sys2Proof.Machine.execFsub f s
  | .fmul f => Sys2Proof.Machine.execFmul f s
  | .ffma f => Sys2Proof.Machine.execFfma f s
  | .ffma3 f wc c => Sys2Proof.Machine.execFfma3 f wc c s
  | .fmin f => Sys2Proof.Machine.execFmin f s
  | .fmax f => Sys2Proof.Machine.execFmax f s
  | .fcmp f => Sys2Proof.Machine.execFcmp f s
  | .frcp u => Sys2Proof.Machine.execFrcp u s
  | .frsq u => Sys2Proof.Machine.execFrsq u s
  | .fsqrt u => Sys2Proof.Machine.execFsqrt u s
  | .fexp2 u => Sys2Proof.Machine.execFexp2 u s
  | .flog2 u => Sys2Proof.Machine.execFlog2 u s
  | .ftanh u => Sys2Proof.Machine.execFtanh u s
  | .fcvt f => Sys2Proof.Machine.execFcvt f s
  | .hfma2 f => Sys2Proof.Machine.execHfma2 f s
  | .bfma2 f => Sys2Proof.Machine.execBfma2 f s
  | .dadd f => Sys2Proof.Machine.execDadd f s
  | .dmul f => Sys2Proof.Machine.execDmul f s
  | .dfma f => Sys2Proof.Machine.execDfma f s
  | .dcvt f => Sys2Proof.Machine.execDcvt f s
  | .vote d wa a mode => Sys2Proof.Machine.execVote d wa a mode s
  | .shfl f wcode mode useb imm => Sys2Proof.Machine.execShfl f wcode mode useb imm s
  | .redx f sdst rop => Sys2Proof.Machine.execRedx f sdst rop s
  | .nop => Sys2Proof.Machine.execNop s
  | .smov sd sa => Sys2Proof.Machine.execSmov sd sa s
  | .smovi d imm => Sys2Proof.Machine.execSmovi d imm s
  | .sadd f => Sys2Proof.Machine.execSadd f s
  | .ssub f => Sys2Proof.Machine.execSsub f s
  | .smul f => Sys2Proof.Machine.execSmul f s
  | .sand f => Sys2Proof.Machine.execSand f s
  | .sor f => Sys2Proof.Machine.execSor f s
  | .sxor f => Sys2Proof.Machine.execSxor f s
  | .sshl f => Sys2Proof.Machine.execSshl f s
  | .sshr f => Sys2Proof.Machine.execSshr f s
  | .scmp pd sa sb rel => Sys2Proof.Machine.execScmp pd sa sb rel s
  | .s2v d wb b => Sys2Proof.Machine.execS2v d wb b s
  | .v2s d wa a k => Sys2Proof.Machine.execV2s d wa a k s
  | .bra toff => Sys2Proof.Machine.execBra toff s
  | .brc neg pidx toff roff => Sys2Proof.Machine.execBrc neg pidx toff roff s
  | .brk level => Sys2Proof.Machine.execBrk level s
  | .jmpi wa a roff => Sys2Proof.Machine.execJmpi wa a roff s
  | .call toff => Sys2Proof.Machine.execCall toff s
  | .ret => Sys2Proof.Machine.execRet s
  | .exit => Sys2Proof.Machine.execExit s
  | .bar level mode num => Sys2Proof.Machine.execBar level mode num s
  | .spawn wa a wb b => Sys2Proof.Machine.execSpawn wa a wb b s
  | .tqpush d wa a wb b => Sys2Proof.Machine.execTqpush d wa a wb b s
  | .tqpop d nb wb b => Sys2Proof.Machine.execTqpop d nb wb b s
  | .tqstat d wb b => Sys2Proof.Machine.execTqstat d wb b s
  | .recget d => Sys2Proof.Machine.execRecget d s
  | .yield => Sys2Proof.Machine.execYield s
  | .waitc kind n => Sys2Proof.Machine.execWaitc kind n s
  | .ld m d scope ord size sx => Sys2Proof.Machine.execLd m d scope ord size sx s
  | .st m wv v scope ord size => Sys2Proof.Machine.execSt m wv v scope ord size s
  | .ldt t => Sys2Proof.Machine.execLdt t s
  | .stt t => Sys2Proof.Machine.execStt t s
  | .sld d wb b off scope ord size => Sys2Proof.Machine.execSld d wb b off scope ord size s
  | .atom m d aop wv v scope ord size => Sys2Proof.Machine.execAtom m d aop wv v scope ord size s
  | .atomc m d wv v scope ord size => Sys2Proof.Machine.execAtomc m d wv v scope ord size s
  | .red m aop wv v scope ord size => Sys2Proof.Machine.execRed m aop wv v scope ord size s
  | .fence kind scope => Sys2Proof.Machine.execFence kind scope s
  | .cctl m cop => Sys2Proof.Machine.execCctl m cop s
  | .rbegin d aoff => Sys2Proof.Machine.execRbegin d aoff s
  | .rcommit => Sys2Proof.Machine.execRcommit s
  | .rabort code => Sys2Proof.Machine.execRabort code s
  | .rstat d sel => Sys2Proof.Machine.execRstat d sel s
  | .obind d wb b off => Sys2Proof.Machine.execObind d wb b off s
  | .ounbind d wb b => Sys2Proof.Machine.execOunbind d wb b s
  | .oseal d op wb b => Sys2Proof.Machine.execOseal d op wb b s
  | .orecipe d wb b off => Sys2Proof.Machine.execOrecipe d wb b off s
  | .oprio d prio wb b => Sys2Proof.Machine.execOprio d prio wb b s
  | .oevict d demote wb b => Sys2Proof.Machine.execOevict d demote wb b s
  | .tmtag q d wa a set tag => Sys2Proof.Machine.execTmtag q d wa a set tag s
  | .tmm vacc wa a wb b consume pm1 slot => Sys2Proof.Machine.execTmm vacc wa a wb b consume pm1 slot s
  | .tprom d => Sys2Proof.Machine.execTprom d s
  | .tbound d wa a slot => Sys2Proof.Machine.execTbound d wa a slot s
  | .tcnt u kind => Sys2Proof.Machine.execTcnt u kind s
  | .tlenc d wb b pitch => Sys2Proof.Machine.execTlenc d wb b pitch s
  | .tldec d wa a wb b hoff => Sys2Proof.Machine.execTldec d wa a wb b hoff s
  | .qbx u bf kind => Sys2Proof.Machine.execQbx u bf kind s
  | .dqbx u bf kind => Sys2Proof.Machine.execDqbx u bf kind s
  | .decs d wb b wl l => Sys2Proof.Machine.execDecs d wb b wl l s
  | .xmm d wb b zc conjb form => Sys2Proof.Machine.execXmm d wb b zc conjb form s
  | .tstat d sel => Sys2Proof.Machine.execTstat d sel s
  | .cpyt wb b tadd => Sys2Proof.Machine.execCpyt wb b tadd s
  | .cpyg wb b tstride => Sys2Proof.Machine.execCpyg wb b tstride s
  | .cpyw slot wb b sig => Sys2Proof.Machine.execCpyw slot wb b sig s
  | .cpyp wb b redop => Sys2Proof.Machine.execCpyp wb b redop s
  | .cfill wb b tadd => Sys2Proof.Machine.execCfill wb b tadd s
  | .cwaitCnt n => Sys2Proof.Machine.execCwaitCnt n s
  | .cwaitSeq wa a => Sys2Proof.Machine.execCwaitSeq wa a s
  | .cseq d wm => Sys2Proof.Machine.execCseq d wm s
  | .csrr q d n => Sys2Proof.Machine.execCsrr q d n s
  | .csrw q wa a n => Sys2Proof.Machine.execCsrw q wa a n s
  | .trap code => Sys2Proof.Machine.execTrap code s
  | .tfence => Sys2Proof.Machine.execTfence s
  | .rft => Sys2Proof.Machine.execRft s
  | .resumef => Sys2Proof.Machine.execResumef s
  | .hbeat d => Sys2Proof.Machine.execHbeat d s
  | .clock d => Sys2Proof.Machine.execClock d s
  | .perfc d n => Sys2Proof.Machine.execPerfc d n s
  | .bkpt => Sys2Proof.Machine.execBkpt s
  | .clauseEntry => Sys2Proof.Machine.execClauseEntry s
  | .linkFailure l => Sys2Proof.Machine.execLinkFailure l s
  | .reroutedPacketReceipt k => Sys2Proof.Machine.execReroutedPacketReceipt k s
  | .homeRequest src hint pa wr data => Sys2Proof.Machine.execHomeRequest src hint pa wr data s
  | .blockWriteBack pa => Sys2Proof.Machine.execBlockWriteBack pa s
  | .blockRead pa => Sys2Proof.Machine.execBlockRead pa s
  | .migrationWindowEnd md => Sys2Proof.Machine.execMigrationWindowEnd md s
  | .homeBlockExchange md lframe blk => Sys2Proof.Machine.execHomeBlockExchange md lframe blk s
  | .heartbeatTick => Sys2Proof.Machine.execHeartbeatTick s
  | .coldReset => Sys2Proof.Machine.execColdReset s
  | .sleepEntry => Sys2Proof.Machine.execSleepEntry s
  | .sleepExit => Sys2Proof.Machine.execSleepExit s
  | .d3cold => Sys2Proof.Machine.execD3cold s
  | .guploadW val => Sys2Proof.Machine.execGuploadW val s
  | .gtrigW val => Sys2Proof.Machine.execGtrigW val s
  | .lowHalfWrite off val => Sys2Proof.Machine.execLowHalfWrite off val s
  | .launchStart => Sys2Proof.Machine.execLaunchStart s
  | .clusterLaunch => Sys2Proof.Machine.execClusterLaunch s
  | .gangLaunch => Sys2Proof.Machine.execGangLaunch s
  | .cardComplete node => Sys2Proof.Machine.execCardComplete node s
  | .spawnBinTimerExpiry core bin => Sys2Proof.Machine.execSpawnBinTimerExpiry core bin s
  | .spawnBinLaunch core bin => Sys2Proof.Machine.execSpawnBinLaunch core bin s
  | .tqTimerExpiry q => Sys2Proof.Machine.execTqTimerExpiry q s
  | .tqLaunch q core => Sys2Proof.Machine.execTqLaunch q core s
  | .tqRefill q => Sys2Proof.Machine.execTqRefill q s
  | .tqRingWrite q => Sys2Proof.Machine.execTqRingWrite q s
  | .tqpopWake q => Sys2Proof.Machine.execTqpopWake q s
  | .loadReply wid k => Sys2Proof.Machine.execLoadReply wid k s
  | .storeQueueDrain wid => Sys2Proof.Machine.execStoreQueueDrain wid s
  | .writeBufferPerform core buf => Sys2Proof.Machine.execWriteBufferPerform core buf s
  | .l2SliceAccess core pa op data => Sys2Proof.Machine.execL2SliceAccess core pa op data s
  | .pageWalkComplete wid => Sys2Proof.Machine.execPageWalkComplete wid s
  | .kickTodev n => Sys2Proof.Machine.execKickTodev n s
  | .kickTohost n => Sys2Proof.Machine.execKickTohost n s
  | .kickTohostComplete => Sys2Proof.Machine.execKickTohostComplete s
  | .shoot val => Sys2Proof.Machine.execShoot val s
  | .shootdownComplete => Sys2Proof.Machine.execShootdownComplete s
  | .cmdstatRead => Sys2Proof.Machine.execCmdstatRead s
  | .jobRun val => Sys2Proof.Machine.execJobRun val s
  | .jobStop val => Sys2Proof.Machine.execJobStop val s
  | .faultqPop wide => Sys2Proof.Machine.execFaultqPop wide s
  | .faultdone token => Sys2Proof.Machine.execFaultdone token s
  | .bkqPop wide => Sys2Proof.Machine.execBkqPop wide s
  | .bkrel val => Sys2Proof.Machine.execBkrel val s
  | .monAlarmRead => Sys2Proof.Machine.execMonAlarmRead s
  | .hotabWrite n val => Sys2Proof.Machine.execHotabWrite n val s
  | .tqcfgEnable q => Sys2Proof.Machine.execTqcfgEnable q s
  | .tqcfgDisable q => Sys2Proof.Machine.execTqcfgDisable q s
  | .registerWrite off wide val => Sys2Proof.Machine.execRegisterWrite off wide val s
  | .getcert => Sys2Proof.Machine.execGetcert s
  | .attest => Sys2Proof.Machine.execAttest s
  | .keyload slot => Sys2Proof.Machine.execKeyload slot s
  | .keyerase slot => Sys2Proof.Machine.execKeyerase slot s
  | .unknownCommand cmd => Sys2Proof.Machine.execUnknownCommand cmd s
  | .hostMemRead hdm n => Sys2Proof.Machine.execHostMemRead hdm n s
  | .hostMemWrite hdm n data => Sys2Proof.Machine.execHostMemWrite hdm n data s
  | .peerRequest idx peer off op data => Sys2Proof.Machine.execPeerRequest idx peer off op data s
  | .peerTimeout core seq => Sys2Proof.Machine.execPeerTimeout core seq s
  | .alarmLog src => Sys2Proof.Machine.execAlarmLog src s
  | .alarmHalt src => Sys2Proof.Machine.execAlarmHalt src s
  | .alarmErase src => Sys2Proof.Machine.execAlarmErase src s
  | .temperatureThreshold word val => Sys2Proof.Machine.execTemperatureThreshold word val s
  | .copyStart core seq => Sys2Proof.Machine.execCopyStart core seq s
  | .copyLineArrival core seq line => Sys2Proof.Machine.execCopyLineArrival core seq line s
  | .copyComplete core seq => Sys2Proof.Machine.execCopyComplete core seq s
  | .cwaitSatisfied wid => Sys2Proof.Machine.execCwaitSatisfied wid s
  | .tmmStart core ta => Sys2Proof.Machine.execTmmStart core ta s
  | .tmmComplete core ta => Sys2Proof.Machine.execTmmComplete core ta s
  | .promotion core ta => Sys2Proof.Machine.execPromotion core ta s
  | .xmmStart core => Sys2Proof.Machine.execXmmStart core s
  | .xmmComplete core => Sys2Proof.Machine.execXmmComplete core s
  | .tlencComplete core => Sys2Proof.Machine.execTlencComplete core s
  | .tldecComplete core => Sys2Proof.Machine.execTldecComplete core s
  | .decsComplete core => Sys2Proof.Machine.execDecsComplete core s
  | .recipePostRetry core => Sys2Proof.Machine.execRecipePostRetry core s
  | .chainBegin => Sys2Proof.Machine.execChainBegin s
  | .nestedRecipeStart wid => Sys2Proof.Machine.execNestedRecipeStart wid s
  | .tileRebuildComplete wid => Sys2Proof.Machine.execTileRebuildComplete wid s
  | .regionCommit rid => Sys2Proof.Machine.execRegionCommit rid s
  | .evictionDecision => Sys2Proof.Machine.execEvictionDecision s
  | .waveStop wid => Sys2Proof.Machine.execWaveStop wid s
  | .blockImageWrite blk => Sys2Proof.Machine.execBlockImageWrite blk s
  | .waveRestore unit => Sys2Proof.Machine.execWaveRestore unit s
  | .reservedOpcode word => Sys2Proof.Machine.execReservedOpcode word s

end Sys2Proof.Machine
end

