-- ==== Sys2Proof/Machine/Turns.lean ====
section
/-! DEFINITION. Whose turn it is: what a turn of the agenda does, and the turns that the scheduler of R108 gives when the
agenda is empty (spec/07_execution_and_scheduling.md R108, R110; 03 R33; 13 R225; log 1). -/

namespace Sys2Proof.Machine

/-! ### What a turn does -/

/-- The turn of a wave: it runs what it is at. -/
def State.waveTurn (s : State) (wid : Nat) : Out :=
  let t := s.switchTo wid
  if t.w.id.wid = wid ∧ t.w.flow.hold ≠ .blank then exec t.w.instr t else .next s

/-- Does wave `wid` stand where it stood, stalled? -/
def State.stillAt (s t : State) (wid : Nat) : Bool :=
  match s.wave? wid, t.wave? wid with
  | some w, some v => v.flow.stalled && v.flow.pc == w.flow.pc
  | _, _ => false

/-- The turn of a wave in a cycle that another wave has: what waiting does (R225), or nothing. -/
def State.waitTurn (s : State) (wid : Nat) : Out :=
  match s.waveTurn wid with
  | .next t => if s.stillAt t wid then .next t else .next s
  | _ => .next s

/-- An L1 evicts a line: it writes the line back, if nothing keeps it from that, and drops it; after HALT nothing is written
back (09 R125; 23 R325; 27 R364; log 17). -/
def State.evictL1 (s : State) (core line : Nat) : State := if s.tabs.halted then s else (s.l1Evict core line).getD s

/-- One turn. -/
def State.turn (s : State) : Turn → Out
  | .wave wid => s.waveTurn wid
  | .waiting wid => s.waitTurn wid
  | .event i => exec i s
  | .l1Evict core line => .next (s.evictL1 core line)

/-! ### Readiness (R108) -/

/-- What a wave can do in its quarter's cycle. -/
inductive Ready where
  /-- it is parked -/
  | parked
  /-- it goes to another clause, which takes no issue cycle -/
  | enters
  /-- its instruction cannot issue; `pipe`: only because its pipe is occupied -/
  | waits (pipe : Bool)
  /-- its instruction can issue -/
  | ready
  deriving DecidableEq, Repr

/-- The wave's turn changes where it stands. -/
def State.moves (s t : State) (wid : Nat) : Bool :=
  match s.wave? wid, t.wave? wid with
  | some w, some v => v.flow.pc != w.flow.pc || v.flow.clause != w.flow.clause || v.flow.hold != w.flow.hold
  | _, _ => true

/-- A wave that waits in RBEGIN or RCOMMIT is parked (23 R318, R326). -/
def Hold.parks : Hold → Bool
  | .rbegin => true
  | .rcommit => true
  | _ => false

/-- A wave that a TLENC holds or that has stopped at a BKPT does not issue, and no rule calls it parked (13 R226; 17 R260): its
counter 7 does not count (13 R225). -/
def Hold.rests : Hold → Bool
  | .tlenc => true
  | .bkpt => true
  | _ => false

/-- What the wave's turn would show of it, if it would stay where it is, waiting. -/
def State.waiter (s : State) (wid : Nat) : Option Wave :=
  match s.waveTurn wid with
  | .next t => if s.stillAt t wid then t.wave? wid else none
  | _ => none

/-- What a wave can do now. -/
def State.readiness (s : State) (w : Wave) : Ready :=
  if !w.flow.hold.tries && !s.missOver w.flow.hold then .parked
  else if s.regionStall w then .waits false
  else if w.instr = .clauseEntry then
    match s.waveTurn w.id.wid with
    | .next t => if s.moves t w.id.wid then .enters else .waits false
    | _ => .enters
  else match s.waiter w.id.wid with
    | some v => if w.flow.hold.parks then .parked else .waits v.flow.piped
    | none => .ready

/-! ### The choice (R108) -/

/-- Has the wave been ready for 64 cycles? -/
def Wave.starved (w : Wave) : Bool := decide (64 ≤ w.flow.ready)

/-- Does wave `a` issue before wave `b`? -/
def Wave.before (a b : Wave) : Bool :=
  let rank : List (Nat × Nat) :=
    [(if a.starved then 0 else 1, if b.starved then 0 else 1),
     (if a.starved && b.starved then b.flow.ready else 0, if a.starved && b.starved then a.flow.ready else 0),
     (if a.starved && b.starved then a.id.age else 0, if a.starved && b.starved then b.id.age else 0),
     (if a.id.kind = .kindling then 0 else 1, if b.id.kind = .kindling then 0 else 1),
     (if a.flow.handler || a.flow.contin then 0 else 1, if b.flow.handler || b.flow.contin then 0 else 1),
     (b.id.prio, a.id.prio), (a.id.age, b.id.age), (a.id.wid, b.id.wid)]
  match rank.find? fun r => r.1 != r.2 with
  | some r => decide (r.1 < r.2)
  | none => false

/-- The wave that issues before every other. -/
def firstWave : List Wave → Option Wave
  | [] => none
  | w :: t => match firstWave t with
    | none => some w
    | some v => if w.before v then some w else some v

/-- A wave that a cycle of its quarter has passed (R33, R108, R225). -/
def Wave.cycle (w : Wave) (r : Ready) (chosen : Bool) (eligible : Bool) : Wave :=
  let v : Wave := { w with flow := { w.flow with yielded := false } }
  match r with
  | .ready =>
    if chosen || !eligible then v
    else { v.perfAdd 1 1 with flow := { v.flow with ready := v.flow.ready + 1 } }
  | .waits pipe => if pipe then v else { v with flow := { v.flow with ready := 0 } }
  | .parked => { (if w.flow.hold.rests then v else v.perfAdd 7 1) with flow := { v.flow with ready := 0 } }
  | .enters => v

/-- The waves of a quarter, numbered core * 4 + quarter. -/
def State.quarterWaves (s : State) (k : Nat) : List Wave :=
  s.waves.filter fun w => w.flow.alive != 0 && w.id.core * 4 + w.id.slot / 12 == k

/-- A cycle of a quarter: waves that go to another clause do so first; then one ready wave issues, and the others wait. -/
def State.serveQuarter (s : State) (k : Nat) : State :=
  let ws := (s.quarterWaves k).map fun w => (w, s.readiness w)
  let entering := ws.filter fun x => x.2 == .enters
  if entering.isEmpty then
    let ready := (ws.filter fun x => x.2 == .ready).map (·.1)
    let fresh := ready.filter fun w => !w.flow.yielded
    let chosen := firstWave (if fresh.isEmpty then ready else fresh)
    let t := forEach ws s fun x t =>
      t.onWave x.1.id.wid fun w => w.cycle x.2 (chosen.map (·.id.wid) == some w.id.wid) (!w.flow.yielded)
    let waits := ws.filterMap fun x => match x.2 with
      | .waits _ => some (Turn.waiting x.1.id.wid)
      | _ => none
    let issue := match chosen with
      | some w => [Turn.wave w.id.wid]
      | none => []
    { t with agenda := waits ++ issue, sched := { t.sched with turn := k + 1 } }
  else { s with agenda := entering.map fun x => .wave x.1.id.wid }

/-! ### What the rest of the machine does between cycles (log 1) -/

/-- Events of the scheduler. -/
def State.schedEvents (s : State) : List Instr :=
  let cards := match s.sched.running with
    | none => []
    | some l => (l.cards.filter fun c => !c.done).map fun c => Instr.cardComplete (BitVec.ofNat 10 c.node)
  [.launchStart, .gangLaunch, .clusterLaunch] ++ cards ++ (if s.readyCards.isEmpty then [] else [.evictionDecision]) ++
    (if s.die.recipeQ.isEmpty then [] else [.chainBegin])

/-- Events of a wave. -/
def waveEvents (w : Wave) : List Instr :=
  let i := w.id.wid
  (List.range w.mem.loads.length).reverse.map (fun k => Instr.loadReply i k) ++
    (if w.mem.sq.isEmpty then [] else [.storeQueueDrain i]) ++
    (match w.flow.hold with
    | .walk _ => [.pageWalkComplete i]
    | .miss _ _ => if w.id.chain.isSome then [.nestedRecipeStart i] else []
    | _ => []) ++
    (if w.id.chain.isSome && w.flow.alive == 0 then [.tileRebuildComplete i] else []) ++
    (if w.flow.stopReq then [.waveStop i] else [])

/-- Events of a term array. -/
def arrayEvents (core : BitVec 7) (ta : Bool) (a : TermArray) : List Instr :=
  match a.queue with
  | [] => []
  | o :: _ => if o.kind = .tmm then (if a.started.isSome then [.tmmComplete core ta] else [.tmmStart core ta]) else [.promotion core ta]

/-- Events of a spawn bin. -/
def binEvents (core : BitVec 7) (now : Nat) (n : Nat) (b : Bin) : List Instr :=
  let k := BitVec.ofNat 2 n
  (match b.due with
  | some t => if t ≤ now then [.spawnBinTimerExpiry core k] else []
  | none => []) ++ (if b.recs.isEmpty then [] else [.spawnBinLaunch core k])

/-- Events of a core's copies. -/
def copyEvents (core : BitVec 7) (cs : List Copy) : List Instr :=
  cs.map fun c => if c.started then .copyComplete core (BitVec.ofNat 32 c.seq) else .copyStart core (BitVec.ofNat 32 c.seq)

/-- Events of a core. -/
def State.coreEvents (s : State) (k : Nat) (c : Core) : List Instr :=
  let n := BitVec.ofNat 7 k
  let strong := s.waves.any fun w => w.id.core == k && !w.mem.strong.isEmpty
  let bufs := (List.range 8).filter fun b => strong || !(look [] c.wbuf b).isEmpty
  bufs.map (fun b => Instr.writeBufferPerform n (BitVec.ofNat 3 b)) ++
    arrayEvents n false (c.arr 0) ++ arrayEvents n true (c.arr 1) ++
    (match c.xq with
    | [] => []
    | o :: _ => if o.started.isSome then [.xmmComplete n] else [.xmmStart n]) ++
    (match c.tlfq with
    | [] => []
    | o :: _ => if o.enc then [.tlencComplete n] else [.tldecComplete n]) ++
    (if c.decq.isEmpty then [] else [.decsComplete n]) ++ copyEvents n c.copies ++
    (if c.retry.isEmpty || decide (s.pkg.coreClock < c.retryDue) then [] else [.recipePostRetry n]) ++ c.bins.flatMap fun e => binEvents n s.pkg.coreClock e.1 e.2

/-- Events of a task queue; its waves go to the lowest core with room. -/
def State.queueEvents (s : State) (q : Nat) (t : TaskQueue) : List Instr :=
  let n := BitVec.ofNat 6 q
  (match t.due with
  | some x => if x ≤ s.pkg.coreClock then [.tqTimerExpiry n] else []
  | none => []) ++ [.tqRingWrite n, .tqRefill n, .tqpopWake n] ++
    (match (List.range 128).find? fun c => (s.looseSlot c t.vregs).isSome with
    | some c => [.tqLaunch n (BitVec.ofNat 7 c)]
    | none => [])

/-- Packets on the detour of a failed link arrive (01 R22). -/
def Pkg.detourEvents (p : Pkg) : List Instr :=
  (List.range 8).flatMap fun md => [false, true].flatMap fun toCd =>
    if (p.inFlight md toCd).isEmpty then [] else [Instr.reroutedPacketReceipt (BitVec.ofNat 4 (md + if toCd then 8 else 0))]

/-- The mailbox command that has been written and has not completed (27 R362). -/
def State.mailboxEvents (s : State) : List Instr :=
  let w := bytesNat (s.mboxBytes 0 4)
  let slot := BitVec.ofNat 8 (w / 256)
  if w.testBit 31 then
    match w % 256 with
    | 1 => [.getcert]
    | 2 => [.attest]
    | 3 => [.keyload slot]
    | 4 => [.keyerase slot]
    | _ => [.unknownCommand (BitVec.ofNat 16 w)]
  else []

/-- Events of evicted units and of moving pages; migration windows end every 2^24 cycles (R149). -/
def State.otherEvents (s : State) : List Instr :=
  (s.die.regions.map fun e => Instr.regionCommit (BitVec.ofNat 6 e.1)) ++
    (s.die.saved.map fun u => match u.blk with
      | some k => if u.written then Instr.waveRestore u.unit else .blockImageWrite k
      | none => if u.written then Instr.waveRestore u.unit else .waveStop (u.unit / 2)) ++
    ((s.pkg.home.filter fun e => e.2.moving && decide (e.2.home < 4)).flatMap fun e => (List.range 256).map fun b =>
      Instr.homeBlockExchange (BitVec.ofNat 3 e.2.home) (BitVec.ofNat 20 e.2.lframe) (BitVec.ofNat 8 b)) ++
    (if s.pkg.clock % 2 ^ 24 = 0 then (List.range 8).map fun m => Instr.migrationWindowEnd (BitVec.ofNat 3 m) else []) ++
    (match s.host.cmdq with
    | .tohost _ :: _ => [.kickTohostComplete]
    | .shoot _ :: _ => [.shootdownComplete]
    | _ => []) ++ s.mailboxEvents ++ s.pkg.detourEvents

/-- Every event that may be due, each once. -/
def State.dueEvents (s : State) : List Instr :=
  s.waves.flatMap waveEvents ++ (s.die.saved.flatMap fun u => u.waves.flatMap fun x =>
      (List.range x.wave.mem.loads.length).reverse.map fun k => Instr.loadReply x.wave.id.wid k) ++
    (s.cores.flatMap fun e => s.coreEvents e.1 e.2) ++ (s.die.queues.flatMap fun e => s.queueEvents e.1 e.2) ++
    s.schedEvents ++ s.otherEvents

/-- Cores that hold no wave empty their L1s, unless a write-back must wait; after HALT none is made (09 R137; 27 R364). -/
def State.idleCores (s : State) : State := if s.tabs.halted then s else forEach s.coreNos s fun k x => (x.idleCore k).getD x

/-- The end of a cycle of every quarter: time passes, faults that found FAULTQ full enter it, waves that have ended leave,
idle cores empty their L1s, fused L1s without a user part, an upload, a kick and peers' requests that waited go on, and every event that may be due has a
turn. -/
def State.endCycle (s : State) : State :=
  let t := ((s.pass 1).fillFaultq).reap
  let u := t.idleCores.unfuse.resumeUpload.retryCmd.servePeers
  { u with agenda := u.dueEvents.map .event, sched := { u.sched with turn := 0 } }

/-- The lowest quarter with a wave, from `k` on. -/
def State.nextQuarter (s : State) (k : Nat) : Option Nat :=
  (s.waves.filter fun w => w.flow.alive != 0).foldl (fun b w =>
    let q := w.id.core * 4 + w.id.slot / 12
    if q < k then b
    else match b with
      | none => some q
      | some x => some (min x q)) none

/-- The agenda of the next quarter with a wave, or of the rest of the machine. -/
def State.plan (s : State) : State :=
  if s.host.jobDead || s.tabs.halted then s.endCycle
  else match s.nextQuarter s.sched.turn with
    | some k => s.serveQuarter k
    | none => s.endCycle

/-- The next turn of the agenda. -/
def State.runAgenda (s : State) : Out :=
  match s.agenda with
  | t :: rest => { s with agenda := rest }.turn t
  | [] => .next s

/-- One step: the next turn of the agenda, after planning one that is empty. -/
def State.oneTurn (s : State) : Out := if s.agenda.isEmpty then s.plan.runAgenda else s.runAgenda

end Sys2Proof.Machine
end

