-- ==== Sys2Proof/Machine/HostRead.lean ====
section
/-! DEFINITION. What a read of a host register returns, and the capability list: Table 27.1 with R350 to R355, R357, R359,
R362, R364, R365, R367, and 01 R25, R26. The reads that change something are events (CMDSTAT_READ, FAULTQ_POP, BKQ_POP,
MON_ALARM_READ); the others change nothing and are no step (log 23). -/

namespace Sys2Proof.Machine

/-- JOBCTL as it reads (R354). -/
def HostRegs.jobctl (h : HostRegs) : Nat :=
  h.jobid.toNat * 2 ^ 32 + (if h.bkpten then 4 else 0) + (if h.stop then 2 else 0) + if h.run then 1 else 0

/-- The aligned 8 bytes of MMIO at `off`, as reads return them once a pop has latched its entry (Table 27.1). -/
def State.mmioWord (s : State) (off : Nat) : Nat :=
  let h := s.host
  let t := s.tabs
  if off = 0x10 then h.gstat.toNat
  else if off = 0x18 then h.lcount.toNat
  else if off = 0x30 then h.cmdstat
  else if off = 0x38 then h.troot.toNat
  else if off = 0x40 then h.jobctl
  else if off = 0x48 then h.savebase.toNat
  else if off = 0x50 then h.savesize.toNat
  else if off = 0x58 then h.peerto.toNat
  else if off = 0x60 then h.faultLatch.1.toNat
  else if off = 0x68 then h.faultLatch.2.toNat
  else if 0x80 ≤ off ∧ off < 0xC0 then (h.supf.getD ((off - 0x80) / 8) 0).toNat
  else if off = 0xC0 then h.bkLatch.1.toNat
  else if off = 0xC8 then h.bkLatch.2.toNat
  else if off = 0xE0 then t.bootcfg.toNat + s.pkg.linkstat s.die.die * 2 ^ 32
  else if 0x100 ≤ off ∧ off < 0x900 then (look HoEnt.none t.hotab ((off - 0x100) / 8)).bits
  else if 0x1000 ≤ off ∧ off < 0x1800 then
    let q := s.queue ((off - 0x1000) / 32)
    if off % 32 = 24 then q.chip.length + (q.tail - q.head) else bitsN q.raw (8 * (off % 32)) 64
  else if 0x2000 ≤ off ∧ off < 0x3000 then bitsN (look 0 t.imports ((off - 0x2000) / 16)) (8 * (off % 16)) 64
  else if 0x3000 ≤ off ∧ off < 0x4000 then bitsN (look 0 t.exports ((off - 0x3000) / 16)) (8 * (off % 16)) 64
  else if 0x4000 ≤ off ∧ off < 0x4100 then
    (s.monWord ((off - 0x4000) / 4)).toNat + (s.monWord ((off - 0x4000) / 4 + 1)).toNat * 2 ^ 32
  else if 0x5000 ≤ off ∧ off < 0x6000 then bytesNat (s.mboxBytes (off - 0x5000) 8)
  else if off = 0x6000 then (if s.die.die = 0 then t.alarmcfg.toNat else 0)
  else 0

/-- A naturally aligned read of 4 or 8 bytes. -/
def State.mmioRead (s : State) (off n : Nat) : Nat := bitsN (s.mmioWord (off / 8 * 8)) (8 * (off % 8)) (8 * n)

/-- PARAM of the features of Table 1.8, in the order of their IDs. -/
def capParams : List Nat := [2, 64, 64, 64, 8, 16, 4, 128, 16]

/-- The capability entry of feature `k` + 1 (Tables 1.7 and 1.8). -/
def capEntry (k : Nat) : List Byte :=
  natBytes 2 (k + 1) ++ natBytes 1 1 ++ natBytes 1 16 ++ natBytes 4 (if k = 8 then 0 else 0x810 + 16 * k) ++
    natBytes 4 (capParams.getD k 0) ++ natBytes 4 0

/-- The capability list, at configuration offset 0x800. Writes there are ignored (R25). -/
def capList : List Byte := (List.range 9).flatMap capEntry

/-- The header of a DVSEC: before a capability at offset `next`, of a vendor, `len` bytes, with its ID. -/
def dvsecHead (next vendor len id : Nat) : List Byte :=
  natBytes 4 (0x0023 + 0x10000 + next * 2 ^ 20) ++ natBytes 4 (vendor + len * 2 ^ 20) ++ natBytes 2 id

/-- The Grenmund DVSEC of a device with this vendor ID, before a capability at offset `next` (Table 1.9). -/
def dvsec (vendor next : Nat) : List Byte := dvsecHead next vendor 0x010 0x0A72 ++ natBytes 2 0 ++ natBytes 4 0x800

/-- The vendor ID and the ID of the CXL specification's DVSECs for a device: its own, GPF, Flex Bus port and register locator
(log 23). -/
def cxlDvsecs : List (Nat × Nat) := [(0x1E98, 0), (0x1E98, 5), (0x1E98, 7), (0x1E98, 8)]

/-- Where the DVSEC after `k` of the list stands: the list begins at offset 0x100, 64 bytes to each (log 23). -/
def dvsecAt (k : Nat) : Nat := 0x100 + 64 * k

/-- The extended capabilities of the device, by their offsets: the CXL DVSECs, and the Grenmund DVSEC last. -/
def extCaps : List (Nat × List Byte) :=
  (cxlDvsecs.zipIdx.map fun e => (dvsecAt e.2, dvsecHead (dvsecAt (e.2 + 1)) e.1.1 64 e.1.2)) ++
    [(dvsecAt cxlDvsecs.length, dvsec Config.vendorId.toNat 0)]

/-- A byte of configuration space: the vendor ID at offset 0, the extended capabilities, the capability list, and elsewhere
what PCIe and CXL put there, which the spec does not give (R25, log 23). -/
def configByte (off : Nat) : Byte :=
  let at? : Nat × List Byte → Option Byte := fun e => if off < e.1 then none else e.2[off - e.1]?
  match ([(0, natBytes 2 Config.vendorId.toNat), (0x800, capList)] ++ extCaps).findSome? at? with
  | some b => b
  | none => Config.configByte off

/-- A read of `n` bytes of configuration space. -/
def configRead (off n : Nat) : Nat := bytesNat ((List.range n).map fun i => configByte (off + i))

end Sys2Proof.Machine
end

