-- ==== Sys2Proof/WellFormed.lean ====
section
/-! DEFINITION. Which terms of the syntax are instructions of the machine: an encoded instruction is well formed when
its fields break no rule of its entry (spec/03_instruction_encoding.md R36, R44), as Decode.lean's `fieldError` names
them; an event is well formed as it stands. -/

namespace Sys2Proof

/-- The check. -/
def Instr.wellFormed (i : Instr) : Bool := (fieldError i).isNone

/-- Rows 0 to 133 of the table have words; the events have none (spec/95_what_each_step_holds.md). -/
def Instr.isEncoded (i : Instr) : Bool := !(encode i).isEmpty

end Sys2Proof
end

