-- ==== Sys2Proof/Safety.lean ====
section
/-! DEFINITION. What counts as a safe state and a safe step, and the words in which claims about the machine are stated:
the canonical form of memory, when nothing keeps an instruction from its effect, what an instruction leaves as it was. -/

namespace Sys2Proof.Machine

/-! ### Memory -/

/-- The canonical form of memory: addresses strictly rise, and no entry holds the 0 that an unlisted byte reads as. -/
def Memory.wf (m : List Host.Cell) : Bool := mapWf 0 m

/-- DRAM is in its canonical form. -/
def State.memWf (s : State) : Bool := Memory.wf s.pkg.dram

/-- A byte of memory as a load of a core reads it: from its L1, else from the L2, else from the home. -/
def State.byteSeen (s : State) (core pa fields : Nat) : Nat :=
  match s.l1? core pa with
  | some l => if l.valid.getLsbD (pa % 128) then (l.data.getD (pa % 128) 0).toNat else s.peek pa 1 fields
  | none => s.peek pa 1 fields

/-- A byte of the tile memory of block `k`. -/
def State.tileByte (s : State) (k off : Nat) : Byte := (s.tileBytes k off 1).headD 0

/-! ### Safe states and steps -/

/-- No supervisor fault has stopped the job (25 R337), and no alarm has stopped the device (27 R364). -/
def State.running (s : State) : Bool := !s.host.jobDead && !s.tabs.halted

/-- A step that is no fault and no refusal, and stops neither the job nor the device. -/
def State.safeStep (s : State) : Prop := ∃ t, step s = .next t ∧ (s.running = true → t.running = true)

/-! ### When an instruction has its effect -/

/-- The acting wave stands at an instruction that uses `u`, and nothing of 03 R30, R31, R44, R49, R50, R51 and 07 R108
keeps it from its effect. -/
def State.mayRun (s : State) (u : Use) : Bool :=
  s.issues && s.w.flow.clause.isSome && !u.encodingBad s && (u.occ == 0 || !s.aluBusy s.w) && (u.blocked s.w).isEmpty &&
    !u.emptyRead s.w

/-- The acting wave holds no region and is no kindling wave. -/
def State.plain (s : State) : Bool := s.w.mem.region.isNone && s.w.id.kind != .kindling

/-! ### What is as it was -/

/-- All that is outside the acting wave is as it was, every byte of memory included, but for `occ` cycles of work that the
vector ALU of the wave's quarter takes on. -/
structure State.SameRest (s t : State) (occ : Nat) : Prop where
  others : t.others = s.others
  cores : t.cores = (s.holdAlu s.w occ).cores
  die : t.die = s.die
  sched : t.sched = s.sched
  host : t.host = s.host
  tabs : t.tabs = s.tabs
  pkg : t.pkg = s.pkg
  agenda : t.agenda = s.agenda
  fresh : t.fresh = s.fresh
  bytes : ∀ core pa fields, t.byteSeen core pa fields = s.byteSeen core pa fields
  tile : ∀ k off, t.tileByte k off = s.tileByte k off

/-- A wave's registers but those listed, the lanes that are not active, and the full bits are as they were. -/
structure Wave.SameRegs (w v : Wave) (vs ss ps : List Nat) : Prop where
  vec : ∀ r, r ∉ vs → v.rdV r = w.rdV r
  idle : ∀ r l, w.active l = false → v.lane r l = w.lane r l
  scal : ∀ r, r ∉ ss → v.rdS r = w.rdS r
  pred : ∀ k, k ∉ ps → v.rdP k = w.rdP k
  vfull : v.regs.vfull = w.regs.vfull
  sfull : v.regs.sfull = w.regs.sfull

/-- A wave has gone on past its instruction (03 R34): its identity is as it was, its flow, counters and memory side are
those of `Wave.advance`, and of its special registers only ARITHF has changed, by the flags `fl` ORed into it. -/
structure Wave.WentOn (w v : Wave) (fl : Flags) : Prop where
  id : v.id = w.id
  flow : v.flow = w.advance.flow
  mem : v.mem = w.advance.mem
  csr : v.csr = { w.advance.csr with arithf := w.csr.arithf ||| fl }

/-- The frame of an instruction of registers only: vector registers `vs`, scalar registers `ss` and predicates `ps` are its
destinations, `fl` the flags it ORs into ARITHF, `occ` the cycles it holds the vector ALU. -/
structure State.RegsOnly (s t : State) (occ : Nat) (vs ss ps : List Nat) (fl : Flags) : Prop where
  rest : s.SameRest t occ
  wave : s.w.WentOn t.w fl
  regs : s.w.SameRegs t.w vs ss ps

end Sys2Proof.Machine
end

