-- ==== Sys2Proof/Certificates/Slice0/Obligations.lean ====
section
/-! DEFINITION. Statements about the machine for the provers, from the numbered rules of spec/, and the tables they use. -/

namespace Sys2Proof.Machine

/-! ### Tables: an instruction, what it uses, where its result goes, and its result -/

/-- An instruction that writes one 32-bit value in each active lane of a vector register, with its flags. -/
structure LaneOp where
  i : Instr
  u : Use
  d : Nat
  val : Wave → Nat → Word
  fl : Wave → Nat → Flags := fun _ _ => 0

/-- A two-source integer instruction (Table 11.4, R162). -/
def int2 (i : F3 → Instr) (f : F3) (occ : Nat) (g : Word → Word → Word) : LaneOp :=
  { i := i f, u := f3use 0 occ f, d := f.d.toNat, val := fun w l => g (w.lane f.a.toNat l) (w.opB f.q f.b l) }

/-- Table 11.4 without IADDS, and R162, R163, R167 (BFI), R170. -/
def intTwoSource (f : F3) (lenm1 pos : BitVec 5) (neg : Bool) (pidx : BitVec 3) : List LaneOp :=
  [int2 .iadd f 1 fun a b => a + b, int2 .isub f 1 fun a b => a - b,
   int2 .imul f 2 fun a b => BitVec.ofInt 32 (a.toInt * b.toInt),
   int2 .imulh f 2 fun a b => (a.setWidth 64 * b.setWidth 64).extractLsb' 32 32,
   int2 .imin f 1 fun a b => BitVec.ofInt 32 (min a.toInt b.toInt), int2 .imax f 1 fun a b => BitVec.ofInt 32 (max a.toInt b.toInt),
   int2 .umin f 1 fun a b => BitVec.ofNat 32 (min a.toNat b.toNat), int2 .umax f 1 fun a b => BitVec.ofNat 32 (max a.toNat b.toNat),
   int2 .and f 1 fun a b => a &&& b, int2 .or f 1 fun a b => a ||| b, int2 .xor f 1 fun a b => a ^^^ b,
   int2 .andn f 1 fun a b => a &&& ~~~b, int2 .shl f 1 fun a b => a <<< b.toNat, int2 .shr f 1 fun a b => a >>> b.toNat,
   int2 .sar f 1 fun a b => a.sshiftRight b.toNat,
   { int2 .imad f 2 (fun a _ => a) with
       val := fun w l => BitVec.ofInt 32 ((w.lane f.a.toNat l).toInt * (w.opB f.q f.b l).toInt + (w.lane f.d.toNat l).toInt) },
   int2 (fun f => .bfi f lenm1 pos) f 1 fun a b =>
     let m : Word := BitVec.ofNat 32 (2 ^ (lenm1.toNat + 1) - 1) <<< pos.toNat
     (b &&& ~~~m) ||| ((a <<< pos.toNat) &&& m),
   { int2 (fun f => .sel f neg pidx) f 1 (fun a _ => a) with
       val := fun w l => if ((w.rdP pidx.toNat).getLsbD l).xor neg then w.lane f.a.toNat l else w.opB f.q f.b l }]

/-- A unary integer instruction (Table 11.5). -/
def int1 (i : U3 → Instr) (u : U3) (g : Word → Word) : LaneOp :=
  { i := i u, u := u3use 0 1 u, d := u.d.toNat, val := fun w l => g (w.lane u.a.toNat l) }

/-- Table 11.5 but for the two that saturate, and R165, R166, R167 (BFE). -/
def intOneSource (u : U3) (sx : Bool) (lenm1 pos : BitVec 5) (g : FI) (imm : BitVec 32) : List LaneOp :=
  [int1 .popc u fun a => BitVec.ofNat 32 (((List.range 32).filter fun i => a.getLsbD i).length),
   int1 .clz u fun a => BitVec.ofNat 32 (((List.range 33).filter fun i => decide (a.toNat < 2 ^ (32 - i))).length - 1),
   int1 .ctz u fun a => BitVec.ofNat 32 (((List.range 33).filter fun i => decide (a.toNat % 2 ^ i = 0)).length - 1),
   int1 .brev u fun a => BitVec.ofBoolListLE ((List.range 32).map fun i => a.getLsbD (31 - i)),
   int1 .mov u fun a => a,
   int1 (fun u => .bfe u sx lenm1 pos) u fun a =>
     let f := (a >>> pos.toNat) <<< (31 - lenm1.toNat)
     if sx then f.sshiftRight (31 - lenm1.toNat) else f >>> (31 - lenm1.toNat),
   { i := .iaddi g, u := valu 0 1 [fisrc g 1] [vdst g.d 1], d := g.d.toNat
     val := fun w l => BitVec.ofInt 32 ((w.opB g.q g.a l).toInt + g.imm.toInt) },
   { i := .movi u.d imm, u := valu 0 1 [] [vdst u.d 1], d := u.d.toNat, val := fun _ _ => imm }]

/-- SAT32 of Table 0.3 and its flag. -/
def clamp32 (x : Int) : Word := BitVec.ofInt 32 (max (-2147483648) (min 2147483647 x))
def clampFlag (x : Int) : Flags := if -2147483648 ≤ x ∧ x ≤ 2147483647 then 0 else fSAT

/-- The saturating instructions (Tables 11.4 and 11.5). -/
def intSaturating (f : F3) (u : U3) : List LaneOp :=
  [{ i := .iadds f, u := f3use 0 1 f, d := f.d.toNat
     val := fun w l => clamp32 ((w.lane f.a.toNat l).toInt + (w.opB f.q f.b l).toInt)
     fl := fun w l => clampFlag ((w.lane f.a.toNat l).toInt + (w.opB f.q f.b l).toInt) },
   { i := .iabs u, u := u3use 0 1 u, d := u.d.toNat, val := fun w l => clamp32 |(w.lane u.a.toNat l).toInt|
     fl := fun w l => clampFlag |(w.lane u.a.toNat l).toInt| },
   { i := .ineg u, u := u3use 0 1 u, d := u.d.toNat, val := fun w l => clamp32 (-(w.lane u.a.toNat l).toInt)
     fl := fun w l => clampFlag (-(w.lane u.a.toNat l).toInt) }]

/-- A floating-point instruction of one register, its result and flags from the mode in force. -/
def flt (i : Instr) (u : Use) (d : Nat) (g : RMode → Wave → Nat → Nat × Flags) : LaneOp :=
  { i := i, u := u, d := d, val := fun w l => BitVec.ofNat 32 (g w.mode w l).1, fl := fun w l => (g w.mode w l).2 }

/-- F32 of source A, of source B and of register `r` in a lane (R159). -/
def fA (f : F3) (w : Wave) (l : Nat) : FVal := fp32.unpack (w.lane f.a.toNat l).toNat
def fB (f : F3) (w : Wave) (l : Nat) : FVal := fp32.unpack (w.opB f.q f.b l).toNat
def fR (r : Nat) (w : Wave) (l : Nat) : FVal := fp32.unpack (w.lane r l).toNat

/-- R171 to R173, R175, R177, R179, and the kinds of R178 whose destination is one register. -/
def fltOneResult (f : F3) (wc : Bool) (c : BitVec 7) (u : U3) (g : FC) : List LaneOp :=
  let use := f3use 1 1 f
  let fn := fun (i : U3 → Instr) (k : FFun) => flt (i u) (u3use 1 4 u) u.d.toNat fun m w l => fp32.apply k m (fR u.a.toNat w l)
  [flt (.fadd f) use f.d.toNat fun m w l => fp32.add m (fA f w l) (fB f w l),
   flt (.fsub f) use f.d.toNat fun m w l => fp32.add m (fA f w l) (fB f w l).neg,
   flt (.fmul f) use f.d.toNat fun m w l => fp32.mul m (fA f w l) (fB f w l),
   flt (.ffma f) use f.d.toNat fun m w l => fp32.fma m (fA f w l) (fB f w l) (fR f.d.toNat w l),
   flt (.ffma3 f wc c) (valu 1 1 (f3srcs f 1 ++ [vsrc c 1 wc]) [vdst f.d 1]) f.d.toNat
     fun m w l => fp32.fma m (fA f w l) (fB f w l) (fR c.toNat w l),
   flt (.fmin f) use f.d.toNat fun _ w l => fp32.minMax true (w.lane f.a.toNat l).toNat (w.opB f.q f.b l).toNat,
   flt (.fmax f) use f.d.toNat fun _ w l => fp32.minMax false (w.lane f.a.toNat l).toNat (w.opB f.q f.b l).toNat,
   fn .frcp .rcp, fn .frsq .rsq, fn .fsqrt .sqrt, fn .fexp2 .exp2, fn .flog2 .log2, fn .ftanh .tanh,
   flt (.fcvt g) (valu 1 1 [bsrc g.q g.a 1 g.wa] [vdst g.d 1]) g.d.toNat
     fun m w l => fcvtLane g.kind.toNat (RMode.ofRM g.rm m) (w.opB g.q g.a l),
   flt (.hfma2 f) use f.d.toNat fun m w l =>
     fma2 fp16 m (w.lane f.a.toNat l).toNat (w.opB f.q f.b l).toNat (w.lane f.d.toNat l).toNat,
   flt (.bfma2 f) use f.d.toNat fun m w l =>
     fma2 bf16 m (w.lane f.a.toNat l).toNat (w.opB f.q f.b l).toNat (w.lane f.d.toNat l).toNat]

/-- An instruction that writes a 64-bit value in each active lane of a vector pair, with its flags. -/
structure PairOp where
  i : Instr
  u : Use
  d : Nat
  val : Wave → Nat → BitVec 64
  fl : Wave → Nat → Flags := fun _ _ => 0

/-- F64 of the pairs of sources A and B and of the pair at `r` in a lane (R180). -/
def dA (f : F3) (w : Wave) (l : Nat) : FVal := fp64.unpack (w.lane2 f.a.toNat l).toNat
def dB (f : F3) (w : Wave) (l : Nat) : FVal := fp64.unpack (w.opB2 f.q f.b l).toNat
def dR (r : Nat) (w : Wave) (l : Nat) : FVal := fp64.unpack (w.lane2 r l).toNat

/-- R168 and R180. -/
def pairResults (f : F3) (off : BitVec 16) (sx : Bool) (sh : BitVec 3) : List PairOp :=
  let op := fun (i : Instr) (g : RMode → Wave → Nat → Nat × Flags) =>
    ({ i := i, u := valu 1 4 (f3srcs f 2) [vdst f.d 2], d := f.d.toNat, val := fun w l => BitVec.ofNat 64 (g w.mode w l).1
       fl := fun w l => (g w.mode w l).2 } : PairOp)
  [{ i := .lea f off sx sh, u := valu 0 1 [vsrc f.a 1 f.wa, bsrc f.q f.b 2 f.wb] [vdst f.d 2], d := f.d.toNat
     val := fun w l =>
       let idx : Int := if sx then (w.lane f.a.toNat l).toInt else (w.lane f.a.toNat l).toNat
       BitVec.ofInt 64 ((w.opB2 f.q f.b l).toNat + idx * 2 ^ sh.toNat + off.toInt) },
   op (.dadd f) fun m w l => fp64.add m (dA f w l) (dB f w l),
   op (.dmul f) fun m w l => fp64.mul m (dA f w l) (dB f w l),
   op (.dfma f) fun m w l => fp64.fma m (dA f w l) (dB f w l) (dR f.d.toNat w l)]

/-- A flag word that holds exactly the flags that `g` gives in some active lane. -/
def Wave.FlagsOf (w : Wave) (g : Nat → Flags) (fl : Flags) : Prop :=
  ∀ k, fl.getLsbD k = true ↔ ∃ l < 32, w.active l = true ∧ (g l).getLsbD k = true

/-! ### Tables and forms for the cross-lane, scalar and system instructions -/

/-- SHFL in its two lane-argument forms (R183), and the lane results of class 4 (R257, R259). -/
def crossLane (f : F3) (wcode : BitVec 3) (mode : BitVec 2) (imm : BitVec 5) : List LaneOp :=
  let src := fun (k l : Nat) =>
    let w := 32 / 2 ^ wcode.toNat
    match mode.toNat with
    | 0 => l - l % w + k % w
    | 1 => if k ≤ l % w then l - k else l
    | 2 => if l % w + k < w then l + k else l
    | _ => l - l % w + (l % w ^^^ k) % w
  [{ i := .shfl f wcode mode false imm, u := valu 1 1 [vsrc f.a 1 f.wa] [vdst f.d 1], d := f.d.toNat
     val := fun w l => w.lane f.a.toNat (src imm.toNat l) },
   { i := .shfl f wcode mode true 0, u := valu 1 1 (f3srcs f 1) [vdst f.d 1], d := f.d.toNat
     val := fun w l => w.lane f.a.toNat (src ((w.opB f.q f.b l).toNat % 32) l) }]

/-- An instruction that writes one scalar register. -/
structure ScalarOp where
  i : Instr
  u : Use
  d : Nat
  val : State → Word

/-- The second operand of FS, signed or not (Table 13.1). -/
def fsB (f : FS) (signed : Bool) (w : Wave) : Word :=
  if f.imm.getLsbD 5 then (if signed then (f.imm.extractLsb' 0 5).signExtend 32 else (f.imm.extractLsb' 0 5).setWidth 32)
  else w.rdS f.sb.toNat

/-- R181, R191, R193, R203 (TQSTAT), R225 and R329: what each scalar destination takes. -/
def scalarResults (f : FS) (d : BitVec 6) (a : BitVec 7) (wa : Bool) (b : BitVec 6) (wb : Bool) (sel : BitVec 3) (n : BitVec 8)
    (imm : BitVec 32) : List ScalarOp :=
  let fs := fun (i : FS → Instr) (signed : Bool) (g : Word → Word → Word) =>
    ({ i := i f, u := fsUse f, d := f.sd.toNat, val := fun s => g (s.w.rdS f.sa.toNat) (fsB f signed s.w) } : ScalarOp)
  let vote := fun (m : BitVec 2) (g : Wave → Word) =>
    ({ i := .vote d wa a m, u := valu 1 1 [vsrc a 1 wa] [sdst d.toNat 1], d := d.toNat, val := fun s => g s.w } : ScalarOp)
  let beta := fun (w : Wave) => maskOf (w.lanes.filter fun l => w.lane a.toNat l != 0)
  let reg := fun (r : Option (Nat × Region)) (g : Nat → Region → Nat) => match r with
    | none => 0
    | some (k, x) => g k x
  [fs .sadd true fun x y => x + y, fs .ssub true fun x y => x - y, fs .smul true fun x y => BitVec.ofInt 32 (x.toInt * y.toInt),
   fs .sand false fun x y => x &&& y, fs .sor false fun x y => x ||| y, fs .sxor false fun x y => x ^^^ y,
   fs .sshl false fun x y => x <<< y.toNat,
   fs .sshr false fun x y =>
     let arith := if f.imm.getLsbD 5 then f.sb.getLsbD 0 else f.imm.getLsbD 0
     if arith then x.sshiftRight y.toNat else x >>> y.toNat,
   { i := .smov d b, u := useOf 2 [ssrc b.toNat 1 true] [sdst d.toNat 1], d := d.toNat, val := fun s => s.w.rdS b.toNat },
   { i := .smovi d imm, u := useOf 2 [] [sdst d.toNat 1], d := d.toNat, val := fun _ => imm },
   vote 0 beta, vote 1 (fun w => if beta w = w.flow.mask then 1 else 0), vote 2 (fun w => if beta w = 0 then 0 else 1),
   vote 3 (fun w => if ∀ l ∈ w.lanes, ∀ k ∈ w.lanes, w.lane a.toNat l = w.lane a.toNat k then 1 else 0),
   { i := .perfc d n, u := useOf 6 [] [sdst d.toNat 1], d := d.toNat, val := fun s => s.w.csr.perf.getD n.toNat 0 },
   { i := .tqstat d wb b, u := useOf 2 [ssrc b.toNat 1 wb] [sdst d.toNat 1], d := d.toNat
     val := fun s =>
       let q := s.queue ((s.w.rdS b.toNat).toNat % 64)
       BitVec.ofNat 32 (q.chip.length + (q.tail - q.head)) },
   { i := .rstat d sel, u := useOf 3 [] [sdst d.toNat 1], d := d.toNat
     val := fun s => BitVec.ofNat 32 (match sel.toNat with
       | 0 => reg (s.regionOf s.w) fun k x => 2 ^ 31 + k * 2 ^ 24 + generation s.edges 5 k % 8 * 2 ^ 16 + x.preds.length % 16 * 2 ^ 12
       | 1 => reg (s.regionOf s.w) fun _ x => x.versions.length
       | 2 => reg (s.regionOf s.w) fun _ x => x.reads.length
       | 3 => 64 - s.die.regions.length
       | _ => 8192 - s.die.regions.foldl (fun c e => c + e.2.versions.length) 0) }]

/-- The HOLD word (Table 17.6) of wave `wid` with array `k`. -/
def holdWordOf (k : Nat) (a : TermArray) (wid : Nat) : Nat :=
  k * 2 + 4 + (a.queueOf wid).length * 8 + match a.run with
    | some r => 1 + r.n * 64 + r.vacc * 4096
    | none => 0

/-- TSTAT's selects and CSEQ (R265, R287). -/
def unitReads (d : BitVec 6) (sel : BitVec 3) (wm : Bool) : List ScalarOp :=
  [{ i := .tstat d sel, u := useOf 4 [] [sdst d.toNat 1], d := d.toNat
     val := fun s =>
       let c := s.core s.w.id.core
       match sel.toNat, c.arrOf s.w.id.wid with
       | 0, some k => BitVec.ofNat 32 (holdWordOf k (c.arr k) s.w.id.wid)
       | 1, some k => match (c.arr k).run with
         | some r => BitVec.ofNat 32 r.fw
         | none => 0
       | 0, none => 0
       | 1, none => 0
       | 2, _ => s.w.csr.lastL
       | 3, _ => s.w.csr.lastTB
       | _, _ => s.w.csr.tlferr },
   { i := .cseq d wm, u := useOf 5 [] [sdst d.toNat 1], d := d.toNat
     val := fun s =>
       let c := s.core s.w.id.core
       let mark := match c.copies with
         | [] => c.copySeq
         | x :: _ => (x.seq + 0xFFFFFFFF) % 2 ^ 32
       BitVec.ofNat 32 (if wm then mark else s.w.mem.lastCopy.getD mark) }]

/-- The elements that TCNT counts in a register (R257). -/
def countedElems (kind : Nat) (x : Word) : List Int :=
  if kind = 2 then (List.range 8).map fun i => (x.extractLsb' (4 * i) 4).toInt
  else (List.range 4).map fun i =>
    let b := x.extractLsb' (8 * i) 8
    if kind = 0 then b.toInt else if kind = 1 then b.toNat else if b.msb then -((b.toNat - 128 : Nat) : Int) else b.toNat

/-- TCNT and DQBX (R257, R259). -/
def classFourLanes (u : U3) (kind : BitVec 4) (bf : Bool) (bx : BitVec 3) : List LaneOp :=
  let dq : Wave → Nat → Nat × Flags := fun w l =>
    let x := w.lane u.a.toNat l
    let b := bxB bx.toNat
    let m := x.toNat % 2 ^ b
    let fm := if bf then bf16 else fp32
    if x.toNat / 256 % 256 = 255 then (fm.nanBits, fNANBLOCK)
    else if m = 0 then (0, 0)
    else fm.conv .rne (.fin (x.getLsbD b) m
      (((x.toNat / 256 % 256 : Nat) : Int) - 127 - (if x.getLsbD (16 + l % 16 / 4) then 1 else 0) - (b - 1 : Nat)))
  [{ i := .tcnt u kind, u := useOf 4 [u3src u 1] [vdst u.d 1], d := u.d.toNat
     val := fun w l =>
       let es := (countedElems kind.toNat (w.lane u.a.toNat l)).map terms
       let c := es.map (·.length)
       BitVec.ofNat 32 (c.sum + 256 * c.foldr max 0 + if ∃ t ∈ es, ∃ e ∈ t, e.2 = 8 then 65536 else 0) },
   { i := .dqbx u bf bx, u := useOf 4 [u3src u 1] [vdst u.d 1], d := u.d.toNat
     val := fun w l => BitVec.ofNat 32 (dq w l).1, fl := fun w l => (dq w l).2 }]

/-- One level of the tree of R186 as a value of a node: `none` is absent. -/
def redNode (rop : Nat) (m : RMode) (x : Nat → Option Nat) : Nat → Nat → Option Nat × Flags
  | 0, i => (x i, 0)
  | j + 1, i =>
    let u := redNode rop m x j (2 * i)
    let v := redNode rop m x j (2 * i + 1)
    match u.1, v.1 with
    | some a, some b =>
      let c := if rop = 8 then fp32.minMax true a b else if rop = 9 then fp32.minMax false a b
        else fp32.add m (fp32.unpack a) (fp32.unpack b)
      (some c.1, u.2 ||| v.2 ||| c.2)
    | some a, none => (some a, u.2 ||| v.2)
    | none, b => (b, u.2 ||| v.2)

/-- The integer reductions of Table 11.17 over the values of the active lanes. -/
def redOver (rop : Nat) (xs : List Word) : Word :=
  match rop with
  | 0 => BitVec.ofNat 32 ((xs.map (·.toNat)).sum)
  | 1 => BitVec.ofInt 32 ((xs.map (·.toInt)).foldr min 2147483647)
  | 2 => BitVec.ofInt 32 ((xs.map (·.toInt)).foldr max (-2147483648))
  | 3 => BitVec.ofNat 32 ((xs.map (·.toNat)).foldr min 4294967295)
  | 4 => BitVec.ofNat 32 ((xs.map (·.toNat)).foldr max 0)
  | 5 => xs.foldr (· &&& ·) 0xFFFFFFFF
  | 6 => xs.foldr (· ||| ·) 0
  | _ => xs.foldr (· ^^^ ·) 0

/-- One (value, index) pair beats another (R185). -/
def beats (rop : Nat) (x y : Word × Word) : Prop :=
  (if rop = 10 then x.1.toNat < y.1.toNat else y.1.toNat < x.1.toNat) ∨ (x.1 = y.1 ∧ x.2.toNat ≤ y.2.toNat)

/-- What a REDX gives: value, index, flags (R185, R186). -/
def RedxGives (w : Wave) (rop a : Nat) (idx : Nat → Word) (r : Word × Word × Flags) : Prop :=
  if rop = 8 ∨ rop = 9 ∨ rop = 12 then
    let n := redNode rop w.mode (fun l => if w.active l then some (w.lane a l).toNat else none) 5 0
    r.1.toNat = n.1.getD 0 ∧ r.2.2 = n.2
  else if rop = 10 ∨ rop = 11 then
    (∃ l < 32, w.active l = true ∧ r.1 = w.lane a l ∧ r.2.1 = idx l) ∧
    (∀ l < 32, w.active l = true → beats rop (r.1, r.2.1) (w.lane a l, idx l)) ∧ r.2.2 = 0
  else r.1 = redOver rop (w.lanes.map (w.lane a)) ∧ r.2.2 = 0

/-- The header position `off` words from the wave's instruction, and that address (R41, R111). -/
def Wave.target (w : Wave) (off : BitVec 16) : Addr := BitVec.ofInt 64 (15 * 2 ^ 60 + ((w.here : Int) + 4 * off.toInt) % 2 ^ 49)
def Wave.targetVa (w : Wave) (off : BitVec 16) : Addr := BitVec.ofInt 64 (((w.here : Int) + 4 * off.toInt) % 2 ^ 49)

/-- The BAR that a wave holds from before a restore is forgotten with the instruction that held it (13 R189). -/
def WaveFlow.barLeft (fl : WaveFlow) : Option (Addr × Nat × Nat × Nat) :=
  if fl.inBar.any (fun b => b.1 == fl.pc) then none else fl.inBar

/-- A wave's flow after a control transfer to `pc`: the clause there is still to be entered. -/
def Wave.flowAt (w : Wave) (pc : Addr) (mask : Word) (rpc : Addr) (stack : List StackEntry) : WaveFlow :=
  { w.flow with pc := pc, clause := none, mask := mask, rpc := rpc, stack := stack, stalled := false, ready := 0
                yielded := w.flow.yielded || w.yields, inBar := w.flow.barLeft, skip := false }

/-- The memory side `mem` of a wave once its instruction has completed: what the instruction's walks and faults left for its
next try is gone, with the guards it held (R153; 21 R305; 25 R336). -/
def Wave.memDone (w : Wave) (mem : WaveMem) : WaveMem :=
  { mem with walked := [], guards := [], owed := del mem.owed w.flow.pc.toNat }

/-- A wave has gone on from its instruction with its registers as they were: of its special registers counter 0 alone has
changed; its flow and its memory side are as given. -/
structure Wave.Moved (w v : Wave) (flow : WaveFlow) (mem : WaveMem) : Prop where
  id : v.id = w.id
  regs : v.regs = w.regs
  csr : v.csr = w.advance.csr
  flow : v.flow = flow
  mem : v.mem = w.memDone mem

/-- The acting wave alone changes, in that way; every byte of memory is as it was. -/
structure State.Moved (s t : State) (flow : WaveFlow) (mem : WaveMem) : Prop where
  state : t = { s with w := t.w }
  wave : s.w.Moved t.w flow mem
  bytes : ∀ core pa fields, t.byteSeen core pa fields = s.byteSeen core pa fields

/-- A control transfer to the flow `fl`. -/
def State.Jumped (s t : State) (fl : WaveFlow) : Prop := s.Moved t fl s.w.mem

/-- The wave goes on, and nothing else happens. -/
def State.PassedOn (s t : State) : Prop := s.Moved t s.w.advance.flow s.w.mem

/-- The wave parks at its instruction while a walk serves page `p`; counter 5 of its special registers counts the walk. -/
def State.ParkedOnWalk (s t : State) (p : Nat) : Prop :=
  t = { s with w := t.w } ∧ t.w.id = s.w.id ∧ t.w.regs = s.w.regs ∧ t.w.mem = s.w.mem ∧
    { t.w.csr with perf := s.w.csr.perf } = s.w.csr ∧ t.w.flow = { s.w.flow with hold := .walk [p], stalled := false }

/-- The wave stays at its instruction and waits. -/
def State.waiting (s : State) : State := s.onW fun w => { w with flow := { w.flow with stalled := true, piped := false } }

/-- The other waves, the host's registers and the agenda are as they were; of the host's tables the last response alone may
be another (a line fetched over a detour, 01 R22). -/
structure State.SameOutside (s t : State) : Prop where
  others : t.others = s.others
  host : t.host = s.host
  tabs : { t.tabs with lastRead := s.tabs.lastRead } = s.tabs
  agenda : t.agenda = s.agenda

/-- A wave that may pop freely: it holds no region and is in no continuation (R322, R334). -/
def Wave.freeStack (w : Wave) : Bool := w.mem.region.isNone && !w.flow.contin

/-- A stack entry without the lanes `m`, and a stack without the PATH entries that lose their last lane. -/
def less (m : Word) (st : List StackEntry) : List StackEntry :=
  (st.map fun e => { e with mask := e.mask &&& ~~~m }).filter fun e => !((e.kind == .path || e.kind == .parked) && e.mask == 0)

/-! ### Forms for memory -/

/-- The effective address of a lane (R206). -/
def ea {n : Nat} (m : MA n) (w : Wave) (l : Nat) : Nat :=
  if m.am then ((w.rdS2 m.b.toNat).toNat + (w.lane m.a.toNat l).toNat) % 2 ^ 64
  else ((((w.lane2 m.a.toNat l).toNat : Int) + m.off.toInt) % 2 ^ 64).toNat

/-- The active lanes with their addresses. -/
def Wave.addrs {n : Nat} (m : MA n) (w : Wave) : List (Nat × Nat) := w.lanes.map fun l => (l, ea m w l)

/-- Nothing of R153 keeps the acting wave from accesses of `size` bytes at these lanes' addresses. -/
def State.Accessible (s : State) (rd wr : Bool) (size : Nat) (ls : List (Nat × Nat)) : Prop :=
  ∀ e ∈ ls, e.2 % size = 0 ∧ e.2 < 2 ^ 48 ∧ s.owes s.w (.page (e.2 / 65536)) = false ∧ s.handedOver e.2 = false ∧ s.locked e.2 wr = false ∧
    (wr = true → s.sealedWrite s.w e.2 = false) ∧ s.missTiles s.w [e.2] = [] ∧
    ∃ x, s.tlbHit s.w.id.core (e.2 / 65536) = some x ∧ (rd = true → x.r = true) ∧ (wr = true → x.w = true) ∧
      s.keyAbsent x.fields = false

/-- The access of a lane at an address that a TLB translates, with its data and compare value. -/
def State.accessOf (s : State) (data cmp : Nat → Nat) (e : Nat × Nat) : LaneAcc :=
  match s.tlbHit s.w.id.core (e.2 / 65536) with
  | some x => { lane := e.1, va := e.2, pa := x.frame * 65536 + e.2 % 65536, fields := x.fields, data := data e.1, cmp := cmp e.1 }
  | none => { lane := e.1, va := e.2, pa := e.2, fields := 0, data := data e.1, cmp := cmp e.1 }

/-- No lane's read of `size` bytes would take poisoned data (05 R84; 25 R331); `at2`: the access performs at the L2 or beyond, and
otherwise it may take bytes from the wave's stores or from the L1. -/
def State.Readable (s : State) (at2 : Bool) (size : Nat) (ls : List (Nat × Nat)) : Prop :=
  ∀ e ∈ ls, s.readsPoison s.w at2 s.w.mem.seq size (s.accessOf (fun _ => 0) (fun _ => 0) e) = false

/-- The low `size` bytes of the registers from `r` in a lane (R208). -/
def Wave.dataOf (w : Wave) (r size l : Nat) : Nat :=
  (if size ≤ 4 then (w.lane r l).toNat
    else (List.range (size / 4)).foldr (fun i x => x * 2 ^ 32 + (w.lane (r + i) l).toNat) 0) % 2 ^ (8 * size)

/-- The acting wave has issued an access: it goes on, its registers hold what they held, `n` registers from `d` are empty,
and its memory side is as given. -/
structure State.AccessIssued (s t : State) (vec : Bool) (d n : Nat) (mem : WaveMem) : Prop where
  state : t = { s with w := t.w }
  id : t.w.id = s.w.id
  flow : t.w.flow = s.w.advance.flow
  csr : t.w.csr = s.w.advance.csr
  regs : t.w.regs = { s.w.regs with vfull := t.w.regs.vfull, sfull := t.w.regs.sfull }
  vfull : ∀ r < 128, t.w.regs.vfull.getLsbD r = (s.w.regs.vfull.getLsbD r && !(vec && decide (d ≤ r) && decide (r < d + n)))
  sfull : ∀ r < 64, t.w.regs.sfull.getLsbD r = (s.w.regs.sfull.getLsbD r && !(!vec && decide (d ≤ r) && decide (r < d + n)))
  mem : t.w.mem = s.w.memDone { mem with seq := s.w.mem.seq + 1 }
  bytes : ∀ core pa fields, t.byteSeen core pa fields = s.byteSeen core pa fields
  tile : ∀ k off, t.tileByte k off = s.tileByte k off

/-- The sizes in bytes and in registers of a size code (Table 13.4, R207). -/
def bytesOf (size : BitVec 3) : Nat := 2 ^ size.toNat
def wordsOf (size : BitVec 3) : Nat := max 1 (2 ^ size.toNat / 4)

/-- The tile offsets of the active lanes (R214). -/
def tileAddrs (f : TA) (w : Wave) : List (Nat × Nat) := w.lanes.map fun l => (l, (w.opB f.q f.a l).toNat + f.off5.toNat * bytesOf f.size)

/-- The access of a lane to tile memory. -/
def tileAccess (data : Nat → Nat) (e : Nat × Nat) : LaneAcc :=
  { lane := e.1, va := e.2, pa := e.2, fields := 0, data := data e.1, cmp := 0 }

/-- No store of the wave waits, no load is outstanding, and its core's write buffers are empty. -/
def State.memQuiet (s : State) : Prop :=
  s.w.mem.sq = [] ∧ s.w.mem.loads = [] ∧ s.w.mem.strong = [] ∧ ∀ q ∈ (s.core s.w.id.core).wbuf, q.2 = []

/-- The acting wave's read of the 64-byte record at `va` gives `r`, and leaves the state `u`: its line is fetched, holds good
data, and what its release record demands is done (R136, R140, R217, R308). -/
def State.ReadsRecord (s : State) (va : Nat) (u : State) (r : Nat) : Prop :=
  s.Accessible true false 64 [(0, va)] ∧ s.Readable false 64 [(0, va)] ∧ s.memQuiet ∧
    let a := s.accessOf (fun _ => 0) (fun _ => 0) (0, va)
    ∃ t x, s.reachL2 s.w.id.core a = some t ∧ t.l2Poison a.pa = false ∧ t.recordDrainOver s.w.id.core (a.pa / 256) = some x ∧
      x.fitEvery = some u ∧ r = bytesNat (x.l2Bytes a.pa 64)

/-- An object but for its tiles' states, which an eviction may change (21 R294). -/
def State.bound? (s : State) (id : Nat) : Option Obj := (s.obj? id).map fun o => { o with tiles := [] }

/-- No set of the L2 holds a line too many (R127). -/
def State.setsFit (s : State) : Prop := ∀ e ∈ s.die.l2, s.setSize e.1 ≤ 16

/-- The L2 has a way for a line: no other line has to leave for it (R127). -/
def State.hasWay (s : State) (line : Nat) : Prop := s.setSize line < 16 ∨ ((s.l2? line).isSome = true ∧ s.setSize line ≤ 16)

/-- After a write by core `c` of the `n` bytes at `pa` in the L2, every other byte reads as before: of other L1 lines for every
core, of the line itself for core `c`, whose own dirty bytes have joined the L2's. This is said of the lines that the L2 held
and, where the write touched no home (`still`), of all memory. -/
def State.KeepsBytes (s t : State) (c pa n : Nat) (still : Prop) : Prop :=
  ∀ a fields, ¬(pa ≤ a ∧ a < pa + n) → (s.l2? (a / 256)).isSome = true ∨ still →
    (a / 128 ≠ pa / 128 → ∀ k, t.byteSeen k a fields = s.byteSeen k a fields) ∧
    (a / 128 = pa / 128 → t.byteSeen c a fields = ((s.underDirty c a 1).headD 0).toNat)

/-- What a fence leaves in the caches of core `c` (R142): after a release no dirty byte and no D bit, after an acquire no clean
byte and WIDE set. -/
structure State.Fenced (s t : State) (rel acq : Bool) : Prop where
  rel : rel = true → ∀ k ∈ s.l1Cores s.w.id.core, (∀ x ∈ (t.core k).l1, x.2.dirty = 0) ∧ ∀ e ∈ (t.core k).summary, e.d = false
  acq : acq = true → (t.core s.w.id.core).wide = true ∧ ∀ k ∈ s.l1Cores s.w.id.core, ∀ x ∈ (t.core k).l1, x.2.valid = x.2.dirty

/-- An instruction of the wave wrote a status to scalar register `d` and went on; the rest of the wave is as it was. -/
structure State.Answered (s t : State) (d : BitVec 6) (x : Word) : Prop where
  status : t.w.rdS d.toNat = x
  wave : s.w.WentOn t.w 0
  regs : s.w.SameRegs t.w [] [d.toNat] []
  outside : s.SameOutside t ∧ t.sched = s.sched

/-- Core `c` has acquired at die scope: no clean byte is left in its L1, and WIDE is set (09 R142). -/
def State.Acquired (s t : State) (c : Nat) : Prop :=
  (t.core c).wide = true ∧ ∀ k ∈ s.l1Cores c, ∀ x ∈ (t.core k).l1, x.2.valid = x.2.dirty

/-- Nothing of a queue's ring work stands open: no write to its ring is owed, and no on-chip entry is free for the ring's head. -/
def ringIdle (q : TaskQueue) : Prop :=
  q.unwritten = [] ∧ q.wtoken = none ∧ q.chip.length ≤ 32 ∧ (q.head = q.tail ∨ (q.head < q.tail ∧ q.chip.length = 32))

/-- The number `x` that a lane of a load finds in the wave's own store queue: the newest earlier store of its kind that meets its
bytes is of the same bytes, and the highest of that store's lanes which meet them has `x` (R135). -/
def Wave.Forwards (w : Wave) (e : LoadEnt) (l : LaneAcc) (x : Nat) : Prop :=
  ∃ pre q post as m bs, w.mem.sq = pre ++ q :: post ∧ q.lanes = as ++ m :: bs ∧ q.tile = (e.kind == .tile) ∧ q.seq < e.seq ∧
    q.size = e.size ∧ m.pa = l.pa ∧ x = m.data ∧ (∀ y ∈ bs, meets l.pa e.size y.pa q.size = false) ∧
    ∀ p ∈ post, p.tile = q.tile → p.seq < e.seq → ∀ y ∈ p.lanes, meets l.pa e.size y.pa p.size = false

/-- No earlier store of the load's kind in the wave's own queue meets the bytes of a lane. -/
def Wave.Unmet (w : Wave) (e : LoadEnt) (l : LaneAcc) : Prop :=
  ∀ q ∈ w.mem.sq, q.tile = (e.kind == .tile) → q.seq < e.seq → ∀ y ∈ q.lanes, meets l.pa e.size y.pa q.size = false

/-- The bytes of a lane stand in the core's L1, with no uncommitted version of their line (23 R325): `x` is their number. -/
def State.InL1 (s : State) (c : Nat) (e : LoadEnt) (l : LaneAcc) (x : Nat) : Prop :=
  s.versionHeld (l.pa / 64) = false ∧ s.l1Has c l.pa e.size = true ∧ x = bytesNat (s.l1Bytes c l.pa e.size)

/-- What a lane of an outstanding load of wave `w` finds, and that nothing keeps it: a tile load in tile memory with no PENDING
line, a weak load in the L1, either of them in the wave's own store queue; a strong load within the L1's scope in the L1; a
region load what its access found, an atomic that acquires nothing what its lanes brought back (R121, R135, R136; 23 R312). -/
def State.Finds (s : State) (w : Wave) (e : LoadEnt) (l : LaneAcc) (x : Nat) : Prop :=
  match e.kind with
  | .tile => s.unitBusy w e.seq = false ∧ ∃ b, w.id.blk.bind s.blk? = some b ∧ b.pending l.pa e.size = false ∧
      (w.Forwards e l x ∨ (w.Unmet e l ∧ x = bytesNat (b.tileBytes l.pa e.size)))
  | .weak => s.unitBusy w e.seq = false ∧
      (w.Forwards e l x ∨ (w.Unmet e l ∧ s.forwarded w l.pa e.size = false ∧ s.InL1 w.id.core e l x))
  | .strong => e.acq = false ∧ s.beyondL1 w.id.core e.scope = false ∧ w.undrained e.seq l.pa = false ∧
      s.buffered w e.seq l.pa e.size = none ∧ s.InL1 w.id.core e l x
  | .region => True
  | .atomic => e.acq = false

/-- No address lies in a sealed droppable tile. -/
def State.noSealed (s : State) : Prop := ∀ va, s.sealedTile va = none

/-- No wave has exited and every block has a wave. -/
def State.noneExited (s : State) : Prop := (∀ v ∈ s.others, v.flow.alive ≠ 0) ∧ ∀ e ∈ s.sched.blocks, e.2.waves ≠ []

/-! ### Forms for regions -/

/-- A recorded edge (R313), and one that the cycle test of an access by region `r` counts: recorded, or of a stalled access of
another region (R316, R317). -/
def State.EdgeTo (s : State) (u v : Nat) : Prop := ∃ y, s.region? v = some y ∧ u ∈ y.preds
def State.Counted (s : State) (r u v : Nat) : Prop := s.EdgeTo u v ∨ ∃ z y, z ≠ r ∧ s.region? z = some y ∧ (u, v) ∈ y.pend

/-- Another region `u` has read a line or holds a version of it (R313, R325). -/
def State.Touches (s : State) (r line u : Nat) : Prop :=
  u ≠ r ∧ ∃ y, s.region? u = some y ∧ (line ∈ y.reads ∨ ∃ z ∈ y.versions, z.line = line)

/-- The version of a line that a read by region `r` takes, and its writer: the one created last by a region that is not ordered
after `r` (R314). -/
def State.Newest (s : State) (r line u : Nat) (z : Version) : Prop :=
  let offers := fun (u : Nat) (z : Version) =>
    u ≠ r ∧ ¬Relation.TransGen s.EdgeTo r u ∧ ∃ y, s.region? u = some y ∧ y.version? line = some z
  offers u z ∧ ∀ u' z', offers u' z' → z'.order < z.order ∨ (z'.order = z.order ∧ u ≤ u')

/-- The 64 bytes that a read of a line by region `r` returns: of its own version, of the newest other one, or of the L2 (R314). -/
def State.LineFor (s : State) (r : Nat) (x : Region) (line : Nat) (bs : List Byte) : Prop :=
  (∃ y, x.version? line = some y ∧ bs = y.data) ∨
  (x.version? line = none ∧ ((∃ u z, s.Newest r line u z ∧ bs = z.data) ∨ ((∀ u z, ¬s.Newest r line u z) ∧ bs = s.l2Bytes (64 * line) 64)))

/-- An access by region `r` would record the new edge from `u` (R313, R314). -/
def State.NewEdge (s : State) (r : Nat) (x : Region) (rd wr : Bool) (as : List LaneAcc) (u : Nat) : Prop :=
  u ∉ x.preds ∧ ∃ a ∈ as, (rd = true ∧ x.version? (a.pa / 64) = none ∧ ∃ z, s.Newest r (a.pa / 64) u z) ∨ (wr = true ∧ s.Touches r (a.pa / 64) u)

/-- Region `u` keeps dirty bytes of the access's line in the core's L1 from being written back (R325). -/
def State.KeepsBack (s : State) (c r : Nat) (as : List LaneAcc) (u : Nat) : Prop :=
  ∃ a ∈ as, ∃ l, s.l1? c a.pa = some l ∧ ∃ h < 2, l.dirty.extractLsb' (64 * h) 64 ≠ 0 ∧ s.Touches r (a.pa / 128 * 2 + h) u

/-- The access's edge from `u` would close a cycle (R316). -/
def State.Closes (s : State) (r : Nat) (x : Region) (rd wr : Bool) (as : List LaneAcc) (u : Nat) : Prop :=
  (s.NewEdge r x rd wr as u ∨ s.KeepsBack s.w.id.core r as u) ∧ Relation.TransGen (s.Counted r) r u

/-- With the access's edges a region would have more than 8 direct predecessors, or a generation above 3 (R317). -/
def State.PastBounds (s : State) (r : Nat) (x : Region) (rd wr : Bool) (as : List LaneAcc) : Prop :=
  let edge := fun u v => (s.EdgeTo u v ∨ (v = r ∧ s.NewEdge r x rd wr as u))
  (∃ (us : List Nat) (v : Nat), us.Nodup ∧ us.length = 9 ∧ ∀ u ∈ us, edge u v) ∨ ∃ a b c d e, edge a b ∧ edge b c ∧ edge c d ∧ edge d e

/-- The access would need a read-set entry beyond 512 or a version beyond 8192 (R315). -/
def State.PastCapacity (s : State) (x : Region) (rd wr : Bool) (as : List LaneAcc) : Prop :=
  let new := (as.map fun a => a.pa / 64).eraseDups.filter fun l => (x.version? l).isNone
  (rd = true ∧ 512 < x.reads.length + (new.filter fun l => !x.reads.contains l).length) ∨
  (wr = true ∧ 8192 < (s.die.regions.map fun e => e.2.versions.length).sum + new.length)

/-- The region table is in its form: ids and registers in range, one region for a wave, every region's wave with a lane to go on. -/
def State.RegionsSane (s : State) : Prop :=
  sortedKeys s.die.regions = true ∧ (∀ e ∈ s.die.regions, e.1 < 64 ∧ e.2.sd < 64 ∧ (∀ p ∈ e.2.pend, p.2 < 64) ∧ (e.2.versions.map (·.line)).Nodup ∧
    ∀ y ∈ e.2.versions, y.data.length = 64) ∧
  (s.die.regions.map (·.2.wid)).Nodup ∧ (s.waves.map (·.id.wid)).Nodup ∧
  ∀ e ∈ s.die.regions, ∀ v ∈ s.waves, v.id.wid = e.2.wid → e.2.mask0 &&& v.flow.alive ≠ 0

/-- The wave of region `y` stands at its abort label with what the region saved, and holds this status (R319, R320). -/
def State.AbortedTo (s t : State) (y : Region) (word : Nat) : Prop :=
  ∀ v, s.wave? y.wid = some v → ∃ v', t.wave? y.wid = some v' ∧ v'.rdS y.sd = BitVec.ofNat 32 word ∧ v'.regs.sfull.getLsbD y.sd = true ∧
    v'.mem.region = none ∧ v'.flow.pc = headerPos y.label.toNat ∧ v'.flow.mask = y.mask0 &&& v.flow.alive ∧ v'.flow.rpc = y.rpc0 ∧
    v'.flow.stack = v.flow.stack.take y.depth0 ∧ v'.flow.hold = .run

/-- The regions that stay have what they had but for the edges of those that have gone, and a stalled access of theirs is to be
evaluated again (R313, R317). -/
def State.Cut (s t : State) (gone : Nat → Prop) : Prop :=
  ∀ z y, s.region? z = some y → ¬gone z → ∃ y', t.region? z = some y' ∧ y'.wid = y.wid ∧ y'.reads = y.reads ∧ y'.versions = y.versions ∧
    y'.waiting = false ∧ ∀ u, u ∈ y'.preds ↔ u ∈ y.preds ∧ ¬gone u

/-- Region `r` has aborted with a status, every region that it reaches with CASCADE and the lowest aborted predecessor, and no
other; no memory has changed (R319 to R321). -/
def State.Aborts (s t : State) (r word : Nat) : Prop :=
  let falls := fun z => z ≠ r ∧ Relation.TransGen s.EdgeTo r z
  let gone := fun z => z = r ∨ Relation.TransGen s.EdgeTo r z
  (∀ y, s.region? r = some y → t.region? r = none ∧ s.AbortedTo t y word) ∧
  (∀ z y, s.region? z = some y → falls z → t.region? z = none ∧ ∀ p, s.EdgeTo p z → gone p → (∀ q, s.EdgeTo q z → gone q → p ≤ q) →
    s.AbortedTo t y (2 ^ 31 + p * 2 ^ 24 + 2)) ∧
  s.Cut t gone ∧ t.die.l2 = s.die.l2 ∧ t.pkg = s.pkg

/-- The region `x` of the acting wave has committed: in the state before room is made in the L2, every byte that it has written
is the L2's and no L1 holds a byte of its lines (R318 steps 1 and 2). -/
def State.CommitsTo (t : State) (x : Region) : Prop :=
  ∃ u v : State, u.fitAll x.lines = some v ∧ t = { v with w := t.w } ∧
    ∀ y ∈ x.versions,
      (∃ l, u.l2? (y.line / 4) = some l ∧ l.dirty = true ∧
        ∀ i < 64, y.mask.getLsbD i = true → l.data.toList[y.line % 4 * 64 + i]? = some (y.data.getD i 0)) ∧
      ∀ k, ∀ e ∈ (t.core k).l1, e.1 = y.line / 2 → e.2.valid.extractLsb' (y.line % 2 * 64) 64 = 0

/-- Nothing keeps a region's access from being performed: no cycle, no bound, no write-back to make, room, and its lines stand in
the L2 with good data (R312, R316, R317, R325). -/
def State.Performs (s : State) (r : Nat) (x : Region) (rd wr : Bool) (as : List LaneAcc) : Prop :=
  (∀ u, ¬s.Closes r x rd wr as u) ∧ ¬s.PastBounds r x rd wr as ∧ ¬s.PastCapacity x rd wr as ∧
    ∀ a ∈ as, s.l1? s.w.id.core a.pa = none ∧ s.l2? (a.pa / 256) ≠ none ∧ s.l2Poison a.pa = false ∧ s.setSize (a.pa / 256) ≤ 16

/-- Do the bytes of an access hold an address? -/
def inAccess (size : Nat) (l : LaneAcc) (pa : Nat) : Prop := l.pa ≤ pa ∧ pa < l.pa + size

/-! ### Forms for the memory system, the copies and the term units -/

/-- The new value of an atomic operation on `n`-bit words (Table 13.6). -/
def atomTable (n : Nat) (aop : Nat) (old v : BitVec n) : Nat × Flags :=
  let fm := if n = 64 then fp64 else fp32
  match aop with
  | 0 => ((old + v).toNat, 0)
  | 1 => ((if old.toInt ≤ v.toInt then old else v).toNat, 0)
  | 2 => ((if v.toInt ≤ old.toInt then old else v).toNat, 0)
  | 3 => (min old.toNat v.toNat, 0)
  | 4 => (max old.toNat v.toNat, 0)
  | 5 => ((old &&& v).toNat, 0)
  | 6 => ((old ||| v).toNat, 0)
  | 7 => ((old ^^^ v).toNat, 0)
  | 8 => (v.toNat, 0)
  | 9 => fm.add .rne (fm.unpack old.toNat) (fm.unpack v.toNat)
  | 10 => fm.minMax true old.toNat v.toNat
  | _ => fm.minMax false old.toNat v.toNat

/-- The copy that the acting wave issues (R267, R275). -/
def State.copyOf (s : State) (op : Nat) (b : BitVec 6) (word1 slot redop : Nat) : Copy :=
  { seq := ((s.core s.w.id.core).copySeq + 1) % 2 ^ 32, wid := s.w.id.wid, blk := s.w.id.blk, op := op
    params := (List.range 8).map fun i => (s.w.rdS (b.toNat + i)).toNat, word1 := word1, slot := slot, redop := redop, bad := false
    acc := s.w.mem.seq, started := false, err := 0, lines := [], idx := [], waits := [], token := none, objs := [], all := false, relEnt := none
    timedOut := false }

/-- A copy instruction, and the copy that it describes. -/
def State.copiesOf (s : State) (b : BitVec 6) (wb : Bool) (x : BitVec 32) (slot : BitVec 7) (redop : BitVec 3) :
    List (Instr × Use × Copy) :=
  let u := useOf 5 [ssrc b.toNat 8 wb] []
  [(.cpyt wb b x, u, s.copyOf 0 b x.toNat 0 0), (.cpyg wb b x, u, s.copyOf 1 b x.toNat 0 0),
   (.cpyw slot wb b x, { u with slots := [slot.toNat] }, s.copyOf 2 b x.toNat slot.toNat 0),
   (.cpyp wb b redop, u, s.copyOf 3 b 0 0 redop.toNat), (.cfill wb b x, u, s.copyOf 4 b x.toNat 0 0)]

/-- A byte of global memory that an engine reads at this address stands in the L2, in a set that holds no line too many, and in no
sealed tile. -/
def State.InL2 (s : State) (va : Nat) (x : Byte) : Prop :=
  ∃ pa f l, s.engine va true false = .ok pa f ∧ s.sealedTile va = none ∧ s.l2? (pa / 256) = some l ∧ l.poison = false ∧
    s.setSize (pa / 256) ≤ 16 ∧ l.data.getD (pa % 256) 0 = x

/-- The index of row `r` of a gather: fetched before, or the word of its list (R282). -/
def Copy.index (c : Copy) (x : Nat → Byte) (r : Nat) : Nat :=
  if r < c.idx.length then c.idx.getD r 0 else bytesNat ((List.range 4).map fun j => x (c.pair 2 + 4 * r + j))

/-- Byte `i` of tile row `r` that a copy brings, with no TLF decode, from the bytes `x` of global memory: CPYT's row or column of
elements, the row that CPYG's index names or the fill byte past the table, and CFILL's fill byte (R281, R282, R285). -/
def Copy.brings (c : Copy) (x : Nat → Byte) (r i : Nat) : Byte :=
  let st := if c.p 2 = 0 then c.rowLen else c.p 2
  if c.op = 0 then
    let y := if c.trans then x (c.pair 0 + i / c.e * st + (r * c.e + i % c.e)) else x (c.pair 0 + r * st + i)
    if c.conj = true ∧ i % c.e = c.e - 1 then y ^^^ 0x80 else y
  else if c.op = 1 ∧ c.index x r < c.p 6 then x (c.pair 0 + c.index x r * c.word1 + i)
  else BitVec.ofNat 8 c.fill

/-- The signed value of a byte of tile memory or of a weight image. -/
def signed8 (x : Nat) : Int := (BitVec.ofNat 8 x).toInt

/-- The sum of `f` over 0 .. n-1. -/
def sumTo (n : Nat) (f : Nat → Int) : Int := ((List.range n).map f).sum

/-! ### What TLENC and DECS write -/

/-- TERMS of R72: the signed digits of radix 4, highest first, as (negative, exponent). -/
def booth (a : Int) : List (Bool × Nat) :=
  let below : Nat → Int := fun k => if k = 0 then 0 else (a.natAbs / 2 ^ (k - 1) % 2 : Nat)
  [4, 3, 2, 1, 0].flatMap fun i =>
    let d := -2 * below (2 * i + 2) + below (2 * i + 1) + below (2 * i)
    if d = 0 then [] else [(decide (a < 0) != decide (d < 0), if d.natAbs = 2 then 2 * i + 1 else 2 * i)]

/-- A dense tile to encode (R260): KIND, ROWS, E, L and ESCCAP of its header, and the bytes of its rows. -/
structure EncJob where
  kind : Nat
  rows : Nat
  e : Nat
  l : Nat
  cap : Nat
  row : Nat → Nat → Nat

/-- Bytes of a block and magnitude bits of a BX kind (Table 5.4); Dr and Fx (R75). -/
def EncJob.blk (g : EncJob) : Nat := if g.kind = 3 then 8 else if g.kind = 4 then 12 else 18
def EncJob.mag (g : EncJob) : Nat := if g.kind = 3 then 2 else if g.kind = 4 then 4 else 7
def EncJob.dr (g : EncJob) : Nat := if g.kind ≤ 1 then g.e else if g.kind = 2 then g.e / 2 else g.e / 16 * g.blk
def EncJob.fx (g : EncJob) : Nat := if 3 ≤ g.kind then 2 + g.e / 8 else 2

/-- The magnitude and the sign of BX element `k` of row `i` (R69). -/
def EncJob.field (g : EncJob) (i k : Nat) : Nat × Nat :=
  let bit := fun (j : Nat) => g.row i (k / 16 * g.blk + 2 + j / 8) / 2 ^ (j % 8) % 2
  let at0 := k % 16 * (g.mag + 1)
  (((List.range g.mag).map fun t => bit (at0 + t) * 2 ^ t).sum, bit (at0 + g.mag))

/-- Is the block of element `k` a NaN block (R70)? -/
def EncJob.nan (g : EncJob) (i k : Nat) : Bool := decide (3 ≤ g.kind) && g.row i (k / 16 * g.blk) == 255

/-- The terms that a writer lists for element `k` of row `i` (R73, R77), and those of the row. -/
def EncJob.terms (g : EncJob) (i k : Nat) : List (Bool × Nat) :=
  if g.nan i k then []
  else if 3 ≤ g.kind then booth (if (g.field i k).2 = 1 then -(g.field i k).1 else (g.field i k).1)
  else if g.kind = 2 then
    let x := g.row i (k / 2) / 16 ^ (k % 2) % 16
    booth (if x < 8 then x else (x : Int) - 16)
  else if g.kind = 1 then booth (g.row i k)
  else booth (if g.row i k < 128 then g.row i k else (g.row i k : Int) - 256)
def EncJob.list (g : EncJob) (i : Nat) : List (Bool × Nat) := (List.range g.e).flatMap (g.terms i)

/-- Row `i` is a term row; the escape rows before it; the tile is dense (R77). -/
def EncJob.fits (g : EncJob) (i : Nat) : Bool :=
  (g.list i).all (fun t => decide (t.2 ≤ 7)) && decide (g.fx + g.e / 2 + ((g.list i).length + 1) / 2 ≤ g.l)
def EncJob.esc (g : EncJob) (i : Nat) : Nat := ((List.range i).filter fun r => !g.fits r).length
def EncJob.dense (g : EncJob) : Bool := decide (g.cap < g.esc g.rows)

/-- Byte `j` of the slot of row `i` (Table 5.7). -/
def EncJob.slot (g : EncJob) (i j : Nat) : Nat :=
  let nib := fun (k : Nat) => match (g.list i)[k]? with
    | some t => t.2 + if t.1 then 8 else 0
    | none => 0
  let x := g.row i ((j - 2) / 2 * g.blk)
  if g.fits i = false then if j = 0 then g.esc i % 256 else if j = 1 then 128 + g.esc i / 256 else 0
  else if j < 2 then (g.list i).length / 256 ^ j % 256
  else if j < g.fx then if j % 2 = 0 then x else if x = 255 then 0 else g.row i ((j - 2) / 2 * g.blk + 1) % 16
  else if j < g.fx + g.e / 2 then (g.terms i (2 * (j - g.fx))).length + 16 * (g.terms i (2 * (j - g.fx) + 1)).length
  else nib (2 * (j - g.fx - g.e / 2)) + 16 * nib (2 * (j - g.fx - g.e / 2) + 1)

/-- Byte `j` of row `i` as a writer puts it dense: a BX block with bits 7..4 of QS 0, no sign for a magnitude of 0, and nothing but
X in a NaN block (R68, R70). -/
def EncJob.written (g : EncJob) (i j : Nat) : Nat :=
  let q := j / g.blk
  let p := j % g.blk
  if g.kind < 3 ∨ p = 0 then g.row i j
  else if g.nan i (16 * q) then 0
  else if p = 1 then g.row i j % 16
  else ((List.range 8).map fun t =>
    let k := 8 * (p - 2) + t
    if k % (g.mag + 1) = g.mag ∧ (g.field i (16 * q + k / (g.mag + 1))).1 = 0 then 0 else g.row i j / 2 ^ t % 2 * 2 ^ t).sum

/-- Byte `j` of the header that TLENC writes (Table 5.6, R260 step 4). -/
def EncJob.header (g : EncJob) (j : Nat) : Nat :=
  [g.kind, if g.dense then 1 else 0, g.rows % 256, g.rows / 256, g.e % 256, g.e / 256, g.l % 256, g.l / 256, g.cap % 256, g.cap / 256,
    if g.dense then 0 else g.esc g.rows % 256, if g.dense then 0 else g.esc g.rows / 256].getD j 0

/-- The tile that TLENC leaves at `dst` (R77, R260): the header, and the slots with the escape rows, or the dense rows. -/
def EncJob.Leaves (g : EncJob) (dst : Nat) (old new : Nat → Nat) : Prop :=
  (∀ j < 16, new (dst + j) = g.header j) ∧
  (g.dense = true → (∀ i < g.rows, ∀ j < g.dr, new (dst + 16 + i * g.dr + j) = g.written i j) ∧
    ∀ a, a < dst ∨ dst + 16 + g.rows * g.dr ≤ a → new a = old a) ∧
  (g.dense = false → (∀ i < g.rows, ∀ j < g.l, new (dst + 16 + i * g.l + j) = g.slot i j) ∧
    (∀ i < g.rows, g.fits i = false → ∀ j < g.dr, new (dst + 16 + g.rows * g.l + g.esc i * g.dr + j) = g.written i j) ∧
    ∀ a, a < dst ∨ dst + 16 + g.rows * g.l + g.esc g.rows * g.dr ≤ a → new a = old a)

/-- A header is valid apart from ESCCNT (R75): its 16 bytes, and the fields they give. -/
def EncJob.Valid (g : EncJob) (hdr : Nat → Nat) : Prop :=
  hdr 0 / 16 = 0 ∧ hdr 1 / 2 = 0 ∧ (∀ j, 12 ≤ j → j < 16 → hdr j = 0) ∧ g.kind ≤ 5 ∧ 1 ≤ g.rows ∧ g.cap ≤ 32767 ∧ 8 ≤ g.e ∧ g.e ≤ 4096 ∧
    g.e % 8 = 0 ∧ (3 ≤ g.kind → g.e % 16 = 0) ∧ g.fx + g.e / 2 ≤ g.l ∧ g.rows * g.dr ≤ g.rows * g.l + g.cap * g.dr

/-- `n` bits from place `p` on as a number, the first the most significant. -/
def bitsFrom (bit : Nat → Bool) (p n : Nat) : Nat := ((List.range n).map fun i => if bit (p + i) then 2 ^ (n - 1 - i) else 0).sum

/-- The symbol `z` stands at place `p` of a sub-stream of `top` bits under Rice parameter `k`, and the next one at `p'` (R80). -/
def SymbolAt (bit : Nat → Bool) (top k p z p' : Nat) : Prop :=
  p' ≤ top ∧
  ((∃ q < 16, (∀ i < q, bit (p + i) = true) ∧ bit (p + q) = false ∧ z = q * 2 ^ k + bitsFrom bit (p + q + 1) k ∧ p' = p + q + 1 + k) ∨
   ((∀ i < 16, bit (p + i) = true) ∧ z = bitsFrom bit (p + 16) 8 ∧ p' = p + 24))

/-- A sub-stream from place `p` on, after the byte `prev`, gives these bytes (R80). -/
def StreamGives (bit : Nat → Bool) (top k : Nat) : Nat → Nat → List Nat → Prop
  | _, _, [] => True
  | p, prev, x :: xs => ∃ z p', SymbolAt bit top k p z p' ∧ z ≤ 255 ∧
    (x : Int) = ((prev : Int) + if z % 2 = 0 then (z / 2 : Int) else -(((z : Int) + 1) / 2)) % 256 ∧ StreamGives bit top k p' x xs

/-- The fields of an SSC chunk of `lc` bytes (Table 5.8). -/
structure SscJob where
  lc : Nat
  byte : Nat → Nat

def SscJob.n (c : SscJob) : Nat := 2 ^ c.byte 0
def SscJob.raw (c : SscJob) : Nat := c.byte 1 + 256 * c.byte 2
def SscJob.len (c : SscJob) (i : Nat) : Nat := c.byte (3 + 2 * i) + 256 * c.byte (4 + 2 * i)
def SscJob.k (c : SscJob) (i : Nat) : Nat := c.byte (3 + 2 * (c.n - 1) + i)
/-- Where sub-stream `i` starts, and where it ends. -/
def SscJob.start (c : SscJob) (i : Nat) : Nat := 1 + 3 * c.n + ((List.range i).map c.len).sum
def SscJob.stop (c : SscJob) (i : Nat) : Nat := if i + 1 = c.n then c.lc else c.start (i + 1)

/-- The header is good (R81). -/
def SscJob.HeaderOk (c : SscJob) : Prop :=
  c.byte 0 ≤ 3 ∧ 1 ≤ c.raw ∧ c.raw ≤ 512 ∧ (∀ i < c.n, c.k i ≤ 7) ∧ c.start (c.n - 1) ≤ c.lc

/-- The chunk decodes to the bytes `out` (R80). -/
def SscJob.Gives (c : SscJob) (out : Nat → Nat) : Prop :=
  ∀ i < c.n, StreamGives (fun p => (c.byte (c.start i + p / 8)).testBit (7 - p % 8)) (8 * (c.stop i - c.start i)) (c.k i) 0 0
    ((List.range ((c.raw + c.n - 1 - i) / c.n)).map fun t => out (i + c.n * t))

/-! ### Forms for special registers and events -/

/-- Table 3.10: what each number but those of HBEAT reads as in lane `l`. -/
def State.csrTable (s : State) (l : Nat) : List (Nat × Word) :=
  let w := s.w
  let c := w.csr
  let lo := fun (x : BitVec 64) => x.extractLsb' 0 32
  let hi := fun (x : BitVec 64) => x.extractLsb' 32 32
  [(0x00, BitVec.ofNat 32 l), (0x01, w.id.waveIdx), (0x02, w.id.blockIdx), (0x03, w.id.clusterIdx), (0x04, BitVec.ofNat 32 w.id.core),
   (0x05, BitVec.ofNat 32 s.die.die), (0x06, s.host.jobid), (0x07, w.flow.mask), (0x08, lo c.codebase), (0x09, hi c.codebase),
   (0x0A, c.fpmode), (0x0B, c.arithf), (0x0C, c.arithe), (0x0D, lo c.tvec), (0x0E, hi c.tvec), (0x0F, lo c.epc), (0x10, hi c.epc),
   (0x11, lo c.cont), (0x12, hi c.cont), (0x13, lo c.fpc), (0x14, hi c.fpc), (0x15, lo c.ftoken), (0x16, hi c.ftoken),
   (0x17, c.fcause), (0x18, lo c.fva), (0x19, hi c.fva), (0x1A, c.flanes), (0x1B, c.xword0), (0x1C, c.xword1),
   (0x1D, (c.xword0.extractLsb' 24 8).setWidth 32), (0x1E, (c.xword0.extractLsb' 16 8).setWidth 32),
   (0x1F, (c.xword0.extractLsb' 8 8).setWidth 32), (0x20, (c.xword0.extractLsb' 0 8).setWidth 32), (0x21, c.ximm), (0x22, c.copyerr)]

/-- The registers of Table 3.10 with Access RW after a write of `x`; reserved bits ignore it. -/
def csrWrites (c : WaveCsr) (x : Word) : List (Nat × WaveCsr) :=
  let lo := fun (r : Addr) => r.extractLsb' 32 32 ++ x
  let hi := fun (r : Addr) => x ++ r.extractLsb' 0 32
  [(0x08, { c with codebase := c.codebase.extractLsb' 32 32 ++ (x.extractLsb' 2 30 ++ (0 : BitVec 2)) }),
   (0x09, { c with codebase := hi c.codebase }), (0x0A, { c with fpmode := (x.extractLsb' 0 2).setWidth 32 }),
   (0x0B, { c with arithf := (x.extractLsb' 0 8).setWidth 32 }), (0x0C, { c with arithe := (x.extractLsb' 0 8).setWidth 32 }),
   (0x0D, { c with tvec := lo c.tvec }), (0x0E, { c with tvec := hi c.tvec }), (0x0F, { c with epc := lo c.epc }),
   (0x10, { c with epc := hi c.epc }), (0x11, { c with cont := lo c.cont }), (0x12, { c with cont := hi c.cont }),
   (0x22, { c with copyerr := x.extractLsb' 16 16 ++ ((0 : BitVec 10) ++ x.extractLsb' 0 6) })]

/-- The acting wave's words at its position: the clause that it holds has this word there. -/
def Wave.atWord (w : Wave) (x : Word) : Bool :=
  posIndex w.flow.pc != 15 && match w.flow.clause with
  | none => false
  | some c => (wordsAt (posIndex w.flow.pc) c.words).headD 0 == x

/-- A byte at its home, as the page fields `f` read it. -/
def State.homeByte (s : State) (f pa : Nat) : Byte := (s.pkg.readBlock s.die.die (pa / 256 * 256) f).2.toList.getD (pa % 256) 0

/-- A block lies in DRAM outside the reserve, its home is reached over links that are up, it holds good data, and no L2 line
holds it. -/
def State.homeGood (s : State) (f pa : Nat) : Bool :=
  paOk pa && !inReserve (s.pkg.stackBlock pa) && s.pkg.linkUp (s.pkg.homeOf pa) && !s.pkg.unreachable s.die.die (s.pkg.homeOf pa) &&
    !(s.pkg.readBlock s.die.die (pa / 256 * 256) f).1 && (s.l2? (pa / 256)).isNone

/-- The response to a reader is these `n` bytes of the home. -/
def State.Read (s t : State) (f pa n : Nat) : Prop :=
  t.tabs.lastRead = (false, bytesNat ((List.range n).map fun i => s.homeByte f (pa + i)))

/-- Nothing has changed but the last response and the codes of blocks whose chunk does not decode, which become 0xF (05 R84). -/
def State.CodesOnly (s t : State) : Prop :=
  t = { s with tabs := t.tabs, pkg := { s.pkg with blkMeta := t.pkg.blkMeta } } ∧
    { t.tabs with lastRead := s.tabs.lastRead } = s.tabs ∧
    ∀ st, t.pkg.blockMeta st = s.pkg.blockMeta st ∨ t.pkg.blockMeta st = { s.pkg.blockMeta st with code := 15 }

/-- This die's own request for a block arrives at the block's home: it goes to the memory die that the TLBs name, and that die
forwards it where it is not the home (01 R20, R24). -/
def State.Arrives (s : State) (a : Nat) : Prop :=
  let h := s.pkg.homeOf a
  let via := s.hintOf a
  s.pkg.unreachable s.die.die h = false ∧ (via = h ∨ (s.pkg.unreachable s.die.die via = false ∧
    s.pkg.canForward s.die.die via a = true ∧ s.pkg.forwardTo via a = h))

/-- No link on that way has failed, and the die's VC3 input queue is empty (01 R22, R23). -/
def State.Straight (s : State) (a : Nat) : Prop :=
  s.pkg.linkUp (s.hintOf a) = true ∧ s.pkg.linkUp (s.pkg.homeOf a) = true ∧ s.pkg.vc3At (vc3CdQueue (s.pkg.homeOf a / 4)) = []

/-- The response has brought the home's number to every TLB entry of the frame, where it was another (01 R20 step 4); the rest of
the cores is as it was. -/
def State.Hinted (s t : State) (a : Nat) : Prop :=
  (s.hintOf a = s.pkg.homeOf a → t.cores = s.cores) ∧
    (s.hintOf a ≠ s.pkg.homeOf a → ∀ k, t.core k = { s.core k with tlb := (t.core k).tlb } ∧
      (t.core k).tlb = (s.core k).tlb.map fun e => if e.frame = a / 65536 then { e with hint := s.pkg.homeOf a } else e)

/-- `n` bytes at the home take their value from `x`, low byte first; the rest of the block is as it was. -/
def State.Written (s t : State) (f pa n x : Nat) : Prop :=
  ∀ a, a / 256 = pa / 256 → t.homeByte f a =
    if pa ≤ a ∧ a < pa + n then BitVec.ofNat 8 (x / 2 ^ (8 * (a - pa))) else s.homeByte f a

/-- R95: the cores `cs` on which a cluster of blocks of a card launches: the lowest-numbered cores that are open to it, as many as
it has blocks, of the lowest-numbered hardware cluster that has so many. -/
def State.Places (s : State) (card : Nat) (cs : List Nat) : Prop :=
  let isOpen := fun c => s.binReady c = false ∧ s.fits c (cardNeed card) = true
  ∃ hc < 16, s.fuseOk hc (cdFuse card) = true ∧ cs.length = cdBpc card ∧ cs.Pairwise (· < ·) ∧ (∀ c ∈ cs, c / 8 = hc ∧ isOpen c) ∧
    (∀ c, c / 8 = hc → isOpen c → c ∉ cs → ∀ d ∈ cs, d < c) ∧
    ∀ h < hc, s.fuseOk h (cdFuse card) = true → ∀ ds : List Nat, ds.Nodup → (∀ c ∈ ds, c / 8 = h ∧ isOpen c) → ds.length < cdBpc card

/-- R92, Table 7.4: the graph `h` is `g` with the patch entries `e 0` to `e (n - 1)` applied in order: 8 bytes of card NODE from
OFFSET on take VALUE, and each bit is that of the last entry that covers it. -/
def Patched (g h : List Nat) (n : Nat) (e : Nat → Nat) : Prop :=
  h.length = g.length ∧ ∀ m < g.length, ∀ i,
    let off := fun k => 8 * (e k / 2 ^ 16 % 2 ^ 16)
    let on := fun k => e k % 2 ^ 16 = m ∧ off k ≤ i ∧ i < off k + 64
    ((∀ k < n, ¬on k) → (h.getD m 0).testBit i = (g.getD m 0).testBit i) ∧
    ∀ k < n, on k → (∀ j < n, k < j → ¬on j) → (h.getD m 0).testBit i = (e k / 2 ^ 64).testBit (i - off k)

/-- The launch `l` runs on the graph `h`: each card has PREDCNT on its counter, and is ready if that is 0. -/
def State.Runs (t : State) (l : Launch) (h : List Nat) : Prop :=
  ∃ r, t.sched.running = some r ∧ r.num = l.num ∧ r.graph = l.graph ∧ r.token = none ∧ r.cards.length = h.length ∧
    ∀ (n : Nat) (c : Nat) (x : CardRun), h[n]? = some c → r.cards[n]? = some x →
      x.node = n ∧ x.counter = (c / 2 ^ 320) % 2 ^ 16 ∧ x.launched = 0 ∧ x.done = false ∧ (x.ready.isSome = true ↔ x.counter = 0)

/-- The device stands with no line of a 2 MiB range in an L1 or the L2. -/
def State.rangeGone (s : State) (base : Nat) : Prop :=
  (∀ k, ∀ e ∈ (s.core k).l1, inRange base e.2.va = false) ∧ ∀ e ∈ s.die.l2, inRange base e.2.va = false

/-- The homes and the links are those that boot leaves (R19, R24). -/
def Pkg.asBooted (p : Pkg) : Prop := p.home = [] ∧ p.links = [] ∧ p.bridge = true

/-- These blocks of the save area hold `bs` in DRAM, the last of them padded with zeros. -/
def State.Stored (s t : State) (place : List Nat) (bs : List Byte) : Prop :=
  s.pkg.asBooted → ∀ (j b k : Nat), place[j]? = some b → k < 256 → paOk (s.host.savebase.toNat + 256 * b) = true →
    look 0 t.pkg.dram (s.pkg.stackBlock (s.host.savebase.toNat + 256 * b) + k) = bs.getD (256 * j + k) 0

/-- The lines of the L2 that satisfy `p` and are dirty have their bytes at their homes in `t`; of those on a page without COMP, as
they are (09 R148; 27 R354). -/
def State.WentHome (s t : State) (p : L2Line → Prop) : Prop :=
  ∀ line l, s.l2? line = some l → p l → l.dirty = true → l.poison = false → fieldsComp l.fields = false → paOk (line * 256) = true →
    ∀ i < 256, look 0 t.pkg.dram (s.pkg.stackBlock (line * 256) + i) = l.data.toList.getD i 0

/-- A mailbox command has ended: its word with bit 31 clear, the status, the buffer, and vector 6 (R361, R362). -/
def State.Answers (s t : State) (cmd slot status : Nat) (buf : List Byte) : Prop :=
  t.mboxBytes 0 4 = natBytes 4 (cmd + 256 * slot) ∧ t.mboxBytes 4 4 = natBytes 4 status ∧
    (∀ i < 2048, ∀ b, buf[i]? = some b → look 0 t.tabs.mbox (0x800 + i) = b) ∧ t.tabs.msix = s.tabs.msix ++ [6] ∧
    t.waves = s.waves ∧ t.host = s.host ∧ t.pkg.dram = s.pkg.dram


end Sys2Proof.Machine

open Sys2Proof Sys2Proof.Machine

/-- R161 to R163, R167, R170: each two-source integer instruction completes; every active lane of D takes the result and
nothing else of the machine changes but for the ALU's work (R155). -/
def Statements.TwoSourceIntegerResults : Prop :=
  ∀ (s : State) (f : F3) (lenm1 pos : BitVec 5) (neg : Bool) (pidx : BitVec 3),
    ∀ o ∈ intTwoSource f lenm1 pos neg pidx, s.mayRun o.u = true →
      ∃ t, exec o.i s = .next t ∧ s.RegsOnly t o.u.occ [o.d] [] [] 0 ∧
        ∀ l < 32, s.w.active l = true → t.w.lane o.d l = o.val s.w l

/-- R164 to R167: the same of the one-source integer instructions and MOVI. -/
def Statements.OneSourceIntegerResults : Prop :=
  ∀ (s : State) (u : U3) (sx : Bool) (lenm1 pos : BitVec 5) (g : FI) (imm : BitVec 32),
    ∀ o ∈ intOneSource u sx lenm1 pos g imm, s.mayRun o.u = true →
      ∃ t, exec o.i s = .next t ∧ s.RegsOnly t o.u.occ [o.d] [] [] 0 ∧
        ∀ l < 32, s.w.active l = true → t.w.lane o.d l = o.val s.w l

/-- R161, R164: IADDS, IABS and INEG clamp to 32 bits, and SAT is ORed into ARITHF if an active lane was clamped. -/
def Statements.SaturatingIntegers : Prop :=
  ∀ (s : State) (f : F3) (u : U3), ∀ o ∈ intSaturating f u, s.mayRun o.u = true →
    ∃ t fl, exec o.i s = .next t ∧ s.w.FlagsOf (o.fl s.w) fl ∧ s.RegsOnly t o.u.occ [o.d] [] [] fl ∧
      ∀ l < 32, s.w.active l = true → t.w.lane o.d l = o.val s.w l

/-- R171 to R173, R175, R177, R179: the floating-point instructions of one result register complete; every active lane takes
its result under the mode in force, and the lanes' flags are ORed into ARITHF (R67, R159). The results and flags of FEXP2,
FLOG2 and FTANH are those of the model's evaluation with 192 fraction bits (log 11), and (+0) + (+0) under RD is the model's
+0 (log 64). -/
def Obligations.FloatResults : Prop :=
  ∀ (s : State) (f : F3) (wc : Bool) (c : BitVec 7) (u : U3) (g : FC),
    ∀ o ∈ fltOneResult f wc c u g, s.mayRun o.u = true →
      ∃ t fl, exec o.i s = .next t ∧ s.w.FlagsOf (o.fl s.w) fl ∧ s.RegsOnly t o.u.occ [o.d] [] [] fl ∧
        ∀ l < 32, s.w.active l = true → t.w.lane o.d l = o.val s.w l

/-- R168, R180: LEA and the FP64 instructions write both registers of the pair at D, the low half in the lower one. -/
def Statements.PairResults : Prop :=
  ∀ (s : State) (f : F3) (off : BitVec 16) (sx : Bool) (sh : BitVec 3), ∀ o ∈ pairResults f off sx sh,
    o.i.wellFormed = true → s.mayRun o.u = true →
      ∃ t fl, exec o.i s = .next t ∧ s.w.FlagsOf (o.fl s.w) fl ∧ s.RegsOnly t o.u.occ [o.d, o.d + 1] [] [] fl ∧
        ∀ l < 32, s.w.active l = true → t.w.lane2 o.d l = o.val s.w l

/-- R176, R178: DCVT converts in every active lane; its destination is a pair for kinds 1, 3, 4, 5 and 6, and its source
for kinds 0, 2, 4, 5 and 6. -/
def Statements.DoubleConversions : Prop :=
  ∀ (s : State) (g : FC),
    (Instr.dcvt g).wellFormed = true → s.mayRun (valu 1 4 [bsrc g.q g.a (dcvtSrc g.kind) g.wa] [vdst g.d (dcvtDst g.kind)]) = true →
      let r := fun l => dcvtLane g.kind.toNat (RMode.ofRM g.rm s.w.mode) (s.w.opB g.q g.a l) (s.w.opB2 g.q g.a l)
      ∃ t fl, exec (.dcvt g) s = .next t ∧ s.w.FlagsOf (fun l => (r l).2) fl ∧
        s.RegsOnly t 4 (if g.kind.toNat = 0 ∨ g.kind.toNat = 2 then [g.d.toNat] else [g.d.toNat, g.d.toNat + 1]) [] [] fl ∧
        ∀ l < 32, s.w.active l = true →
          if g.kind.toNat = 0 ∨ g.kind.toNat = 2 then t.w.lane g.d.toNat l = BitVec.ofNat 32 (r l).1
          else t.w.lane2 g.d.toNat l = BitVec.ofNat 64 (r l).1

/-- R169, R174: a comparison writes three predicates, 0 in inactive lanes, and no other register. -/
def Obligations.Comparisons : Prop :=
  ∀ (s : State) (f : F3), f.d.toNat ≤ 5 →
    (s.mayRun (valu 0 1 (f3srcs f 1) []) = true →
      ∃ t, exec (.icmp f) s = .next t ∧ s.RegsOnly t 1 [] [] [f.d.toNat, f.d.toNat + 1, f.d.toNat + 2] 0 ∧
        ∀ l < 32,
          let a := s.w.lane f.a.toNat l
          let b := s.w.opB f.q f.b l
          (t.w.rdP f.d.toNat).getLsbD l = (s.w.active l && decide (a.toInt < b.toInt)) ∧
          (t.w.rdP (f.d.toNat + 1)).getLsbD l = (s.w.active l && a == b) ∧
          (t.w.rdP (f.d.toNat + 2)).getLsbD l = (s.w.active l && decide (a.toNat < b.toNat))) ∧
    (s.mayRun (valu 1 1 (f3srcs f 1) []) = true →
      ∃ t fl, exec (.fcmp f) s = .next t ∧ s.RegsOnly t 1 [] [] [f.d.toNat, f.d.toNat + 1, f.d.toNat + 2] fl ∧
        s.w.FlagsOf (fun l => (fA f s.w l).nanFlag ||| (fB f s.w l).nanFlag) fl ∧
        ∀ l < 32,
          let x := fA f s.w l
          let y := fB f s.w l
          let un := x.isNan || y.isNan
          (t.w.rdP f.d.toNat).getLsbD l = (s.w.active l && !un && x.cmp y == -1) ∧
          (t.w.rdP (f.d.toNat + 1)).getLsbD l = (s.w.active l && !un && x.cmp y == 0) ∧
          (t.w.rdP (f.d.toNat + 2)).getLsbD l = (s.w.active l && un))

/-- R183: each active lane of SHFL reads the source lane that the mode gives, inside its segment, active or not. -/
def Statements.LaneExchange : Prop :=
  ∀ (s : State) (f : F3) (wcode : BitVec 3) (mode : BitVec 2) (imm : BitVec 5), ∀ o ∈ crossLane f wcode mode imm,
    o.i.wellFormed = true → s.mayRun o.u = true →
      ∃ t, exec o.i s = .next t ∧ s.RegsOnly t 1 [o.d] [] [] 0 ∧ ∀ l < 32, s.w.active l = true → t.w.lane o.d l = o.val s.w l

/-- R184 to R186: REDX reduces over the active lanes, the float operations in the fixed tree, and writes its destination in
every active lane or in scalar registers. -/
def Statements.Reductions : Prop :=
  ∀ (s : State) (f : F3) (sd : Bool) (rop : BitVec 4), (Instr.redx f sd rop).wellFormed = true → s.w.flow.mask ≠ 0 →
    s.mayRun (redxUse f sd rop) = true →
      let pair := rop.toNat = 10 ∨ rop.toNat = 11
      let ds := if pair then [f.d.toNat, f.d.toNat + 1] else [f.d.toNat]
      ∃ t r, exec (.redx f sd rop) s = .next t ∧ RedxGives s.w rop.toNat f.a.toNat (fun l => s.w.opB f.q f.b l) r ∧
        s.RegsOnly t 2 (if sd then [] else ds) (if sd then ds else []) [] r.2.2 ∧
        if sd then t.w.rdS f.d.toNat = r.1 ∧ (pair → t.w.rdS (f.d.toNat + 1) = r.2.1)
        else ∀ l < 32, s.w.active l = true → t.w.lane f.d.toNat l = r.1 ∧ (pair → t.w.lane (f.d.toNat + 1) l = r.2.1)

/-- R181, R191, R193, R203, R225, R329: the instructions that write one scalar register complete with the value the rules
give. -/
def Statements.ScalarResults : Prop :=
  ∀ (s : State) (f : FS) (d : BitVec 6) (a : BitVec 7) (wa : Bool) (b : BitVec 6) (wb : Bool) (sel : BitVec 3) (n : BitVec 8)
    (imm : BitVec 32), ∀ o ∈ scalarResults f d a wa b wb sel n imm, s.mayRun o.u = true →
      ∃ t, exec o.i s = .next t ∧ s.RegsOnly t o.u.occ [] [o.d] [] 0 ∧ t.w.rdS o.d = o.val s

/-- R256, R265, R287: TSTAT, TBOUND and CSEQ outside a region; TSTAT with SEL 5 clears TLFERR after the read. -/
def Statements.UnitReads : Prop :=
  ∀ (s : State) (d : BitVec 6) (sel : BitVec 3) (wm wa : Bool) (a slot : BitVec 7), s.w.mem.region = none →
    (∀ o ∈ unitReads d sel wm, s.mayRun o.u = true →
      ∃ t, exec o.i s = .next t ∧ t.w.rdS o.d = o.val s ∧
        (if o.i = .tstat d 5 then t.w.csr = { s.w.advance.csr with tlferr := 0 } ∧ s.SameRest t 0 ∧ s.w.SameRegs t.w [] [o.d] []
         else s.RegsOnly t 0 [] [o.d] [] 0)) ∧
    (s.mayRun { useOf 4 [vsrc a 1 wa] [sdst d.toNat 1] with slots := [slot.toNat] } = true →
      let x := s.slotOf s.w slot.toNat
      let fw := (s.w.lane a.toNat s.w.firstLane).toNat
      if fwValid fw x then
        ∃ t, exec (.tbound d wa a slot) s = .next t ∧ s.RegsOnly t 0 [] [d.toNat] [] 0 ∧
          t.w.rdS d.toNat = BitVec.ofNat 32 ((if x.ssc then 16 + (x.lc + 127) / 128 else 24) + 16 * max (maxTerms (fwAkind fw)) 1 + 16)
      else exec (.tbound d wa a slot) s = .next (s.takeTrap cTERM_OPERAND 0 s.w.flow.mask))

/-- R257 to R259: TCNT, DQBX and QBX in the active lanes, outside a region; an inactive lane gives QBX's block a 0. -/
def Statements.TermCountsAndBlocks : Prop :=
  ∀ (s : State) (u : U3) (kind : BitVec 4) (bf : Bool) (bx : BitVec 3), s.w.mem.region = none →
    (∀ o ∈ classFourLanes u kind bf bx, o.i.wellFormed = true → s.mayRun o.u = true →
      ∃ t fl, exec o.i s = .next t ∧ s.w.FlagsOf (o.fl s.w) fl ∧ s.RegsOnly t 0 [o.d] [] [] fl ∧
        ∀ l < 32, s.w.active l = true → t.w.lane o.d l = o.val s.w l) ∧
    (s.mayRun (useOf 4 [u3src u 1] [vdst u.d 1]) = true →
      let b := bxB bx.toNat
      let q := fun h => quantize b ((List.range 16).map fun i =>
        let x := (s.w.lane u.a.toNat (16 * h + i)).toNat
        if s.w.active (16 * h + i) then (if bf then bf16.unpack (x % 65536) else fp32.unpack x) else .fin false 0 0)
      ∃ t fl, exec (.qbx u bf bx) s = .next t ∧ s.w.FlagsOf (fun l => (q (l / 16)).flags) fl ∧
        s.RegsOnly t 0 [u.d.toNat] [] [] fl ∧
        ∀ l < 32, s.w.active l = true →
          let e := (q (l / 16)).els.getD (l % 16) (false, 0)
          t.w.lane u.d.toNat l =
            BitVec.ofNat 32 ((if e.1 then 2 ^ b else 0) + e.2 + 256 * (q (l / 16)).x + 65536 * (q (l / 16)).qs))

/-- R224, R97, R204: HBEAT, CLOCK and RECGET write a pair; RECGET takes its records from the dealer of its card, and a wave
whose card has none gets first 0 and count 0. That the clocks of the cores count alike is the model's choice (log 12). -/
def Statements.ScalarPairs : Prop :=
  ∀ (s : State) (d : BitVec 6), d.toNat % 2 = 0 →
    (s.mayRun (useOf 6 [] [sdst d.toNat 2]) = true →
      (∃ t, exec (.hbeat d) s = .next t ∧ s.RegsOnly t 0 [] [d.toNat, d.toNat + 1] [] 0 ∧
        t.w.rdS2 d.toNat = BitVec.ofNat 64 (s.pkg.clock / 128)) ∧
      (∃ t, exec (.clock d) s = .next t ∧ s.RegsOnly t 0 [] [d.toNat, d.toNat + 1] [] 0 ∧
        t.w.rdS2 d.toNat = s.cycleCount s.w.id.core)) ∧
    (s.mayRun (useOf 2 [] [sdst d.toNat 2]) = true → s.w.mem.region = none →
      ∀ c, s.cardRun? s.w.id.card = some c →
        let bits := s.cardBits s.w.id.card
        let left := cdRecCount bits - c.next
        let n := if left = 0 then 0 else max 1 (min (cdChunk bits) (left / (2 * max 1 c.live)))
        ∃ t, exec (.recget d) s = .next t ∧ t.w.rdS d.toNat = BitVec.ofNat 32 c.next ∧
          t.w.rdS (d.toNat + 1) = BitVec.ofNat 32 n ∧ s.w.WentOn t.w 0 ∧ s.w.SameRegs t.w [] [d.toNat, d.toNat + 1] [] ∧
          (t.cardRun? s.w.id.card).map (·.next) = some (c.next + n) ∧ t.others = s.others ∧ t.cores = s.cores ∧ t.die = s.die ∧
          t.pkg = s.pkg ∧ t.host = s.host ∧ t.tabs = s.tabs) ∧
    (s.mayRun (useOf 2 [] [sdst d.toNat 2]) = true → s.w.mem.region = none → s.cardRun? s.w.id.card = none →
      ∃ t, exec (.recget d) s = .next t ∧ s.RegsOnly t 0 [] [d.toNat, d.toNat + 1] [] 0 ∧ t.w.rdS2 d.toNat = 0)

/-- R192, R45: SCMP writes MASK or 0 to its predicate by the relation that REL names. -/
def Statements.ScalarCompare : Prop :=
  ∀ (s : State) (pd : BitVec 3) (sa sb : BitVec 6) (rel : BitVec 3), rel.toNat ≤ 5 →
    s.mayRun (useOf 2 [ssrc sa.toNat 1 true, ssrc sb.toNat 1 true] []) = true →
      let a := s.w.rdS sa.toNat
      let b := s.w.rdS sb.toNat
      let holds : Prop := match rel.toNat with
        | 0 => a = b
        | 1 => a ≠ b
        | 2 => a.toInt < b.toInt
        | 3 => a.toInt ≤ b.toInt
        | 4 => a.toNat < b.toNat
        | _ => a.toNat ≤ b.toNat
      ∃ t, exec (.scmp pd sa sb rel) s = .next t ∧ s.RegsOnly t 0 [] [] [pd.toNat] 0 ∧
        (holds → t.w.rdP pd.toNat = s.w.flow.mask) ∧ (¬holds → t.w.rdP pd.toNat = 0)

/-- R194: S2V copies to every active lane; V2S of a full source writes its scalar, of an empty one waits, with its scalar
empty, until the source fills, unless the source lies in the wave's own run. -/
def Statements.ScalarVectorMoves : Prop :=
  ∀ (s : State) (d : BitVec 7) (e : BitVec 6) (wb : Bool) (b : BitVec 6) (wa : Bool) (a : BitVec 7) (k : BitVec 5),
    (s.mayRun (useOf 2 [ssrc b.toNat 1 wb] [vdst d 1]) = true →
      ∃ t, exec (.s2v d wb b) s = .next t ∧ s.RegsOnly t 0 [d.toNat] [] [] 0 ∧
        ∀ l < 32, s.w.active l = true → t.w.lane d.toNat l = s.w.rdS b.toNat) ∧
    (s.mayRun (v2sUse e wa a) = true → s.w.regs.vfull.getLsbD a.toNat = true →
      ∃ t, exec (.v2s e wa a k) s = .next t ∧ s.RegsOnly t 0 [] [e.toNat] [] 0 ∧ t.w.rdS e.toNat = s.w.lane a.toNat k.toNat) ∧
    (s.mayRun (v2sUse e true a) = true → s.w.regs.vfull.getLsbD a.toNat = false → s.promotingIn s.w a.toNat 1 = false →
      ∃ t, exec (.v2s e true a k) s = .next t ∧ t = { s with w := t.w } ∧ t.w.id = s.w.id ∧ t.w.flow = s.w.advance.flow ∧
        t.w.regs = { s.w.regs with sfull := t.w.regs.sfull } ∧
        (∀ r < 64, t.w.regs.sfull.getLsbD r = (s.w.regs.sfull.getLsbD r && r != e.toNat)) ∧
        t.w.mem = s.w.memDone { s.w.mem with v2s := s.w.mem.v2s ++ [(e.toNat, a.toNat, k.toNat)] })

/-- R111, R112: BRA and BRC. BRC goes to its target if every active lane has the predicate, goes on if none has, and else
pushes a JOIN and a PATH and goes on with the lanes that have not; above depth 30 it traps instead. The targets are taken
modulo 2^49, the model's reading (log 24). -/
def Statements.Branches : Prop :=
  ∀ (s : State) (neg : Bool) (p : BitVec 3) (toff roff : BitVec 16), s.mayRun (useCt []) = true →
    let w := s.w
    let m := w.flow.mask
    let taken := m &&& if neg then ~~~(w.rdP p.toNat) else w.rdP p.toNat
    (∃ t, exec (.bra toff) s = .next t ∧ s.Jumped t (w.flowAt (w.target toff) m w.flow.rpc w.flow.stack)) ∧
    (taken = m → ∃ t, exec (.brc neg p toff roff) s = .next t ∧ s.Jumped t (w.flowAt (w.target toff) m w.flow.rpc w.flow.stack)) ∧
    (taken = 0 → m ≠ 0 → ∃ t, exec (.brc neg p toff roff) s = .next t ∧ s.PassedOn t) ∧
    (taken ≠ m → taken ≠ 0 → w.flow.stack.length ≤ 30 →
      ∃ t, exec (.brc neg p toff roff) s = .next t ∧ s.Jumped t
        { w.advance.flow with mask := m &&& ~~~taken, rpc := w.targetVa roff
                              stack := w.flow.stack ++ [{ kind := .join, pc := w.target roff, mask := m, rpc := w.flow.rpc },
                                { kind := .path, pc := w.target toff, mask := taken, rpc := w.targetVa roff }] }) ∧
    (taken ≠ m → taken ≠ 0 → 30 < w.flow.stack.length →
      exec (.brc neg p toff roff) s = .next (s.takeTrap cSTACK_OVERFLOW 0 m))

/-- R113, R115; 13 R196, R198: CALL pushes a CALLJ with the header after its clause; RET and BRK take the active lanes off the
entries above the nearest CALLJ or the named JOIN and pop the top one; without such an entry they trap. Waves in a region or a
continuation, which may not pop below their floor, and entries on top that are parked or have no lane left are not meant.
Targets are taken modulo 2^49, the model's reading (log 24). -/
def Obligations.CallsReturnsBreaks : Prop :=
  ∀ (s : State) (toff : BitVec 16) (level : BitVec 4), s.mayRun (useCt []) = true →
    let w := s.w
    let m := w.flow.mask
    (w.flow.stack.length < 32 →
      ∃ t, exec (.call toff) s = .next t ∧ s.Jumped t (w.flowAt (w.target toff) m rpcNone
        (w.flow.stack ++ [{ kind := .callj, pc := headerPos w.after, mask := m, rpc := w.flow.rpc }]))) ∧
    (32 ≤ w.flow.stack.length → exec (.call toff) s = .next (s.takeTrap cSTACK_OVERFLOW 0 m)) ∧
    (∀ pre c rest, w.flow.stack = pre ++ c :: rest → c.kind = .callj → (∀ x ∈ rest, x.kind ≠ .callj) → w.freeStack = true →
      (less m rest = [] → c.mask &&& w.flow.alive ≠ 0 →
        ∃ t, exec .ret s = .next t ∧ s.Jumped t (w.flowAt c.pc (c.mask &&& w.flow.alive) c.rpc
          (pre.map fun e => { e with mask := e.mask &&& w.flow.alive }))) ∧
      (∀ ps e, less m rest = ps ++ [e] → e.kind ≠ .parked → e.mask ≠ 0 →
        ∃ t, exec .ret s = .next t ∧ s.Jumped t (w.flowAt e.pc e.mask e.rpc (pre ++ c :: ps)))) ∧
    ((∀ x ∈ w.flow.stack, x.kind ≠ .callj) → exec .ret s = .next (s.takeTrap cILLEGAL_CONVERGENCE 0 m)) ∧
    (∀ pre j rest, w.flow.stack = pre ++ j :: rest → pre.length = level.toNat →
      (j.kind = .join → (∀ x ∈ rest, x.kind ≠ .callj) → w.freeStack = true → ∀ st e, pre ++ j :: less m rest = st ++ [e] →
        e.kind ≠ .parked → e.mask ≠ 0 →
          ∃ t, exec (.brk level) s = .next t ∧ s.Jumped t (w.flowAt e.pc e.mask e.rpc st)) ∧
      (j.kind ≠ .join ∨ (∃ x ∈ rest, x.kind = .callj) → exec (.brk level) s = .next (s.takeTrap cILLEGAL_CONVERGENCE 0 m))) ∧
    (w.flow.stack.length ≤ level.toNat → exec (.brk level) s = .next (s.takeTrap cILLEGAL_CONVERGENCE 0 m))

/-- R114: JMPI with one target goes there; with several it pushes a JOIN and one PATH for each target, rising, and the highest
runs first; a target that is no legal landing traps BAD_LANDING with its lanes and the first one's target. Header addresses
are taken modulo 2^49, the model's reading (log 24). -/
def Statements.IndirectJumps : Prop :=
  ∀ (s : State) (wa : Bool) (a : BitVec 7) (roff : BitVec 16), s.mayRun (useCt [vsrc a 1 wa]) = true →
    let w := s.w
    let m := w.flow.mask
    let tg := fun l => (w.csr.codebase.toNat + (w.lane a.toNat l).toNat) % 2 ^ 64
    let on := fun va => maskOf (w.lanes.filter fun l => tg l == va)
    let bad := w.lanes.filter fun l => !s.lands (tg l)
    (∀ b bs, bad = b :: bs → exec (.jmpi wa a roff) s = .next (s.takeTrap cBAD_LANDING (tg b) (maskOf bad))) ∧
    (∀ va, m ≠ 0 → (∀ l ∈ w.lanes, tg l = va ∧ s.lands va = true) →
      ∃ t, exec (.jmpi wa a roff) s = .next t ∧ s.Jumped t (w.flowAt (headerPos va) m w.flow.rpc w.flow.stack)) ∧
    (∀ (vas : List Nat) (top : Nat), bad = [] → vas ≠ [] → (vas ++ [top]).Pairwise (· < ·) → (∀ l ∈ w.lanes, tg l ∈ vas ++ [top]) →
      (∀ va ∈ vas ++ [top], ∃ l ∈ w.lanes, tg l = va) →
      (w.flow.stack.length + vas.length + 1 ≤ 32 → w.freeStack = true →
        ∃ t, exec (.jmpi wa a roff) s = .next t ∧ s.Jumped t (w.flowAt (headerPos top) (on top) (w.targetVa roff)
          (w.flow.stack ++ { kind := .join, pc := w.target roff, mask := m, rpc := w.flow.rpc } ::
            vas.map fun va => { kind := .path, pc := headerPos va, mask := on va, rpc := w.targetVa roff }))) ∧
      (32 < w.flow.stack.length + vas.length + 1 → exec (.jmpi wa a roff) s = .next (s.takeTrap cSTACK_OVERFLOW 0 m)))

/-- R99, R116: EXIT takes the active lanes off MASK and every entry and the wave goes on with the top entry left; a wave
barrier that waited for these lanes alone completes. With no lane left the wave is gone from the running waves. -/
def Obligations.Exits : Prop :=
  ∀ s : State, s.mayRun (useCt []) = true → s.w.freeStack = true →
    let w := s.w
    let alive := w.flow.alive &&& ~~~w.flow.mask
    let met : Bool := w.flow.wbArrived != 0 && alive &&& ~~~w.flow.wbArrived == 0
    let plain := fun (e : StackEntry) => if e.kind = .parked then { e with kind := .path } else e
    let left := less w.flow.mask w.flow.stack
    (∀ st e, (if met then left.map plain else left) = st ++ [e] → e.kind ≠ .parked → e.mask ≠ 0 →
      ∃ t, exec .exit s = .next t ∧ s.Jumped t
        { w.flowAt e.pc e.mask e.rpc st with alive := alive, wbArrived := if met then 0 else w.flow.wbArrived
                                             wbPhase := if met then w.flow.wbPhase + 1 else w.flow.wbPhase }) ∧
    (left = [] → (s.core w.id.core).arrOf w.id.wid = none → (∀ v ∈ s.others, v.id.wid ≠ w.id.wid) →
      (s.others.map fun v => v.id.wid).Nodup →
      ∃ t, exec .exit s = .next t ∧ (∀ v ∈ t.waves, v.id.wid = w.id.wid → v.flow.alive = 0) ∧
        (∀ v ∈ s.others, v.flow.alive ≠ 0 → v ∈ t.waves) ∧ t.cores = s.cores ∧ t.host = s.host ∧ t.tabs = s.tabs ∧ t.pkg = s.pkg)

/-- R199, R201: NOP, YIELD and WAITC. YIELD marks the wave; WAITC goes on once at most `n` operations of its kind are
left, and waits before. -/
def Obligations.WaitsAndHints : Prop :=
  ∀ (s : State) (kind : BitVec 2) (n : BitVec 6), s.mayRun (useOf 2 [] []) = true →
    (∃ t, exec .nop s = .next t ∧ s.PassedOn t) ∧
    (∃ t, exec .yield s = .next t ∧ s.Jumped t { s.w.advance.flow with yielded := true }) ∧
    (s.opCount kind.toNat s.w ≤ n.toNat → ∃ t, exec (.waitc kind n) s = .next t ∧ s.PassedOn t) ∧
    (n.toNat < s.opCount kind.toNat s.w → exec (.waitc kind n) s = .next s.waiting)

/-- R99, R101, R200: a wave-level BAR. When the last lanes arrive the phase completes and parked paths may run again; else the
arriving lanes park and the nearest path runs, or, with .arrive, go on. That in MODE 2 lanes that have arrived park after the BAR is
the model's reading (log 30). -/
def Statements.WaveBarriers : Prop :=
  ∀ (s : State) (mode : BitVec 2) (num : BitVec 3), s.mayRun (useOf 2 [] []) = true →
    let w := s.w
    let m := w.flow.mask
    let plain := fun (e : StackEntry) => if e.kind = .parked then { e with kind := .path } else e
    (mode.toNat ≠ 2 → m &&& w.flow.wbArrived = 0) → m ≠ 0 →
    (mode.toNat ≤ 1 → w.flow.alive &&& ~~~(w.flow.wbArrived ||| m) = 0 →
      ∃ t, exec (.bar 0 mode num) s = .next t ∧ s.Jumped t
        { w.advance.flow with wbArrived := 0, wbPhase := w.flow.wbPhase + 1, stack := w.flow.stack.map plain }) ∧
    (mode = 1 → w.flow.alive &&& ~~~(w.flow.wbArrived ||| m) ≠ 0 → w.flow.stack.length ≤ 32 →
      ∃ t, exec (.bar 0 mode num) s = .next t ∧ s.Jumped t { w.advance.flow with wbArrived := w.flow.wbArrived ||| m }) ∧
    (∀ pre e rest, w.flow.stack = pre ++ e :: rest → e.kind = .path → (∀ x ∈ rest, x.kind = .parked) → w.freeStack = true →
      w.flow.stack.length ≤ 32 → mode.toNat = 0 ∨ mode.toNat = 2 →
      (mode.toNat = 0 → w.flow.alive &&& ~~~(w.flow.wbArrived ||| m) ≠ 0) →
        ∃ t, exec (.bar 0 mode num) s = .next t ∧ s.Jumped t
          { w.flowAt e.pc e.mask e.rpc
              (pre ++ rest ++ [{ kind := .parked, pc := w.advance.flow.pc, mask := m, rpc := w.flow.rpc }]) with
            wbArrived := if mode.toNat = 0 then w.flow.wbArrived ||| m else w.flow.wbArrived })

/-- R98 to R100, R189, R200: a BAR of a block, cluster or grid by a converged wave of a block. In MODE 0 and 1 a wave arrives once
it has made its release; the last member to arrive completes the phase and goes on; one that is not the last waits for the
phase's end, or with .arrive goes on; one that has arrived in the phase before waits. In MODE 2 it waits for the phase's end
without arriving. A wave that waits goes on in a later phase. -/
def Statements.BlockBarriers : Prop :=
  ∀ (s : State) (level mode : BitVec 2) (num : BitVec 3) (k : Nat) (b : Block), s.mayRun (useOf 2 [] []) = true →
    level ≠ 0 → mode.toNat ≤ 2 → s.plain = true → s.w.id.blk = some k → s.blk? k = some b → s.w.id.kind = .block →
    s.w.flow.mask = s.w.flow.alive → (level = 3 → cdGridbar (s.cardBits b.card) = true) →
    let x := s.bar k b level.toNat num.toNat
    let held := fun (l n ph : Nat) =>
      ({ s with w := { s.w with flow := { s.w.flow with hold := .bar l n ph, stalled := true, piped := false } } } : State)
    (∀ l n ph, s.w.waitingBar = some (l, n, ph) →
      ((s.bar k b l n).phase = ph → exec (.bar level mode num) s = .next (held l n ph)) ∧
      ((s.bar k b l n).phase ≠ ph →
        ∃ t, exec (.bar level mode num) s = .next t ∧ s.w.Moved t.w s.w.advance.flow s.w.mem ∧ s.SameOutside t ∧ t.sched = s.sched)) ∧
    (s.w.waitingBar = none →
      (mode = 2 → exec (.bar level mode num) s = .next (held level.toNat num.toNat x.phase)) ∧
      (mode ≠ 2 → x.arrived.contains s.w.id.wid = true → exec (.bar level mode num) s = .next s.waiting) ∧
      (mode ≠ 2 → x.arrived.contains s.w.id.wid = false → s.promoting s.w = false →
        (s.earlierDone s.w s.w.mem.seq = false → exec (.bar level mode num) s = .next s.waiting) ∧
        (s.earlierDone s.w s.w.mem.seq = true → (s.plainRelease s.w.id.core (level.toNat - 1)).isSome = true →
          ((∀ i ∈ s.barMembers b level.toNat, i = s.w.id.wid ∨ i ∈ x.arrived) →
            ∃ t, exec (.bar level mode num) s = .next t ∧
              t.bar k b level.toNat num.toNat = { phase := x.phase + 1, arrived := [] } ∧
              s.w.Moved t.w s.w.advance.flow s.w.mem ∧ s.SameOutside t) ∧
          ((∃ i ∈ s.barMembers b level.toNat, i ≠ s.w.id.wid ∧ i ∉ x.arrived) →
            ∃ t, exec (.bar level mode num) s = .next t ∧
              t.bar k b level.toNat num.toNat = { x with arrived := x.arrived ++ [s.w.id.wid] } ∧ s.SameOutside t ∧
              (mode = 1 → s.w.Moved t.w s.w.advance.flow s.w.mem) ∧
              (mode = 0 → t.w = (held level.toNat num.toNat x.phase).w)))))

/-- R102, R202: SPAWN puts a record of each active lane into the bin that its entry has, or into the lowest empty one (which
empty one is the model's choice, log 32), and starts the timer of a bin that was empty. -/
def Obligations.Spawning : Prop :=
  ∀ (s : State) (wa : Bool) (a : BitVec 7) (wb : Bool) (b : BitVec 6), s.mayRun (useOf 2 [vsrc a 8 wa, ssrc b.toNat 2 wb] []) = true →
    s.plain = true → ∀ k, entryOk (s.w.rdS2 b.toNat).toNat = true → s.w.flow.mask ≠ 0 →
      let n := s.w.id.core
      let old := (s.core n).bin k
      (s.core n).binFor (s.w.rdS2 b.toNat).toNat = some k → old.recs.length + s.w.lanes.length ≤ 64 →
        ∃ t, exec (.spawn wa a wb b) s = .next t ∧ s.w.Moved t.w s.w.advance.flow s.w.mem ∧ t = { s with w := t.w, cores := t.cores } ∧
          (∀ j, j ≠ n → t.core j = s.core j) ∧ t.core n = { s.core n with bins := (t.core n).bins } ∧
          (∀ j, j ≠ k → (t.core n).bin j = (s.core n).bin j) ∧
          ((t.core n).bin k).key = some (s.w.rdS2 b.toNat).toNat ∧
          ((t.core n).bin k).recs = old.recs ++ s.w.lanes.map (fun l =>
            { vals := (List.range 8).map fun i => s.w.lane (a.toNat + i) l, card := s.w.id.card, prio := s.w.id.prio
              vregs := s.w.id.vregs, spwait := s.w.id.spwait }) ∧
          ((t.core n).bin k).due =
            (if old.recs = [] then some (s.pkg.coreClock + if s.w.id.spwait = 0 then 1024 else 256 * s.w.id.spwait) else old.due)

/-- R104 to R106, R203, R368; 13 R189: TQPUSH adds a record of each active lane to an enabled queue, all or none, and writes 1: first
to the free on-chip entries, while the ring is empty, then to the ring, whose writes follow; it is a release at die scope, made
first, for which it waits. A queue in LAUNCH mode starts its timer with its first records. Where the queue lacks room, is disabled,
or waits on an absent page of its ring, nothing is written and the status is 0. That the writes which the ring owes are tried again
when an instruction comes to the queue is the model's order (log 77). -/
def Statements.TaskPushes : Prop :=
  ∀ (s : State) (d : BitVec 6) (wa : Bool) (a : BitVec 7) (wb : Bool) (b : BitVec 6), s.plain = true →
    s.mayRun (useOf 2 [vsrc a 8 wa, ssrc b.toNat 1 wb] [sdst d.toNat 1]) = true →
    let q := (s.w.rdS b.toNat).toNat % 64
    let ls := s.w.lanes
    let recs := ls.map fun l => (List.range 8).map fun i => s.w.lane (a.toNat + i) l
    let core := s.w.id.core
    (∀ u : State, u = s.tidyQueue q 64 → u.w = s.w →
      let y := u.queue q
      let room := if y.head = y.tail then 32 - y.chip.length else 0
      let spill := ls.length - room
      let fits := y.enable = true ∧ y.tail - y.head + spill ≤ 2 ^ y.log2cap ∧ (y.wtoken = none ∨ spill = 0)
      (¬fits → ∃ t, exec (.tqpush d wa a wb b) s = .next t ∧ t = { u with w := t.w } ∧ t.w.rdS d.toNat = 0 ∧ s.w.WentOn t.w 0 ∧
        s.w.SameRegs t.w [] [d.toNat] []) ∧
      (fits → u.earlierDone u.w s.w.mem.seq = false ∨ u.plainRelease core 2 = none → exec (.tqpush d wa a wb b) s = .next u.waiting) ∧
      (fits → u.earlierDone u.w s.w.mem.seq = true → (u.plainRelease core 2).isSome = true →
        y.head ≤ y.tail → (∀ k ∈ u.l1Cores core, sortedKeys (u.core k).l1 = true) →
        ∃ v : State, exec (.tqpush d wa a wb b) s = .next ((v.tidyQueue q 64).onW fun w => (w.wrS d.toNat 1).advance) ∧ v.w = s.w ∧
          v.queue q = { y with
            chip := y.chip ++ recs.take room, tail := y.tail + spill
            unwritten := y.unwritten ++ (List.range spill).map fun i => (y.tail + i, (recs.drop room).getD i [])
            due := if y.launch = true ∧ y.due = none ∧ (ls ≠ [] ∨ y.chip ≠ [] ∨ y.head < y.tail)
              then some (s.pkg.coreClock + if y.timer = 0 then 1024 else 256 * y.timer) else y.due } ∧
          (∀ j, j ≠ q → v.queue j = u.queue j) ∧
          ∀ k ∈ u.l1Cores core, (∀ e ∈ (v.core k).summary, e.d = false) ∧ ∀ x ∈ (v.core k).l1,
            u.eager x.2.obj = true ∨ (∃ j ∈ u.l1Cores core, ∃ e ∈ (u.core j).summary, e.d = true ∧ e.obj = x.2.obj) → x.2.dirty = 0)) ∧
    (let x := s.queue q
     let room := 32 - x.chip.length
     ringIdle x →
      (x.enable = true → x.tail - x.head + (ls.length - room) ≤ 2 ^ x.log2cap →
        (s.earlierDone s.w s.w.mem.seq = false → exec (.tqpush d wa a wb b) s = .next s.waiting) ∧
        (s.earlierDone s.w s.w.mem.seq = true → (s.plainRelease core 2).isSome = true →
          (ls.length ≤ room ∨ ∀ w ∈ s.others, w.id.wid ≠ s.w.id.wid) →
          ∃ t y, exec (.tqpush d wa a wb b) s = .next t ∧ t.w.rdS d.toNat = 1 ∧ s.w.SameRegs t.w [] [d.toNat] [] ∧
            t.queue q = y ∧ (∀ j, j ≠ q → t.queue j = s.queue j) ∧
            y.chip = x.chip ++ recs.take room ∧ y.head = x.head ∧ y.tail = x.tail + (ls.length - room) ∧
            (∃ k, y.unwritten = (((List.range (ls.length - room)).map fun i => (x.tail + i, (recs.drop room).getD i []))).drop k) ∧
            (x.launch = false ∨ x.due ≠ none → y.due = x.due) ∧
            (x.launch = true → x.due = none → ls ≠ [] →
              y.due = some (s.pkg.coreClock + if x.timer = 0 then 1024 else 256 * x.timer)) ∧
            (x.head = x.tail → ls.length ≤ room →
              s.w.WentOn t.w 0 ∧ s.SameOutside t ∧ y = { x with chip := x.chip ++ recs, due := y.due }))) ∧
      (x.enable = false ∨ 2 ^ x.log2cap < x.tail - x.head + (ls.length - room) →
        ∃ t, exec (.tqpush d wa a wb b) s = .next t ∧ t.w.rdS d.toNat = 0 ∧ s.RegsOnly t 0 [] [d.toNat] [] 0))

/-- R105, R107, R203, R368; 13 R189: TQPOP gives the oldest records to the lowest lanes, in v0 to v7, and writes the mask of the
lanes served; with records it is an acquire at die scope, and freed entries refill from the ring. With NB, and of a queue that is
disabled or in LAUNCH mode, it returns at once, else it waits in the queue behind those that wait already; where its wave is to be
evicted it completes with an empty mask. That a queue in LAUNCH mode or a disabled one gives the records that it holds, and that
the timer of a LAUNCH queue stops with its last record, is the model's reading (log 77). -/
def Statements.TaskPops : Prop :=
  ∀ (s : State) (d : BitVec 6) (wb nb : Bool) (b : BitVec 6), s.plain = true →
    s.mayRun (useOf 2 [ssrc b.toNat 1 wb] [sdst d.toNat 1, vdst 0 8]) = true →
    let q := (s.w.rdS b.toNat).toNat % 64
    let ls := s.w.lanes
    let core := s.w.id.core
    let given := fun (y : TaskQueue) (w : Wave) =>
      let n := min ls.length y.chip.length
      w.rdS d.toNat = maskOf (ls.take n) ∧ s.w.SameRegs w [0, 1, 2, 3, 4, 5, 6, 7] [d.toNat] [] ∧
      (∀ (k l : Nat) (r : List Word), ls[k]? = some l → y.chip[k]? = some r → ∀ i < 8, w.lane i l = r.getD i 0) ∧
      ∀ l < 32, l ∉ ls.take n → ∀ i < 8, w.lane i l = s.w.lane i l
    let left := fun (y : TaskQueue) =>
      let gone := y.launch && decide (y.chip.length ≤ ls.length ∧ y.tail ≤ y.head)
      { y with chip := y.chip.drop ls.length, blocked := y.blocked.filter fun i => i != s.w.id.wid
               due := if gone then none else y.due, expired := if gone then false else y.expired }
    let serves := fun (u v : State) =>
      given (u.queue q) v.w ∧ v.w = { s.w with regs := v.w.regs } ∧ v.queue q = left (u.queue q) ∧ (∀ j, j ≠ q → v.queue j = u.queue j) ∧
        (ls ≠ [] → (u.queue q).chip ≠ [] → u.Acquired v core)
    (s.w.flow.hold = .pop q →
      ((s.queue q).enable = true → (s.queue q).launch = false → exec (.tqpop d nb wb b) s = .next s.waiting) ∧
      ((s.queue q).enable = false ∨ (s.queue q).launch = true →
        ∃ v : State, exec (.tqpop d nb wb b) s = .next (v.onW Wave.advance) ∧ serves s v)) ∧
    (s.w.flow.hold ≠ .pop q → ∀ u : State, u = (s.tidyQueue q 64).wakePops q 64 → u.w = s.w →
      let y := u.queue q
      let now := y.enable = false ∨ y.launch = true ∨ nb = true ∨ (y.chip ≠ [] ∧ y.blocked = [])
      (now → ∃ v : State, exec (.tqpop d nb wb b) s = .next ((v.tidyQueue q 64).onW Wave.advance) ∧ serves u v) ∧
      (¬now → u.promoting u.w = true → exec (.tqpop d nb wb b) s = .next (u.askPromotion u.w).waiting) ∧
      (¬now → u.promoting u.w = false → s.w.flow.stopReq = true →
        ∃ t, exec (.tqpop d nb wb b) s = .next t ∧ t = { u with w := t.w } ∧ t.w.rdS d.toNat = 0 ∧ s.w.SameRegs t.w [] [d.toNat] [] ∧
          t.w.flow = { s.w.advance.flow with hold := .popped }) ∧
      (¬now → u.promoting u.w = false → s.w.flow.stopReq = false →
        ∃ t, exec (.tqpop d nb wb b) s = .next t ∧ t.queue q = { y with blocked := y.blocked ++ [s.w.id.wid] } ∧
          (∀ j, j ≠ q → t.queue j = u.queue j) ∧
          t.w = { s.w with flow := { s.w.flow with hold := .pop q, stalled := true, piped := false } } ∧ u.SameOutside t ∧
          t.sched = u.sched ∧ t.pkg = u.pkg)) ∧
    (let x := s.queue q
     s.w.flow.hold ≠ .pop q → ringIdle x → x.blocked = [] →
      (x.head = x.tail → x.chip ≠ [] ∨ x.enable = false ∨ x.launch = true ∨ nb = true →
        ∃ t, exec (.tqpop d nb wb b) s = .next t ∧ given x t.w ∧ s.w.WentOn t.w 0 ∧ t.queue q = left x ∧
          (∀ j, j ≠ q → t.queue j = s.queue j) ∧ (ls ≠ [] → x.chip ≠ [] → s.Acquired t core) ∧ s.SameOutside t ∧ t.sched = s.sched ∧
          t.pkg = s.pkg) ∧
      (∀ bytes : Nat → Nat → Byte, x.head < x.tail → x.launch = false → x.rtoken = none → s.host.jobDead = false → s.tabs.halted = false →
        let k := min ls.length (x.tail - x.head)
        (∀ i < k, x.slotVa (x.head + i) % 32 = 0 ∧ ∀ j < 32, s.InL2 (x.slotVa (x.head + i) + j) (bytes i j)) →
          ∃ t, exec (.tqpop d nb wb b) s = .next t ∧ given x t.w ∧ s.w.WentOn t.w 0 ∧ (ls ≠ [] → s.Acquired t core) ∧
            t.queue q = { x with
              head := x.head + k
              chip := x.chip.drop ls.length ++ (List.range k).map fun i =>
                (List.range 8).map fun j => BitVec.ofNat 32 (bytesNat ((List.range 4).map fun z => bytes i (4 * j + z))) }) ∧
      (x.enable = true → x.launch = false → x.chip = [] → nb = false → s.promoting s.w = false → s.w.flow.stopReq = false →
        ∃ t, exec (.tqpop d nb wb b) s = .next t ∧ t.queue q = { x with blocked := [s.w.id.wid] } ∧
          (∀ j, j ≠ q → t.queue j = s.queue j) ∧
          t.w = { s.w with flow := { s.w.flow with hold := .pop q, stalled := true, piped := false } } ∧ s.SameOutside t ∧
          t.sched = s.sched ∧ t.pkg = s.pkg))

/-- TQPUSH and TQPOP, on a queue with work on its ring and on one without. That a queue in LAUNCH mode or a disabled one gives the
records that it holds is the model's reading (log 77). -/
def Obligations.TaskQueues : Prop := Statements.TaskPushes ∧ Statements.TaskPops

/-- R206, R207, R209, R214: LD, SLD and LDT whose lanes pass the checks of R153 and would take no poisoned data (05 R84) queue one
load of every active lane's bytes; the destination registers become empty and the wave goes on. -/
def Obligations.LoadsIssue : Prop :=
  ∀ (s : State) (m : MA 14) (d : BitVec 7) (e : BitVec 6) (wb : Bool) (b : BitVec 6) (off : BitVec 14) (scope : BitVec 2)
    (ord size : BitVec 3) (sx : Bool) (f : TA),
    let q := fun (kind : LoadKind) (scalar : Bool) (d n : Nat) (sx : Bool) (sc : Nat) (acq : Bool) (as : List LaneAcc) =>
      ({ s.w.mem with loads := s.w.mem.loads ++ [{ seq := s.w.mem.seq, kind := kind, scalar := scalar, dst := d, size := n, sx := sx
                                                   scope := sc, acq := acq, lanes := as, got := []
                                                   pc := s.w.flow.pc, objs := [], all := false, flags := false }] } : WaveMem)
    let kind : LoadKind := if ord = 0 then .weak else .strong
    let acq : Bool := ord.toNat == 2 || ord.toNat == 4
    let z : Nat → Nat := fun _ => 0
    (s.w.mem.region = none → (Instr.ld m d scope ord size sx).wellFormed = true → s.mayRun (useOf 3 (maSrcs m) [vdst d (wordsOf size)]) = true →
      s.Accessible true false (bytesOf size) (s.w.addrs m) → s.Readable false (bytesOf size) (s.w.addrs m) →
        ∃ t, exec (.ld m d scope ord size sx) s = .next t ∧ s.AccessIssued t true d.toNat (wordsOf size)
          (q kind false d.toNat (bytesOf size) sx scope.toNat acq ((s.w.addrs m).map (s.accessOf z z)))) ∧
    (s.w.mem.region = none → (Instr.sld e wb b off scope ord size).wellFormed = true →
      s.mayRun (useOf 3 [ssrc b.toNat 2 wb] [sdst e.toNat (wordsOf size)]) = true →
      let va := ((((s.w.rdS2 b.toNat).toNat : Int) + off.toInt) % 2 ^ 64).toNat
      s.Accessible true false (bytesOf size) [(0, va)] → s.Readable false (bytesOf size) [(0, va)] →
        ∃ t, exec (.sld e wb b off scope ord size) s = .next t ∧ s.AccessIssued t false e.toNat (wordsOf size)
          (q kind true e.toNat (bytesOf size) false scope.toNat acq [s.accessOf z z (0, va)])) ∧
    ((Instr.ldt f).wellFormed = true → s.mayRun (useOf 3 [bsrc f.q f.a 1 f.wa] [vdst f.d (wordsOf f.size)]) = true →
      (∀ x ∈ tileAddrs f s.w, x.2 % bytesOf f.size = 0 ∧ x.2 + bytesOf f.size ≤ s.tmem s.w) →
        ∃ t, exec (.ldt f) s = .next t ∧ s.AccessIssued t true f.d.toNat (wordsOf f.size)
          (q .tile false f.d.toNat (bytesOf f.size) false 0 false ((tileAddrs f s.w).map (tileAccess z))))

/-- R206, R208, R214: ST and STT that pass their checks queue a store of every active lane's data at its address: a weak or
tile store in the store queue, a strong one for the write buffers. No byte of memory changes yet. -/
def Statements.StoresIssue : Prop :=
  ∀ (s : State) (m : MA 14) (wv : Bool) (v : BitVec 7) (scope : BitVec 2) (ord size : BitVec 3) (f : TA),
    let n := bytesOf size
    (s.w.mem.region = none → (Instr.st m wv v scope ord size).wellFormed = true → s.mayRun (stUse m wv v size) = true →
      s.Accessible false true n (s.w.addrs m) →
      let as := (s.w.addrs m).map (s.accessOf (s.w.dataOf v.toNat n) fun _ => 0)
      (ord = 0 → ∃ t, exec (.st m wv v scope ord size) s = .next t ∧ s.AccessIssued t true 0 0
        { s.w.mem with sq := s.w.mem.sq ++ [{ seq := s.w.mem.seq, tile := false, size := n, lanes := as }] }) ∧
      (ord ≠ 0 → ∃ t, exec (.st m wv v scope ord size) s = .next t ∧ s.AccessIssued t true 0 0
        { s.w.mem with strong := s.w.mem.strong ++ as.map fun a =>
            { id := 0, pc := s.w.flow.pc, wid := s.w.id.wid, seq := s.w.mem.seq, lane := a.lane, va := a.va, pa := a.pa, fields := a.fields, size := n
              aop := none, data := a.data, cmp := 0, scope := scope.toNat, rel := ord.toNat == 3 || ord.toNat == 4
              returns := false, relEnt := none } })) ∧
    ((Instr.stt f).wellFormed = true → s.mayRun (sttUse f) = true →
      (∀ x ∈ tileAddrs f s.w, x.2 % bytesOf f.size = 0 ∧ x.2 + bytesOf f.size ≤ s.tmem s.w) →
      let wait := (tileAddrs f s.w).filter fun x => match s.blkOf s.w with
        | some b => b.pending x.2 (bytesOf f.size)
        | none => false
      (wait = [] → ∃ t, exec (.stt f) s = .next t ∧ s.AccessIssued t true 0 0
        { s.w.mem with sq := s.w.mem.sq ++ [{ seq := s.w.mem.seq, tile := true, size := bytesOf f.size
                                              lanes := (tileAddrs f s.w).map (tileAccess (s.w.dataOf f.d.toNat (bytesOf f.size))) }] }) ∧
      (∀ x xs, wait = x :: xs → exec (.stt f) s =
        .next (s.takeTrap cTMEM_PENDING_STORE x.2 (if f.q then s.w.flow.mask else maskOf (wait.map (·.1))))))

/-- R210 to R213, R133: ATOM, ATOMC and RED that pass their checks queue one atomic for each active lane, in lane order, at
the scope of the instruction, a weak one at .die; the destination of ATOM and ATOMC becomes empty. -/
def Statements.AtomicsIssue : Prop :=
  ∀ (s : State) (m : MA 10) (d : BitVec 7) (aop : BitVec 4) (wv : Bool) (v : BitVec 7) (scope : BitVec 2) (ord size : BitVec 3),
    s.w.mem.region = none → s.Accessible true true (bytesOf size) (s.w.addrs m) → s.Readable true (bytesOf size) (s.w.addrs m) →
    let n := bytesOf size
    let sc := if ord = 0 then 2 else scope.toNat
    let ents := fun (op : Nat) (cmp : Nat → Nat) (back : Bool) =>
      ((s.w.addrs m).map (s.accessOf (s.w.dataOf v.toNat n) cmp)).map fun a =>
        ({ id := 0, pc := s.w.flow.pc, wid := s.w.id.wid, seq := s.w.mem.seq, lane := a.lane, va := a.va, pa := a.pa, fields := a.fields, size := n
           aop := some op, data := a.data, cmp := a.cmp, scope := sc, rel := ord.toNat == 3 || ord.toNat == 4, returns := back
           relEnt := none } : WbEnt)
    let mem := fun (op : Nat) (cmp : Nat → Nat) =>
      ({ s.w.mem with strong := s.w.mem.strong ++ ents op cmp true
                      loads := s.w.mem.loads ++ [{ seq := s.w.mem.seq, kind := .atomic, scalar := false, dst := d.toNat, size := n
                                                   sx := false, scope := sc, acq := ord.toNat == 2 || ord.toNat == 4
                                                   lanes := (s.w.addrs m).map (s.accessOf (s.w.dataOf v.toNat n) cmp), got := []
                                                   pc := s.w.flow.pc, objs := [], all := false, flags := decide (9 ≤ op) }] } : WaveMem)
    ((Instr.atom m d aop wv v scope ord size).wellFormed = true → s.mayRun (atomUse m d wv v size) = true →
      ∃ t, exec (.atom m d aop wv v scope ord size) s = .next t ∧ s.AccessIssued t true d.toNat (wordsOf size) (mem aop.toNat fun _ => 0)) ∧
    ((Instr.atomc m d wv v scope ord size).wellFormed = true → s.mayRun (atomUse m d wv v size) = true →
      ∃ t, exec (.atomc m d wv v scope ord size) s = .next t ∧ s.AccessIssued t true d.toNat (wordsOf size) (mem 16 (s.w.dataOf d.toNat n))) ∧
    ((Instr.red m aop wv v scope ord size).wellFormed = true → s.mayRun (redUse m wv v size) = true →
      ∃ t, exec (.red m aop wv v scope ord size) s = .next t ∧ s.AccessIssued t true 0 0
        { s.w.mem with strong := s.w.mem.strong ++ ents aop.toNat (fun _ => 0) false })

/-- R153, R120, R209, R332: an LD, ST or SLD with an address that is not a multiple of its size traps ALIGN, and an LDT with
one beyond the tile memory traps PROTECTION, with the lanes that fail and the address of the lowest; an LD that misses the
TLBs parks the wave on the pages, each once. -/
def Obligations.AccessTraps : Prop :=
  ∀ (s : State) (m : MA 14) (d v : BitVec 7) (wv : Bool) (e : BitVec 6) (wb : Bool) (b : BitVec 6) (off : BitVec 14) (scope : BitVec 2)
    (ord size : BitVec 3) (sx : Bool) (f : TA),
    let odd := (s.w.addrs m).filter fun x => x.2 % bytesOf size != 0
    let pages := (((s.w.addrs m).filter fun x => decide (x.2 < 2 ^ 48)).map fun x => x.2 / 65536).eraseDups.filter fun p =>
      !s.owes s.w (.page p) && (s.tlbHit s.w.id.core p).isNone && !s.w.mem.walked.contains p
    (s.mayRun (ldUse m d size) = true →
      (odd ≠ [] → exec (.ld m d scope ord size sx) s = .next (s.takeTrap cALIGN (odd.headD (0, 0)).2 (maskOf (odd.map (·.1))))) ∧
      (odd = [] → pages ≠ [] → ∃ t, exec (.ld m d scope ord size sx) s = .next t ∧ t = { s with w := t.w } ∧
        t.w.flow = { s.w.flow with hold := .walk pages, stalled := false } ∧ t.w.regs = s.w.regs ∧ t.w.mem = s.w.mem)) ∧
    (s.mayRun (stUse m wv v size) = true → odd ≠ [] →
      exec (.st m wv v scope ord size) s = .next (s.takeTrap cALIGN (odd.headD (0, 0)).2 (maskOf (odd.map (·.1))))) ∧
    (s.mayRun (sldUse e wb b size) = true →
      let va := ((((s.w.rdS2 b.toNat).toNat : Int) + off.toInt) % 2 ^ 64).toNat
      va % bytesOf size ≠ 0 → exec (.sld e wb b off scope ord size) s = .next (s.takeTrap cALIGN va s.w.flow.mask)) ∧
    (s.mayRun (ldtUse f) = true → (∀ x ∈ tileAddrs f s.w, x.2 % bytesOf f.size = 0) →
      let out := (tileAddrs f s.w).filter fun x => decide (s.tmem s.w < x.2 + bytesOf f.size)
      out ≠ [] → exec (.ldt f) s =
        .next (s.takeTrap cPROTECTION (out.headD (0, 0)).2 (if f.q then s.w.flow.mask else maskOf (out.map (·.1)))))

/-- R142, R143, R215: a FENCE waits for what it orders: with a release for every earlier access of the wave, with an acquire for
its loads. At .core, and in a region, it then goes on; beyond, a release leaves no dirty byte in the core's L1 and no D bit, and
an acquire no clean byte and WIDE set. The SC fence makes both first and waits; at a later heartbeat tick than that of its first
parts it makes them again (the model's reading, for what the core's other waves have stored and filled meanwhile) and goes on. -/
def Statements.Fences : Prop :=
  ∀ (s : State) (kind : BitVec 3) (scope : BitVec 2), (Instr.fence kind scope).wellFormed = true →
    s.mayRun (useOf 3 [] []) = true → (∀ k ∈ s.l1Cores s.w.id.core, sortedKeys (s.core k).l1 = true) →
    let rel : Bool := kind.toNat != 2
    let acq : Bool := kind.toNat != 1
    let near : Prop := scope = 0 ∨ s.w.mem.region ≠ none
    let able : Prop := rel = true → (s.releaseAll s.w.id.core).isSome = true
    let owed : Prop := (rel = true ∧ s.earlierDone s.w s.w.mem.seq = false) ∨ (acq = true ∧ s.w.mem.loads ≠ [])
    ((∀ tick, s.w.flow.hold ≠ .sc tick) →
      (owed → exec (.fence kind scope) s = .next s.waiting) ∧
      (¬owed → kind.toNat ≠ 4 → near → ∃ t, exec (.fence kind scope) s = .next t ∧ s.PassedOn t) ∧
      (¬owed → kind.toNat ≠ 4 → ¬near → able →
        ∃ t, exec (.fence kind scope) s = .next t ∧ s.w.Moved t.w s.w.advance.flow s.w.mem ∧ s.SameOutside t ∧ t.sched = s.sched ∧
          s.Fenced t rel acq) ∧
      (¬owed → kind.toNat = 4 → near ∨ able →
        ∃ t, exec (.fence kind scope) s = .next t ∧ s.SameOutside t ∧ t.sched = s.sched ∧ (¬near → s.Fenced t true true) ∧
          t.w = { s.w with flow := { s.w.flow with hold := .sc s.heartbeat.toNat, stalled := true, piped := false } })) ∧
    (∀ tick, kind.toNat = 4 → s.w.flow.hold = .sc tick →
      (s.heartbeat.toNat = tick → exec (.fence kind scope) s = .next s.waiting) ∧
      (s.heartbeat.toNat ≠ tick → near → ∃ t, exec (.fence kind scope) s = .next t ∧ s.PassedOn t) ∧
      (s.heartbeat.toNat ≠ tick → ¬near → able →
        ∃ t, exec (.fence kind scope) s = .next t ∧ s.w.Moved t.w s.w.advance.flow s.w.mem ∧ s.SameOutside t ∧ t.sched = s.sched ∧
          s.Fenced t true true))

/-- R216: CCTL on accessible lanes, with no store of the wave queued, where no line of another region keeps its write-backs (23
R325): COP 0 leaves no dirty byte in the L1 lines named, COP 1 no clean byte, COP 2 no such line; a prefetch (COP 3 and 4)
changes no register. -/
def Statements.CacheControl : Prop :=
  ∀ (s : State) (m : MA 14) (cop : BitVec 3), (Instr.cctl m cop).wellFormed = true → s.mayRun (useOf 3 (maSrcs m) []) = true →
    s.w.mem.region = none → s.Accessible true false 1 (s.w.addrs m) → s.w.mem.sq = [] →
    let c := s.w.id.core
    let as := (s.w.addrs m).map (s.accessOf (fun _ => 0) fun _ => 0)
    (cop.toNat ≤ 2 → (as.foldlM (fun (t : State) a => t.cctlLine cop.toNat a) s).isSome = true) →
      ∃ t, exec (.cctl m cop) s = .next t ∧ s.w.Moved t.w s.w.advance.flow s.w.mem ∧ t.sched = s.sched ∧ t.host = s.host ∧
        ∀ a ∈ as, ∀ l, t.l1? c a.pa = some l →
          (cop.toNat = 0 → l.dirty = 0) ∧ (cop.toNat = 1 → l.valid = l.dirty ∧ l.dirty ≠ 0) ∧ cop.toNat ≠ 2

/-- R219, R121: TMTAG reads the tag of each active lane's tile line and, with SET, gives the lines the tag. A lane reads what
an earlier lane has set. -/
def Obligations.TileTags : Prop :=
  ∀ (s : State) (q : Bool) (d : BitVec 7) (wa : Bool) (a : BitVec 7) (set : Bool) (tag : BitVec 2) (k : Nat) (b : Block),
    s.mayRun (useOf 3 [bsrc q a 1 wa] [vdst d 1]) = true → s.w.mem.region = none → s.w.id.blk = some k → s.blk? k = some b →
    let off := fun l => (s.w.opB q a l).toNat
    (∀ l ∈ s.w.lanes, off l < b.tmem) →
      ∃ t b', exec (.tmtag q d wa a set tag) s = .next t ∧ s.w.WentOn t.w 0 ∧ s.w.SameRegs t.w [d.toNat] [] [] ∧
        t.blk? k = some b' ∧ (∀ j, j ≠ k → t.blk? j = s.blk? j) ∧ b' = { b with tags := b'.tags } ∧
        t.others = s.others ∧ t.cores = s.cores ∧ t.die = s.die ∧ t.pkg = s.pkg ∧
        (∀ l ∈ s.w.lanes, t.w.lane d.toNat l = BitVec.ofNat 32
          (if set = true ∧ ∃ j ∈ s.w.lanes, j < l ∧ off j / 128 = off l / 128 then tag.toNat else b.tag (off l / 128))) ∧
        ∀ line, b'.tag line = if set = true ∧ ∃ l ∈ s.w.lanes, off l / 128 = line then tag.toNat else b.tag line

/-- R310, R313, R318 to R321, R326 to R328: RBEGIN takes the lowest free entry and writes 0; RCOMMIT waits for the region's
predecessors and the wave's accesses, then commits: the bytes written reach the L2, the L1s lose their bytes of those lines, and the
entry is free; RABORT goes to the abort label with the registers it saved, the code in its scalar, and every region that the
aborted one reaches aborts with it. The label is taken modulo 2^49, the model's reading (log 24); which free entry RBEGIN takes is
the model's choice (log 32). -/
def Statements.Regions : Prop :=
  ∀ (s : State) (d : BitVec 6) (aoff : BitVec 16) (code : BitVec 7),
    (∀ r, s.mayRun (useOf 3 [] [sdst d.toNat 1]) = true → s.plain = true → s.w.flow.mask = s.w.flow.alive → s.w.flow.hold = .run →
      (s.fenceDone true true 2).isSome = true → s.die.rwait = [] → s.freeRegionId = some r →
        ∃ t, exec (.rbegin d aoff) s = .next t ∧ t.w.rdS d.toNat = 0 ∧ s.w.SameRegs t.w [] [d.toNat] [] ∧
          t.w.flow = s.w.advance.flow ∧ t.w.mem = s.w.memDone { s.w.mem with region := some r } ∧ s.SameOutside t ∧
          t.region? r = some { wid := s.w.id.wid, seqNo := s.die.regSeq, label := s.w.targetVa aoff, sd := d.toNat, mask0 := s.w.flow.mask
                               rpc0 := s.w.flow.rpc, depth0 := s.w.flow.stack.length, reads := [], versions := [], preds := [], pend := []
                               waiting := false } ∧
          (∀ j, j ≠ r → t.region? j = s.region? j) ∧ t.die.regSeq = s.die.regSeq + 1) ∧
    (s.mayRun (useOf 3 [] []) = true →
      (s.regionOf s.w = none → (∃ t, exec .rcommit s = .next t ∧ s.PassedOn t) ∧ ∃ t, exec (.rabort code) s = .next t ∧ s.PassedOn t) ∧
      (∀ r x, s.regionOf s.w = some (r, x) →
        (s.w.flow.mask = s.w.flow.alive → s.w.flow.stack.length = x.depth0 → s.commitReady s.w x = true → (s.commitRegion s.w r x).isSome = true →
          ∃ t, exec .rcommit s = .next t ∧ s.w.Moved t.w s.w.advance.flow { s.w.mem with region := none } ∧ t.region? r = none ∧
            t.others = s.others ∧ t.host = s.host ∧ (sortedKeys s.die.regions = true → s.Cut t fun z => z = r) ∧
            ((x.versions.map (·.line)).Nodup → x.versions ≠ [] → t.CommitsTo x)) ∧
        (s.w.flow.mask = s.w.flow.alive → s.w.flow.stack.length = x.depth0 →
          x.preds ≠ [] ∨ s.earlierDone s.w s.w.mem.seq = false ∨ s.commitRegion s.w r x = none →
          exec .rcommit s = .next (s.waiting.onW fun v => { v with flow := { v.flow with hold := .rcommit } })) ∧
        (s.RegionsSane → x.wid = s.w.id.wid → ∃ t, exec (.rabort code) s = .next t ∧ s.Aborts t r (2 ^ 31 + code.toNat * 2 ^ 16 + 4)) ∧
        (s.edges = [] → x.wid = s.w.id.wid → x.mask0 &&& s.w.flow.alive ≠ 0 → (∀ e ∈ s.w.mem.loads, e.kind ≠ .region) → x.sd < 64 →
          ∃ t, exec (.rabort code) s = .next t ∧ t.region? r = none ∧ t.w.mem.region = none ∧
            t.w.flow.pc = headerPos x.label.toNat ∧ t.w.flow.mask = x.mask0 &&& s.w.flow.alive ∧ t.w.flow.rpc = x.rpc0 ∧
            t.w.flow.stack = s.w.flow.stack.take x.depth0 ∧ t.w.flow.clause = none ∧
            t.w.rdS x.sd = BitVec.ofNat 32 (2 ^ 31 + code.toNat * 2 ^ 16 + 4) ∧ t.w.regs.sfull.getLsbD x.sd = true ∧
            s.w.SameRegs { t.w with regs := { t.w.regs with sfull := s.w.regs.sfull } } [] [x.sd] [] ∧ t.others = s.others)))

/-- R217, R308, Table 21.7: OBIND and ORECIPE read their record and answer its first failing check, or make the binding: the lowest
free id, or the recipe of the record's object. -/
def Statements.Bindings : Prop :=
  ∀ (s : State) (d : BitVec 6) (wb : Bool) (b : BitVec 6) (off : BitVec 32) (u : State) (r : Nat),
    s.mayRun (useOf 3 [ssrc b.toNat 2 wb] [sdst d.toNat 1]) = true → s.plain = true →
    s.ReadsRecord (((((s.w.rdS2 b.toNat).toNat : Int) + off.toInt) % 2 ^ 64).toNat) u r →
    let taken := u.die.objects.any fun e => shapesMeet r e.2.shape
    (shapeOk r = false → ∃ t, exec (.obind d wb b off) s = .next t ∧ s.Answered t d 0x80000001 ∧ t.die.objects = u.die.objects) ∧
    (shapeOk r = true → taken = true →
      ∃ t, exec (.obind d wb b off) s = .next t ∧ s.Answered t d 0x80000002 ∧ t.die.objects = u.die.objects) ∧
    (shapeOk r = true → taken = false → u.freeId = none →
      ∃ t, exec (.obind d wb b off) s = .next t ∧ s.Answered t d 0x80000003 ∧ t.die.objects = u.die.objects) ∧
    (∀ id, shapeOk r = true → taken = false → u.freeId = some id →
      (u.allWriteBack (fun l => inShape r (l.va / 256)) fun _ => false).isSome = true →
      ∃ t, exec (.obind d wb b off) s = .next t ∧ s.Answered t d (BitVec.ofNat 32 id) ∧
        t.obj? id = some { shape := r, prio := shPrio r, isSealed := false, recipe := none, tiles := [] } ∧
        (∀ j, j ≠ id → t.bound? j = u.bound? j)) ∧
    (u.recipeStatus r ≠ 0 → ∃ t, exec (.orecipe d wb b off) s = .next t ∧ s.Answered t d (BitVec.ofNat 32 (u.recipeStatus r)) ∧
      t.die.objects = u.die.objects) ∧
    (let fld := fun (a n : Nat) => r / 2 ^ a % 2 ^ n
     let src := fun (i : Nat) => fld (256 + 64 * i) 64
     let refused := fun (code : Word) => ∃ t, exec (.orecipe d wb b off) s = .next t ∧ s.Answered t d code ∧ t.die.objects = u.die.objects
     let good := fld 211 45 = 0 ∧ fld 207 1 = 0 ∧ 1 ≤ fld 204 3 ∧ fld 204 3 ≤ 4 ∧ fld 208 3 ≤ 4 ∧ fld 0 64 < 2 ^ 49 ∧ fld 0 64 % 4 = 0 ∧
       ∀ i < 4, (i < fld 208 3 → src i / 2 ^ 52 = 0 ∧ src i % 2 ^ 12 ≠ 0) ∧ (fld 208 3 ≤ i → src i = 0)
     (¬good → refused 0x80000001) ∧
     (good → u.obj? (fld 192 12) = none → refused 0x80000002) ∧
     ∀ o, good → u.obj? (fld 192 12) = some o →
       let busy := o.isSealed = true ∧ ((∃ e ∈ u.die.recipeQ, e.tile.obj = fld 192 12) ∨ ∃ e ∈ o.tiles, e.2.st = .forming ∨ e.2.st = .dropped ∨
         u.guarded { obj := fld 192 12, tile := e.1 } = true)
       let few := u.tabs.bootcfg.toNat % 8 * 128 < fld 204 3
       let full := o.recipe = none ∧
         1048576 < ((u.die.objects.filter fun e => e.2.recipe.isSome).map fun e => shTiles e.2.shape).sum + shTiles o.shape
       (shDroppable o.shape = false → refused 0x80000002) ∧
       (shDroppable o.shape = true → busy → refused 0x80000003) ∧
       (shDroppable o.shape = true → ¬busy → recipeShapeOk o.shape = false → refused 0x80000004) ∧
       (shDroppable o.shape = true → ¬busy → recipeShapeOk o.shape = true → few → refused 0x80000005) ∧
       (shDroppable o.shape = true → ¬busy → recipeShapeOk o.shape = true → ¬few → full → refused 0x80000006) ∧
       (shDroppable o.shape = true → ¬busy → recipeShapeOk o.shape = true → ¬few → ¬full → u.recipeStatus r = 0)) ∧
    (∀ o, u.recipeStatus r = 0 → u.obj? (rcOut r) = some o →
      ∃ t, exec (.orecipe d wb b off) s = .next t ∧ s.Answered t d 0 ∧ t.obj? (rcOut r) = some { o with recipe := some r } ∧
        ∀ j, j ≠ rcOut r → t.obj? j = u.obj? j)

/-- R131, R218, R307; 21 R294: OUNBIND, OPRIO, OEVICT and OSEAL answer 1 for an id that is free; else they unbind, set the
priority, demote or evict, seal or open, and answer 0. OSEAL answers 2 for an object that is not droppable, 3 where it is sealed
or open already, and 4 where it would seal one with no recipe. Unbinding and sealing leave none of the object's L1 lines dirty and no D
bit of it; evicting leaves no line of it in an L1 or the L2 but of tiles that may not be dropped. -/
def Statements.ObjectControl : Prop :=
  ∀ (s : State) (d : BitVec 6) (wb : Bool) (b : BitVec 6) (p : BitVec 3) (dem : Bool) (op : BitVec 2),
    s.mayRun (useOf 3 [ssrc b.toNat 1 wb] [sdst d.toNat 1]) = true → s.plain = true →
    let id := (s.w.rdS b.toNat).toNat % 4096
    (s.obj? id = none → ∀ i ∈ [Instr.ounbind d wb b, .oprio d p wb b, .oevict d dem wb b, .oseal d op wb b],
      ∃ t, exec i s = .next t ∧ s.RegsOnly t 0 [] [d.toNat] [] 0 ∧ t.w.rdS d.toNat = 1) ∧
    (∀ o, s.obj? id = some o →
      let backs : Prop := (s.allWriteBack (fun l => l.obj == id) fun x => x == id).isSome = true
      let written := fun (t : State) =>
        (∀ k line l l', look? (s.core k).l1 line = some l → l.obj = id → look? (t.core k).l1 line = some l' → l'.dirty = 0) ∧
        ∀ k, ∀ e ∈ (t.core k).summary, e.obj = id → e.d = false
      (∃ t, exec (.oprio d p wb b) s = .next t ∧ s.Answered t d 0 ∧ t.obj? id = some { o with prio := p.toNat } ∧
        (∀ j, j ≠ id → t.obj? j = s.obj? j) ∧ t.cores = s.cores ∧ t.pkg = s.pkg ∧ t.tabs = s.tabs) ∧
      (∃ t, exec (.oevict d true wb b) s = .next t ∧ s.Answered t d 0 ∧ t.obj? id = some { o with prio := 0 } ∧
        (∀ j, j ≠ id → t.obj? j = s.obj? j) ∧ t.cores = s.cores ∧ t.pkg = s.pkg ∧ t.tabs = s.tabs) ∧
      ((shDroppable o.shape = true → s.rebuilding id o = false) → backs → (∀ k, sortedKeys (s.core k).l1 = true) →
        ∃ t, exec (.ounbind d wb b) s = .next t ∧ s.Answered t d 0 ∧ t.obj? id = none ∧ written t ∧
          ∀ j, j ≠ id → t.bound? j = s.bound? j) ∧
      (shDroppable o.shape = true → s.rebuilding id o = true →
        ∃ t, exec (.ounbind d wb b) s = .next t ∧ s.RegsOnly t 0 [] [d.toNat] [] 0 ∧ t.w.rdS d.toNat = 2) ∧
      (s.w.flow.hold = .run → (s.evictObj id o).isSome = true → (∀ k, sortedKeys (s.core k).l1 = true) → sortedKeys s.die.l2 = true →
        (∀ k, ∀ x ∈ (s.core k).l1, x.2.obj = s.objOf x.2.va) →
          ∃ t, exec (.oevict d false wb b) s = .next t ∧ s.Answered t d 0 ∧
            (∀ k, ∀ x ∈ (t.core k).l1, x.2.obj = id → t.keptLine x.2.va = true) ∧
            ∀ x ∈ t.die.l2, t.objOf x.2.va = id → t.keptLine x.2.va = true) ∧
      (shDroppable o.shape = true → o.isSealed = false → o.recipe.isSome = true → s.storeCount s.w = 0 →
        s.unperformed (fun va => s.objOf va == id) = false → backs → (∀ k, sortedKeys (s.core k).l1 = true) →
          ∃ t, exec (.oseal d 0 wb b) s = .next t ∧ s.Answered t d 0 ∧ t.obj? id = some { o with isSealed := true, tiles := [] } ∧
            written t ∧ ∀ j, j ≠ id → t.bound? j = s.bound? j) ∧
      (let answers := fun (op : BitVec 2) (x : Word) =>
         ∃ t, exec (.oseal d op wb b) s = .next t ∧ s.RegsOnly t 0 [] [d.toNat] [] 0 ∧ t.w.rdS d.toNat = x
       (shDroppable o.shape = false → answers 0 2 ∧ answers 1 2) ∧
       (shDroppable o.shape = true → o.isSealed = true → answers 0 3) ∧
       (shDroppable o.shape = true → o.isSealed = false → answers 1 3 ∧ (o.recipe = none → answers 0 4))) ∧
      (shDroppable o.shape = true → o.isSealed = true → s.tilesBusy id o = false →
        ∃ t, exec (.oseal d 1 wb b) s = .next t ∧ s.Answered t d 0 ∧ t.obj? id = some { o with isSealed := false, tiles := [] } ∧
          ∀ j, j ≠ id → t.obj? j = s.obj? j))

/-- R312, R314, R315: the access of the one active lane of a wave whose region is the only one: a load takes the bytes of the
region's version of the line, else of the L2, and the line joins the read set; a store goes to a version and to no memory.
That lines are told apart by physical address is the model's reading (log 21). -/
def Statements.LoneRegionAccesses : Prop :=
  ∀ (s : State) (m : MA 14) (d v : BitVec 7) (wv : Bool) (scope : BitVec 2) (ord size : BitVec 3) (sx : Bool) (r l : Nat) (x : Region),
    s.w.mem.region = some r → s.die.regions = [(r, x)] → x.preds = [] → x.reads = [] → s.w.lanes = [l] →
    let n := bytesOf size
    let va := ea m s.w l
    let a := s.accessOf (s.w.dataOf v.toNat n) (fun _ => 0) (l, va)
    let line := a.pa / 64
    s.l1? s.w.id.core a.pa = none → s.l2? (a.pa / 256) ≠ none → s.l2Poison a.pa = false → s.setSize (a.pa / 256) ≤ 16 →
    (∀ y, x.versions = [y] → y.line = line ∧ y.data.length = 64) → x.versions.length ≤ 1 →
    ((Instr.ld m d scope ord size sx).wellFormed = true → s.mayRun (useOf 3 (maSrcs m) [vdst d (wordsOf size)]) = true →
      s.Accessible true false n [(l, va)] →
        let val := match x.versions with
          | y :: _ => bytesNat ((y.data.drop (a.pa % 64)).take n)
          | [] => bytesNat (s.l2Bytes a.pa n)
        ∃ t, exec (.ld m d scope ord size sx) s = .next t ∧ t.w.flow = s.w.advance.flow ∧
          t.w.mem.loads = s.w.mem.loads ++ [{ seq := s.w.mem.seq, kind := .region, scalar := false, dst := d.toNat, size := n, sx := sx
                                              scope := scope.toNat, acq := false
                                              lanes := [{ a with data := 0 }], got := [(l, val)], pc := s.w.flow.pc, objs := []
                                              all := false, flags := false }] ∧
          (∀ k < wordsOf size, t.w.regs.vfull.getLsbD (d.toNat + k) = false) ∧
          t.region? r = some { x with pend := [], waiting := false, reads := if x.versions = [] then [line] else [] }) ∧
    ((Instr.st m wv v scope ord size).wellFormed = true → s.mayRun (stUse m wv v size) = true → s.Accessible false true n [(l, va)] →
      ∃ t y, exec (.st m wv v scope ord size) s = .next t ∧ s.w.Moved t.w s.w.advance.flow s.w.mem ∧
        t.region? r = some { x with pend := [], waiting := false, versions := [y] } ∧ y.line = line ∧
        (∀ k < 64, y.data[k]? = some (if a.pa % 64 ≤ k ∧ k < a.pa % 64 + n then BitVec.ofNat 8 (a.data / 2 ^ (8 * (k - a.pa % 64)))
          else match x.versions with
            | z :: _ => z.data.getD k 0
            | [] => (s.l2Bytes (64 * line) 64).getD k 0)) ∧
        t.pkg = s.pkg ∧ ∀ i, (t.l2? i).map (·.data) = (s.l2? i).map (·.data))

/-- R311 to R315, R317: an access of any lanes of a region among others, which nothing keeps from being performed. A load takes each
lane's bytes from the region's own version, from the newest version of a region that is not ordered after it, or from the L2; its
lines without an own version join the read set, and each writer whose version it takes precedes it. A store merges the lanes in
ascending order into the version of each line, made of the bytes that a read would return; every other region that has read the
line or holds a version of it precedes it. -/
def Statements.SharedRegionAccesses : Prop :=
  ∀ (s : State) (m : MA 14) (d v : BitVec 7) (wv : Bool) (scope : BitVec 2) (ord size : BitVec 3) (sx : Bool) (r : Nat) (x : Region),
    s.w.mem.region = some r → s.region? r = some x → s.RegionsSane →
    let n := bytesOf size
    let as := (s.w.addrs m).map (s.accessOf (s.w.dataOf v.toNat n) fun _ => 0)
    let kept := fun (t : State) (x' : Region) (rd wr : Bool) =>
      t.region? r = some x' ∧ x' = { x with reads := x'.reads, versions := x'.versions, preds := x'.preds, pend := [], waiting := false } ∧
      (∀ u, u ∈ x'.preds ↔ u ∈ x.preds ∨ s.NewEdge r x rd wr as u) ∧ (∀ j, j ≠ r → t.region? j = s.region? j) ∧
      t.pkg = s.pkg ∧ (∀ i, (t.l2? i).map (·.data) = (s.l2? i).map (·.data)) ∧ t.others = s.others
    ((Instr.ld m d scope ord size sx).wellFormed = true → s.mayRun (useOf 3 (maSrcs m) [vdst d (wordsOf size)]) = true →
      s.Accessible true false n (s.w.addrs m) → s.Performs r x true false as →
        ∃ t x' e, exec (.ld m d scope ord size sx) s = .next t ∧ kept t x' true false ∧ x'.versions = x.versions ∧
          (∀ line, line ∈ x'.reads ↔ line ∈ x.reads ∨ (x.version? line = none ∧ ∃ a ∈ as, a.pa / 64 = line)) ∧
          t.w.flow = s.w.advance.flow ∧ t.w.mem.loads = s.w.mem.loads ++ [e] ∧ e.kind = .region ∧ e.dst = d.toNat ∧ e.size = n ∧ e.sx = sx ∧
          e.lanes.map (·.lane) = s.w.lanes ∧
          ∀ a ∈ as, ∃ bs, s.LineFor r x (a.pa / 64) bs ∧ look? e.got a.lane = some (bytesNat ((bs.drop (a.pa % 64)).take n))) ∧
    ((Instr.st m wv v scope ord size).wellFormed = true → s.mayRun (stUse m wv v size) = true → s.Accessible false true n (s.w.addrs m) →
      s.Performs r x false true as →
        ∃ t x', exec (.st m wv v scope ord size) s = .next t ∧ kept t x' false true ∧ x'.reads = x.reads ∧
          s.w.Moved t.w s.w.advance.flow s.w.mem ∧
          (∀ y, (∀ a ∈ as, a.pa / 64 ≠ y.line) → (y ∈ x'.versions ↔ y ∈ x.versions)) ∧
          ∀ a ∈ as, ∃ y bs, x'.version? (a.pa / 64) = some y ∧ s.LineFor r x (a.pa / 64) bs ∧ ∀ k < 64,
            let pa := a.pa / 64 * 64 + k
            ((∀ b ∈ as, ¬inAccess n b pa) → y.data[k]? = bs[k]? ∧
              y.mask.getLsbD k = (match x.version? (a.pa / 64) with | some z => z.mask.getLsbD k | none => false)) ∧
            ∀ pre b post, as = pre ++ b :: post → inAccess n b pa → (∀ c ∈ post, ¬inAccess n c pa) →
              y.data[k]? = some (BitVec.ofNat 8 (b.data / 2 ^ (8 * (pa - b.pa)))) ∧ y.mask.getLsbD k = true)

/-- R312, R315 to R317, R319 to R321, R325: what becomes of an access that is not performed at once, in the order of the tests. An
edge that closes a cycle, counted with those of other stalled accesses, aborts the younger region: the accessing one with the lowest
such region in its status, else each of the others, whereupon the access is evaluated again. Past a bound, or while a region keeps
the write-back that it needs, the access stalls with its edges noted; past the capacity its region aborts. That edges of a
write-back count as the access's own in the cycle test, and lines by physical address, is the model's reading (log 21, 74). -/
def Statements.RegionTests : Prop :=
  ∀ (s : State) (m : MA 14) (m' : MA 10) (d v : BitVec 7) (wv : Bool) (aop : BitVec 4) (scope : BitVec 2) (ord size : BitVec 3) (sx : Bool)
    (r : Nat) (x : Region),
    s.w.mem.region = some r → s.region? r = some x → x.wid = s.w.id.wid → s.RegionsSane →
    let n := bytesOf size
    let ds := [vdst d (wordsOf size)]
    let forms : List (Instr × Use × Bool × Bool × List (Nat × Nat)) :=
      [(.ld m d scope ord size sx, useOf 3 (maSrcs m) ds, true, false, s.w.addrs m), (.st m wv v scope ord size, stUse m wv v size, false, true, s.w.addrs m),
       (.atom m' d aop wv v scope ord size, atomUse m' d wv v size, true, true, s.w.addrs m'),
       (.atomc m' d wv v scope ord size, atomUse m' d wv v size, true, true, s.w.addrs m'),
       (.red m' aop wv v scope ord size, redUse m' wv v size, true, true, s.w.addrs m')]
    ∀ e ∈ forms, e.1.wellFormed = true → s.mayRun e.2.1 = true → s.Accessible e.2.2.1 e.2.2.2.1 n e.2.2.2.2 →
      let as := e.2.2.2.2.map (s.accessOf (fun _ => 0) fun _ => 0)
      let closes := s.Closes r x e.2.2.1 e.2.2.2.1 as
      let older := fun u => closes u ∧ ∃ y, s.region? u = some y ∧ younger x y = true
      let tested := fun u => s.NewEdge r x e.2.2.1 e.2.2.2.1 as u ∨ s.KeepsBack s.w.id.core r as u
      (∀ u, older u → (∀ u', older u' → u ≤ u') → ∃ t, exec e.1 s = .next t ∧ s.Aborts t r (2 ^ 31 + u * 2 ^ 24 + 1)) ∧
      (∀ u y, closes u → s.region? u = some y → (∀ u', ¬older u') →
        (∀ a ∈ as, s.l2? (a.pa / 256) ≠ none ∧ s.l2Poison a.pa = false) →
        ∃ t, exec e.1 s = .next t ∧ t.region? u = none ∧ s.AbortedTo t y (2 ^ 31 + r * 2 ^ 24 + 1)) ∧
      ((∀ u, ¬closes u) →
        (s.PastBounds r x e.2.2.1 e.2.2.2.1 as ∨ (∃ u, s.KeepsBack s.w.id.core r as u) →
          ∃ t pend, exec e.1 s = .next t ∧ t = { s with w := t.w, die := { s.die with regions := t.die.regions } } ∧
            t.w = { s.w with flow := { s.w.flow with hold := .rstall, stalled := true, piped := false } } ∧
            t.region? r = some { x with pend := pend, waiting := true } ∧ (∀ p, p ∈ pend ↔ p.2 = r ∧ tested p.1) ∧
            ∀ j, j ≠ r → t.region? j = s.region? j) ∧
        (¬s.PastBounds r x e.2.2.1 e.2.2.2.1 as → (∀ u, ¬s.KeepsBack s.w.id.core r as u) → s.PastCapacity x e.2.2.1 e.2.2.2.1 as →
          ∃ t, exec e.1 s = .next t ∧ s.Aborts t r (2 ^ 31 + 3)))

/-- R48, R121, R135, R136, R207, R209: LOAD_REPLY of a load whose lanes find their bytes: every lane takes them, of one register
zero- or sign-extended, of two or four low register first, a scalar load in its scalar registers; the registers are full and the
load is no longer outstanding. A strong load of one lane beyond the L1's scope, that acquires nothing, takes the bytes of the L2
after what the line's release record demands (R140). -/
def Obligations.LoadsReturn : Prop :=
  ∀ (s : State) (wid k : Nat) (w : Wave) (e : LoadEnt), s.host.jobDead = false → s.tabs.halted = false →
    s.wave? wid = some w → w.mem.loads[k]? = some e → e.size ∈ [1, 2, 4, 8, 16] → (e.lanes.map (·.lane)).Nodup →
    (∀ l ∈ e.lanes, l.lane < 32) → w.mem.v2s = [] → (e.kind ≠ .region → e.kind ≠ .atomic → e.inOrder w.mem.loads = true) →
    let n := max 1 (e.size / 4)
    let back := fun (v : Wave) (x : LaneAcc → Nat) =>
      (e.scalar = false → ∀ l ∈ e.lanes, ∀ i < n, v.lane (e.dst + i) l.lane = if e.sx = true ∧ e.size < 4
        then BitVec.ofInt 32 (BitVec.ofNat (8 * e.size) (x l)).toInt else BitVec.ofNat 32 (x l / 2 ^ (32 * i))) ∧
      (e.scalar = true → ∀ l ∈ e.lanes, l.lane = 0 → ∀ i < n, v.rdS (e.dst + i) = BitVec.ofNat 32 (x l / 2 ^ (32 * i)))
    (e.scalar = false → e.dst + n ≤ 128) → (e.scalar = true → e.dst + n ≤ 64 ∧ e.sx = false) →
    (∀ x : LaneAcc → Nat, (∀ l ∈ e.lanes, x l < 2 ^ (8 * e.size) ∧ s.Finds w e l (x l)) →
      (e.kind = .region ∨ e.kind = .atomic → e.got = e.lanes.map fun l => (l.lane, x l)) →
      (e.kind = .weak → ∀ l ∈ e.lanes, s.setSize (l.pa / 256) ≤ 16) → (e.kind = .strong → s.setsFit) →
      ∃ t v, exec (.loadReply wid k) s = .next t ∧ t.wave? wid = some v ∧ back v x ∧
        (∀ r l, (e.scalar = true ∨ r < e.dst ∨ e.dst + n ≤ r ∨ l ∉ e.lanes.map (·.lane)) → v.lane r l = w.lane r l) ∧
        (∀ r, (e.scalar = false ∨ r < e.dst ∨ e.dst + n ≤ r) → v.rdS r = w.rdS r) ∧
        (∀ i < n, if e.scalar then v.regs.sfull.getLsbD (e.dst + i) = true else v.regs.vfull.getLsbD (e.dst + i) = true) ∧
        (∀ r, (e.scalar = true ∨ r < e.dst ∨ e.dst + n ≤ r) → v.regs.vfull.getLsbD r = w.regs.vfull.getLsbD r) ∧
        (∀ r, (e.scalar = false ∨ r < e.dst ∨ e.dst + n ≤ r) → v.regs.sfull.getLsbD r = w.regs.sfull.getLsbD r) ∧
        v.flow = w.flow ∧ v.csr = w.csr ∧ v.mem.loads = w.mem.loads.filter (fun y => y.seq != e.seq) ∧
        t.cores = s.cores ∧ t.die = s.die ∧ t.sched = s.sched ∧ t.pkg = s.pkg) ∧
    (∀ (l : LaneAcc) (t0 u : State), e.kind = .strong → e.lanes = [l] → e.acq = false → e.scope ≠ 3 →
      s.beyondL1 w.id.core e.scope = true → w.undrained e.seq l.pa = false → s.buffered w e.seq l.pa e.size = none →
      s.reachL2 w.id.core l = some t0 → t0.l2Poison l.pa = false → t0.recordDrainOver w.id.core (l.pa / 256) = some u →
      ((u.onAny wid fun v => v.reply e [(l.lane, bytesNat (u.l2Bytes l.pa e.size))]).fitEvery).isSome = true →
        ∃ t v, exec (.loadReply wid k) s = .next t ∧ t.wave? wid = some v ∧ back v (fun a => bytesNat (u.l2Bytes a.pa e.size)) ∧
          v.flow = w.flow ∧ v.csr = w.csr ∧ v.mem.loads = w.mem.loads.filter (fun z => z.seq != e.seq))

/-- R121, R125, R135: STORE_QUEUE_DRAIN performs the oldest store of a wave, in tile memory or, where the L1 has ways for its
lines (R125: four in a set; which line leaves a full set, and which bits choose the set, is the model's choice, log 17), in the
L1. Each byte of tile memory, or of memory as the core
sees it, takes the value of the highest lane that stores there; every other byte is as it was. -/
def Obligations.StoresDrain : Prop :=
  ∀ (s : State) (wid : Nat) (w : Wave) (e : StoreEnt) (rest : List StoreEnt), s.host.jobDead = false → s.tabs.halted = false →
    s.noneExited → s.wave? wid = some w → w.mem.sq = e :: rest → s.canDrain w e = true → e.size ∈ [1, 2, 4, 8, 16] →
    (∀ l ∈ e.lanes, l.pa % e.size = 0) →
    (∀ k b, e.tile = true → w.id.blk = some k → s.blk? k = some b →
      ∃ t b' v, exec (.storeQueueDrain wid) s = .next t ∧ t.blk? k = some b' ∧ t.wave? wid = some v ∧ v.mem.sq = rest ∧
        v.regs = w.regs ∧ v.flow = w.flow ∧ t.cores = s.cores ∧ t.die = s.die ∧ t.pkg = s.pkg ∧
        (∀ pre l post, e.lanes = pre ++ l :: post → ∀ a, inAccess e.size l a → (∀ x ∈ post, ¬inAccess e.size x a) →
          t.tileByte k a = BitVec.ofNat 8 (l.data / 2 ^ (8 * (a - l.pa)))) ∧
        (∀ j a, (j ≠ k ∨ ∀ l ∈ e.lanes, ¬inAccess e.size l a) → t.tileByte j a = s.tileByte j a) ∧
        (∀ line, b'.tag line = if (∃ l ∈ e.lanes, l.pa / 128 = line) ∧ b.tag line ≠ tagPENDING then tagPLAIN else b.tag line)) ∧
    (e.tile = false → (∀ l ∈ e.lanes, s.eager (s.objOf l.va) = true) → (∀ k, sortedKeys (s.core k).l1 = true) →
      (∀ l ∈ e.lanes, (s.l1Ways w.id.core l.pa ++ ((e.lanes.filter fun (m : LaneAcc) => s.l1Core w.id.core m.pa == s.l1Core w.id.core l.pa &&
        s.l1Set w.id.core m.pa == s.l1Set w.id.core l.pa).map fun (m : LaneAcc) => m.pa / 128)).eraseDups.length ≤ 4) →
      ∃ t v, exec (.storeQueueDrain wid) s = .next t ∧ t.wave? wid = some v ∧ v.mem.sq = rest ∧ v.regs = w.regs ∧ v.flow = w.flow ∧
        t.die = s.die ∧ t.pkg = s.pkg ∧
        (∀ pre l post, e.lanes = pre ++ l :: post → ∀ a, inAccess e.size l a → (∀ x ∈ post, ¬inAccess e.size x a) → ∀ fields,
          t.byteSeen w.id.core a fields = BitVec.ofNat 8 (l.data / 2 ^ (8 * (a - l.pa)))) ∧
        (∀ a fields, (∀ l ∈ e.lanes, ¬inAccess e.size l a) → t.byteSeen w.id.core a fields = s.byteSeen w.id.core a fields))

/-- Table 13.6, R211, R212: the new value of every atomic operation. -/
def Statements.AtomicValues : Prop :=
  ∀ (size aop : Nat) (old v cmp : Nat), size = 4 ∨ size = 8 → old < 2 ^ (8 * size) → v < 2 ^ (8 * size) →
    (aop ≤ 11 → atomNew aop size old v cmp = atomTable (8 * size) aop (BitVec.ofNat _ old) (BitVec.ofNat _ v)) ∧
    atomNew 16 size old v cmp = (if old = cmp then v else old, 0)

/-- R136, R147, R211: WRITE_BUFFER_PERFORM performs the oldest entry of a buffer, where no other line has to leave the L2 for
its line: the core then sees the stored bytes, or the atomic's new value, whose old value returns to the wave's load, and every
other byte is as it was. The entry leaves its buffer. That an atomic writes its line back at every scope is the model's reading
(log 35). -/
def Statements.StrongStoresPerform : Prop :=
  ∀ (s : State) (core : BitVec 7) (buf : BitVec 3) (e : WbEnt) (rest : List WbEnt), s.host.jobDead = false → s.tabs.halted = false →
    s.noneExited → s.noSealed → (∀ w ∈ s.waves, w.mem.strong = []) → look [] (s.core core.toNat).wbuf buf.toNat = e :: rest →
    s.regionHeld none (e.pa / 64) = false → e.relEnt = none →
    e.size ∈ [4, 8] ∨ (e.aop = none ∧ e.size ∈ [1, 2, 16]) → e.pa % e.size = 0 →
    (e.aop = none →
      (s.beyondL1 core.toNat e.scope = true → (s.toPointOver none core.toNat e.pa).isSome = true ∧ s.hasWay (e.pa / 256)) →
      (s.beyondL1 core.toNat e.scope = false → s.eager (s.objOf e.va) = true ∧ (s.l1Room core.toNat e.pa).isSome = true) →
      ∃ t, exec (.writeBufferPerform core buf) s = .next t ∧ look [] (t.core core.toNat).wbuf buf.toNat = rest ∧ t.w = s.w ∧
        t.others = s.others ∧ t.host = s.host ∧
        (∀ i < e.size, t.byteSeen core.toNat (e.pa + i) e.fields = BitVec.ofNat 8 (e.data / 2 ^ (8 * i))) ∧
        (s.beyondL1 core.toNat e.scope = true →
          s.KeepsBytes t core.toNat e.pa e.size ((s.l2? (e.pa / 256)).isSome = true ∧ e.scope ≠ 3)) ∧
        (s.beyondL1 core.toNat e.scope = false → s.l1Fits core.toNat e.pa = true → ∀ k a fields, ¬(e.pa ≤ a ∧ a < e.pa + e.size) →
          t.byteSeen k a fields = s.byteSeen k a fields)) ∧
    (∀ aop u, e.aop = some aop → s.entryAcq e = false → s.hasWay (e.pa / 256) →
      s.reachL2 core.toNat { lane := e.lane, va := e.va, pa := e.pa, fields := e.fields, data := e.data, cmp := e.cmp } = some u →
      let old := bytesNat (u.l2Bytes e.pa e.size)
      let new := atomNew aop e.size old e.data e.cmp
      u.l2Poison e.pa = false →
        ∃ t, exec (.writeBufferPerform core buf) s = .next t ∧ look [] (t.core core.toNat).wbuf buf.toNat = rest ∧
          (∀ i < e.size, t.byteSeen core.toNat (e.pa + i) e.fields = BitVec.ofNat 8 (new.1 / 2 ^ (8 * i))) ∧
          s.KeepsBytes t core.toNat e.pa e.size ((s.l2? (e.pa / 256)).isSome = true ∧ e.scope ≠ 3) ∧
          ∀ w l, s.wave? e.wid = some w → l ∈ w.mem.loads → l.seq = e.seq → e.returns = true →
            ∃ v l', t.wave? e.wid = some v ∧ l' ∈ v.mem.loads ∧ l'.seq = e.seq ∧ look? l'.got e.lane = some (old + 2 ^ 64 * new.2.toNat))

/-- R127, R131: L2_SLICE_ACCESS at a line that a TLB translates: a read gives the 8 bytes at the slice, once what the line's release
record demands is done, and where it demands nothing every byte of memory is as it was; a write, and a release of a core with no
dirty byte, leave their bytes there where no other line has to leave the L2 for it, and every other byte is as it was; a
write-back leaves the core's line clean, and the core reads every byte as before. -/
def Obligations.SliceAccesses : Prop :=
  ∀ (s : State) (core : BitVec 7) (pa : BitVec 46) (data : BitVec 64) (e : TlbEnt), s.noSealed →
    let a := pa.toNat / 8 * 8
    let va := e.vpn * 65536 + a % 65536
    s.tlbFrame core.toNat (a / 65536) = some e →
    (∀ u, s.sliceReady a e .read = true → (s.l2Fill (a / 256) va e.fields).recordDrainOver core.toNat (a / 256) = some u →
      (u.fitEvery).isSome = true →
        ∃ t, exec (.l2SliceAccess core pa .read data) s = .next t ∧
          t.tabs.lastRead = (u.l2Poison a, if u.l2Poison a then 0 else bytesNat (u.l2Bytes a 8)) ∧ t.w = s.w ∧ t.others = s.others ∧
          ((∃ l, s.l2? (a / 256) = some l ∧ l.rel.entries = []) → s.setsFit → ∀ k x f, t.byteSeen k x f = s.byteSeen k x f)) ∧
    (s.sliceReady a e .writeBack = true → (s.wb1 none (s.l1Core core.toNat a) (a / 128)).isSome = true →
      ∃ t, exec (.l2SliceAccess core pa .writeBack data) s = .next t ∧ t.w = s.w ∧ t.others = s.others ∧ t.host = s.host ∧
        (∀ l, t.l1? core.toNat a = some l → l.dirty = 0) ∧
        ((s.l2? (a / 256)).isSome = true → s.setSize (a / 256) ≤ 16 → (∀ l, s.l1? core.toNat a = some l → l.dirty &&& ~~~l.valid = 0) →
          ∀ x f, t.byteSeen core.toNat x f = s.byteSeen core.toNat x f)) ∧
    (∀ op ∈ [L2Req.write, L2Req.release], s.sliceReady a e op = true → s.hasWay (a / 256) →
      (s.toPoint none core.toNat a).isSome = true →
      (op = .release → ∀ k ∈ s.l1Cores core.toNat, ∀ x ∈ (s.core k).l1, x.2.dirty = 0) →
      ∃ t l, exec (.l2SliceAccess core pa op data) s = .next t ∧ t.w = s.w ∧ t.others = s.others ∧ t.l2? (a / 256) = some l ∧
        l.dirty = true ∧ (∀ i < 8, l.data.getD (a % 256 + i) 0 = BitVec.ofNat 8 (data.toNat / 2 ^ (8 * i))) ∧
        s.KeepsBytes t core.toNat a 8 ((s.l2? (a / 256)).isSome = true))

/-- R152, R153: PAGE_WALK_COMPLETE for a wave parked on pages, once one of the die's walkers serves its page: a leaf enters
the core's TLB; a walk that ends without one is noted for the instruction; the wave tries again after its last page. A table
root outside memory stops the machine. That such a root stops the machine is the model's reading (log 15), and which pages the
64 walkers take is its choice (log 32). -/
def Obligations.PageWalks : Prop :=
  ∀ (s : State) (wid : Nat) (w : Wave) (p : Nat) (rest : List Nat), s.wave? wid = some w → w.flow.hold = .walk (p :: rest) →
    s.walking.contains p = true →
    (s.rootOk = true →
      ∃ t v, exec (.pageWalkComplete wid) s = .next t ∧ t.wave? wid = some v ∧
        v.flow = { w.flow with hold := if rest = [] then .run else .walk rest } ∧ v.regs = w.regs ∧ v.csr = w.csr ∧
        t.pkg.home = s.pkg.home ∧ t.pkg.keys = s.pkg.keys ∧ t.sched = s.sched ∧ t.host = s.host ∧
        (match s.walk (p * 65536) with
        | .leaf x => v.mem = w.mem ∧ x ∈ (t.core w.id.core).tlb
        | _ => v.mem = { w.mem with walked := w.mem.walked ++ [p] } ∧ t.cores = s.cores)) ∧
    (s.rootOk = false → exec (.pageWalkComplete wid) s = .fault .noSuchAddress)

/-- R318: REGION_COMMIT commits the region of a wave that waits in RCOMMIT once its predecessors have committed; the bytes that it
has written reach the L2, the L1s lose their bytes of those lines, the wave goes on and the entry is free. -/
def Statements.RegionCommits : Prop :=
  ∀ (s : State) (rid : BitVec 6) (x : Region), s.region? rid.toNat = some x → s.w.id.wid = x.wid → s.w.flow.hold = .rcommit →
    s.w.mem.region = some rid.toNat → s.w.flow.mask = s.w.flow.alive → s.w.flow.stack.length = x.depth0 →
    s.host.jobDead = false → s.tabs.halted = false → s.commitReady s.w x = true →
    (s.commitRegion s.w rid.toNat x).isSome = true →
      ∃ t, exec (.regionCommit rid) s = .next t ∧ s.w.Moved t.w s.w.advance.flow { s.w.mem with region := none } ∧
        t.region? rid.toNat = none ∧ t.others = s.others ∧ t.host = s.host ∧
        (sortedKeys s.die.regions = true → s.Cut t fun z => z = rid.toNat) ∧
        ((x.versions.map (·.line)).Nodup → x.versions ≠ [] → t.CommitsTo x)

/-- R267, R272, R275, R279, R280: a copy that passes the checks of its issue enters the core's queue with the next number and
its eight parameters; one that breaks a limit enters it too, to complete with PARAM; CPYW names its slot. A copy with `.rel`
waits for its wave's earlier accesses and makes its release first, which is the model's reading of when (log 46). That a CPYW
with PARAM unloads its slot from its issue is log 43. -/
def Statements.CopiesIssue : Prop :=
  ∀ (s : State) (b : BitVec 6) (wb : Bool) (x : BitVec 32) (slot : BitVec 7) (redop : BitVec 3),
    ∀ o ∈ s.copiesOf b wb x slot redop, s.mayRun o.2.1 = true → s.w.mem.region = none → (s.core s.w.id.core).copies.length < 16 →
      o.2.2.peerBad = false → o.2.2.vaBad = false →
      (o.2.2.limitBad = false → o.2.2.rangeBad (s.tmem s.w) (decide (s.tmem s.w ≠ 0)) = false) →
      (o.2.2.limitBad = false → o.2.2.ord = 1 → s.earlierDone s.w s.w.mem.seq = false → exec o.1 s = .next s.waiting) ∧
      (∀ u r, (o.2.2.limitBad = true ∨ o.2.2.ord ≠ 1 → u = s ∧ r = none) →
        (o.2.2.limitBad = false → o.2.2.ord = 1 → s.earlierDone s.w s.w.mem.seq = true ∧
          s.releaseSteps s.w.id.core o.2.2.scope = some (u, r) ∧ u.w = s.w ∧ u.sched = s.sched) →
        let c : Copy := if o.2.2.limitBad then { o.2.2 with bad := true, err := 32 }
          else { o.2.2 with lines := o.2.2.destLines, relEnt := r }
        ∃ t, exec o.1 s = .next t ∧
          t.core s.w.id.core = { u.core s.w.id.core with copySeq := c.seq, copies := (u.core s.w.id.core).copies ++ [c] } ∧
          (∀ k, k ≠ s.w.id.core → t.core k = u.core k) ∧
          s.w.Moved t.w s.w.advance.flow { s.w.mem with seq := s.w.mem.seq + 1, lastCopy := some c.seq } ∧
          t.others = u.others ∧ t.die = u.die ∧ t.pkg = u.pkg ∧ t.host = u.host ∧ t.tabs = u.tabs ∧
          (c.op ≠ 2 → t.sched = s.sched) ∧
          ∀ k y, c.op = 2 → s.w.id.blk = some k → s.blk? k = some y →
            ∃ z, t.blk? k = some z ∧ (z.slot slot.toNat).loaded = !c.bad ∧
              (c.bad = false → (z.slot slot.toNat).filler = some c.seq ∧ (z.slot slot.toNat).kind = c.kind))

/-- R122, R123, R268 to R270, R272, R273, R278, R281 to R285: COPY_START takes the copy's entries and makes its tile destination
lines PENDING; COPY_LINE_ARRIVAL writes every byte of the copy that falls in the line, as its rows, its swizzle and its pitch place
it, and makes the line VALID; COPY_COMPLETE of a copy whose lines have arrived, and whose TLF tile, if it decodes one, has been read
whole, leaves the queue and frees the entries, one out to device memory leaves its bytes there, reduced where it says so, and one to
a weight slot loads the slot or finds it bad. The bytes of memory that a copy reads are taken to stand in the L2, and a row out to
lie in one line of it. That the bytes of a copy out move in one step at COPY_COMPLETE, from tile memory and the L2 as they are then,
is the model's reading (log 16). -/
def Obligations.CopiesRun : Prop :=
  ∀ (s : State) (core : BitVec 7) (seq : BitVec 32) (c : Copy), s.copy? core.toNat seq.toNat = some c → s.host.jobDead = false →
    s.tabs.halted = false →
    let gone := fun (t : State) => t.copy? core.toNat seq.toNat = none ∧
      (∀ x, x ∈ (t.core core.toNat).copies ↔ x ∈ (s.core core.toNat).copies ∧ x.seq ≠ seq.toNat) ∧
      (∀ l, l ∈ t.die.locks ↔ l ∈ s.die.locks ∧ ¬(l.core = core.toNat ∧ l.seq = seq.toNat))
    let goes := c.started = true ∧ c.bad = false ∧ c.token = none ∧ (∀ x ∈ c.waits, (s.tile x).st = .present)
    (c.started = false → s.copyMay core.toNat c = true → s.copyLocksOk core.toNat c = true →
      (c.bad = true → ∃ t, exec (.copyStart core seq) s = .next t ∧ t = { s with cores := t.cores } ∧
        (t.copy? core.toNat seq.toNat).map (·.started) = some true) ∧
      (c.bad = false →
        (∀ u, s.startCopy core.toNat c = some u → exec (.copyStart core seq) s = .next u) ∧
        ((∀ k ∈ s.l1Cores core.toNat, ∀ x ∈ (s.core k).l1, c.covers x.2.va = true → x.2.dirty = 0) →
          ∃ t, exec (.copyStart core seq) s = .next t ∧ t.w = s.w ∧ t.others = s.others ∧ t.pkg = s.pkg ∧
            (t.copy? core.toNat seq.toNat).map (·.started) = some true ∧
            t.die.locks = s.die.locks ++ c.lockRanges.map (fun r =>
              { lo := r.1, hi := r.2.1, dest := r.2.2, core := core.toNat, seq := c.seq }) ∧
            (∀ k ∈ s.l1Cores core.toNat, ∀ x ∈ (t.core k).l1, c.covDest x.2.va = false) ∧
            ∀ k b, c.blk = some k → s.blk? k = some b → ∃ b', t.blk? k = some b' ∧ b'.tile = b.tile ∧
              ∀ l, b'.tag l = if l ∈ c.destLines then tagPENDING else b.tag l))) ∧
    (∀ (line : BitVec 12) (k : Nat) (b : Block) (x : Nat → Byte), goes → c.toTile = true → c.tlf ≠ 2 → c.ord ≠ 2 → c.limitBad = false →
      line.toNat ∈ c.lines → c.blk = some k → s.blk? k = some b →
      (c.op = 0 → ∀ r < c.rows, ∀ i < c.rowLen, let va := c.pair 0 + r * (if c.p 2 = 0 then c.rowLen else c.p 2) + i
        s.InL2 va (x va)) →
      (c.op = 1 → (∀ i < 4 * c.rows, s.InL2 (c.pair 2 + i) (x (c.pair 2 + i))) ∧
        ∀ r < c.rows, c.index x r < c.p 6 → ∀ i < c.rowLen, let va := c.pair 0 + c.index x r * c.word1 + i
          s.InL2 va (x va)) →
      ∃ t b', exec (.copyLineArrival core seq line) s = .next t ∧ t.blk? k = some b' ∧ t.w = s.w ∧ t.others = s.others ∧ t.pkg = s.pkg ∧
        (∀ r < c.rt, ∀ i < c.wt, c.tileAddr r i / 128 = line.toNat → look 0 b'.tile (c.tileAddr r i) = c.brings x r i) ∧
        (∀ a, (∀ r < c.rt, ∀ i < c.wt, a ≠ c.tileAddr r i) ∨ a / 128 ≠ line.toNat → look 0 b'.tile a = look 0 b.tile a) ∧
        (∀ l, b'.tag l = if l = line.toNat then tagVALID else b.tag l) ∧
        (t.copy? core.toNat seq.toNat).map (·.lines) = some (c.lines.filter fun l => l != line.toNat) ∧
        (c.op = 1 → (∃ r < c.rows, line.toNat ∈ tileLinesOf (c.t.toNat + r * c.pitch) c.wt ∧ c.p 6 ≤ c.index x r) →
          ∃ y, t.copy? core.toNat seq.toNat = some y ∧ y.err.testBit 0 = true)) ∧
    (goes → c.toTile = true → c.lines = [] → c.ord ≠ 2 → c.err = 0 →
      (c.op ≠ 0 ∨ c.tlf ≠ 2 →
        ∃ t, exec (.copyComplete core seq) s = .next t ∧ gone t ∧ ((s.wave? c.wid).isSome = true → t.pkg = s.pkg)) ∧
      (∀ x : Nat → Byte, c.op = 0 → c.tlf = 2 → (∀ i < 16, s.InL2 (c.pair 0 + i) (x i)) →
        let h := TlfHdr.parse ((List.range 16).map fun i => (x i).toNat)
        (h.valid = true → h.kind = c.kind → h.rows = c.rows → h.dr = c.rowLen →
          (∀ i < h.extent, s.InL2 (c.pair 0 + i) (x i)) ∧
            ∃ l ∈ s.die.locks, l.core = core.toNat ∧ l.seq = seq.toNat ∧ (c.pair 0 + h.extent - 1) / 256 ≤ l.hi) →
        ∃ t, exec (.copyComplete core seq) s = .next t ∧ gone t ∧ ((s.wave? c.wid).isSome = true → t.pkg = s.pkg))) ∧
    (∀ (va n : Nat) (f : Nat) (pa : Nat) (l : L2Line) (out : Nat → Byte), goes → c.ord ≠ 2 → c.err = 0 → c.relEnt = none → c.tlf = 0 →
      c.dstRows = [(va, n)] → inPeer va = false → va % 256 + n ≤ 256 → 0 < n →
      s.engine va (decide (c.redop ≠ 0)) true = .ok pa f → s.sealedTile va = none → (∀ k, s.regionHeld none k = false) →
      s.l2? (pa / 256) = some l → l.poison = false → s.setSize (pa / 256) ≤ 16 →
      (s.core core.toNat).summary.length + (s.destObjs c).length ≤ 32 →
      (c.op = 4 ∧ c.redop = 0 ∧ (∀ i < n, out i = BitVec.ofNat 8 c.fill) ∨
       c.op = 0 ∧ c.redop = 0 ∧ (∃ k b, c.blk = some k ∧ s.blk? k = some b ∧ ∀ i < n,
          let y := look 0 b.tile (if c.trans then c.tileAddr (i / c.e) (i % c.e) else c.tileAddr 0 i)
          out i = if c.conj = true ∧ i % c.e = c.e - 1 then y ^^^ 0x80 else y) ∨
       c.op = 3 ∧ inPeer (c.pair 0) = false ∧ ∃ x : Nat → Byte, (∀ i < n, s.InL2 (c.pair 0 + i) (x i)) ∧
          let size := if c.redop = 3 then 2 else 4
          let old := fun (j : Nat) => bytesNat ((List.range size).map fun i => l.data.getD (pa % 256 + size * j + i) 0)
          let new := fun (j : Nat) => bytesNat ((List.range size).map fun i => x (size * j + i))
          (c.redop = 0 → ∀ i < n, out i = x i) ∧
          (c.redop ≠ 0 → n % size = 0 ∧ ∀ j < n / size, ∀ i < size, out (size * j + i) = BitVec.ofNat 8 ((match c.redop with
              | 1 => (old j + new j) % 2 ^ 32
              | 2 => (fp32.add .rne (fp32.unpack (old j)) (fp32.unpack (new j))).1
              | _ => (bf16.add .rne (bf16.unpack (old j)) (bf16.unpack (new j))).1) / 256 ^ i))) →
      ∃ t l', exec (.copyComplete core seq) s = .next t ∧ gone t ∧ t.l2? (pa / 256) = some l' ∧
        (∀ i < n, l'.data.getD (pa % 256 + i) 0 = out i) ∧
        (∀ i < 256, i < pa % 256 ∨ pa % 256 + n ≤ i → l'.data.getD i 0 = l.data.getD i 0) ∧
        ∀ o ∈ s.destObjs c, ∃ e ∈ (t.core core.toNat).summary, e.obj = o ∧ e.d = true) ∧
    (∀ (k : Nat) (b : Block) (x : Nat → Byte), goes → c.op = 2 → c.ord ≠ 2 → c.err = 0 → c.blk = some k → s.blk? k = some b →
      (∀ i < c.srcLen, s.InL2 (c.pair 0 + i) (x i)) → (b.slot c.slot).filler = some c.seq → (b.slot c.slot).source = none →
      (∀ y ∈ (s.core core.toNat).copies, y.op = 2 → y.blk = some k → y.slot = c.slot → y.seq = c.seq) →
      let bytes := (List.range c.srcLen).map fun i => (x i).toNat
      let sig := if c.sigma then (List.range 192).map fun i => (look 0 b.tile (c.word1 + i)).toNat else []
      let good := (c.form = true → (sscImage 32 (imageSize c.kind) bytes).isSome = true) ∧ ∀ v ∈ sig, v ≤ 7
      ∃ t b', exec (.copyComplete core seq) s = .next t ∧ gone t ∧ t.blk? k = some b' ∧ b'.tile = b.tile ∧
        (good → b'.slot c.slot = { b.slot c.slot with bytes := bytes, sig := sig, filler := none, source := none }) ∧
        (¬good → (b'.slot c.slot).loaded = false ∧ (∀ w v, s.wave? c.wid = some w → t.wave? c.wid = some v →
            v.csr.copyerr.getLsbD 3 = true) ∧
          ∀ j, ∀ y ∈ ((t.core core.toNat).arr j).queue, y.filler = some c.seq → y.zeroB = true) ∧
        ∀ j, j ≠ c.slot → b'.slot j = b.slot j)

/-- R286, 27 R359: CWAIT goes on once the count or the watermark is reached, and waits before; CWAIT_SATISFIED lets a wave that
waits in one go on; PEER_TIMEOUT completes a copy with PEERTO and takes PEERTO's time. -/
def Statements.CopyWaits : Prop :=
  ∀ (s : State) (n : BitVec 6) (wa : Bool) (a : BitVec 6), s.w.mem.region = none →
    let core := s.core s.w.id.core
    let mark := match core.copies with
      | [] => core.copySeq
      | x :: _ => (x.seq + 0xFFFFFFFF) % 2 ^ 32
    let mine := (core.copies.filter fun c => c.wid == s.w.id.wid).length
    let reached : Bool := decide ((mark + 2 ^ 32 - (s.w.rdS a.toNat).toNat) % 2 ^ 32 < 2 ^ 31)
    (s.mayRun (useOf 5 [] []) = true →
      (mine ≤ n.toNat → s.w.mem.acqs = [] → ∃ t, exec (.cwaitCnt n) s = .next t ∧ s.PassedOn t) ∧
      (n.toNat < mine → exec (.cwaitCnt n) s = .next s.waiting) ∧
      (mine ≤ n.toNat → s.w.mem.acqs = [] → s.w.instr = .cwaitCnt n → s.w.flow.stalled = true → s.w.flow.hold = .run →
        ∃ t, exec (.cwaitSatisfied s.w.id.wid) s = .next t ∧ s.PassedOn t)) ∧
    (s.mayRun (useOf 5 [ssrc a.toNat 1 wa] []) = true →
      (reached = true → s.w.mem.acqs = [] → ∃ t, exec (.cwaitSeq wa a) s = .next t ∧ s.PassedOn t) ∧
      (reached = false → exec (.cwaitSeq wa a) s = .next s.waiting)) ∧
    (∀ (k : BitVec 7) (seq : BitVec 32) (c : Copy), s.copy? k.toNat seq.toNat = some c → c.started = true → c.bad = false → c.op = 3 →
      s.host.jobDead = false → s.tabs.halted = false → c.vas.any inPeer = true → (∀ x ∈ c.dstRows, inPeer x.1 = true) → c.ord ≠ 2 →
        ∃ t, exec (.peerTimeout k seq) s = .next t ∧ t.copy? k.toNat seq.toNat = none ∧
          (s.tabs.power = .active → t.pkg.coreClock = s.pkg.coreClock + 1024 * max 1 (s.host.peerto.toNat % 2 ^ 24)) ∧
          ∀ w v, s.wave? c.wid = some w → t.wave? c.wid = some v → v.csr.copyerr.getLsbD 1 = true)

/-- R229, R239, R241, R251, R255: TMM and TPROM that pass their checks join the queue of the wave's term array, or of the free array
that the wave is then assigned, TA0 first; a TMM's accumulator range becomes empty, and the wave goes on. A TMM that does not join
the open run asks for its promotion first. That an array which a recipe wave waits for is left to it is R229's rule, and the
statement leaves such waves out. -/
def Statements.TermWorkIssues : Prop :=
  ∀ (s : State) (vacc a : BitVec 7) (wa wb : Bool) (b : BitVec 6) (consume : Bool) (pm1 : BitVec 5) (slot : BitVec 7),
    s.w.mem.region = none →
    let c := s.core s.w.id.core
    let mine := c.arrOf s.w.id.wid
    (s.mayRun (tmmUse vacc wa a wb b slot) = true → vacc.toNat + 64 ≤ 128 → s.w.flow.mask = 0xFFFFFFFF →
      (∀ l < 32, s.w.lane a.toNat l = s.w.lane a.toNat 0) →
      let fw := (s.w.lane a.toNat 0).toNat
      let off := (s.w.rdS b.toNat).toNat
      let x := s.slotOf s.w slot.toNat
      fwValid fw x = true → off % 128 = 0 → off + aExtent fw ≤ s.tmem s.w →
      (∀ k, mine = some k ∨
          (mine = none ∧ (s.w.id.kind = .kindling ∨ ∀ y ∈ s.waves, y.id.kind ≠ .kindling) ∧ k < 2 ∧ (c.arr k).owner = none ∧
            (k = 1 → (c.arr 0).owner ≠ none)) →
        (c.arr k).queue.length < 4 →
        (s.openRun s.w = none ∧ s.w.fullV vacc.toNat 64 = true) ∨
          (∃ r, s.openRun s.w = some r ∧ r.vacc = vacc.toNat ∧ fwResult r.fw = fwResult fw) →
        ∃ t, exec (.tmm vacc wa a wb b consume pm1 slot) s = .next t ∧
          s.AccessIssued { t with cores := s.cores } true vacc.toNat 64 s.w.mem ∧
          (∀ j, j ≠ s.w.id.core → t.core j = s.core j) ∧
          (t.core s.w.id.core).arr k = { c.arr k with
            owner := some s.w.id.wid
            queue := (c.arr k).queue ++ [{ kind := .tmm, wid := s.w.id.wid, blk := s.w.id.blk, vacc := vacc.toNat, fw := fw, aoff := off
                                           consume := consume, p := pm1.toNat + 1, slot := slot.toNat, seq := s.w.mem.seq, ssc := x.ssc
                                           lc := x.lc, sigma := x.sigma, filler := x.filler, zeroB := false }] }) ∧
      (∀ k r, mine = some k → (c.arr k).queue.length < 4 → s.openRun s.w = some r →
        r.vacc ≠ vacc.toNat ∨ fwResult r.fw ≠ fwResult fw →
        ∃ t o, exec (.tmm vacc wa a wb b consume pm1 slot) s = .next t ∧ ((t.core s.w.id.core).arr k).queue = (c.arr k).queue ++ [o] ∧
          o.kind = .request ∧ o.wid = s.w.id.wid ∧ t.w.regs = s.w.regs ∧ t.w.flow.pc = s.w.flow.pc ∧ t.others = s.others)) ∧
    (s.mayRun { useOf 4 [] [] with named := [vdst vacc 1] } = true →
      (∀ k, mine = some k → (c.arr k).queue.length < 4 →
        ∃ t o, exec (.tprom vacc) s = .next t ∧ s.w.Moved t.w s.w.advance.flow { s.w.mem with seq := s.w.mem.seq + 1 } ∧
          t = { s with w := t.w, cores := t.cores } ∧ ((t.core s.w.id.core).arr k).queue = (c.arr k).queue ++ [o] ∧ o.kind = .tprom ∧
          o.wid = s.w.id.wid ∧ o.vacc = vacc.toNat) ∧
      (mine = none → ∃ t, exec (.tprom vacc) s = .next t ∧ s.PassedOn t))

/-- R235, R250, R254: what keeps a TMM out, each only when those before do not: part of the lanes, formats that differ, a bad
format word or slot, an operand that is not aligned or not in tile memory. -/
def Statements.TermTraps : Prop :=
  ∀ (s : State) (vacc a : BitVec 7) (wa wb : Bool) (b : BitVec 6) (consume : Bool) (pm1 : BitVec 5) (slot : BitVec 7),
    s.w.mem.region = none → s.mayRun (tmmUse vacc wa a wb b slot) = true →
    let m := s.w.flow.mask
    let fw := (s.w.lane a.toNat 0).toNat
    let off := (s.w.rdS b.toNat).toNat
    let out := exec (.tmm vacc wa a wb b consume pm1 slot) s
    (m ≠ 0xFFFFFFFF → out = .next (s.takeTrap cILLEGAL_CONVERGENCE 0 m)) ∧
    (m = 0xFFFFFFFF →
      (∀ l < 32, s.w.lane a.toNat l ≠ s.w.lane a.toNat 0 → out = .next (s.takeTrap cFORMAT_DIVERGENCE 0 m)) ∧
      ((∀ l < 32, s.w.lane a.toNat l = s.w.lane a.toNat 0) →
        (fwValid fw (s.slotOf s.w slot.toNat) = false → out = .next (s.takeTrap cTERM_OPERAND 0 m)) ∧
        (fwValid fw (s.slotOf s.w slot.toNat) = true →
          (off % 128 ≠ 0 → out = .next (s.takeTrap cALIGN off m)) ∧
          (off % 128 = 0 → s.tmem s.w < off + aExtent fw → out = .next (s.takeTrap cPROTECTION off m)))))

/-- R260 to R264: XMM, TLENC, TLDEC and DECS that pass their checks join their unit's queue of four and their destination becomes
empty; TLENC holds its wave until the status is written. That the work which is being served counts among the four is the model's
choice (log 63). -/
def Obligations.UnitWorkIssues : Prop :=
  ∀ (s : State) (d : BitVec 7) (e b l : BitVec 6) (wa wb wl zc conjb : Bool) (a : BitVec 7) (form : BitVec 2) (imm : BitVec 16),
    s.w.mem.region = none →
    let n := s.w.id.core
    let c := s.core n
    let v := fun k => (s.w.rdS (b.toNat + k)).toNat
    (s.mayRun (useOf 4 [ssrc b.toNat 2 wb] [vdst d (xmmRegs form.toNat)]) = true → s.w.flow.mask = 0xFFFFFFFF →
      v 0 % 64 = 0 → v 1 % 64 = 0 → v 0 + xmmBytes form.toNat ≤ s.tmem s.w → v 1 + xmmBytes form.toNat ≤ s.tmem s.w → c.xq.length < 4 →
        ∃ t, exec (.xmm d wb b zc conjb form) s = .next t ∧
          s.AccessIssued { t with cores := s.cores } true d.toNat (if form = 0 then 16 else 8) s.w.mem ∧
          let o : XmmOp := { wid := s.w.id.wid, blk := s.w.id.blk, d := d.toNat, aoff := v 0, boff := v 1, form := form.toNat
                             conjb := conjb, zc := zc, seq := s.w.mem.seq, started := none }
          t.core n = { c with xq := c.xq ++ [o] }) ∧
    (s.mayRun (useOf 4 [vsrc a 1 wa, ssrc b.toNat 1 wb] [vdst d 2]) = true → (v 0 + imm.toNat) % 16 = 0 →
      v 0 + imm.toNat + 16 ≤ s.tmem s.w → c.tlfq.length < 4 →
        ∃ t o, exec (.tldec d wa a wb b imm) s = .next t ∧ s.AccessIssued { t with cores := s.cores } true d.toNat 2 s.w.mem ∧
          t.core n = { c with tlfq := c.tlfq ++ [o] } ∧ o.wid = s.w.id.wid ∧ o.enc = false ∧ o.d = d.toNat ∧ o.src = v 0 + imm.toNat ∧
          o.lanes = s.w.lanes.map fun l => (l, (s.w.lane a.toNat l).toNat)) ∧
    (s.mayRun (useOf 4 [ssrc b.toNat 2 wb, ssrc l.toNat 1 wl] [sdst e.toNat 1]) = true → c.decq.length < 4 →
        ∃ t o, exec (.decs e wb b wl l) s = .next t ∧ s.AccessIssued { t with cores := s.cores } false e.toNat 1 s.w.mem ∧
          t.core n = { c with decq := c.decq ++ [o] } ∧ o.wid = s.w.id.wid ∧ o.d = e.toNat ∧ o.src = v 0 ∧ o.dst = v 1 ∧
          o.arg = (s.w.rdS l.toNat).toNat) ∧
    (s.mayRun (useOf 4 [ssrc b.toNat 2 wb] [sdst e.toNat 1]) = true → v 1 % 16 = 0 → v 1 + 16 ≤ s.tmem s.w → c.tlfq.length < 4 →
        ∃ t o, exec (.tlenc e wb b imm) s = .next t ∧ t.w.flow = { s.w.advance.flow with hold := .tlenc } ∧ t.w.regs = s.w.regs ∧
          t = { s with w := t.w, cores := t.cores } ∧
          t.core n = { c with tlfq := c.tlfq ++ [o] } ∧ o.wid = s.w.id.wid ∧ o.enc = true ∧ o.d = e.toNat ∧ o.src = v 0 ∧ o.dst = v 1 ∧
          o.arg = imm.toNat)

/-- R230, R231, R238, Tables 15.1, 15.2 and 19.5: the elements of a dense A operand and of a slot's image, as the multipliers that
the lanes take: an integer itself, and (−1)^s · m · 2^(1−μ) of a BX element with its block's scale. -/
def Statements.TermOperands : Prop :=
  ∀ (b : Block) (fw off kind : Nat) (sg : Nat → Nat) (img : List Nat) (k : Nat), k < 192 →
    let byte := fun (x : Nat) => (look 0 b.tile x).toNat
    let num := fun (get : Nat → Nat) (x n : Nat) => (List.range n).foldl (fun v i => v + get (x + i) * 256 ^ i) 0
    let nib := fun (x : Nat) => (BitVec.ofNat 4 x).toInt
    let mult := fun (get : Nat → Nat) (kind x i : Nat) =>
      let f := num get (x + 2) (bxBlock kind - 2) / 2 ^ (i * (bxB kind + 1)) % 2 ^ (bxB kind + 1)
      (if f / 2 ^ bxB kind = 1 then -1 else 1) * ((f % 2 ^ bxB kind : Nat) : Int) * (if get (x + 1) / 2 ^ (i / 4) % 2 = 1 then 1 else 2)
    (∀ m < 64, fwAstore fw = 0 →
      let e := ((b.aOp fw off sg).rows.getD m []).getD k Elem.zero
      let ak := fwAkind fw
      (ak = 0 → e.mult ak = signed8 (byte (off + 192 * m + k))) ∧ (ak = 1 → e.mult ak = byte (off + 192 * m + k)) ∧
      (ak = 2 → e.mult ak = nib (byte (off + 96 * m + k / 2) / 16 ^ (k % 2))) ∧
      (ak = 3 ∨ ak = 4 ∨ ak = 5 →
        let x := off + bxBlock ak * (12 * m + k / 16)
        e.x = byte x ∧ e.mult ak = mult byte ak x (k % 16))) ∧
    (∀ n < 32,
      let v := ((bOpOf kind img).mult.getD k []).getD n 0
      let at' := fun (i : Nat) => img.getD i 0
      (kind = 0 → v = signed8 (at' (32 * k + n))) ∧ (kind = 2 → v = nib (at' (16 * k + n / 2) / 16 ^ (n % 2))) ∧
      (kind = 3 ∨ kind = 4 ∨ kind = 5 →
        let x := bxBlock kind * (32 * (k / 16) + n)
        ((bOpOf kind img).x.getD (k / 16) []).getD n 0 = at' x ∧ v = mult at' kind x (k % 16)))

/-- R231, R236 to R240, R244, R251, R252; 19 R283: TMM_START starts the TMM at the head of a free array, which takes its slot;
TMM_COMPLETE adds to each sum of the run the products of 16 elements of A and of B, times 2^σ; a TMM that promotes adds the sums of
the 12 slices to each accumulator, as integers that saturate or as F32 with one rounding, of BX kinds with the scales of the
blocks; one that does not leaves its run held. `.consume` leaves the VALID lines of A CONSUMED. That the zeros of a failed CPYW have
σ = 0 is the model's choice (log 43). -/
def Statements.TermRuns : Prop :=
  ∀ (s : State) (core : BitVec 7) (ta : Bool) (o : TermOp) (rest : List TermOp) (bk : Nat) (b : Block),
    let k := if ta then 1 else 0
    let a := (s.core core.toNat).arr k
    a.queue = o :: rest → o.kind = .tmm → o.blk = some bk → s.blk? bk = some b →
    (a.started = none → s.tileBefore o.wid o.seq = false → b.pending o.aoff (o.aBytes b) = false →
      (∀ f, o.filler = some f → ∀ c ∈ (s.core core.toNat).copies, c.op = 2 → c.blk = some bk → c.slot = o.slot → seqLe c.seq f = false) →
        ∃ t, exec (.tmmStart core ta) s = .next t ∧ t = { s with cores := t.cores } ∧
          ((t.core core.toNat).arr k) = { a with started := some s.pkg.coreClock, file := b.slot o.slot }) ∧
    (∀ t0 w img, a.started = some t0 → s.wave? o.wid = some w → o.vacc + 64 ≤ 128 → w.mem.v2s = [] →
      (isBx (fwAkind o.fw) = true → fwAcc o.fw = false) →
      (a.run.isSome = true → a.sums = [] ∨ a.sums.length = 24576) →
      (o.ssc = false → img = a.file.bytes) → (o.ssc = true → sscImage 32 (imageSize (fwBkind o.fw)) a.file.bytes = some img) →
      let ak := fwAkind o.fw
      let sg := if o.zeroB then fun _ => 0 else sigmaOf o.sigma a.file
      let A := b.aOp o.fw o.aoff sg
      let B := if o.zeroB then BOp.zero else bOpOf (fwBkind o.fw) img
      let el := fun m i => (A.rows.getD m []).getD i Elem.zero
      let sum := fun (q m n : Nat) => (if a.run.isSome then a.sums.getD (2048 * q + 32 * m + n) 0 else 0) +
        sumTo 16 fun i => (el m (16 * q + i)).mult ak * (B.mult.getD (16 * q + i) []).getD n 0 * 2 ^ sg (16 * q + i)
      let count := (match a.run with | some r => r.n | none => 0) + 1
      let promotes := isBx ak = true ∨ o.p ≤ count
      let old := fun m n => w.lane (o.vacc + m) n
      let xa := fun m q => (el m (16 * q)).x
      let xb := fun n q => (B.x.getD q []).getD n 0
      let L := fillCycles o.ssc o.lc + (laneTime A.rows (fwDepth o.fw) (fwG o.fw)).1 + 6 + (if isBx ak || decide (o.p ≤ count) then 10 else 2)
      ∃ t v b', exec (.tmmComplete core ta) s = .next t ∧ t.wave? o.wid = some v ∧ t.blk? bk = some b' ∧ t.die = s.die ∧
        v.flow = w.flow ∧ v.csr.lastL = BitVec.ofNat 32 L ∧ (s.tabs.power = .active → t.pkg.coreClock = max s.pkg.coreClock (t0 + L)) ∧
        v.csr.arithf &&& A.flags = A.flags ∧ (o.zeroB = true → v.csr.arithf &&& fINVALID = fINVALID) ∧
        (∀ r, v.rdS r = w.rdS r) ∧ ((t.core core.toNat).arr k).queue = rest ∧ ((t.core core.toNat).arr k).started = none ∧
        (promotes → ((t.core core.toNat).arr k).run = none ∧ (∀ m < 64, v.regs.vfull.getLsbD (o.vacc + m) = true) ∧
          (∀ r, r < o.vacc ∨ o.vacc + 64 ≤ r → v.rdV r = w.rdV r) ∧
          (isBx ak = false → ∀ m < 64, ∀ n < 32,
            let total := sumTo 12 fun q => sum q m n
            v.lane (o.vacc + m) n = if fwAcc o.fw then clamp32 ((old m n).toInt + total)
              else BitVec.ofNat 32 (fp32.add .rne (fp32.unpack (old m n).toNat) (.fin (decide (total < 0)) total.natAbs 0)).1) ∧
          (isBx ak = true → ∀ m < 64, ∀ n < 32,
            let total := sumTo 12 fun q => sum q m n * 2 ^ (xa m q + xb n q)
            v.lane (o.vacc + m) n = BitVec.ofNat 32
              (if ∃ q < 12, xa m q = 255 ∨ xb n q = 255 then 0x7FC00000
               else (fp32.add .rne (fp32.unpack (old m n).toNat) (.fin (decide (total < 0)) total.natAbs
                 (-254 - ((bxB ak : Int) - 1) - ((bxB (fwBkind o.fw) : Int) - 1) - 2))).1))) ∧
        (¬promotes → ((t.core core.toNat).arr k).run = some { vacc := o.vacc, fw := o.fw, n := count } ∧
          (∀ q < 12, ∀ m < 64, ∀ n < 32, ((t.core core.toNat).arr k).sums.getD (2048 * q + 32 * m + n) 0 = sum q m n) ∧
          (∀ r, v.rdV r = w.rdV r) ∧ v.regs.vfull = w.regs.vfull) ∧
        b'.tile = b.tile ∧
        ∀ l, b'.tag l = if o.consume = true ∧ l ∈ tileLinesOf o.aoff (o.aBytes b) ∧ b.tag l = tagVALID then tagCONSUMED else b.tag l)

/-- R240, R241, R255: PROMOTION makes a TPROM or a request at the head of an array's queue: the held run is promoted if the
entry names it, and the entry leaves the queue. -/
def Statements.Promotions : Prop :=
  ∀ (s : State) (core : BitVec 7) (ta : Bool) (o : TermOp) (rest : List TermOp) (w : Wave),
    let k := if ta then 1 else 0
    let a := (s.core core.toNat).arr k
    a.queue = o :: rest → o.kind ≠ .tmm → s.wave? o.wid = some w →
    (a.run = none → ∃ t, exec (.promotion core ta) s = .next t ∧ ((t.core core.toNat).arr k).queue = rest ∧ t.w = s.w ∧
      t.others = s.others ∧ t.die = s.die) ∧
    (∀ r, a.run = some r → a.owner ≠ some o.wid ∨ (o.kind = .tprom ∧ (o.vacc < r.vacc ∨ r.vacc + 64 ≤ o.vacc)) →
      ∃ t, exec (.promotion core ta) s = .next t ∧ ((t.core core.toNat).arr k).queue = rest ∧ ((t.core core.toNat).arr k).run = a.run ∧
        t.w = s.w ∧ t.others = s.others ∧ t.die = s.die) ∧
    (∀ r, a.run = some r → a.owner = some o.wid → o.kind = .request ∨ (r.vacc ≤ o.vacc ∧ o.vacc < r.vacc + 64) → r.vacc + 64 ≤ 128 →
      w.mem.v2s = [] →
      ∃ t v, exec (.promotion core ta) s = .next t ∧ t.wave? o.wid = some v ∧ ((t.core core.toNat).arr k).queue = rest ∧
        ((t.core core.toNat).arr k).run = none ∧ t.die = s.die ∧
        (∀ m < 64, ∀ n < 32,
          let total := sumTo 12 fun q => a.sums.getD (2048 * q + 32 * m + n) 0
          v.lane (r.vacc + m) n =
            if fwAcc r.fw then clamp32 ((w.lane (r.vacc + m) n).toInt + total)
            else BitVec.ofNat 32 (fp32.add .rne (fp32.unpack (w.lane (r.vacc + m) n).toNat) (.fin (decide (total < 0)) total.natAbs 0)).1) ∧
        (∀ m < 64, v.regs.vfull.getLsbD (r.vacc + m) = true) ∧ (∀ x, x < r.vacc ∨ r.vacc + 64 ≤ x → v.rdV x = w.rdV x) ∧
        v.flow = w.flow)

/-- R245, R246, R264, Tables 15.6 and 17.5: XMM_START starts the head of the exact unit's queue; XMM_COMPLETE writes, in each element
of C, the products of a row of A and a column of B added one by one with one rounding each: F64, F32 and BF16 of 16 by 16 elements,
and complex F64 of 8 by 8. -/
def Statements.ExactUnitRuns : Prop :=
  ∀ (s : State) (core : BitVec 7) (o : XmmOp) (rest : List XmmOp) (bk : Nat) (b : Block),
    (s.core core.toNat).xq = o :: rest → o.blk = some bk → s.blk? bk = some b →
    (o.started = none → s.tileBefore o.wid o.seq = false → b.pending o.aoff (xmmBytes o.form) = false →
      b.pending o.boff (xmmBytes o.form) = false →
        ∃ t, exec (.xmmStart core) s = .next t ∧ t = { s with cores := t.cores } ∧
          (t.core core.toNat).xq = { o with started := some s.pkg.coreClock } :: rest) ∧
    (∀ t0 w, o.started = some t0 → s.wave? o.wid = some w → o.form < 4 → o.d + xmmRegs o.form ≤ 128 → w.mem.v2s = [] →
      let num := fun (fm : FFmt) (n off : Nat) => fm.unpack (leN ((b.tileBytes off n).map (·.toNat)))
      let d64 := fun off => num fp64 8 off
      let fold := fun (fin : FFmt) (n kk m j old : Nat) => (List.range kk).foldl (fun c i =>
        (fp32.fma .rne (num fin n (o.aoff + n * (kk * m + i))) (num fin n (o.boff + n * (16 * i + j))) (fp32.unpack c)).1) old
      let step := fun (c : Nat) (x y : FVal) => (fp64.fma .rne x y (fp64.unpack c)).1
      ∃ t v, exec (.xmmComplete core) s = .next t ∧ t.wave? o.wid = some v ∧ (t.core core.toNat).xq = rest ∧
        (∀ m < 16, ∀ j < 16,
          let g := (16 * m + j) / 32
          let l := (16 * m + j) % 32
          let old := if o.zc then 0 else (w.lane (o.d + g) l).toNat
          (o.form = 0 →
            let old := if o.zc then 0 else (w.lane2 (o.d + 2 * g) l).toNat
            v.lane2 (o.d + 2 * g) l = BitVec.ofNat 64
              ((List.range 8).foldl (fun c i => step c (d64 (o.aoff + 8 * (8 * m + i))) (d64 (o.boff + 8 * (16 * i + j)))) old)) ∧
          (o.form = 1 → v.lane (o.d + g) l = BitVec.ofNat 32 (fold fp32 4 16 m j old)) ∧
          (o.form = 2 → v.lane (o.d + g) l = BitVec.ofNat 32 (fold bf16 2 32 m j old))) ∧
        (o.form = 3 → ∀ m < 8, ∀ j < 8,
          let r := o.d + 4 * ((8 * m + j) / 32)
          let l := (8 * m + j) % 32
          let old := fun (x : BitVec 64) => if o.zc then 0 else x.toNat
          let ar := fun i => d64 (o.aoff + 16 * (4 * m + i))
          let ai := fun i => d64 (o.aoff + 16 * (4 * m + i) + 8)
          let br := fun i => d64 (o.boff + 16 * (8 * i + j))
          let bi := fun i => let x := d64 (o.boff + 16 * (8 * i + j) + 8); if o.conjb then x.neg else x
          v.lane2 r l = BitVec.ofNat 64
            ((List.range 4).foldl (fun c i => step (step c (ar i) (br i)) (ai i).neg (bi i)) (old (w.lane2 r l))) ∧
          v.lane2 (r + 2) l = BitVec.ofNat 64
            ((List.range 4).foldl (fun c i => step (step c (ar i) (bi i)) (ai i) (br i)) (old (w.lane2 (r + 2) l)))) ∧
        (∀ i < xmmRegs o.form, v.regs.vfull.getLsbD (o.d + i) = true) ∧
        (∀ r, r < o.d ∨ o.d + xmmRegs o.form ≤ r → v.rdV r = w.rdV r) ∧ (∀ r, v.rdS r = w.rdS r) ∧ v.flow = w.flow ∧
        (s.tabs.power = .active → t.pkg.coreClock = max s.pkg.coreClock (t0 + if o.form = 3 then 24 else 40)) ∧ t.die = s.die)

/-- R72, R73, R75 to R77, R79 to R81, R260 to R262: TLENC_COMPLETE, TLDEC_COMPLETE and DECS_COMPLETE do the work at the head of their
queue: a status and tile bytes, or the lanes' elements with INVALID for a lane that has none; the destination becomes full. What
TLENC and DECS write is said from the rules of the form and of the code. Which bytes an element's read takes is the model's choice
(log 63), with what a dense tile and a NaN block of an escape row leave (log 45); that time passes to the end of the work is its
reading (log 60). -/
def Statements.TileUnitsRun : Prop :=
  ∀ (s : State) (core : BitVec 7) (o : UnitOp) (bk : Nat) (b : Block) (w : Wave), o.blk = some bk → s.blk? bk = some b →
    s.wave? o.wid = some w →
    (∀ rest, (s.core core.toNat).tlfq = o :: rest → o.enc = true → s.tlencReady core.toNat b o = true → o.d < 64 →
      let r := tlencResult b o
      ∃ t v b', exec (.tlencComplete core) s = .next t ∧ t.wave? o.wid = some v ∧ v.rdS o.d = BitVec.ofNat 32 r.1 ∧
        v.regs.sfull.getLsbD o.d = true ∧ v.flow = { w.flow with hold := .run } ∧ (t.core core.toNat).tlfq.length = rest.length ∧
        t.blk? bk = some b' ∧ b'.tags = b.tags ∧ (r.2 = [] → b' = b) ∧
        (∀ a, (∀ p ∈ r.2, a < p.1 ∨ p.1 + p.2.length ≤ a) → look 0 b'.tile a = look 0 b.tile a) ∧
        (∀ pre p post (i x : Nat), r.2 = pre ++ p :: post → p.2[i]? = some x →
          (∀ q ∈ post, p.1 + i < q.1 ∨ q.1 + q.2.length ≤ p.1 + i) → look 0 b'.tile (p.1 + i) = BitVec.ofNat 8 x) ∧
        (r.1 < 0x80000000 →
          let h := TlfHdr.parse (b.nums o.dst 16)
          let p := if o.arg = 0 then h.dr else o.arg
          let e := tlfEncode h ((List.range h.rows).map fun i => b.nums (o.src + i * p) h.dr)
          r.1 = e.2.esccnt + (if e.2.dense then 65536 else 0) ∧ r.2 = e.1.map fun w => (o.dst + w.1, w.2)) ∧
        ((TlfHdr.parse (b.nums o.dst 16)).validShape = false → v.rdS o.d = 0x80000001 ∧ b' = b) ∧
        (let n := fun (a : Nat) => (look 0 b.tile a).toNat
         let h := fun (j : Nat) => n (o.dst + j)
         let shape := fun (row : Nat → Nat → Nat) => ({ kind := h 0 % 16, rows := h 2 + 256 * h 3, e := h 4 + 256 * h 5, l := h 6 + 256 * h 7,
                                                         cap := h 8 + 256 * h 9, row := row } : EncJob)
         let dr := (shape fun _ _ => 0).dr
         let p := if o.arg = 0 then dr else o.arg
         let g := shape fun i j => n (o.src + i * p + j)
         let size := 16 + g.rows * g.l + g.cap * dr
         let valid := g.Valid h
         let inside := o.src + g.rows * p ≤ b.tmem ∧ o.dst + size ≤ b.tmem
         let apart := ¬(o.src < o.dst + size ∧ o.dst < o.src + g.rows * p) ∧ dr ≤ p
         let after := fun (cycles : Nat) => s.tabs.power = .active → t.pkg.coreClock = max s.pkg.coreClock (o.since + cycles)
         (¬valid → v.rdS o.d = 0x80000001 ∧ b' = b ∧ after 8) ∧
         (valid → ¬inside → v.rdS o.d = 0x80000002 ∧ b' = b ∧ after 8) ∧
         (valid → inside → ¬apart → v.rdS o.d = 0x80000003 ∧ b' = b ∧ after 8) ∧
         (valid → inside → apart → g.Leaves o.dst n (fun a => (look 0 b'.tile a).toNat) ∧ after (8 + g.rows * ((g.e + 31) / 32)) ∧
           v.rdS o.d = BitVec.ofNat 32 (if g.dense then 65536 else g.esc g.rows)))) ∧
    (∀ rest, (s.core core.toNat).tlfq = o :: rest → o.enc = false → s.tldecReady b o = true → o.d + 2 ≤ 128 →
      (o.lanes.map (·.1)).Nodup → (∀ x ∈ o.lanes, x.1 < 32) → w.mem.v2s = [] →
      ∃ t v, exec (.tldecComplete core) s = .next t ∧ t.wave? o.wid = some v ∧ (t.core core.toNat).tlfq.length = rest.length ∧
        (let kind := (TlfHdr.parse (b.nums o.src 16)).kind
         (∀ x ∈ o.lanes, tldecElem b o x.2 = none →
           v.lane o.d x.1 = (if isBx kind then 0x7FC00000 else 0) ∧ v.lane (o.d + 1) x.1 = 0xFFFFFFFF ∧
             v.csr.arithf &&& fINVALID = fINVALID) ∧
         (∀ x ∈ o.lanes, ∀ e, tldecElem b o x.2 = some e →
           (isBx kind = false → v.lane o.d x.1 = BitVec.ofInt 32 e.v) ∧
           (isBx kind = true → e.x = 255 → v.lane o.d x.1 = 0x7FC00000 ∧ v.csr.arithf &&& fNANBLOCK = fNANBLOCK) ∧
           (isBx kind = true → e.x ≠ 255 → v.lane o.d x.1 = BitVec.ofNat 32
             (fp32.conv .rne (.fin (decide (e.v < 0)) e.v.natAbs ((e.x : Int) - 127 - e.mu - ((bxB kind : Int) - 1)))).1) ∧
           let wide := e.tms.any fun y => y.2 == 8
           v.lane (o.d + 1) x.1 = BitVec.ofNat 32 (e.cnt + if wide then 2 ^ 24 else
             16 * (List.range e.tms.length).foldl (fun n i => n + termNibble (e.tms.getD i (false, 0)) * 16 ^ i) 0)) ∧
         (∀ l < 32, l ∉ o.lanes.map (·.1) → v.lane o.d l = w.lane o.d l ∧ v.lane (o.d + 1) l = w.lane (o.d + 1) l)) ∧
        v.regs.vfull.getLsbD o.d = true ∧ v.regs.vfull.getLsbD (o.d + 1) = true ∧ t.blk? bk = some b ∧ v.flow = w.flow ∧
        (s.tabs.power = .active → t.pkg.coreClock = max s.pkg.coreClock (o.since + 4 + (o.lanes.length + 7) / 8))) ∧
    (∀ rest, (s.core core.toNat).decq = o :: rest → s.decsReady b o = true → o.d < 64 →
      let r := decsResult b o
      ∃ t v b', exec (.decsComplete core) s = .next t ∧ t.wave? o.wid = some v ∧ v.rdS o.d = BitVec.ofNat 32 r.1 ∧
        v.regs.sfull.getLsbD o.d = true ∧ v.flow = w.flow ∧ (t.core core.toNat).decq.length = rest.length ∧ t.blk? bk = some b' ∧
        b'.tags = b.tags ∧ (∀ i x, r.2.1[i]? = some x → look 0 b'.tile (o.dst + i) = BitVec.ofNat 8 x) ∧
        (∀ i, i < o.dst ∨ o.dst + r.2.1.length ≤ i → look 0 b'.tile i = look 0 b.tile i) ∧
        (o.arg = 0 ∨ 2047 < o.arg → v.rdS o.d = 0x80000002 ∧ b' = b) ∧
        (let c : SscJob := { lc := o.arg, byte := fun i => (look 0 b.tile (o.src + i)).toNat }
         let long := o.arg = 0 ∨ 2047 < o.arg
         let apart := o.dst + c.raw ≤ b.tmem ∧ ¬(o.src < o.dst + c.raw ∧ o.dst < o.src + o.arg)
         let after := fun (cycles : Nat) => s.tabs.power = .active → t.pkg.coreClock = max s.pkg.coreClock (o.since + cycles)
         let whole := 12 + (c.raw + c.n - 1) / c.n
         (long → after 4) ∧
         (¬long → b.tmem < o.src + o.arg → v.rdS o.d = 0x80000003 ∧ b' = b ∧ after 4) ∧
         (¬long → o.src + o.arg ≤ b.tmem → ¬c.HeaderOk → v.rdS o.d = 0x80000001 ∧ b' = b ∧ after 4) ∧
         (¬long → o.src + o.arg ≤ b.tmem → c.HeaderOk → ¬apart → v.rdS o.d = 0x80000003 ∧ b' = b ∧ after 4) ∧
         (¬long → o.src + o.arg ≤ b.tmem → c.HeaderOk → apart → (∀ out, ¬c.Gives out) → v.rdS o.d = 0x80000001 ∧ b' = b ∧ after whole) ∧
         (¬long → o.src + o.arg ≤ b.tmem → c.HeaderOk → apart → ∀ out, c.Gives out → v.rdS o.d = BitVec.ofNat 32 c.raw ∧ after whole ∧
           (∀ j < c.raw, (look 0 b'.tile (o.dst + j)).toNat = out j) ∧
           ∀ a, a < o.dst ∨ o.dst + c.raw ≤ a → look 0 b'.tile a = look 0 b.tile a)))

/-- R120, R262: DECS of a wave with no block, whose TMEM is 0, ends with the status that its length or its range gives. -/
def Statements.DecsWithoutBlock : Prop :=
  ∀ (s : State) (core : BitVec 7) (o : UnitOp) (rest : List UnitOp) (w : Wave), (s.core core.toNat).decq = o :: rest → o.blk = none →
    o.d < 64 → s.wave? o.wid = some w →
      ∃ t v, exec (.decsComplete core) s = .next t ∧ t.wave? o.wid = some v ∧
        v.rdS o.d = (if o.arg = 0 ∨ 2047 < o.arg then 0x80000002 else 0x80000003) ∧ v.regs.sfull.getLsbD o.d = true ∧ v.flow = w.flow ∧
        (t.core core.toNat).decq.length = rest.length ∧ t.sched = s.sched ∧ t.die = s.die ∧
        (s.tabs.power = .active → t.pkg.coreClock = max s.pkg.coreClock (o.since + 4))

/-- R43, R45, R46, R220, Table 3.10: CSRR gives each listed register, by lane for LANE; HBEAT's low half latches its high half,
and the next read of the high half gives the latched one. CSRW writes a register with Access RW, and no other. -/
def Obligations.SpecialRegisters : Prop :=
  ∀ (s : State) (q wa : Bool) (d a : BitVec 7) (n : BitVec 8),
    (s.mayRun (csrrUse q d) = true →
      (n.toNat ≤ 0x22 →
        ∃ t, exec (.csrr q d n) s = .next t ∧
          s.RegsOnly t 0 (if q then [] else [d.toNat]) (if q then [d.toNat] else []) [] 0 ∧
          (q = true → ∀ e ∈ s.csrTable s.w.firstLane, e.1 = n.toNat → t.w.rdS d.toNat = e.2) ∧
          (q = false → ∀ l ∈ s.w.lanes, ∀ e ∈ s.csrTable l, e.1 = n.toNat → t.w.lane d.toNat l = e.2)) ∧
      (n = 0x23 ∨ n = 0x24 →
        let beat := BitVec.ofNat 64 (s.pkg.clock / 128)
        let x := if n = 0x23 then beat.extractLsb' 0 32 else s.w.csr.hbLatch.getD (beat.extractLsb' 32 32)
        ∃ t, exec (.csrr q d n) s = .next t ∧ s.SameRest t 0 ∧
          s.w.SameRegs t.w (if q then [] else [d.toNat]) (if q then [d.toNat] else []) [] ∧
          t.w.flow = s.w.advance.flow ∧
          t.w.csr = { s.w.advance.csr with hbLatch := if n = 0x23 then some (beat.extractLsb' 32 32) else none } ∧
          (q = true → t.w.rdS d.toNat = x) ∧ (q = false → ∀ l ∈ s.w.lanes, t.w.lane d.toNat l = x))) ∧
    (s.mayRun (useOf 6 [bsrc q a 1 wa] []) = true →
      let x := if q then s.w.rdS a.toNat else s.w.lane a.toNat s.w.firstLane
      ∀ e ∈ csrWrites s.w.advance.csr x, e.1 = n.toNat →
        ∃ t, exec (.csrw q wa a n) s = .next t ∧ s.SameRest t 0 ∧ s.w.SameRegs t.w [] [] [] ∧ t.w.flow = s.w.advance.flow ∧
          t.w.csr = e.2)

/-- R54, R331, R332, R337: a trap that is no supervisor fault of itself goes to TVEC with the position, the code and the
encoding saved; with TVEC 0, or in a handler or continuation, it stops the job and reports. The handler's address is taken
modulo 2^49, the model's reading (log 24). -/
def Obligations.TrapsTaken : Prop :=
  ∀ (s : State) (code fva : Nat) (lanes : Word), s.w.id.chain = none → s.w.mem.region = none → s.w.flow.hold ≠ .blank →
    (supervisorCode code = false → s.w.flow.handler = false → s.w.flow.contin = false → s.w.csr.tvec ≠ 0 →
      let t := s.takeTrap code fva lanes
      let x := s.xwords s.w
      t = { s with w := t.w } ∧ t.w.id = s.w.id ∧ t.w.regs = s.w.regs ∧
      t.w.flow = { s.w.flow with pc := headerPos s.w.csr.tvec.toNat, clause := none, handler := true, hold := .run, stalled := false
                                 ready := 0, skip := false } ∧
      t.w.csr = { s.w.csr with fcause := BitVec.ofNat 32 code, fva := BitVec.ofNat 64 fva, flanes := lanes, epc := s.w.flow.pc
                               xword0 := x.1, xword1 := x.2.1, ximm := x.2.2 }) ∧
    (∀ (c : Clause) (a b : Word) (rest : List Word), posIndex s.w.flow.pc ≠ 15 → s.w.flow.clause = some c →
      (wordsAt (posIndex s.w.flow.pc) c.words = a :: b :: rest → opcodeOf a ≠ 0xC2 →
        s.xwords s.w = (a, b, if opcodeWords (opcodeOf a) = 2 then b else 0)) ∧
      (wordsAt (posIndex s.w.flow.pc) c.words = [a] ∨ opcodeOf a = 0xC2 ∧ wordsAt (posIndex s.w.flow.pc) c.words = a :: b :: rest →
        s.xwords s.w = (a, 0, 0))) ∧
    (s.host.jobDead = false → supervisorCode code = true ∨ s.w.flow.handler = true ∨ s.w.flow.contin = true ∨ s.w.csr.tvec = 0 →
      let t := s.takeTrap code fva lanes
      t.host.jobDead = true ∧ t.issues = false ∧ 2 ∈ t.tabs.msix ∧
      t.host.supf = [BitVec.ofNat 64 code, s.w.flow.pc, BitVec.ofNat 64 fva, BitVec.ofNat 64 lanes.toNat, BitVec.ofNat 64 s.w.id.core,
        BitVec.ofNat 64 s.w.id.slot, BitVec.ofNat 64 s.host.jobid.toNat, 0])

/-- R221 to R223, R226, R333; 03 R29, R34, R35, R54: TRAP, TFENCE, RFT, RESUMEF and BKPT. RFT resumes after the position in EPC,
RESUMEF at the position in FPC; a header position is retried as it stands; reserved bits trap, and so does an index that names no
instruction of its clause: that it does so at the return itself, and that positions are taken modulo 2^49, is the model's reading
(log 24, 25). Where the clause cannot be fetched or its header is bad the return takes effect all the same, so that the fault or
the trap is met at that header; that the wave meanwhile stands at the position with a mark to go on behind it is the model's
reading (log 29), with the walk for which a return parks. A token written by the handler that names no outstanding fault is taken
as serviced (log 26). TFENCE waits for the operations that OR flags (log 27). -/
def Statements.TrapInstructions : Prop :=
  ∀ (s : State) (code : BitVec 7), s.mayRun (useOf 6 [] []) = true →
    let w := s.w
    let m := w.flow.mask
    exec (.trap code) s = .next (s.takeTrap (0x80 + code.toNat) 0 m) ∧
    (s.flagsPending w = true → exec .tfence s = .next s.waiting) ∧
    (s.flagsPending w = false → w.csr.arithf &&& w.csr.arithe = 0 → ∃ t, exec .tfence s = .next t ∧ s.PassedOn t) ∧
    (s.flagsPending w = false → w.csr.arithf &&& w.csr.arithe ≠ 0 → exec .tfence s = .next (s.takeTrap cARITH 0 m)) ∧
    (let i := posIndex w.csr.epc
     let hdr := posHdr w.csr.epc
     (∀ pc, posOk w.csr.epc = true → (i = 15 ∧ pc = w.csr.epc) ∨
        (i ≠ 15 ∧ ∃ c, s.fetchClause w hdr = .clause c ∧ ((i + 1 < hdrNI c.hdr ∧ pc = mkPos (i + 1) hdr) ∨
          (i + 1 = hdrNI c.hdr ∧ pc = headerPos (nextHdr c hdr)))) →
      ∃ t, exec .rft s = .next t ∧ s.Jumped t { w.flowAt pc m w.flow.rpc w.flow.stack with handler := false }) ∧
     (posOk w.csr.epc = true → i ≠ 15 → (s.fetchClause w hdr = .badHeader ∨ ∃ code va, s.fetchClause w hdr = .fault code va) →
      ∃ t, exec .rft s = .next t ∧ s.Jumped t { w.flowAt w.csr.epc m w.flow.rpc w.flow.stack with handler := false, skip := true }) ∧
     (posOk w.csr.epc = true → i ≠ 15 → ∀ p, s.fetchClause w hdr = .walk p → ∃ t, exec .rft s = .next t ∧ s.ParkedOnWalk t p) ∧
     (posOk w.csr.epc = false ∨ (i ≠ 15 ∧ ∃ c, s.fetchClause w hdr = .clause c ∧ hdrNI c.hdr ≤ i) →
      exec .rft s = .next (s.takeTrap cRESERVED_ENCODING 0 m))) ∧
    (w.csr.ftoken = 0 → ∃ t, exec .resumef s = .next t ∧ s.PassedOn t) ∧
    (let i := posIndex w.csr.fpc
     let clause := s.fetchClause w (posHdr w.csr.fpc)
     w.csr.ftoken ≠ 0 → (s.die.faults.any fun f => f.token == w.csr.ftoken.toNat) = false →
     (posOk w.csr.fpc = false ∨ (i ≠ 15 ∧ ∃ c, clause = .clause c ∧ hdrNI c.hdr ≤ i) →
      exec .resumef s = .next (s.takeTrap cRESERVED_ENCODING 0 m)) ∧
     (posOk w.csr.fpc = true → i ≠ 15 → ∀ p, clause = .walk p → ∃ t, exec .resumef s = .next t ∧ s.ParkedOnWalk t p) ∧
     (posOk w.csr.fpc = true → i = 15 ∨ clause = .badHeader ∨ (∃ code va, clause = .fault code va) ∨
        (∃ c, clause = .clause c ∧ i < hdrNI c.hdr) →
      ∃ t, exec .resumef s = .next t ∧ t = { s with w := t.w } ∧ t.w.id = w.id ∧ t.w.regs = w.regs ∧
        t.w.csr = { w.advance.csr with ftoken := 0 } ∧
        t.w.flow = { w.flowAt w.csr.fpc (w.flow.retMask &&& w.flow.alive) w.flow.retRpc (w.flow.stack.take w.flow.retDepth) with
                     contin := false, hold := .run })) ∧
    (w.csr.ftoken ≠ 0 → (s.die.faults.any fun f => f.token == w.csr.ftoken.toNat) = true →
      exec .resumef s = .next (s.waiting.onW fun v => { v with flow := { v.flow with hold := .fault [w.csr.ftoken.toNat] } })) ∧
    (s.host.bkpten = false → ∃ t, exec .bkpt s = .next t ∧ s.PassedOn t) ∧
    (s.host.bkpten = true →
      ∃ t, exec .bkpt s = .next t ∧ t.w.flow = { w.flow with hold := .bkpt, stalled := false } ∧ t.w.regs = w.regs ∧ t.w.csr = w.csr ∧
        t.others = s.others ∧ t.cores = s.cores ∧ t.die = s.die ∧ t.sched = s.sched ∧ t.pkg = s.pkg ∧
        (s.host.bkq.length < 64 → t.host = { s.host with bkq := s.host.bkq ++ [(w.id.core, w.flow.pc, w.id.slot)] }) ∧
        (64 ≤ s.host.bkq.length → t.host = { s.host with bkwait := s.host.bkwait ++ [(w.id.core, w.flow.pc, w.id.slot)] }))

/-- R333, R334, R336; 09 R153: taking a PAGE_ABSENT or a HANDOVER outside a region. The fault joins the outstanding one of its
page or range, or creates one with the next token, which enters FAULTQ if it is a page's; FCAUSE, FVA and FLANES name it.
Outside handler and continuation FPC, FTOKEN and the return state are saved, and the wave goes to CONT, or with CONT 0 parks
on the token; inside one they stay as they are and the wave parks. A load whose pages' walks have all ended absent takes it
with its lanes. That FCAUSE, FVA and FLANES are set inside a handler or continuation is the model's reading (log 28). -/
def Statements.FaultsTaken : Prop :=
  ∀ (s : State) (code va : Nat) (lanes : Word), s.w.mem.region = none → s.w.flow.hold ≠ .blank →
    let w := s.w
    let key := s.faultKey code va
    let t := s.takeFault code [va] va lanes
    let named : WaveCsr := { w.csr with fcause := BitVec.ofNat 32 code, fva := BitVec.ofNat 64 va, flanes := lanes }
    (code = cPAGE_ABSENT → key = .page (va / 65536)) ∧
    (∃ tok, ((∀ f, s.die.faults.find? (fun f => f.key == key) = some f → tok = f.token ∧ t.die = s.die ∧ t.host = s.host) ∧
        ((∀ f ∈ s.die.faults, f.key ≠ key) → tok = s.die.tokens + 1 ∧ t.die.tokens = tok ∧
          (∃ f, t.die.faults = s.die.faults ++ [f] ∧ f.token = tok ∧ f.key = key) ∧
          (code = cPAGE_ABSENT → s.host.faultq.length < 256 →
            t.host.faultq = s.host.faultq ++ [(tok, BitVec.ofNat 64 (va % 2 ^ 49))]) ∧
          (code ≠ cPAGE_ABSENT → t.host = s.host))) ∧
      t.others = s.others ∧ t.cores = s.cores ∧ t.sched = s.sched ∧ t.pkg = s.pkg ∧ t.w.id = w.id ∧ t.w.regs = w.regs ∧
      (w.flow.handler = false → w.flow.contin = false →
        t.w.csr = { named with fpc := w.flow.pc, ftoken := BitVec.ofNat 64 tok } ∧
        t.w.flow.retMask = w.flow.mask ∧ t.w.flow.retRpc = w.flow.rpc ∧ t.w.flow.retDepth = w.flow.stack.length ∧
        t.w.flow.mask = w.flow.mask ∧ t.w.flow.stack = w.flow.stack ∧ t.w.flow.handler = false ∧
        (w.csr.cont ≠ 0 → w.id.kind ≠ .kindling →
          t.w.flow.contin = true ∧ t.w.flow.pc = headerPos w.csr.cont.toNat ∧ t.w.flow.clause = none ∧ t.w.flow.hold = w.flow.hold) ∧
        (w.csr.cont = 0 ∨ w.id.kind = .kindling → t.w.flow.contin = false ∧ t.w.flow.pc = w.flow.pc ∧ t.w.flow.hold = .fault [tok])) ∧
      (w.flow.handler = true ∨ w.flow.contin = true →
        t.w.csr = named ∧ t.w.flow = { w.flow with hold := .fault [tok] })) ∧
    (∀ (m : MA 14) (d : BitVec 7) (scope : BitVec 2) (ord size : BitVec 3) (sx : Bool), s.mayRun (ldUse m d size) = true →
      w.flow.mask ≠ 0 →
      (∀ x ∈ w.addrs m, x.2 % bytesOf size = 0 ∧ x.2 < 2 ^ 48 ∧ s.tlbHit w.id.core (x.2 / 65536) = none ∧
        w.mem.walked.contains (x.2 / 65536) = true ∧ s.walk (x.2 / 65536 * 65536) = .absent) →
        exec (.ld m d scope ord size sx) s = .next (s.takeFault cPAGE_ABSENT ((w.addrs m).map (·.2)) ((w.addrs m).headD (0, 0)).2
          (maskOf ((w.addrs m).map (·.1)))))

/-- R27, R29, R32, R34, R53, R88: CLAUSE_ENTRY at a header that R29 lets pass takes the clause's words and, its waits
satisfied, goes to instruction 0; a bad header traps; a word that matches no encoding traps RESERVED_ENCODING. -/
def Obligations.ClauseEntries : Prop :=
  ∀ (s : State) (h x : Word) (ws : List Word), s.issues = true →
    let w := s.w
    let hdr := posHdr w.flow.pc
    (posIndex w.flow.pc = 15 → w.flow.clause = none → w.flow.stopReq = false → w.flow.rpc.toNat ≠ hdr → hdr % 4 = 0 →
      s.fetchWord w hdr = .words [h] →
      (hdrOk h = true → s.fetchInstrs w (hdrNI h) (hdr + 4) = .words ws → s.waitsOk w h = true →
        ∃ t, exec .clauseEntry s = .next t ∧ t = { s with w := t.w } ∧ t.w.id = w.id ∧ t.w.regs = w.regs ∧ t.w.csr = w.csr ∧
          t.w.flow = { w.flow with clause := some { hdr := h, words := ws }, pc := mkPos 0 hdr, stalled := false }) ∧
      (hdrOk h = true → s.fetchInstrs w (hdrNI h) (hdr + 4) = .words ws → s.waitsOk w h = false →
        ∃ t, exec .clauseEntry s = .next t ∧ t = { s with w := t.w } ∧ t.w.regs = w.regs ∧ t.w.flow.pc = w.flow.pc ∧
          t.w.flow.stalled = true) ∧
      (hdrOk h = false → exec .clauseEntry s = .next (s.badHeader hdr))) ∧
    (w.atWord x = true → exec (.reservedOpcode x) s = .next (s.takeTrap cRESERVED_ENCODING 0 w.flow.mask)) ∧
    (hdrOk h = true ↔ h.extractLsb' 24 8 = 0xE8 ∧ h.extractLsb' 18 6 = 0 ∧ h.extractLsb' 4 3 ≠ 1 ∧ h.extractLsb' 4 3 ≠ 7 ∧
      h.extractLsb' 0 4 ≠ 0)

/-- R20, R22 to R24, R367: LINK_FAILURE takes a link down, and a near link's retry buffers go before what waits for its
detour, in order; vector 5 is raised where LINKSTAT changes. A packet that arrives by the detour takes effect once: a request
is served at the home, whose response takes the detour back, and a response reaches the reader. HOME_REQUEST reads or writes
its 8 bytes at the home that its hint names or that the hinted die forwards it to; over a failed link it takes the detour; of
an unreachable die a read is answered with poison and a write is lost. What a write stores is stated for pages without COMP
(with COMP see BLOCK_WRITE_BACK). How far a packet is acknowledged, and when the packets of a detour move, is the model's
reading (log 56). -/
def Statements.Links : Prop :=
  ∀ (s : State) (link : FabricLink) (k : BitVec 4) (hint : BitVec 3) (src : Requester) (fields : BitVec 6) (pa : BitVec 46)
    (wr : Bool) (data : BitVec 64),
    (s.pkg.isUp link = false → exec (.linkFailure link) s = .next s) ∧
    (s.pkg.isUp link = true →
      ∃ t, exec (.linkFailure link) s = .next t ∧ t.pkg.isUp link = false ∧ t.waves = s.waves ∧ t.die = s.die ∧
        t.pkg.dram = s.pkg.dram ∧
        t.tabs.msix = (if t.pkg.linkstat s.die.die = s.pkg.linkstat s.die.die then s.tabs.msix else s.tabs.msix ++ [5]) ∧
        ∀ k : BitVec 3, link = .near k → s.pkg.bridge = true → s.pkg.side = 0xFF → (∀ j, j ≠ k.toNat → s.pkg.linkUp j = true) →
          ∀ c, (t.pkg.dir k.toNat c).retry = [] ∧
            ∃ pre, s.pkg.inFlight k.toNat c = pre ++ (s.pkg.dir k.toNat c).waiting ∧
              t.pkg.inFlight k.toNat c = pre ++ (s.pkg.dir k.toNat c).retry ++ (s.pkg.dir k.toNat c).waiting) ∧
    (let q := inputQueue (k.toNat % 8) (k.getLsbD 3)
     (s.pkg.vc3At q = [] → exec (.reroutedPacketReceipt k) s = .next (s.onPkg Pkg.vc3Move)) ∧
     (∀ x rest, s.pkg.vc3At q = x :: rest →
      (x.no < (s.pkg.dir x.link x.toCd).delivered →
        exec (.reroutedPacketReceipt k) s = .next (s.onPkg fun p => (p.onVc3 q fun _ => rest).vc3Move)) ∧
      ((s.pkg.dir x.link x.toCd).delivered ≤ x.no → x.toCd = true →
        ∃ t, exec (.reroutedPacketReceipt k) s = .next t ∧ (t.pkg.dir x.link true).delivered = x.no + 1 ∧
          t.waves = s.waves ∧ t.pkg.dram = s.pkg.dram ∧
          ∀ p v, x.body = .reply p v → t.tabs.lastRead = (p, if p then 0 else v)) ∧
      ((s.pkg.dir x.link x.toCd).delivered ≤ x.no → x.toCd = false → x.src = .thisDie → x.link = s.pkg.homeOf x.pa → x.pa % 8 = 0 →
        s.pkg.linkUp x.link = false → s.pkg.unreachable s.die.die x.link = false → inReserve (s.pkg.stackBlock x.pa) = false →
        paOk x.pa = true → (s.pkg.readBlock s.die.die (x.pa / 256 * 256) x.fields).1 = false → s.tabs.halted = false →
          ∃ t, exec (.reroutedPacketReceipt k) s = .next t ∧ (t.pkg.dir x.link false).delivered = x.no + 1 ∧ t.waves = s.waves ∧
            (x.body = .read → t.pkg.dram = s.pkg.dram ∧ ∃ y ∈ t.pkg.inFlight x.link true,
              y.body = .reply false (bytesNat ((List.range 8).map fun i => s.homeByte x.fields (x.pa + i)))) ∧
            ∀ v, x.body = .write v → fieldsComp x.fields = false → s.Written t x.fields x.pa 8 v))) ∧
    (let a := pa.toNat / 8 * 8
     let h := s.pkg.homeOf a
     let d := s.dieOf src
     let out := exec (.homeRequest src hint { pa := pa, fields := fields } wr data) s
     paOk a = true →
      (s.pkg.unreachable d hint.toNat = true →
        ∃ t, out = .next t ∧ t.waves = s.waves ∧ t.pkg.dram = s.pkg.dram ∧ (wr = false → t.tabs.lastRead = (true, 0))) ∧
      (s.pkg.unreachable d hint.toNat = false → s.pkg.linkUp hint.toNat = false →
        ∃ t, out = .next t ∧ t.waves = s.waves ∧ t.pkg.dram = s.pkg.dram ∧ t.tabs = s.tabs ∧
          ∃ x ∈ t.pkg.inFlight hint.toNat false, x.src = src ∧ x.pa = a ∧ x.fields = fields.toNat ∧
            x.body = (if wr then .write data.toNat else .read) ∧ x.no = (s.pkg.dir hint.toNat false).nextSeq) ∧
      (s.pkg.unreachable d hint.toNat = false → s.pkg.linkUp hint.toNat = true →
        (hint.toNat = h ∨ (s.pkg.canForward d hint.toNat a = true ∧ s.pkg.forwardTo hint.toNat a = h)) →
        s.pkg.unreachable d h = false → s.homeGood fields.toNat a = true → s.tabs.halted = false → (∀ k, s.regionHeld none k = false) →
          ∃ t, out = .next t ∧ t.waves = s.waves ∧ (wr = false → s.Read t fields.toNat a 8) ∧
            (wr = true → fieldsComp fields.toNat = false → s.Written t fields.toNat a 8 data.toNat)))

/-- R80 to R84, R127, R131, R151; 01 R20: BLOCK_WRITE_BACK leaves the line clean and its bytes at the home: as they are on a page
without COMP, else as the chunk of R82, under the code that R84 gives. BLOCK_READ brings a block into the L2 as the page of the
access reads it. Both go to the memory die that the TLBs name; one that is not the home forwards them, and the response corrects
the TLBs. That a die none of whose TLBs holds the frame asks the home is the model's reading (log 10), that BLOCK_READ takes its
fields from a TLB is log 39. -/
def Statements.Blocks : Prop :=
  ∀ (s : State) (pa : BitVec 46), s.tabs.halted = false →
    let a := pa.toNat / 256 * 256
    let st := s.pkg.stackBlock a
    (∀ l, s.l2? (pa.toNat / 256) = some l → l.dirty = true → l.poison = false → paOk a = true → inReserve st = false →
      s.Arrives a →
        ∃ t, exec (.blockWriteBack pa) s = .next t ∧ t.l2? (pa.toNat / 256) = some { l with dirty := false } ∧
          t.w = s.w ∧ t.others = s.others ∧ (s.Straight a → s.Hinted t a) ∧
          (fieldsComp l.fields = false → t.pkg.readBlock t.die.die a l.fields = (false, l.data)) ∧
          (fieldsComp l.fields = true →
            let bs := l.data.toList.map (·.toNat)
            let code := blockCode (fieldsKeyen l.fields) bs
            t.pkg.blockMeta st = { code := code, fields := l.fields % 64 + 64 * s.pkg.keyTag l.fields } ∧
            ∀ (i x : Nat), (storedBytes code bs)[i]? = some x → look 0 t.pkg.dram (st + i) = BitVec.ofNat 8 x)) ∧
    (∀ e, s.tlbOf (pa.toNat / 65536) = some e → s.keyAbsent e.fields = false → paOk pa.toNat = true →
      s.Arrives a → s.Straight a → s.l2? (pa.toNat / 256) = none → s.setSize (pa.toNat / 256) < 16 →
        ∃ t l, exec (.blockRead pa) s = .next t ∧ t.l2? (pa.toNat / 256) = some l ∧
          (l.poison, l.data) = s.pkg.readBlock s.die.die a e.fields ∧ l.dirty = false ∧ l.fields = e.fields ∧
          t.pkg = s.pkg.recode s.die.die a e.fields ∧ t.w = s.w ∧ t.others = s.others ∧ s.Hinted t a)

/-- R149: at the end of a window a group with at least 4096 writes by the far die, at most half as many by the near one, and fewer
than half as many to its partner, begins to swap with its partner, and no other group does; the window's counts of the memory die
and those of a partner that swaps are 0; an
exchange swaps two blocks with their metadata, and the last one of a frame switches its entry. That the counts of a window are
kept for the partner's test is the model's reading (log 57). -/
def Obligations.Migration : Prop :=
  ∀ (s : State) (md : BitVec 3) (lframe : BitVec 20) (blk : BitVec 8),
    let m := md.toNat
    let far := 1 - m / 4
    let count := fun g => let c := look (0, 0) s.pkg.counts (m * 2 ^ 15 + g); if far = 0 then c.1 else c.2
    let near := fun g => let c := look (0, 0) s.pkg.counts (m * 2 ^ 15 + g); if far = 0 then c.2 else c.1
    (∃ t, exec (.migrationWindowEnd md) s = .next t ∧ t = { s with pkg := { s.pkg with home := t.pkg.home, counts := t.pkg.counts, ended := t.pkg.ended, windows := t.pkg.windows } } ∧
      t.pkg.windowNo m = s.pkg.windowNo m + 1 ∧
      (∀ g < 2 ^ 15, look (0, 0) t.pkg.counts (m * 2 ^ 15 + g) = (0, 0)) ∧
      (∀ g < 32700, s.pkg.home = [] → s.pkg.links = [] → s.pkg.bridge = true → s.pkg.counts.length = 1 →
        s.pkg.windowNo (m ^^^ 4) ≤ s.pkg.windowNo m →
        (4096 ≤ count g ∧ 2 * near g ≤ count g →
          ∀ i < 32, t.pkg.homeEnt ((32 * g + i) * 8 + m) =
            { valid := true, moving := true, nhome := m ^^^ 4, nframe := 32 * g + i, home := m, lframe := 32 * g + i } ∧
            t.pkg.homeEnt ((32 * g + i) * 8 + (m ^^^ 4)) =
              { valid := true, moving := true, nhome := m, nframe := 32 * g + i, home := m ^^^ 4, lframe := 32 * g + i }) ∧
        (0 < count g ∧ (count g < 4096 ∨ count g < 2 * near g) → t.pkg.home = [])) ∧
      (∀ g < 2 ^ 15, s.pkg.asBooted →
        let ct := look (0, 0) (if s.pkg.windowNo m < s.pkg.windowNo (m ^^^ 4) then s.pkg.ended else s.pkg.counts) ((m ^^^ 4) * 2 ^ 15 + g)
        let partner := if far = 0 then ct.1 else ct.2
        let swaps := g < 32700 ∧ 4096 ≤ count g ∧ 2 * near g ≤ count g ∧ 2 * partner < count g
        (swaps → look (0, 0) t.pkg.counts ((m ^^^ 4) * 2 ^ 15 + g) = (0, 0)) ∧
        (¬swaps → look (0, 0) t.pkg.counts ((m ^^^ 4) * 2 ^ 15 + g) = look (0, 0) s.pkg.counts ((m ^^^ 4) * 2 ^ 15 + g)) ∧
        ∀ i < 32, ∀ d ∈ [m, m ^^^ 4],
          (swaps → t.pkg.homeEnt ((32 * g + i) * 8 + d) =
            { valid := true, moving := true, nhome := d ^^^ 4, nframe := 32 * g + i, home := d, lframe := 32 * g + i }) ∧
          (¬swaps → t.pkg.homeEnt ((32 * g + i) * 8 + d) = s.pkg.homeEnt ((32 * g + i) * 8 + d)))) ∧
    (let lf := lframe.toNat
     let f := s.pkg.frameAt m lf
     let e := s.pkg.homeEnt f
     let a := m * 2 ^ 36 + lf * 2 ^ 16 + blk.toNat * 256
     let b := (m ^^^ 4) * 2 ^ 36 + lf * 2 ^ 16 + blk.toNat * 256
     f ≠ s.pkg.frameAt (m ^^^ 4) lf → e.moving = true → e.nframe = lf → e.nhome = m ^^^ 4 → s.pkg.exchanged.contains (a / 256) = false →
      ∃ t, exec (.homeBlockExchange md lframe blk) s = .next t ∧ t = { s with pkg := t.pkg } ∧
        (∀ i < 256, look 0 t.pkg.dram (a + i) = look 0 s.pkg.dram (b + i) ∧ look 0 t.pkg.dram (b + i) = look 0 s.pkg.dram (a + i)) ∧
        (∀ x, ¬(a ≤ x ∧ x < a + 256) → ¬(b ≤ x ∧ x < b + 256) → look 0 t.pkg.dram x = look 0 s.pkg.dram x) ∧
        t.pkg.blockMeta a = s.pkg.blockMeta b ∧ t.pkg.blockMeta b = s.pkg.blockMeta a ∧
        ((∃ i < 256, i ≠ blk.toNat ∧ s.pkg.exchanged.contains (a / 256 - blk.toNat + i) = false) → t.pkg.home = s.pkg.home) ∧
        ((∀ i < 256, i ≠ blk.toNat → s.pkg.exchanged.contains (a / 256 - blk.toNat + i) = true) →
          t.pkg.homeEnt f = { valid := e.valid, moving := false, nhome := 0, nframe := 0, home := e.nhome, lframe := e.nframe }))

/-- R6, R143, R360, R366; 21 R298: the heartbeat counts one for 128 package periods; a cold reset and a removal of power leave
what State.reset says, for the same die, with the firmware image that is found and what it sets of BOOTCFG, or with the dies
not enabled where the boot ROM refuses the image; sleep is entered only while no job runs. What State.reset holds by the model's
choice is log 5, 13 and 14, the image is a free value (log 4), and so are the IDs of the UALink ports, which the host sets and
nothing of the spec shows (log 76); that a reset keeps the die's number, the agenda and the counter of free values, and a tick passes
time, is log 56. -/
def Obligations.TimeAndReset : Prop :=
  ∀ s : State,
    let image := s.foundImage.1
    (∃ t, exec .heartbeatTick s = .next t ∧ t.heartbeat = s.heartbeat + 1 ∧ t.pkg.clock % 128 = 0 ∧ t.waves = s.waves ∧
      t.die = s.die ∧ t.host = s.host ∧ t.pkg.dram = s.pkg.dram ∧ (s.tabs.power ≠ .active → t.pkg.coreClock = s.pkg.coreClock)) ∧
    (∀ i ∈ [Instr.coldReset, .d3cold], ∃ t, exec i s = .next t ∧ t.w = State.reset.w ∧ t.others = [] ∧ t.cores = [] ∧
      t.die = { State.reset.die with die := s.die.die } ∧ t.sched = State.reset.sched ∧ t.host = State.reset.host ∧
      t.pkg = State.reset.pkg ∧
      t.tabs = (if image.good = true ∧ Config.rollbackCounter.toNat ≤ image.version.toNat
        then { State.reset.tabs with bootcfg := bootAccept image.bootcfg, firmware := some image, ports := t.tabs.ports }
        else { State.reset.tabs with enabled := false, ports := t.tabs.ports })) ∧
    (s.host.run = false → ∃ t, exec .sleepEntry s = .next t ∧ t = { s with tabs := { s.tabs with power := .sleep } }) ∧
    (s.host.run = true → exec .sleepEntry s = .next s) ∧
    (s.tabs.power = .sleep → ∃ t, exec .sleepExit s = .next t ∧ t = { s with tabs := { s.tabs with power := .idle } })

/-- R90, Table 7.2: which cards are well formed, and the first failure that the checks of an upload report: every card's
fields, then its successors, its PREDCNT and the cycles, then its size. An upload checks every card, a launch the cards `p` that it
has patched (R92). -/
def Statements.GraphChecks : Prop :=
  (∀ c : Nat,
    let fld := fun (a n : Nat) => c / 2 ^ a % 2 ^ n
    cardOk c = true ↔
      (∀ i < 10, fld (336 + 16 * i) 16 = 0xFFFF → fld (352 + 16 * i) 16 = 0xFFFF) ∧ fld 320 16 ≤ 1023 ∧ fld 304 16 ≤ 256 ∧
      1 ≤ fld 288 16 ∧ fld 256 32 ≤ 524288 ∧ fld 256 32 % 128 = 0 ∧ fld 250 6 = 0 ∧ fld 243 5 = 0 ∧
      (fld 249 1 = 1 → fld 184 8 = 8) ∧ fld 232 8 ≤ 128 ∧ 8 ≤ fld 224 8 ∧ fld 224 8 ≤ 128 ∧ fld 224 8 % 8 = 0 ∧
      1 ≤ fld 192 32 ∧ fld 192 32 ≤ 1048576 ∧ 1 ≤ fld 184 8 ∧ fld 184 8 ≤ 8 ∧ fld 192 32 % fld 184 8 = 0 ∧
      1 ≤ fld 176 8 ∧ fld 176 8 ≤ 16 ∧ fld 160 16 ≤ 256 ∧ fld 160 16 % 4 = 0 ∧
      fld 64 64 < 2 ^ 49 ∧ fld 64 64 % 4 = 0 ∧ fld 0 64 < 2 ^ 49 ∧ fld 0 64 % 4 = 0) ∧
  ∀ (s : State) (g : List Nat) (p : Nat → Bool),
    let card := fun (n : Nat) => g.getD n 0
    let fault := s.graphFault g p
    let good := fun (n : Nat) => cardOk (card n) = true
    let inside := fun (n : Nat) => ∀ m ∈ cdSuccs (card n), m < g.length
    let counted := fun (n : Nat) => cdPred (card n) = ((List.range g.length).filter fun m => (cdSuccs (card m)).contains n).length
    let ordered := ∃ rank : Nat → Nat, ∀ n < g.length, ∀ m < g.length, m ∈ cdSuccs (card n) → rank n < rank m
    let small := fun (n : Nat) => s.unitsPerCore (cardNeed (card n)) ≠ 0 ∧ (cdGridbar (card n) = true → cdBcap (card n) ≤ s.gmax (card n))
    let all := fun (f : Nat → Prop) => ∀ n < g.length, p n = true → f n
    let first := fun (f : Nat → Prop) (n : Nat) => n < g.length ∧ p n = true ∧ ¬f n ∧ ∀ m < n, p m = true → f m
    (∀ n, first good n → fault = some (0x80, n)) ∧
    (all good → ∀ n, first inside n → fault = some (0x81, n)) ∧
    (all good → all inside → ∀ n, first counted n → fault = some (0x81, n)) ∧
    (all good → all inside → all counted → ¬ordered → ∃ n, fault = some (0x81, n)) ∧
    (all good → all inside → all counted → ordered → ∀ n, first small n → fault = some (0x15, n)) ∧
    (all good → all inside → all counted → ordered → all small → fault = none)

/-- R91, R347, R350: GUPLOAD stores a graph that passes its checks and reports the first failure of one that does not, or that its
bytes cannot be read; GTRIG queues a launch or reports why not; a low half waits for its high half. That an upload waits after
HALT, since its reads could make the L2 write a line back (27 R364), is the model's reading (log 36). -/
def Statements.UploadsAndTriggers : Prop :=
  ∀ (s : State) (val : BitVec 64) (off : BitVec 16) (x : Word),
    let g := (val.extractLsb' 59 5).toNat
    let n := (val.extractLsb' 49 10).toNat + 1
    let used := (s.sched.waiting.any fun l => l.graph == g) || (match s.sched.running with | some l => l.graph == g | none => false)
    let gstat := fun (busy : Bool) (node code : Nat) =>
      BitVec.ofNat 32 ((if busy then 2 ^ 31 else 0) + g * 2 ^ 26 + node % 1024 * 2 ^ 16 + code % 256)
    let busy := s.host.upload.isSome || s.host.patching
    (busy = false →
      (val.extractLsb' 0 6 ≠ 0 →
        exec (.guploadW val) s = .next { s with host := { s.host with gstat := gstat false 0 0x80 } }) ∧
      (val.extractLsb' 0 6 = 0 → used = true →
        exec (.guploadW val) s = .next { s with host := { s.host with gstat := gstat false 0 0x83 } }) ∧
      (val.extractLsb' 0 6 = 0 → used = false → s.tabs.halted = true →
        ∃ t, exec (.guploadW val) s = .next t ∧ t = { s with host := { s.host with upload := some (val, 0), gstat := t.host.gstat } } ∧
          t.host.gstat.getLsbD 31 = true) ∧
      (val.extractLsb' 0 6 = 0 → used = false → s.tabs.halted = false →
        let read := s.engRead ((val.extractLsb' 0 49).toNat) (64 * n)
        (∀ a, read = .prot a ∨ read = .key a →
          exec (.guploadW val) s = .next { s with host := { s.host with gstat := gstat false 0 0x84 } }) ∧
        (∀ a, read = .poison a → ∃ t, exec (.guploadW val) s = .next t ∧ s.CodesOnly { t with host := s.host } ∧
          t.host = { s.host with gstat := gstat false 0 0x84 }) ∧
        ∀ u bs, read = .ok u bs → u.sched = s.sched → u.host = s.host →
          (u.graphFault (cardsOf bs n) (fun _ => true) = none →
            ∃ t, exec (.guploadW val) s = .next t ∧ look [] t.sched.graphs g = cardsOf bs n ∧ t.host.gstat = gstat false 0 0 ∧
              t.waves = u.waves ∧ t.sched = { u.sched with graphs := t.sched.graphs } ∧
              ∀ j, j ≠ g → look [] t.sched.graphs j = look [] s.sched.graphs j) ∧
          (∀ code node, u.graphFault (cardsOf bs n) (fun _ => true) = some (code, node) →
            ∃ t, exec (.guploadW val) s = .next t ∧ t.sched = u.sched ∧ t.host.gstat = gstat false node code))) ∧
    (busy = true → exec (.guploadW val) s = .next s) ∧
    (val.extractLsb' 0 4 ≠ 0 →
      exec (.gtrigW val) s = .next { s with host := { s.host with gstat := gstat busy 0 0x80 } }) ∧
    (val.extractLsb' 0 4 = 0 →
      (look? s.sched.graphs g = none →
        exec (.gtrigW val) s = .next { s with host := { s.host with gstat := gstat busy 0 0x85 } }) ∧
      (look? s.sched.graphs g ≠ none → 8 ≤ s.sched.waiting.length →
        exec (.gtrigW val) s = .next { s with host := { s.host with gstat := gstat busy 0 0x82 } }) ∧
      (look? s.sched.graphs g ≠ none → s.sched.waiting.length < 8 →
        ∃ t l, exec (.gtrigW val) s = .next t ∧ t.sched = { s.sched with waiting := s.sched.waiting ++ [l], launchNo := s.sched.launchNo + 1 } ∧
          l.graph = g ∧ l.gtrig = val ∧ t = { s with sched := t.sched })) ∧
    (∀ e ∈ ([(0x00, { s.host with gtrigLow := x }), (0x08, { s.host with guploadLow := x }), (0x28, { s.host with shootLow := x }),
        (0x70, { s.host with faultdoneLow := x })] : List (Nat × HostRegs)), e.1 = off.toNat →
      exec (.lowHalfWrite off x) s = .next { s with host := e.2 })

/-- R88, R92 to R96, R335, R336, Table 7.4: a launch with no patches starts, each card with PREDCNT on its counter; one with patches
applies them in order, checks the patched cards again and starts, or leaves the queue with the code of what is wrong with an entry,
a card or the list's page; where that page is absent it waits on its fault, and no LAUNCH_START goes on before. Of the cards that
may launch, in the order of R95, the first that fits launches a cluster of blocks on the lowest cores of the lowest hardware
cluster, each wave as R88 says, after an acquire, or its whole gang; a card completes with a release on the cores of its waves, and
the last one ends the launch. Which of two gangs of one priority goes on, and that patches of a launch that a check turns away stay
in the graph, is the model's reading (log 54, 55), with how L1s become one (log 66). An event out of its place has no effect (log 2).
A wave's registers with no launch value and a block's tile memory start at the model's values (log 5, 6). -/
def Obligations.Launches : Prop :=
  ∀ s : State, s.schedules = true →
    (∀ l rest, s.sched.running = none → s.sched.waiting = l :: rest →
      let g := look [] s.sched.graphs l.graph
      let n := (l.gtrig.extractLsb' 49 10).toNat
      let list := 16 * (l.gtrig.extractLsb' 4 45).toNat
      let gstat := fun (node code : Nat) => BitVec.ofNat 32
        ((if s.host.upload.isSome then 2 ^ 31 else 0) + l.graph % 32 * 2 ^ 26 + node % 1024 * 2 ^ 16 + code % 256)
      let ends := fun (t : State) (graphs : Map (List Nat)) (node code : Nat) =>
        t.sched = { s.sched with waiting := rest, graphs := graphs } ∧ t.waves = s.waves ∧ t.host.patching = false ∧
          t.host.gstat = gstat node code
      (s.launchHeld l = true → exec .launchStart s = .next s) ∧
      (s.launchHeld l = false → n = 0 → cyclic g g.length (List.range g.length) = [] →
        ∃ t, exec .launchStart s = .next t ∧ t.Runs l g ∧ t.sched.waiting = rest ∧ t.waves = s.waves) ∧
      (s.launchHeld l = false → 0 < n → ∀ x : Nat → Byte, (∀ i < 16 * n, s.InL2 (list + i) (x i)) →
        let e := fun k => bytesNat ((List.range 16).map fun i => x (16 * k + i))
        let good := fun k => e k / 2 ^ 32 % 2 ^ 32 = 0 ∧ e k % 2 ^ 16 < g.length ∧ e k / 2 ^ 16 % 2 ^ 16 ≤ 32 ∧ e k / 2 ^ 16 % 2 ^ 16 % 8 = 0
        ((∃ k < n, ¬good k) → ∃ t, exec .launchStart s = .next t ∧ ends t s.sched.graphs 0 0x80) ∧
        ((∀ k < n, good k) → ∀ h, Patched g h n e →
          let fault := s.graphFault h fun m => (List.range n).any fun k => e k % 2 ^ 16 == m
          (∀ code node, fault = some (code, node) →
            ∃ t, exec .launchStart s = .next t ∧ ends t (put s.sched.graphs l.graph h) node code) ∧
          (fault = none → ∃ t, exec .launchStart s = .next t ∧ t.Runs l h ∧ t.sched.waiting = rest ∧ t.waves = s.waves ∧
            t.sched.graphs = put s.sched.graphs l.graph h ∧ t.host.gstat = gstat 0 0))) ∧
      (s.launchHeld l = false → 0 < n →
        (s.engine list true false = .absent → ∃ t tok, exec .launchStart s = .next t ∧ t.host.patching = true ∧ t.waves = s.waves ∧
          t.sched = { s.sched with waiting := { l with token := some tok } :: rest } ∧
          ∃ f ∈ t.die.faults, f.token = tok ∧ f.key = .page (list / 65536)) ∧
        (s.engine list true false = .prot ∨ s.engine list true false = .key ∨ s.engine list true false = .poison →
          ∃ t, exec .launchStart s = .next t ∧ ends t s.sched.graphs 0 0x84))) ∧
    (∀ l n card r pre rest cs u, s.openCards = pre ++ (l, n, card, r) :: rest → (∀ x ∈ pre, s.launchNext x = none) →
      cdGridbar card = false → s.awaitsVictims l n = false → s.cardRun? (some (l, n)) = some r →
      (s.freeFor l n).Places card cs → (s.freeFor l n).readyCores cs (cdFuse card) = some u → u.sched = (s.freeFor l n).sched →
        ∃ t, exec .clusterLaunch s = .next t ∧ exec .gangLaunch s = .next s ∧
          t.cardRun? (some (l, n)) = some { r with launched := r.launched + cs.length, live := r.live + cs.length
                                                   waves := r.waves + cs.length * cdWpb card, cores := unionL r.cores cs } ∧
          (∀ w ∈ u.others, w ∈ t.others) ∧ t.host = u.host ∧ t.pkg = u.pkg ∧ (∀ core ∈ cs, u.Acquired t core) ∧
          ∀ (i core : Nat), cs[i]? = some core →
            ∃ b, t.blk? (s.sched.nextBlk + i) = some b ∧ b.card = some (l, n) ∧ b.index = r.launched + i ∧ b.core = core ∧ b.tile = [] ∧
              b.waves.length = cdWpb card ∧ b.tmem = cdTmem card ∧ b.wslots = cdWslots card ∧
              ∀ k < cdWpb card, ∃ w ∈ t.others, w.id.blk = some (s.sched.nextBlk + i) ∧ w.id.waveIdx = BitVec.ofNat 32 k ∧
                w.id.core = core ∧ w.id.blockIdx = BitVec.ofNat 32 (r.launched + i) ∧ w.regs = WaveRegs.launch ∧
                w.flow = WaveFlow.launch (BitVec.ofNat 64 (cdEntry card)) 0xFFFFFFFF ∧
                w.csr = WaveCsr.launch (BitVec.ofNat 64 (cdEntry card))) ∧
    (∀ l n card r pre rest t, s.openCards = pre ++ (l, n, card, r) :: rest → (∀ x ∈ pre, s.launchNext x = none) →
      cdGridbar card = true → s.cardRun? (some (l, n)) = some r → s.launchMany l n card (cdBcap card / max 1 (cdBpc card)) = some t →
        exec .gangLaunch s = .next t ∧ exec .clusterLaunch s = .next s ∧ ∃ r', t.cardRun? (some (l, n)) = some r' ∧
          r'.launched = r.launched + cdBcap card / max 1 (cdBpc card) * cdBpc card) ∧
    (∀ (node : BitVec 10) l c u, s.sched.running = some l → l.cards.find? (fun c => c.node == node.toNat) = some c →
      let card := (look [] s.sched.graphs l.graph).getD node.toNat 0
      c.finished card = true → s.noSpawns (some (l.num, node.toNat)) = true → s.releases 2 c.cores = some u → u.sched = s.sched →
        (∀ v, (∀ x ∈ l.cards, x.done = true ∨ x.node = node.toNat) →
          { u with sched := { u.sched with running := some (l.complete node.toNat (cdSuccs card)) } }.releases 3
            (l.cards.foldl (fun (cs : List Nat) (x : CardRun) => unionL cs x.cores) []) = some v →
          ∃ t, exec (.cardComplete node) s = .next t ∧ t.sched.running = none ∧ t.host = { v.host with lcount := v.host.lcount + 1 } ∧
            t.tabs.msix = v.tabs.msix ++ [0] ∧ t.waves = v.waves ∧ t.die = v.die ∧ t.cores = v.cores) ∧
        (∀ y ∈ l.cards, y.done = false → y.node ≠ node.toNat →
          ∃ t l', exec (.cardComplete node) s = .next t ∧ t.sched.running = some l' ∧ t = { u with sched := t.sched } ∧
            ∀ (k : Nat) (x : CardRun), l.cards[k]? = some x →
              ∃ z, l'.cards[k]? = some z ∧ z.node = x.node ∧ z.launched = x.launched ∧ z.done = (x.done || x.node == node.toNat) ∧
                z.counter = (if (cdSuccs card).contains x.node then x.counter - 1 else x.counter) ∧
                (z.counter = 0 → z.ready.isSome = true)))

/-- R103 to R105, R107, R355, R368: the timers and launches of spawn bins and LAUNCH-mode queues, and the ring's writes and
refills; a bin or queue that keeps records starts its timer again. A wave that waits in TQPOP is served when there is a record, or
with none once the queue is disabled; with records it acquires at die scope. A wave's registers with no launch value start at the
model's values (log 5); its slot is the lowest free one (log 32, 55). That a queue in LAUNCH mode serves a wave that waits, and that
its timer stops with its last record, is the model's reading (log 77). -/
def Obligations.QueueAndBinWork : Prop :=
  ∀ (s : State) (core : BitVec 7) (bin : BitVec 2) (q : BitVec 6),
    let b := (s.core core.toNat).bin bin.toNat
    let x := s.queue q.toNat
    let born := fun (t : State) (kind : WaveKind) (slot entry : Nat) (card : Option (Nat × Nat)) (prio vregs spwait : Nat)
        (recs : List (List Word)) =>
      ∃ w ∈ t.others, w.id.kind = kind ∧ w.id.core = core.toNat ∧ w.id.slot = slot ∧ w.id.blk = none ∧ w.id.waveIdx = 0 ∧
        w.id.blockIdx = 0xFFFFFFFF ∧ w.id.clusterIdx = 0xFFFFFFFF ∧ w.id.card = card ∧ w.id.prio = prio ∧ w.id.vregs = vregs ∧
        w.id.spwait = spwait ∧
        w.flow = WaveFlow.launch (BitVec.ofNat 64 entry) (maskOf (List.range recs.length)) ∧
        (∀ (l : Nat) (r : List Word), recs[l]? = some r → ∀ i < 8, w.lane i l = r.getD i 0) ∧
        ∀ r l, 8 ≤ r ∨ recs.length ≤ l → w.lane r l = 0
    (∀ t0, b.due = some t0 →
      ∃ t, exec (.spawnBinTimerExpiry core bin) s = .next t ∧ (t.core core.toNat).bin bin.toNat = { b with due := none, expired := true } ∧
        t.waves = s.waves ∧ (s.tabs.power = .active → t0 ≤ t.pkg.coreClock)) ∧
    (∀ r rest entry slot u, b.recs = r :: rest → b.key = some entry → s.schedules = true → 32 ≤ b.recs.length ∨ b.expired = true →
      s.looseSlot core.toNat r.vregs = some slot → s.idleCore core.toNat = some u →
        ∃ t, exec (.spawnBinLaunch core bin) s = .next t ∧
          born t .spawned slot entry r.card r.prio r.vregs r.spwait ((b.recs.take 32).map fun r => r.vals) ∧
          ((t.core core.toNat).bin bin.toNat).recs = b.recs.drop 32 ∧ ((t.core core.toNat).bin bin.toNat).expired = false ∧
          (b.recs.drop 32 = [] → ((t.core core.toNat).bin bin.toNat).key = none ∧ ((t.core core.toNat).bin bin.toNat).due = none) ∧
          (∀ r' rest', b.recs.drop 32 = r' :: rest' → ((t.core core.toNat).bin bin.toNat).key = some entry ∧
            ((t.core core.toNat).bin bin.toNat).due = some (s.pkg.coreClock + if r'.spwait = 0 then 1024 else 256 * r'.spwait)) ∧
          (∀ w ∈ u.others, w ∈ t.others) ∧ t.host = u.host) ∧
    (∀ t0, x.due = some t0 →
      ∃ t, exec (.tqTimerExpiry q) s = .next t ∧ t.queue q.toNat = { x with due := none, expired := true } ∧ t.waves = s.waves) ∧
    (∀ slot u, s.schedules = true → x.enable = true → x.launch = true → x.head = x.tail → x.unwritten = [] →
      x.chip ≠ [] → 32 ≤ x.chip.length ∨ x.expired = true → s.looseSlot core.toNat x.vregs = some slot →
      s.idleCore core.toNat = some u → u.queue q.toNat = x →
        ∃ t, exec (.tqLaunch q core) s = .next t ∧ born t .queue slot x.entry.toNat none x.prio x.vregs x.timer (x.chip.take 32) ∧
          t.queue q.toNat = { x with
            chip := x.chip.drop 32, expired := false
            due := if x.chip.length ≤ 32 then none else some (s.pkg.coreClock + if x.timer = 0 then 1024 else 256 * x.timer) } ∧
          u.Acquired t core.toNat ∧ (∀ w ∈ u.others, w ∈ t.others) ∧ t.host = u.host) ∧
    (∀ u bs, s.host.jobDead = false → s.tabs.halted = false → x.refillable = true → s.engRead (x.slotVa x.head) 32 = .ok u bs → u.die.queues = s.die.queues →
      ∃ t, exec (.tqRefill q) s = .next t ∧ t.queue q.toNat = { x with chip := x.chip ++ [recordOf bs], head := x.head + 1 } ∧
        ∀ j, j ≠ q.toNat → t.queue j = s.queue j) ∧
    (∀ i r rest pa f, s.host.jobDead = false → s.tabs.halted = false → x.wtoken = none → x.unwritten = (i, r) :: rest → x.slotVa i % 32 = 0 →
      s.engHeld (x.slotVa i) 32 = false → s.engine (x.slotVa i) false true = .ok pa f → r.length = 8 → s.hasWay (pa / 256) →
        ∃ t, exec (.tqRingWrite q) s = .next t ∧ t.queue q.toNat = { x with unwritten := rest } ∧
          t.l2Bytes pa 32 = r.flatMap fun y => natBytes 4 y.toNat) ∧
    (∀ wid rest w c d nb wb v, s.host.jobDead = false → s.tabs.halted = false → x.blocked = wid :: rest → s.wave? wid = some w → w.flow.clause = some c →
      decode (wordsAt (posIndex w.flow.pc) c.words) = .ok (.tqpop d nb wb v) →
      (x.chip = [] → x.enable = true → x.launch = false → exec (.tqpopWake q) s = .next s) ∧
      (x.chip ≠ [] ∨ x.enable = false ∨ x.launch = true →
        ∃ t y, exec (.tqpopWake q) s = .next t ∧ t.wave? wid = some y ∧ y.rdS d.toNat = maskOf (w.lanes.take x.chip.length) ∧
          y.flow = w.advance.flow ∧
          (∀ (k l : Nat) (r : List Word), w.lanes[k]? = some l → x.chip[k]? = some r → ∀ i < 8, y.lane i l = r.getD i 0) ∧
          (let gone := x.launch && decide (x.chip.length ≤ w.lanes.length ∧ x.tail ≤ x.head)
           t.queue q.toNat = { x with
             chip := x.chip.drop w.lanes.length, blocked := rest.filter fun j => j != wid, due := if gone then none else x.due
             expired := if gone then false else x.expired }) ∧
          (w.lanes ≠ [] → x.chip ≠ [] → s.Acquired t w.id.core)))

/-- R148, R154, R352: a command that finds the queue empty begins at once, one that finds it full is dropped; a kick moves its
range between DEVICE, TRANSIT and HOST and drops the device's copies; a shootdown drops translations; CMDSTAT clears its error
bits when read. When each part of a command acts is the model's reading (log 51). -/
def Obligations.HostCommands : Prop :=
  ∀ (s : State) (n : BitVec 8) (val : BitVec 64),
    let h := s.host
    let cmds : List (Instr × Cmd) := [(.kickTodev n, .todev n.toNat), (.kickTohost n, .tohost n.toNat), (.shoot val, .shoot val.toNat)]
    let named := fun (e : TlbEnt) => val.getLsbD 0 = true ∨
      ((val.extractLsb' 16 33).toNat ≤ e.vpn ∧ e.vpn ≤ (val.extractLsb' 16 33).toNat + (val.extractLsb' 49 15).toNat)
    let done := fun (t : State) (err : Bool) =>
      t.host.cmdq = [] ∧ t.host.cmdDone = h.cmdDone + 1 ∧ t.host.kerr = (h.kerr || err) ∧ t.tabs.msix = s.tabs.msix ++ [7]
    (∀ e ∈ cmds, h.cmdq ≠ [] →
      exec e.1 s = .next { s with host := if h.cmdq.length < 16 then { h with cmdq := h.cmdq ++ [e.2] } else { h with ovf := true } }) ∧
    (h.cmdq = [] →
      (s.kickEnt n.toNat = none → ∀ i ∈ [Instr.kickTodev n, .kickTohost n], ∃ t, exec i s = .next t ∧ done t true ∧ t.waves = s.waves) ∧
      (∀ e, s.kickEnt n.toNat = some e →
        (s.die.faults = [] → s.tabs.halted = false → (∀ l ∈ s.die.l2, inRange e.base l.2.va = true → l.2.rel = RelRecord.empty) →
          ∃ t, exec (.kickTodev n) s = .next t ∧ done t false ∧
            t.kickEnt n.toNat = some { e with state := 0 } ∧ t.rangeGone e.base ∧ t.waves = s.waves) ∧
        (∃ t, exec (.kickTohost n) s = .next t ∧ t.kickEnt n.toNat = some { e with state := 1 } ∧
          t.host = { h with cmdq := [.tohost n.toNat] } ∧ t.waves = s.waves ∧ t.die = s.die ∧ t.cores = s.cores)) ∧
      (∃ t, exec (.shoot val) s = .next t ∧ t.host = { h with cmdq := [.shoot val.toNat] } ∧ t.waves = s.waves ∧
        (∀ k, ∀ e ∈ (t.core k).tlb, ¬named e) ∧ ∀ k e, e ∈ (s.core k).tlb → ¬named e → e ∈ (t.core k).tlb)) ∧
    (∀ e, h.cmdq = [.tohost n.toNat] → s.kickEnt n.toNat = some e →
      let p := inRange e.base
      s.accessing p = false → s.copying e.base = false → s.regionIn p = false → s.tabs.halted = false →
        (∀ u, s.flushRange p = some u → u.host = s.host → u.tabs.hotab = s.tabs.hotab → u.tabs.msix = s.tabs.msix →
          ∃ t, exec .kickTohostComplete s = .next t ∧ done t false ∧ t.kickEnt n.toNat = some { e with state := 2 } ∧ t.waves = u.waves ∧
            t.die = u.die ∧ t.cores = u.cores ∧ t.pkg = u.pkg) ∧
        ((∀ k, ∀ x ∈ (s.core k).l1, p x.2.va = true → x.2.dirty = 0) → (∀ l ∈ s.die.l2, p l.2.va = true → l.2.rel = RelRecord.empty) →
          s.pkg.asBooted → (s.die.l2.map (·.1)).Nodup →
          ∃ t, exec .kickTohostComplete s = .next t ∧ done t false ∧ t.kickEnt n.toNat = some { e with state := 2 } ∧ t.waves = s.waves ∧
            t.rangeGone e.base ∧ s.WentHome t fun l => p l.va = true)) ∧
    (h.cmdq = [.shoot val.toNat] →
      (∀ p, (∀ va, p va = true ↔ named { vpn := va / 65536, frame := 0, r := false, w := false, x := false, fields := 0, hint := 0 }) →
        s.accessing p = false →
          ∃ t, exec .shootdownComplete s = .next t ∧ done t false ∧ t.waves = s.waves ∧ ∀ k, ∀ e ∈ (t.core k).tlb, ¬named e)) ∧
    (∃ t, exec .cmdstatRead s = .next t ∧ t.host = { h with kerr := false, ovf := false } ∧ t.waves = s.waves ∧
      t.tabs.lastRead = (false, h.cmdDone.toNat * 65536 + (if h.kerr then 512 else 0) + (if h.ovf then 256 else 0) + h.cmdq.length))

/-- R354, R370: JOB_RUN starts a job while none runs; JOB_STOP ends it: no wave, object, region, translation, fault or queue record
of it is left. What a JOBCTL write does to STOP, BKPTEN and JOBID is the model's reading (log 50). That a RUN while the dies are not
enabled has no effect is log 14; that the key of the save area is known by the number of its draw is log 4 and 9. -/
def Obligations.Jobs : Prop :=
  ∀ (s : State) (val : BitVec 64),
    let bits := fun (h : HostRegs) => { h with bkpten := val.getLsbD 2, stop := val.getLsbD 1 }
    (s.host.run = false → s.tabs.enabled = true →
      exec (.jobRun val) s = .next { s with
        host := { bits s.host with jobid := val.extractLsb' 32 32, run := true, jobDead := false, supf := List.replicate 8 0 }
        tabs := { s.tabs with power := .active }
        pkg := { s.pkg with saveKey := some s.fresh }, fresh := s.fresh + 1 }) ∧
    (s.host.run = false → s.tabs.enabled = false → exec (.jobRun val) s = .next s) ∧
    (s.host.run = true → exec (.jobRun val) s = .next { s with host := bits s.host }) ∧
    (s.host.run = true →
      ∃ t, exec (.jobStop val) s = .next t ∧ t.waves = [] ∧ t.die.objects = [] ∧ t.die.regions = [] ∧ t.die.l2 = [] ∧ t.die.tlb2 = [] ∧
        t.die.faults = [] ∧ t.die.locks = [] ∧ t.die.saved = [] ∧ t.sched.graphs = [] ∧ t.sched.waiting = [] ∧ t.sched.running = none ∧
        t.sched.blocks = [] ∧ t.host.run = false ∧ t.host.jobDead = false ∧ t.host.faultq = [] ∧ t.host.bkq = [] ∧
        (∀ k, t.core k = { Core.empty with copySeq := (t.core k).copySeq }) ∧
        (∀ q, (t.queue q).enable = false ∧ (t.queue q).chip = [] ∧ (t.queue q).head = (t.queue q).tail) ∧
        (s.tabs.power = .active → t.tabs.power = .idle) ∧ (∀ e ∈ t.pkg.keys, e.1 / 8 ≠ s.die.die) ∧ t.pkg.saveKey = none ∧
        t.host.troot = s.host.troot) ∧
    (s.host.run = true → s.tabs.halted = false → s.waves = [] → (∀ k, (s.core k).copies = []) → s.pkg.asBooted →
      ((∀ k, ∀ x ∈ (s.core k).l1, x.2.dirty = 0) → ∃ t, exec (.jobStop val) s = .next t ∧ s.WentHome t fun _ => True) ∧
      (∀ c line x, (∀ k, k ≠ c → (s.core k).l1 = []) → (s.core c).l1 = [(line, x)] → s.die.l2 = [] → fieldsComp x.fields = false →
        s.homeGood x.fields (line * 128) = true →
          ∃ t, exec (.jobStop val) s = .next t ∧ ∀ i < 128, x.dirty.getLsbD i = true →
            look 0 t.pkg.dram (s.pkg.stackBlock (line * 128) + line * 128 % 256 + i) = x.data.toList.getD i 0))

/-- R336, R353, R365: FAULTQ and BKQ give their oldest entry and latch it, or 0; FAULTDONE serves every waiter of a token;
BKREL lets its wave go on after BKPT; the alarm log is cleared when read. That any outstanding token may be named, and that an
empty pop clears the latch, is the model's reading (log 51). -/
def Obligations.FaultAndBreakQueues : Prop :=
  ∀ (s : State) (wide : Bool) (token : BitVec 64) (val : BitVec 32),
    let low := fun (x : Nat) => if wide then x else x % 2 ^ 32
    (s.host.faultq = [] → ∃ t, exec (.faultqPop wide) s = .next t ∧ t.tabs.lastRead = (false, 0) ∧
      t.host = { s.host with faultLatch := (0, 0) } ∧ t.waves = s.waves) ∧
    (∀ tok va rest, s.host.faultq = (tok, va) :: rest → (∀ f ∈ s.die.faults, f.queued = true) →
      ∃ t, exec (.faultqPop wide) s = .next t ∧ t.tabs.lastRead = (false, low tok) ∧
        t.host = { s.host with faultq := rest, faultLatch := (BitVec.ofNat 64 tok, va) } ∧ t.waves = s.waves) ∧
    (s.host.upload = none → (s.die.faults.any fun f => f.token == token.toNat) = true →
      ∃ t, exec (.faultdone token) s = .next t ∧ (∀ f ∈ t.die.faults, f.token ≠ token.toNat) ∧
        (∀ f ∈ s.die.faults, f.token ≠ token.toNat → f ∈ t.die.faults) ∧ t.host = s.host ∧
        ∀ w ∈ s.others, (w.flow.hold = .fault [token.toNat] → ∃ v ∈ t.others, v.id = w.id ∧ v.regs = w.regs ∧
            v.flow = { w.flow with hold := .run } ∧ (w.flow.contin = false → w.flow.handler = false → v.csr.ftoken = 0)) ∧
          ((∀ ts, w.flow.hold ≠ .fault ts) → w ∈ t.others)) ∧
    (s.host.bkq = [] → ∃ t, exec (.bkqPop wide) s = .next t ∧ t.tabs.lastRead = (false, 0) ∧
      t.host = { s.host with bkLatch := (0, 0) } ∧ t.waves = s.waves) ∧
    (∀ core pos slot rest, s.host.bkq = (core, pos, slot) :: rest → s.host.bkwait = [] →
      ∃ t, exec (.bkqPop wide) s = .next t ∧ t.tabs.lastRead = (false, low pos.toNat) ∧
        t.host = { s.host with bkq := rest, bkLatch := (pos, BitVec.ofNat 32 (core * 256 + slot)) } ∧ t.waves = s.waves) ∧
    (∀ w, s.waves.find? (fun w => w.id.core == (val.toNat / 256) % 256 && w.id.slot == val.toNat % 256 && w.flow.hold == .bkpt) = some w →
      s.wave? w.id.wid = some w → ∃ t v, exec (.bkrel val) s = .next t ∧ t.wave? w.id.wid = some v ∧ v = w.advance) ∧
    (∃ t, exec .monAlarmRead s = .next t ∧ t.tabs.lastRead = (false, (s.monWord 63).toNat) ∧ t.monWord 63 = 0 ∧
      (∀ k, k ≠ 63 → t.monWord k = s.monWord k) ∧ t.waves = s.waves ∧ t.host = s.host)

/-- R347, R351, R355, R359: what a write of a handover entry, of a queue's ENABLE and of a register does, and when it does
nothing. Which writes of a handover entry are ignored is the model's reading (log 51). -/
def Obligations.HostTablesAndRegisters : Prop :=
  ∀ (s : State) (n : BitVec 8) (val : BitVec 64) (q : BitVec 6) (off : BitVec 16) (wide : Bool),
    (let old := look HoEnt.none s.tabs.hotab n.toNat
     let e : HoEnt := { valid := val.getLsbD 63, state := if val.getLsbD 63 then 2 else 0, base := (val.extractLsb' 21 28).toNat }
     let twice := e.valid = true ∧ ∃ x ∈ s.tabs.hotab, x.1 ≠ n.toNat ∧ x.2.valid = true ∧ x.2.base = e.base
     (old.valid = true ∧ old.state ≠ 2 ∨ twice → exec (.hotabWrite n val) s = .next s) ∧
     ((old.valid = true → old.state = 2) → ¬twice →
       exec (.hotabWrite n val) s = .next { s with tabs := { s.tabs with hotab := put s.tabs.hotab n.toNat e } })) ∧
    (let x := s.queue q.toNat
     (x.enable = false → x.ok = true → ∃ t, exec (.tqcfgEnable q) s = .next t ∧ t.queue q.toNat = { x with enable := true } ∧
       (∀ j, j ≠ q.toNat → t.queue j = s.queue j) ∧ t.waves = s.waves) ∧
     (x.ok = false ∨ x.enable = true → exec (.tqcfgEnable q) s = .next s) ∧
     (x.enable = true → x.blocked = [] → ∃ t, exec (.tqcfgDisable q) s = .next t ∧
       t.queue q.toNat = { x with enable := false, chip := [], head := 0, tail := 0, unwritten := [], wtoken := none, rtoken := none
                                  due := none, expired := false } ∧
       (∀ j, j ≠ q.toNat → t.queue j = s.queue j) ∧ t.waves = s.waves)) ∧
    (off = 0x58 → exec (.registerWrite off wide val) s =
      .next { s with host := { s.host with peerto := (val.extractLsb' 0 24).setWidth 32 } }) ∧
    (off = 0x38 → wide = true → s.host.run = false →
      exec (.registerWrite off wide val) s =
        .next { s with host := { s.host with troot := (0 : BitVec 18) ++ (val.extractLsb' 21 25 ++ (0 : BitVec 21)) } }) ∧
    (off = 0x48 → wide = true → s.host.run = false →
      exec (.registerWrite off wide val) s = .next { s with host := { s.host with savebase := val } }) ∧
    (off = 0x50 → wide = true → s.host.run = false →
      exec (.registerWrite off wide val) s = .next { s with host := { s.host with savesize := val } }) ∧
    (off.toNat ∈ [0x38, 0x48, 0x50] → s.host.run = true → exec (.registerWrite off wide val) s = .next s) ∧
    (off.toNat % (if wide then 8 else 4) ≠ 0 ∨ 0x8000 ≤ off.toNat → exec (.registerWrite off wide val) s = .next s)

/-- 01 R25, R26; 27 R347, R351, R354, R359, R364: the capability list holds the nine features in ID order, each pointing to
the next; reads of host registers: a half of a register is that half of its 8 bytes, JOBCTL is 0 after reset, what was written
to PEERTO and to a handover entry reads back, a written entry in HOST, and ALARMCFG reads 0 on the second die. That these
reads are functions of the state and no steps is the model's reading (log 23). -/
def Obligations.HostReads : Prop :=
  (capList.length = 9 * 16 ∧ ∀ k < 9,
    let field := fun o n => bytesNat ((capList.drop (16 * k + o)).take n)
    field 0 2 = k + 1 ∧ field 2 1 = 1 ∧ field 3 1 = 16 ∧ field 4 4 = (if k = 8 then 0 else 0x800 + 16 * (k + 1)) ∧
      field 8 4 = [2, 64, 64, 64, 8, 16, 4, 128, 16].getD k 0 ∧ field 12 4 = 0) ∧
  State.reset.mmioRead 0x40 8 = 0 ∧
  ∀ (s : State) (n : BitVec 8) (val : BitVec 64) (off : Nat),
    (off % 8 = 0 → s.mmioRead off 4 = s.mmioRead off 8 % 2 ^ 32 ∧ s.mmioRead (off + 4) 4 = s.mmioRead off 8 / 2 ^ 32 % 2 ^ 32) ∧
    (∀ t, exec (.registerWrite 0x58 false val) s = .next t → t.mmioRead 0x58 4 = (val.extractLsb' 0 24).toNat) ∧
    ((look HoEnt.none s.tabs.hotab n.toNat).valid = false → val.getLsbD 63 = true →
      (∀ x ∈ s.tabs.hotab, x.2.valid = true → x.2.base ≠ (val.extractLsb' 21 28).toNat) →
        ∃ t, exec (.hotabWrite n val) s = .next t ∧
          t.mmioRead (0x100 + 8 * n.toNat) 8 = 2 ^ 63 + 2 * 2 ^ 61 + (val.extractLsb' 21 28).toNat * 2 ^ 21) ∧
    (s.die.die ≠ 0 → s.mmioRead 0x6000 4 = 0)

/-- R361 to R364, Table 27.8: the mailbox commands answer their status and bytes; KEYLOAD fills an empty slot of the device
with the unwrapped key, and KEYERASE empties one. The order of the checks of KEYLOAD and that commands complete at once are
the model's reading (log 52); keys, certificates and signatures are opaque (log 9). -/
def Obligations.MailboxCommands : Prop :=
  ∀ (s : State) (slot : BitVec 8) (cmd : BitVec 16),
    let k := slot.toNat
    let own := k / 8 = s.die.die
    let body := s.attestBytes (s.mboxBytes 0x800 48)
    (∃ t, exec .getcert s = .next t ∧ s.Answers t 1 s.mboxSlot 0 Config.certificate ∧ t.pkg = s.pkg) ∧
    (∃ t, exec .attest s = .next t ∧ s.Answers t 2 s.mboxSlot 0 body ∧ t.pkg = s.pkg ∧
      (s.tabs.erased = false → s.Answers t 2 s.mboxSlot 0 (body ++ Config.signature body))) ∧
    (¬own → ∃ t, exec (.keyload slot) s = .next t ∧ s.Answers t 3 k 2 [] ∧ t.pkg = s.pkg) ∧
    (own → (look? s.pkg.keys k).isSome = true → ∃ t, exec (.keyload slot) s = .next t ∧ s.Answers t 3 k 1 [] ∧ t.pkg = s.pkg) ∧
    (own → look? s.pkg.keys k = none →
      ((s.tabs.erased = true ∨ Config.unwrap (s.mboxBytes 0x800 169) = none) →
        ∃ t, exec (.keyload slot) s = .next t ∧ s.Answers t 3 k 3 [] ∧ t.pkg = s.pkg) ∧
      (∀ key, s.tabs.erased = false → Config.unwrap (s.mboxBytes 0x800 169) = some key →
        ∃ t, exec (.keyload slot) s = .next t ∧ s.Answers t 3 k 0 [] ∧ look? t.pkg.keys k = some (key + 1) ∧
          ∀ j, j ≠ k → look? t.pkg.keys j = look? s.pkg.keys j)) ∧
    (own → ∃ t, exec (.keyerase slot) s = .next t ∧ s.Answers t 4 k 0 [] ∧ look? t.pkg.keys k = none ∧
      ∀ j, j ≠ k → look? t.pkg.keys j = look? s.pkg.keys j) ∧
    (¬own → ∃ t, exec (.keyerase slot) s = .next t ∧ s.Answers t 4 k 2 [] ∧ t.pkg = s.pkg) ∧
    (cmd.toNat % 256 = 0 ∨ 4 < cmd.toNat % 256 →
      ∃ t, exec (.unknownCommand cmd) s = .next t ∧ s.Answers t (cmd.toNat % 256) (cmd.toNat / 256) 4 [] ∧ t.pkg = s.pkg)

/-- R348, R349, R356, R358; 05 R84: host and peer accesses: one that a table or a leaf refuses gets an error and changes nothing
but the code of a block of the tables that does not decode; the others read, write or add at the home; a request whose page is
absent waits on an engine fault of this die, with the address that its export entry gave it. What an access
past its line or block does, and that a poisoned reduce-add changes nothing, is the model's reading (log 53). -/
def Obligations.OutsideAccesses : Prop :=
  (∀ (e peer off : Nat) (op : PeerOp), exportOk e peer off op = true ↔
    e / 2 ^ 63 % 2 = 1 ∧ (e / 2 ^ 49 % 2 = 1 ∨ e / 2 ^ 50 % 2 ^ 10 = peer) ∧ off / 65536 < e / 2 ^ 64 % 2 ^ 32 ∧
      (op = .write → e / 2 ^ 62 % 2 = 1) ∧ (op ≠ .read → op ≠ .write → e / 2 ^ 61 % 2 = 1)) ∧
  ∀ (s : State) (hdm : BitVec 29) (n : BitVec 7) (m : BitVec 4) (data : BitVec 64) (idx : BitVec 8) (peer : BitVec 10) (off : BitVec 48)
    (op : PeerOp) (len : BitVec 9) (big : BitVec 2048),
    let refused := fun (t : State) => t.tabs.lastRead = (true, 0) ∧ t = { s with tabs := t.tabs }
    let room := 64 - hdm.toNat % 64
    let tablesGood := ∀ e, s.kickEnt (hdm.toNat / 2 ^ 21) = some e → s.walk (e.base * 2 ^ 21 + hdm.toNat % 2 ^ 21) ≠ .poison
    (s.hdmPage hdm.toNat false = none →
      ∃ t, exec (.hostMemRead hdm n) s = .next t ∧ t.tabs.lastRead = (true, 0) ∧ s.CodesOnly t ∧ (tablesGood → refused t)) ∧
    (∀ pa f, s.hdmPage hdm.toNat false = some (pa, f) → s.homeGood f pa = true →
      ∃ t, exec (.hostMemRead hdm n) s = .next t ∧ s.Read t f pa (min n.toNat room) ∧ t.waves = s.waves ∧ t.pkg = s.pkg) ∧
    (s.hdmPage hdm.toNat true = none →
      ∃ t, exec (.hostMemWrite hdm m data) s = .next t ∧ s.CodesOnly t ∧ t.tabs = s.tabs ∧ (tablesGood → t = s)) ∧
    (∀ pa f, s.hdmPage hdm.toNat true = some (pa, f) → f < 64 → fieldsComp f = false → s.homeGood f pa = true → s.tabs.halted = false →
      (∀ k, s.regionHeld none k = false) →
        ∃ t, exec (.hostMemWrite hdm m data) s = .next t ∧ s.Written t f pa (min (min m.toNat 8) room) data.toNat ∧ t.waves = s.waves) ∧
    (let e := look 0 s.tabs.exports idx.toNat
     let va := e / 2 ^ 16 % 2 ^ 33 * 65536 + off.toNat
     let out := exec (.peerRequest idx peer off op { len := len, bytes := big }) s
     let eng := s.engine va (op != .write) (op != .read)
     peerFits off.toNat len.toNat op = true →
      (exportOk e peer.toNat off.toNat op = false → ∃ t, out = .next t ∧ refused t) ∧
      (exportOk e peer.toNat off.toNat op = true →
        (eng = .prot ∨ eng = .key → ∃ t, out = .next t ∧ refused t) ∧
        (eng = .poison → ∃ t, out = .next t ∧ t.tabs.lastRead = (true, 0) ∧ s.CodesOnly t) ∧
        (eng = .absent → ∃ t tok, out = .next t ∧ t.waves = s.waves ∧ t.pkg = s.pkg ∧
          (∃ x ∈ t.die.faults, x.token = tok ∧ x.key = .page (va / 65536)) ∧
          t.tabs.peerWait = s.tabs.peerWait ++ [{ va := va, op := op, n := len.toNat, data := big.toNat, token := tok }]) ∧
        (∀ pa f, eng = .ok pa f → f < 64 → s.homeGood f pa = true → s.tabs.halted = false → (∀ k, s.regionHeld none k = false) →
          ∃ t, out = .next t ∧ t.waves = s.waves ∧ (op = .read → s.Read t f pa len.toNat) ∧
            (fieldsComp f = false →
              let old := fun (i size : Nat) => bytesNat ((List.range size).map fun j => s.homeByte f (pa + i + j))
              let new := fun (i size : Nat) => big.toNat / 2 ^ (8 * i) % 2 ^ (8 * size)
              let added := fun (size : Nat) (g : Nat → Nat → Nat) => ∀ a, a / 256 = pa / 256 → t.homeByte f a =
                if pa ≤ a ∧ a < pa + len.toNat then
                  let i := (a - pa) / size * size
                  BitVec.ofNat 8 (g (old i size) (new i size) / 2 ^ (8 * (a - pa - i)))
                else s.homeByte f a
              (op = .write → s.Written t f pa len.toNat big.toNat) ∧
              (op = .addI32 → added 4 fun x y => (x + y) % 2 ^ 32) ∧
              (op = .addF32 → added 4 fun x y => (fp32.add .rne (fp32.unpack x) (fp32.unpack y)).1) ∧
              (op = .addBf16 → added 2 fun x y => (bf16.add .rne (bf16.unpack x) (bf16.unpack y)).1)))))

/-- R364, R365: an alarm's action is the one that ALARMCFG gives its source; LOG notes it, HALT stops issue and copies as well,
ERASE zeroes the keys as well; a reading that rises through 105 or 115 degrees raises vector 4 and the temperature alarm. That a
threshold is met by a reading that rises through it is the model's reading (log 52). That TEMPERATURE_THRESHOLD sets the words of
which a reading is shown and ignores other numbers is log 14, and that an alarm event of another ACTION has no effect is log 2. -/
def Obligations.Alarms : Prop :=
  ∀ (s : State) (src : BitVec 2) (word : BitVec 6) (val : BitVec 32),
    let act := (s.tabs.alarmcfg >>> (2 * src.toNat)).toNat % 4
    let logged := fun (t : State) => (t.monWord 63).getLsbD src.toNat = true ∧ 4 ∈ t.tabs.msix ∧ t.waves = s.waves ∧ t.host = s.host
    let stopped := fun (t : State) => logged t ∧ t.tabs.halted = true ∧ t.issues = false ∧ ∀ k, (t.core k).copies = []
    (act = 0 → ∃ t, exec (.alarmLog src) s = .next t ∧ logged t ∧ t.tabs.halted = s.tabs.halted ∧ t.pkg = s.pkg ∧ t.cores = s.cores) ∧
    (act = 1 → ∃ t, exec (.alarmHalt src) s = .next t ∧ stopped t ∧ t.pkg.keys = s.pkg.keys) ∧
    (2 ≤ act → ∃ t, exec (.alarmErase src) s = .next t ∧ stopped t ∧ t.pkg.keys = [] ∧ t.tabs.erased = true) ∧
    (act ≠ 0 → exec (.alarmLog src) s = .next s) ∧ (act ≠ 1 → exec (.alarmHalt src) s = .next s) ∧
    (act < 2 → exec (.alarmErase src) s = .next s) ∧
    (word.toNat < 32 →
      let old := (s.monWord word.toNat).toInt
      let rises := fun (x : Int) => old < x ∧ x ≤ val.toInt
      ∃ t, exec (.temperatureThreshold word val) s = .next t ∧ t.monWord word.toNat = val ∧
        t.waves = s.waves ∧ (rises (8 * 105) → 4 ∈ t.tabs.msix) ∧
        (rises (8 * 115) → (t.monWord 63).getLsbD 2 = true) ∧
        (¬rises (8 * 105) → ¬rises (8 * 115) → t = { s with tabs := { s.tabs with mon := t.tabs.mon } } ∧
          ∀ k, k ≠ word.toNat → t.monWord k = s.monWord k)) ∧
    (32 ≤ word.toNat → word.toNat < 56 →
      ∃ t, exec (.temperatureThreshold word val) s = .next t ∧ t.monWord word.toNat = val ∧
        t = { s with tabs := { s.tabs with mon := t.tabs.mon } } ∧ ∀ k, k ≠ word.toNat → t.monWord k = s.monWord k) ∧
    (56 ≤ word.toNat → exec (.temperatureThreshold word val) s = .next s)

/-- R296, R297, R299, R302, R305: a refused post is made again, 128 cycles after the refusal; a chain begins in the slots that
R297 names with a kindling wave for its tile, which is FORMING; a nested recipe starts one level deeper, and its tile is held;
a rebuilt tile is PRESENT and its wave is gone. How long an entry and its guards stay, and which wave slot of a quarter a
recipe slot takes, is the model's reading (log 58). -/
def Obligations.RecipeEvents : Prop :=
  ∀ (s : State) (core : BitVec 7) (wid : Nat),
    let kindled := fun (t : State) (n k : Nat) (x : TileId) (c : Nat) =>
      ∃ w ∈ t.others, w.id.kind = .kindling ∧ w.id.chain = some (n, k) ∧ w.id.tile = some x ∧ w.id.core = c ∧
        w.flow.mask = 0xFFFFFFFF ∧ w.lane 7 0 = BitVec.ofNat 32 k ∧ ∀ i < 128, ∀ l, 0 < l → w.lane i l = 0
    (∀ x r, (s.core core.toNat).retry = [x] → (s.tile x).st = .dropped →
      (s.awaiting x).filter (fun r => r.1 == core.toNat) = [(core.toNat, r)] →
      (s.die.recipeQ.any fun e => e.tile == x) = false → s.die.recipeQ.length < 64 →
        ∃ t, exec (.recipePostRetry core) s = .next t ∧ (t.core core.toNat).retry = [] ∧ t.waves = s.waves ∧
          (s.tabs.power = .active → (s.core core.toNat).retryDue ≤ t.pkg.coreClock) ∧
          t.die.recipeQ = s.die.recipeQ ++ [{ tile := x, reqs := [r], chain := none }]) ∧
    (∀ e depth slots c i rest u, s.schedules = true → s.nextEntry = some e → (s.tile e.tile).st = .dropped →
      s.tileDepth e.tile = some depth → s.pickSlots (s.reqCore (e.reqs.headD (.prefetch 0))) depth = some slots →
      slots = (c, i) :: rest → s.pinsFree e.tile = true → s.idleCore c = some u → u.die.chainNo = s.die.chainNo →
      u.tileDepth e.tile = some depth →
        ∃ t, exec .chainBegin s = .next t ∧ kindled t s.die.chainNo 1 e.tile c ∧ (t.tile e.tile).st = .forming ∧
          (∀ p ∈ slots, look? (t.core p.1).rslots p.2 = some s.die.chainNo) ∧ (∀ w ∈ u.others, w ∈ t.others) ∧ t.host = u.host) ∧
    (∀ core depth slots, s.pickSlots core depth = some slots → slots.length = depth ∧ slots.Nodup ∧
      (∀ p ∈ slots, p ∈ s.freeSlotsAll) ∧
      (∀ p rest, slots = p :: rest →
        ((∃ q ∈ s.freeSlotsAll, q.1 = core) → p.1 = core) ∧
        (∀ q ∈ s.freeSlotsAll, q.1 = p.1 ∨ (p.1 ≠ core ∧ p.1 < q.1) ∨ p.1 = core) ∧
        ∀ q ∈ rest, ∀ y ∈ s.freeSlotsAll, y ≠ p → y ∉ rest → q.1 < y.1 ∨ (q.1 = y.1 ∧ q.2 < y.2))) ∧
    (∀ w n k ts ls x c p o rc u, s.schedules = true → s.wave? wid = some w → w.id.chain = some (n, k) → w.flow.hold = .miss ts ls →
      s.lowestDropped ts = some x → look? s.die.chains n = some c → (s.waves.any fun y => y.id.chain == some (n, k + 1)) = false →
      k + 1 ≤ c.depth → c.slots[k]? = some p → s.idleCore p.1 = some u → look? u.die.chains n = some c → u.obj? x.obj = some o →
      o.recipe = some rc →
        ∃ t, exec (.nestedRecipeStart wid) s = .next t ∧ kindled t n (k + 1) x p.1 ∧ (t.tile x).st = .forming ∧ t.host = u.host ∧
          ∀ y, u.wave? wid = some y → y.id.wid < u.sched.nextWid → ∃ z, t.wave? wid = some z ∧ x ∈ z.id.holds ∧ z.flow = y.flow ∧ z.regs = y.regs) ∧
    (∀ w n k x o u, s.schedules = true → s.wave? wid = some w → w.id.chain = some (n, k) → w.id.tile = some x → w.flow.alive = 0 →
      s.quiet w = true → ((s.core w.id.core).copies.any fun y => y.wid == wid) = false → s.rebuilt w.id.core x = some u →
      u.obj? x.obj = some o → u.waves = s.waves → (s.waves.map fun v => v.id.wid).Nodup →
        ∃ t, exec (.tileRebuildComplete wid) s = .next t ∧ (t.tile x).st = .present ∧ t.wave? wid = none ∧ t.host = u.host ∧
          (k = 1 → look? t.die.chains n = none))

/-- R189, R338 to R345: the first card in order that cannot be placed and finds victims keeps the places of its blocks, and every
wave of its victims is asked to stop; a wave that stops leaves an image with its registers and position in the save area; a
block's image marks it evicted; a unit that fits again, and that no waiting card of higher priority would miss, is restored, with
WIDE set on its core (log 65). The places of images in the save area, and the plan of a card's victims, are the model's choice (log
18, 55), and so is that waves of LAUNCH-mode queues may be victims (log 73) and how an L1 becomes one again for a restored block
(log 66). -/
def Obligations.Evictions : Prop :=
  ∀ (s : State) (wid blk unit : Nat),
    (∀ pre l n card r rest vs plan, s.schedules = true →
      (s.openCards.filter fun c => !(s.sched.reserved.any fun x => x.isFor c.1 c.2.1) && (s.launchNext c).isNone) =
        pre ++ (l, n, card, r) :: rest →
      (∀ c ∈ pre, s.victimPlan c.1 c.2.1 c.2.2.1 (clustersOf c.2.2.1) = none) →
      s.victimPlan l n card (clustersOf card) = some (vs, plan) → vs ≠ [] →
        ∃ t x, exec .evictionDecision s = .next t ∧ t.sched.reserved = s.sched.reserved ++ [x] ∧ t.host = s.host ∧
          x.launch = l ∧ x.node = n ∧ x.victims = vs.map Victim.unit ∧
          x.blocks = (plan.sched.blocks.filter fun e => (s.blk? e.1).isNone).map (·.2) ∧
          (∀ v ∈ vs, ∃ u ∈ t.die.saved, u.unit = v.unit ∧ u.core = v.core ∧ u.written = false) ∧
          (∀ k b, .block k b ∈ vs → ∀ i ∈ b.waves, ∀ x, t.wave? i = some x → x.flow.stopReq = true) ∧
          (∀ w, .wave w ∈ vs → ∀ x, t.wave? w.id.wid = some x → x.flow.stopReq = true)) ∧
    (∀ w n u place, s.wave? wid = some w → w.flow.stopReq = true → w.flow.alive ≠ 0 → s.stopReady w = true → s.host.jobDead = false →
      s.tabs.halted = false → s.stopPoint w = some n → (s.waves.map fun v => v.id.wid).Nodup → u ∈ s.die.saved → u.unit = w.unit →
      s.savePlace (waveImage w.id.vregs (s.image w n).run.isSome) = some place →
        ∃ t u' x, exec (.waveStop wid) s = .next t ∧ t.wave? wid = none ∧ u' ∈ t.die.saved ∧ u'.unit = u.unit ∧
          u'.waves = u.waves ++ [x] ∧ x.stop = n ∧ x.place = place ∧ x.wave.id = w.id ∧ x.wave.regs = w.regs ∧ x.wave.flow.pc = w.flow.pc ∧
          x.wave.flow.mask = w.flow.mask ∧ x.wave.flow.alive = w.flow.alive ∧ x.wave.flow.rpc = w.flow.rpc ∧
          x.wave.flow.stack = w.flow.stack ∧ x.wave.csr = { w.csr with hbLatch := none } ∧ t.host = s.host ∧ s.Stored t place x.bytes) ∧
    (∀ u b place, s.die.saved.find? (fun u => u.blk == some blk) = some u → s.blk? blk = some b → u.written = false → b.evicted = false →
      b.waves ≠ [] → (∀ i ∈ b.waves, ∃ x ∈ u.waves, x.wave.id.wid = i) → (s.core b.core).busyFor blk = false → s.host.jobDead = false →
      s.tabs.halted = false → s.savePlace (blockImage b.tmem b.wslots) = some place →
        ∃ t, exec (.blockImageWrite blk) s = .next t ∧ t.blk? blk = some { b with evicted := true } ∧
          (∀ x ∈ t.die.saved, x.unit = u.unit → x.written = true ∧ x.place = place) ∧ t.waves = s.waves ∧
          s.Stored t place (b.bytesOf u.waves)) ∧
    (∀ u k b v, s.schedules = true → s.die.saved.find? (fun u => u.unit == unit) = some u → u.blk = some k → s.imagesReady u = true →
      s.idleCore u.core = some v → v.blk? k = some b →
      v.fits u.core { wpb := b.wpb, vregs := b.vregs, tmem := b.tmem, wslots := b.wslots } = true → v.fuseOk (u.core / 8) b.fuse = true →
      ∀ x, v.setFuse (u.core / 8) b.fuse = some x → x.blk? k = some b → s.wanted (x.restoreBlock u k b) u.core b.prio = false →
        ∃ t b', exec (.waveRestore unit) s = .next t ∧ t.blk? k = some b' ∧ b'.evicted = false ∧ b'.tile = b.tile ∧ b'.tags = b.tags ∧
          b'.slots = b.slots ∧ (∀ x ∈ t.die.saved, x.unit ≠ unit) ∧
          ∀ x ∈ u.waves, (t.core x.wave.id.core).wide = true ∧ ∃ w ∈ t.others, ∃ slot, w = x.resumed slot) ∧
    (∀ u x rest slot v, s.schedules = true → s.die.saved.find? (fun u => u.unit == unit) = some u → u.blk = none → u.waves = x :: rest →
      s.imagesReady u = true → s.idleCore u.core = some v → v.looseSlot u.core x.wave.id.vregs = some slot →
      s.wanted ((v.unsave u.unit).restoreWave x slot) u.core x.wave.id.prio = false →
        ∃ t, exec (.waveRestore unit) s = .next t ∧ x.resumed slot ∈ t.others ∧ (t.core x.wave.id.core).wide = true ∧
          ∀ y ∈ t.die.saved, y.unit ≠ unit)

/-! ### Statements joined -/

/-- Tables 11.4 and 11.5 with R161 to R170: every integer instruction of one vector result, saturating ones with their flag. -/
def Obligations.IntegerResults : Prop := Statements.TwoSourceIntegerResults ∧ Statements.OneSourceIntegerResults ∧ Statements.SaturatingIntegers

/-- R168, R176, R178, R180: LEA, DADD, DMUL, DFMA and DCVT. That (+0) + (+0) under RD is +0 is the model's reading (log 64). -/
def Obligations.DoubleResults : Prop := Statements.PairResults ∧ Statements.DoubleConversions

/-- SHFL and REDX: what each active lane receives, and the reduction over the active lanes in its order. That (+0) + (+0) under RD
is +0 is the model's reading (log 64). -/
def Obligations.CrossLane : Prop := Statements.LaneExchange ∧ Statements.Reductions

/-- The scalar instructions, the pairs that HBEAT, CLOCK and RECGET write, SCMP, and the moves between the files. That the clocks of
the cores count alike is the model's choice (log 12). -/
def Obligations.ScalarInstructions : Prop := Statements.ScalarResults ∧ Statements.ScalarPairs ∧ Statements.ScalarCompare ∧ Statements.ScalarVectorMoves

/-- TSTAT, CSEQ and TBOUND read their unit; TCNT, QBX and DQBX count terms and convert blocks. -/
def Obligations.UnitReadsAndTermBlocks : Prop := Statements.UnitReads ∧ Statements.TermCountsAndBlocks

/-- BRA, BRC and JMPI. The targets are taken modulo 2^49, the model's reading (log 24). -/
def Obligations.BranchesAndJumps : Prop := Statements.Branches ∧ Statements.IndirectJumps

/-- TRAP, TFENCE, RFT, RESUMEF and BKPT, and the delivery of a restartable fault. The readings of the model that it rests on are log
24 to 29. -/
def Obligations.TrapsAndReturns : Prop := Statements.TrapInstructions ∧ Statements.FaultsTaken

/-- The checks of a graph, GUPLOAD, GTRIG, and the low halves of the 64-bit registers of Access W. -/
def Obligations.GraphsAndTriggers : Prop := Statements.GraphChecks ∧ Statements.UploadsAndTriggers

/-- BAR at the levels wave, block, cluster and grid. That a MODE 2 wave barrier whose lanes have arrived parks them after the BAR is
the model's reading (log 30). -/
def Obligations.Barriers : Prop := Statements.WaveBarriers ∧ Statements.BlockBarriers

/-- Stores, tile stores and atomics enter the queues of their wave with every active lane's access. -/
def Obligations.StoresAndAtomicsIssue : Prop := Statements.StoresIssue ∧ Statements.AtomicsIssue

/-- FENCE at its scopes and CCTL. What a FENCE does in a region, and that an SC fence makes its parts again at the tick, is
the model's reading (log 41); which lanes CCTL skips is log 40. -/
def Obligations.FencesAndCacheControl : Prop := Statements.Fences ∧ Statements.CacheControl

/-- RBEGIN, RCOMMIT and RABORT, REGION_COMMIT, and the tests that an access meets: cycles, cascades, bounds and capacity. That
RBEGIN takes the lowest free entry is the model's choice (log 32); that lines go by physical address is log 21, and how the edges of
stalled accesses count log 21 and 74. The abort label is taken modulo 2^49 (log 24). -/
def Obligations.RegionLifecycle : Prop := Statements.Regions ∧ Statements.RegionCommits ∧ Statements.RegionTests

/-- R311 to R315, R317: region accesses, of one lane of the only region and of any lanes of a region among others. That lines go by
physical address is the model's reading (log 21). -/
def Obligations.RegionAccesses : Prop := Statements.LoneRegionAccesses ∧ Statements.SharedRegionAccesses

/-- OBIND, ORECIPE, OUNBIND, OPRIO, OEVICT and OSEAL. -/
def Obligations.ObjectInstructions : Prop := Statements.Bindings ∧ Statements.ObjectControl

/-- The new values of atomic operations, and what WRITE_BUFFER_PERFORM does. That an atomic writes its line back at every
scope is the model's reading (log 35). -/
def Obligations.BufferedWrites : Prop := Statements.AtomicValues ∧ Statements.StrongStoresPerform

/-- The copy instructions, CWAIT, CWAIT_SATISFIED and PEER_TIMEOUT. The model's readings that it rests on are log 43 and 46;
counts of core cycles are rounds of the model (log 7). -/
def Obligations.CopyIssueAndWaits : Prop := Statements.CopiesIssue ∧ Statements.CopyWaits

/-- TMM and TPROM: what enters an array, and what keeps a TMM out. That the open run counts the entries which wait in the queue, and
that a lone TPROM leaves an array free, is the model's reading (log 42). -/
def Obligations.TermIssue : Prop := Statements.TermWorkIssues ∧ Statements.TermTraps

/-- TMM_START, TMM_COMPLETE and PROMOTION. That TMM_COMPLETE lets the time of the run pass is the model's reading (log 60), and the
rest of the waits log 43. -/
def Obligations.TermArrayEvents : Prop := Statements.TermOperands ∧ Statements.TermRuns ∧ Statements.Promotions

/-- XMM_START, XMM_COMPLETE, TLENC_COMPLETE, TLDEC_COMPLETE and DECS_COMPLETE. -/
def Obligations.TileAndExactUnits : Prop := Statements.ExactUnitRuns ∧ Statements.TileUnitsRun ∧ Statements.DecsWithoutBlock

/-- The near links, the homes that they reach, and the blocks that move between the L2 and its home. The model's readings of the
ways of a packet are log 56, and a block read under another key is log 9. A LINK_FAILURE of a link already down has no effect (log
2), and BLOCK_READ takes its fields from a TLB (log 39). -/
def Obligations.LinksAndBlocks : Prop := Statements.Links ∧ Statements.Blocks

/-! ### The whole machine -/

/-- R36 to R44: decoding an encoded well-formed instruction gives it back, whatever words follow it. -/
def Obligations.DecodeEncode : Prop :=
  ∀ (i : Instr) (rest : List Word), i.isEncoded = true → i.wellFormed = true → decode (encode i ++ rest) = .ok i

/-- R5, R27, R36 to R44, R53: an instruction that words decode to is well formed, and its encoding is those words. -/
def Obligations.DecodedWords : Prop :=
  ∀ (ws : List Word) (i : Instr), decode ws = .ok i →
    i.wellFormed = true ∧ encode i = ws.take (opcodeWords (opcodeOf (ws.headD 0))) ∧
      (encode i).length = opcodeWords (opcodeOf (ws.headD 0))

/-- Words written out by hand from the encoding tables of 03, 11, 13, 15, 17, 19, 21 and 23 decode to what they stand for. -/
def Obligations.SampleEncodings : Prop :=
  decode [0x00068405] = .ok (.iadd { q := false, d := 6, wa := true, a := 4, wb := false, b := 5 }) ∧
  decode [0x16828485] = .ok (.icmp { q := true, d := 2, wa := true, a := 4, wb := true, b := 5 }) ∧
  decode [0x17068485, 0x0000000A] = .ok (.sel { q := false, d := 6, wa := true, a := 4, wb := true, b := 5 } true 2) ∧
  decode [0x14058400, 0x00000568] = .ok (.bfe { d := 5, wa := true, a := 4 } true 11 8) ∧
  decode [0x2E038250] = .ok (.fcvt { q := false, d := 3, wa := true, a := 2, rm := 5, kind := 0 }) ∧
  decode [0x33888486] = .ok (.dfma { q := true, d := 8, wa := true, a := 4, wb := true, b := 6 }) ∧
  decode [0x58860187] = .ok (.tqpop 6 true true 7) ∧
  decode [0x6A140000, 0x0000000C] = .ok (.rbegin 20 12) ∧
  decode [0x71840086, 0x00000040] = .ok (.orecipe 4 true 6 0x40) ∧
  decode [0x80C0828A, 0x00000183] = .ok (.tmm 64 true 2 true 10 false 3 3) ∧
  decode [0x89A00088, 0x0000000F] = .ok (.xmm 32 true 8 true true 3) ∧
  decode [0xA2850098, 0x00002000] = .ok (.cpyw 5 true 24 0x2000) ∧
  decode [0xC1808611] = .ok (.csrw true true 6 0x11)

/-- 05 R83, 09: the canonical form of DRAM is kept by every step, from every state that has it. -/
def Obligations.StepKeepsMemoryCanonical : Prop :=
  ∀ s t : State, s.memWf = true → step s = .next t → t.memWf = true

/-- 01 R18, R19, 05 R83, 07 R104, 15 R231, 21 R298, 27 R347, R350, R352, R359, R363, R364: what a cold reset leaves, with no value
of log 5 and, of log 14, only that no command waits: no wave, launch, object, region or fault; in the DRAM that physical addresses
reach, homes as boot writes them and every block of metadata code 1, the blocks of the reserve of code 0; no key; PEERTO 684 units
of 1,024 cycles and the default BOOTCFG and ALARMCFG; the memory in its canonical form. -/
def Obligations.ResetState : Prop :=
  let s := State.reset
  s.memWf = true ∧ s.waves = [] ∧ s.sched.running = none ∧ s.sched.waiting = [] ∧ s.sched.graphs = [] ∧ s.sched.blocks = [] ∧
  s.die.objects = [] ∧ s.die.regions = [] ∧ s.die.faults = [] ∧ s.host.run = false ∧ s.host.lcount = 0 ∧ s.host.gstat = 0 ∧
  s.host.peerto = 684 ∧ s.host.cmdq = [] ∧ s.host.faultq = [] ∧ s.host.bkq = [] ∧ s.rslots = 1 ∧ s.rvregs = 128 ∧ s.rtmem = 0 ∧
  s.rwslots = 0 ∧ s.tabs.alarmcfg = 0x95 ∧ s.heartbeat = 0 ∧ s.pkg.keys = [] ∧ s.pkg.saveKey = none ∧
  (∀ q, s.queue q = TaskQueue.empty) ∧ (∀ k, s.core k = Core.empty) ∧
  (∀ f < 8371200, s.pkg.homeEnt f = { valid := true, moving := false, nhome := 0, nframe := 0, home := f % 8, lframe := f / 8 }) ∧
  (∀ md < 8, ∀ lframe < 2 ^ 20, ∀ off < 65536,
    s.pkg.blockMeta (md * 2 ^ 36 + lframe * 2 ^ 16 + off) = { code := if lframe < 1046400 then 1 else 0, fields := 0 }) ∧
  (∀ d f, ∀ pa < 8371200 * 65536, s.pkg.readBlock d pa f = (false, Vector.replicate 256 0)) ∧ (∀ k, s.kickEnt k = none)

/-- R27, R34, R35, R53: when a wave has the turn, a step is `exec` of the instruction that the words at its position decode
to, of CLAUSE_ENTRY at a header or without a clause, of RESERVED_OPCODE at words that are no instruction; an event's turn is
`exec` of the event. Going on from an instruction leads to the next of its clause, or to the header after it. That the agenda
says whose turn it is is the model's choice (log 1); headers are taken modulo 2^49 (log 24), and how a resume reaches the
middle of a clause is log 29. -/
def Obligations.StepRunsDecoded : Prop :=
  ∀ (s : State) (wid : Nat) (rest : List Turn),
    (s.agenda = .wave wid :: rest → s.w.id.wid = wid → s.w.flow.hold ≠ .blank →
      (∀ c, s.w.flow.clause = some c → posIndex s.w.flow.pc ≠ 15 →
        (∀ i, decode (wordsAt (posIndex s.w.flow.pc) c.words) = .ok i → step s = exec i { s with agenda := rest }) ∧
        (∀ e x xs, wordsAt (posIndex s.w.flow.pc) c.words = x :: xs → decode (x :: xs) = .error e →
          step s = exec (.reservedOpcode x) { s with agenda := rest })) ∧
      (s.w.flow.clause = none ∨ posIndex s.w.flow.pc = 15 → step s = exec .clauseEntry { s with agenda := rest })) ∧
    (∀ i, s.agenda = .event i :: rest → step s = exec i { s with agenda := rest }) ∧
    (∀ c, s.w.flow.clause = some c → posIndex s.w.flow.pc < 15 →
      (posIndex s.w.flow.pc + 1 < hdrNI c.hdr →
        s.w.advance.flow = { s.w.flow with pc := mkPos (posIndex s.w.flow.pc + 1) (posHdr s.w.flow.pc), hold := .run, stalled := false
                                           ready := 0, inBar := s.w.flow.barLeft }) ∧
      (hdrNI c.hdr ≤ posIndex s.w.flow.pc + 1 →
        s.w.advance.flow = { s.w.flow with pc := headerPos (nextHdr c (posHdr s.w.flow.pc)), clause := none, hold := .run
                                           stalled := false, ready := 0, inBar := s.w.flow.barLeft
                                           yielded := hdrYld c.hdr || s.w.flow.yielded }))

/-- R108, R337, R364: no instruction has any effect for a wave that may not issue: it is parked, has exited, or the job or the
device is stopped. -/
def Obligations.NothingWithoutIssue : Prop :=
  ∀ (s : State) (i : Instr), s.issues = false → i.isEncoded = true → exec i s = .next s
end

