-- ==== Sys2Proof/Laws/Memory.lean ====
section
/-! SUPPORT. Sparse maps and memory: what a read gives after a write, and that every operation on DRAM keeps its
canonical form. -/

namespace Sys2Proof.Machine

variable {α : Type}

/-! ### Reads after writes -/

@[simp] theorem look?_put (m : Map α) (k : Nat) (x : α) (j : Nat) :
    look? (put m k x) j = if j = k then some x else look? m j := by
  induction m with
  | nil => simp only [put, look?, eq_comm]
  | cons e t ih =>
    obtain ⟨i, y⟩ := e
    have head (u : Map α) (z : α) : look? ((k, z) :: u) j = if j = k then some z else look? u j := by
      simp only [look?, eq_comm]
    simp only [put]
    split
    · subst i; rw [head]; split
      · rfl
      · rename_i hj; simp only [look?, Ne.symm hj, if_false]
    · split
      · exact head _ _
      · rename_i hi _
        simp only [look?, ih]
        by_cases hj : i = j
        · subst hj; simp [hi]
        · simp [hj]

@[simp] theorem look?_del (m : Map α) (k j : Nat) : look? (del m k) j = if j = k then none else look? m j := by
  induction m with
  | nil => simp [del, look?]
  | cons e t ih =>
    obtain ⟨i, y⟩ := e
    simp only [del, List.filter_cons] at ih ⊢
    by_cases h : i = k
    · subst i
      simp only [bne_self_eq_false, Bool.false_eq_true, ↓reduceIte, ih, look?]
      split
      · rfl
      · rename_i hj; simp [Ne.symm hj]
    · have : (i != k) = true := by simpa using h
      simp only [this, ↓reduceIte, look?, ih]
      by_cases hj : i = j
      · subst hj; simp [h]
      · simp [hj]

@[simp] theorem look_put (d : α) (m : Map α) (k : Nat) (x : α) (j : Nat) :
    look d (put m k x) j = if j = k then x else look d m j := by
  simp only [look, look?_put]; split <;> rfl

@[simp] theorem look_putD [DecidableEq α] (d : α) (m : Map α) (k : Nat) (x : α) (j : Nat) :
    look d (putD d m k x) j = if j = k then x else look d m j := by
  unfold putD
  split
  · subst x; simp only [look, look?_del]; split <;> rfl
  · exact look_put d m k x j

@[simp] theorem look_upd (d : α) (m : Map α) (k : Nat) (f : α → α) (j : Nat) :
    look d (upd d m k f) j = if j = k then f (look d m k) else look d m j := look_put d m k _ j

/-- A read after a write of several bytes. -/
theorem look_putBytes (bs : List Byte) (m : List Host.Cell) (a i : Nat) :
    look 0 (putBytes m a bs) i = if a ≤ i ∧ i < a + bs.length then bs.getD (i - a) 0 else look 0 m i := by
  induction bs generalizing m a with
  | nil =>
    have h : ¬(a ≤ i ∧ i < a + ([] : List Byte).length) := by simp
    rw [if_neg h]; rfl
  | cons b t ih =>
    simp only [putBytes, ih, look_putD, List.length_cons]
    by_cases h : i = a
    · subst i; simp
    · by_cases h1 : a + 1 ≤ i ∧ i < a + 1 + t.length
      · have h2 : a ≤ i ∧ i < a + (t.length + 1) := by omega
        have h3 : i - a = (i - (a + 1)) + 1 := by omega
        rw [if_pos h1, if_pos h2, h3, List.getD_cons_succ]
      · have h2 : ¬(a ≤ i ∧ i < a + (t.length + 1)) := by omega
        rw [if_neg h1, if_neg h2, if_neg h]

/-! ### The canonical form -/

theorem sortedKeys_iff (m : Map α) : sortedKeys m = true ↔ m.Pairwise fun a b => a.1 < b.1 := by
  induction m with
  | nil => simp [sortedKeys]
  | cons e t ih =>
    cases t with
    | nil => simp [sortedKeys]
    | cons f u =>
      obtain ⟨i, x⟩ := e
      obtain ⟨j, y⟩ := f
      simp only [sortedKeys, Bool.and_eq_true, decide_eq_true_eq, ih, List.pairwise_cons, List.mem_cons, forall_eq_or_imp]
      constructor
      · rintro ⟨h, h2, h3⟩; exact ⟨⟨h, fun a ha => lt_trans h (h2 a ha)⟩, h2, h3⟩
      · rintro ⟨⟨h, -⟩, h2, h3⟩; exact ⟨h, h2, h3⟩

theorem mem_put {m : Map α} {k : Nat} {x : α} {e : Nat × α} (h : e ∈ put m k x) : e = (k, x) ∨ e ∈ m := by
  induction m with
  | nil => simpa [put] using h
  | cons f t ih =>
    obtain ⟨i, y⟩ := f
    simp only [put] at h
    split at h
    · simp only [List.mem_cons] at h ⊢; tauto
    · split at h
      · simp only [List.mem_cons] at h ⊢; tauto
      · simp only [List.mem_cons] at h ⊢
        rcases h with h | h
        · tauto
        · rcases ih h with h | h <;> tauto

theorem put_pairwise {m : Map α} (h : m.Pairwise fun a b => a.1 < b.1) (k : Nat) (x : α) :
    (put m k x).Pairwise fun a b => a.1 < b.1 := by
  induction m with
  | nil => simp [put]
  | cons f t ih =>
    obtain ⟨i, y⟩ := f
    obtain ⟨h1, h2⟩ := List.pairwise_cons.1 h
    simp only [put]
    split
    · subst i; exact List.pairwise_cons.2 ⟨h1, h2⟩
    · split
      · rename_i hlt
        refine List.pairwise_cons.2 ⟨fun a ha => ?_, h⟩
        rcases List.mem_cons.1 ha with rfl | ha
        · exact hlt
        · exact lt_trans hlt (h1 a ha)
      · rename_i h3 h4
        refine List.pairwise_cons.2 ⟨fun a ha => ?_, ih h2⟩
        rcases mem_put ha with rfl | ha
        · exact lt_of_le_of_ne (not_lt.1 h4) h3
        · exact h1 a ha

theorem mapWf_iff [DecidableEq α] (d : α) (m : Map α) :
    mapWf d m = true ↔ (m.Pairwise fun a b => a.1 < b.1) ∧ ∀ e ∈ m, e.2 ≠ d := by
  simp [mapWf, sortedKeys_iff]

theorem mapWf_del [DecidableEq α] {d : α} {m : Map α} (h : mapWf d m = true) (k : Nat) : mapWf d (del m k) = true := by
  rw [mapWf_iff] at h ⊢
  exact ⟨h.1.filter _, fun e he => h.2 e (List.mem_of_mem_filter he)⟩

theorem mapWf_putD [DecidableEq α] {d : α} {m : Map α} (h : mapWf d m = true) (k : Nat) (x : α) :
    mapWf d (putD d m k x) = true := by
  unfold putD
  split
  · exact mapWf_del h k
  · rename_i hx
    rw [mapWf_iff] at h ⊢
    refine ⟨put_pairwise h.1 k x, fun e he => ?_⟩
    rcases mem_put he with rfl | he
    · exact hx
    · exact h.2 e he

/-- Writing bytes keeps the canonical form. -/
theorem wf_putBytes {m : List Host.Cell} (h : Memory.wf m = true) (a : Nat) (bs : List Byte) :
    Memory.wf (putBytes m a bs) = true := by
  induction bs generalizing m a with
  | nil => exact h
  | cons b t ih => exact ih (mapWf_putD h a b) (a + 1)

/-- Writing a block back keeps it. -/
theorem Pkg.writeBlock_wf {p : Pkg} (h : Memory.wf p.dram = true) (d pa f : Nat) (x : Vector Byte 256) :
    Memory.wf (p.writeBlock d pa f x).dram = true := by
  unfold Pkg.writeBlock
  simp only
  split
  · exact h
  · exact wf_putBytes h _ _

/-- Recoding a block changes no byte. -/
@[simp] theorem Pkg.recode_dram (p : Pkg) (d pa f : Nat) : (p.recode d pa f).dram = p.dram := by
  unfold Pkg.recode; simp only; split <;> rfl

/-- Writing a block of a save image keeps it. -/
theorem Pkg.writeSave_wf {p : Pkg} (h : Memory.wf p.dram = true) (d pa key : Nat) (bs : List Byte) :
    Memory.wf (p.writeSave d pa key bs).dram = true := by
  unfold Pkg.writeSave
  simp only
  split
  · exact h
  · exact wf_putBytes h _ _

/-- Merging bytes into a block keeps it. -/
theorem Pkg.mergeBlock_wf {p : Pkg} (h : Memory.wf p.dram = true) (d pa f : Nat) (bs : List Byte) :
    Memory.wf (p.mergeBlock d pa f bs).dram = true := by
  unfold Pkg.mergeBlock
  simp only
  split
  · exact writeBlock_wf h _ _ _ _
  · split
    · rw [Pkg.recode_dram]; exact h
    · exact writeBlock_wf h _ _ _ _

/-- Exchanging two blocks keeps it. -/
theorem Pkg.exchange_wf {p : Pkg} (h : Memory.wf p.dram = true) (a b : Nat) : Memory.wf (p.exchange a b).dram = true := by
  simp only [Pkg.exchange]
  exact wf_putBytes (wf_putBytes h _ _) _ _

/-- Losing a line keeps it. -/
theorem State.loseLine_wf {s : State} (h : s.memWf = true) (line : Nat) : (s.loseLine line).memWf = true := by
  unfold State.loseLine
  split
  · simp only
    split
    · exact h
    · simp only [State.memWf, State.onPkg, State.drawBytes]
      exact wf_putBytes h _ _
  · exact h

/-- Memory after reset is in its canonical form. -/
theorem State.reset_wf : State.reset.memWf = true := rfl

end Sys2Proof.Machine
end

