-- ==== Sys2Proof/Laws/State.lean ====
section
/-! SUPPORT. What each update of the state and of a wave does to each field: one lemma per field per update, by `rfl`, so
that no proof unfolds a record update. -/

namespace Sys2Proof.Machine

/-! ### Updates of the state -/

@[simp] theorem State.onW_w (s : State) (f : Wave → Wave) : (s.onW f).w = f s.w := rfl
@[simp] theorem State.onW_others (s : State) (f : Wave → Wave) : (s.onW f).others = s.others := rfl
@[simp] theorem State.onW_cores (s : State) (f : Wave → Wave) : (s.onW f).cores = s.cores := rfl
@[simp] theorem State.onW_die (s : State) (f : Wave → Wave) : (s.onW f).die = s.die := rfl
@[simp] theorem State.onW_sched (s : State) (f : Wave → Wave) : (s.onW f).sched = s.sched := rfl
@[simp] theorem State.onW_host (s : State) (f : Wave → Wave) : (s.onW f).host = s.host := rfl
@[simp] theorem State.onW_tabs (s : State) (f : Wave → Wave) : (s.onW f).tabs = s.tabs := rfl
@[simp] theorem State.onW_pkg (s : State) (f : Wave → Wave) : (s.onW f).pkg = s.pkg := rfl
@[simp] theorem State.onW_agenda (s : State) (f : Wave → Wave) : (s.onW f).agenda = s.agenda := rfl
@[simp] theorem State.onW_fresh (s : State) (f : Wave → Wave) : (s.onW f).fresh = s.fresh := rfl

@[simp] theorem State.onDie_w (s : State) (f : Die → Die) : (s.onDie f).w = s.w := rfl
@[simp] theorem State.onDie_others (s : State) (f : Die → Die) : (s.onDie f).others = s.others := rfl
@[simp] theorem State.onDie_cores (s : State) (f : Die → Die) : (s.onDie f).cores = s.cores := rfl
@[simp] theorem State.onDie_die (s : State) (f : Die → Die) : (s.onDie f).die = f s.die := rfl
@[simp] theorem State.onDie_sched (s : State) (f : Die → Die) : (s.onDie f).sched = s.sched := rfl
@[simp] theorem State.onDie_host (s : State) (f : Die → Die) : (s.onDie f).host = s.host := rfl
@[simp] theorem State.onDie_tabs (s : State) (f : Die → Die) : (s.onDie f).tabs = s.tabs := rfl
@[simp] theorem State.onDie_pkg (s : State) (f : Die → Die) : (s.onDie f).pkg = s.pkg := rfl
@[simp] theorem State.onDie_agenda (s : State) (f : Die → Die) : (s.onDie f).agenda = s.agenda := rfl
@[simp] theorem State.onDie_fresh (s : State) (f : Die → Die) : (s.onDie f).fresh = s.fresh := rfl

@[simp] theorem State.onSched_w (s : State) (f : Sched → Sched) : (s.onSched f).w = s.w := rfl
@[simp] theorem State.onSched_others (s : State) (f : Sched → Sched) : (s.onSched f).others = s.others := rfl
@[simp] theorem State.onSched_cores (s : State) (f : Sched → Sched) : (s.onSched f).cores = s.cores := rfl
@[simp] theorem State.onSched_die (s : State) (f : Sched → Sched) : (s.onSched f).die = s.die := rfl
@[simp] theorem State.onSched_sched (s : State) (f : Sched → Sched) : (s.onSched f).sched = f s.sched := rfl
@[simp] theorem State.onSched_host (s : State) (f : Sched → Sched) : (s.onSched f).host = s.host := rfl
@[simp] theorem State.onSched_tabs (s : State) (f : Sched → Sched) : (s.onSched f).tabs = s.tabs := rfl
@[simp] theorem State.onSched_pkg (s : State) (f : Sched → Sched) : (s.onSched f).pkg = s.pkg := rfl
@[simp] theorem State.onSched_agenda (s : State) (f : Sched → Sched) : (s.onSched f).agenda = s.agenda := rfl
@[simp] theorem State.onSched_fresh (s : State) (f : Sched → Sched) : (s.onSched f).fresh = s.fresh := rfl

@[simp] theorem State.onHost_w (s : State) (f : HostRegs → HostRegs) : (s.onHost f).w = s.w := rfl
@[simp] theorem State.onHost_others (s : State) (f : HostRegs → HostRegs) : (s.onHost f).others = s.others := rfl
@[simp] theorem State.onHost_cores (s : State) (f : HostRegs → HostRegs) : (s.onHost f).cores = s.cores := rfl
@[simp] theorem State.onHost_die (s : State) (f : HostRegs → HostRegs) : (s.onHost f).die = s.die := rfl
@[simp] theorem State.onHost_sched (s : State) (f : HostRegs → HostRegs) : (s.onHost f).sched = s.sched := rfl
@[simp] theorem State.onHost_host (s : State) (f : HostRegs → HostRegs) : (s.onHost f).host = f s.host := rfl
@[simp] theorem State.onHost_tabs (s : State) (f : HostRegs → HostRegs) : (s.onHost f).tabs = s.tabs := rfl
@[simp] theorem State.onHost_pkg (s : State) (f : HostRegs → HostRegs) : (s.onHost f).pkg = s.pkg := rfl
@[simp] theorem State.onHost_agenda (s : State) (f : HostRegs → HostRegs) : (s.onHost f).agenda = s.agenda := rfl
@[simp] theorem State.onHost_fresh (s : State) (f : HostRegs → HostRegs) : (s.onHost f).fresh = s.fresh := rfl

@[simp] theorem State.onTabs_w (s : State) (f : HostTabs → HostTabs) : (s.onTabs f).w = s.w := rfl
@[simp] theorem State.onTabs_others (s : State) (f : HostTabs → HostTabs) : (s.onTabs f).others = s.others := rfl
@[simp] theorem State.onTabs_cores (s : State) (f : HostTabs → HostTabs) : (s.onTabs f).cores = s.cores := rfl
@[simp] theorem State.onTabs_die (s : State) (f : HostTabs → HostTabs) : (s.onTabs f).die = s.die := rfl
@[simp] theorem State.onTabs_sched (s : State) (f : HostTabs → HostTabs) : (s.onTabs f).sched = s.sched := rfl
@[simp] theorem State.onTabs_host (s : State) (f : HostTabs → HostTabs) : (s.onTabs f).host = s.host := rfl
@[simp] theorem State.onTabs_tabs (s : State) (f : HostTabs → HostTabs) : (s.onTabs f).tabs = f s.tabs := rfl
@[simp] theorem State.onTabs_pkg (s : State) (f : HostTabs → HostTabs) : (s.onTabs f).pkg = s.pkg := rfl
@[simp] theorem State.onTabs_agenda (s : State) (f : HostTabs → HostTabs) : (s.onTabs f).agenda = s.agenda := rfl
@[simp] theorem State.onTabs_fresh (s : State) (f : HostTabs → HostTabs) : (s.onTabs f).fresh = s.fresh := rfl

@[simp] theorem State.onPkg_w (s : State) (f : Pkg → Pkg) : (s.onPkg f).w = s.w := rfl
@[simp] theorem State.onPkg_others (s : State) (f : Pkg → Pkg) : (s.onPkg f).others = s.others := rfl
@[simp] theorem State.onPkg_cores (s : State) (f : Pkg → Pkg) : (s.onPkg f).cores = s.cores := rfl
@[simp] theorem State.onPkg_die (s : State) (f : Pkg → Pkg) : (s.onPkg f).die = s.die := rfl
@[simp] theorem State.onPkg_sched (s : State) (f : Pkg → Pkg) : (s.onPkg f).sched = s.sched := rfl
@[simp] theorem State.onPkg_host (s : State) (f : Pkg → Pkg) : (s.onPkg f).host = s.host := rfl
@[simp] theorem State.onPkg_tabs (s : State) (f : Pkg → Pkg) : (s.onPkg f).tabs = s.tabs := rfl
@[simp] theorem State.onPkg_pkg (s : State) (f : Pkg → Pkg) : (s.onPkg f).pkg = f s.pkg := rfl
@[simp] theorem State.onPkg_agenda (s : State) (f : Pkg → Pkg) : (s.onPkg f).agenda = s.agenda := rfl
@[simp] theorem State.onPkg_fresh (s : State) (f : Pkg → Pkg) : (s.onPkg f).fresh = s.fresh := rfl

@[simp] theorem State.onCore_w (s : State) (c : Nat) (f : Core → Core) : (s.onCore c f).w = s.w := rfl
@[simp] theorem State.onCore_others (s : State) (c : Nat) (f : Core → Core) : (s.onCore c f).others = s.others := rfl
@[simp] theorem State.onCore_cores (s : State) (c : Nat) (f : Core → Core) : (s.onCore c f).cores = upd Core.empty s.cores c f := rfl
@[simp] theorem State.onCore_die (s : State) (c : Nat) (f : Core → Core) : (s.onCore c f).die = s.die := rfl
@[simp] theorem State.onCore_sched (s : State) (c : Nat) (f : Core → Core) : (s.onCore c f).sched = s.sched := rfl
@[simp] theorem State.onCore_host (s : State) (c : Nat) (f : Core → Core) : (s.onCore c f).host = s.host := rfl
@[simp] theorem State.onCore_tabs (s : State) (c : Nat) (f : Core → Core) : (s.onCore c f).tabs = s.tabs := rfl
@[simp] theorem State.onCore_pkg (s : State) (c : Nat) (f : Core → Core) : (s.onCore c f).pkg = s.pkg := rfl
@[simp] theorem State.onCore_agenda (s : State) (c : Nat) (f : Core → Core) : (s.onCore c f).agenda = s.agenda := rfl
@[simp] theorem State.onCore_fresh (s : State) (c : Nat) (f : Core → Core) : (s.onCore c f).fresh = s.fresh := rfl

/-! ### The vector ALU's work -/

@[simp] theorem State.holdAlu_w (s : State) (w : Wave) (n : Nat) : (s.holdAlu w n).w = s.w := by
  unfold State.holdAlu; split <;> rfl
@[simp] theorem State.holdAlu_others (s : State) (w : Wave) (n : Nat) : (s.holdAlu w n).others = s.others := by
  unfold State.holdAlu; split <;> rfl
@[simp] theorem State.holdAlu_die (s : State) (w : Wave) (n : Nat) : (s.holdAlu w n).die = s.die := by
  unfold State.holdAlu; split <;> rfl
@[simp] theorem State.holdAlu_sched (s : State) (w : Wave) (n : Nat) : (s.holdAlu w n).sched = s.sched := by
  unfold State.holdAlu; split <;> rfl
@[simp] theorem State.holdAlu_host (s : State) (w : Wave) (n : Nat) : (s.holdAlu w n).host = s.host := by
  unfold State.holdAlu; split <;> rfl
@[simp] theorem State.holdAlu_tabs (s : State) (w : Wave) (n : Nat) : (s.holdAlu w n).tabs = s.tabs := by
  unfold State.holdAlu; split <;> rfl
@[simp] theorem State.holdAlu_pkg (s : State) (w : Wave) (n : Nat) : (s.holdAlu w n).pkg = s.pkg := by
  unfold State.holdAlu; split <;> rfl
@[simp] theorem State.holdAlu_agenda (s : State) (w : Wave) (n : Nat) : (s.holdAlu w n).agenda = s.agenda := by
  unfold State.holdAlu; split <;> rfl
@[simp] theorem State.holdAlu_fresh (s : State) (w : Wave) (n : Nat) : (s.holdAlu w n).fresh = s.fresh := by
  unfold State.holdAlu; split <;> rfl

/-! ### Updates of a wave -/

@[simp] theorem Wave.wrVMask_id (w : Wave) (m : Word) (d : Nat) (f : Nat → Word) : (w.wrVMask m d f).id = w.id := rfl
@[simp] theorem Wave.wrVMask_flow (w : Wave) (m : Word) (d : Nat) (f : Nat → Word) : (w.wrVMask m d f).flow = w.flow := rfl
@[simp] theorem Wave.wrVMask_regs (w : Wave) (m : Word) (d : Nat) (f : Nat → Word) : (w.wrVMask m d f).regs = { w.regs with v := w.regs.v.setIfInBounds d (setLanes m (w.rdV d) f) } := rfl
@[simp] theorem Wave.wrVMask_csr (w : Wave) (m : Word) (d : Nat) (f : Nat → Word) : (w.wrVMask m d f).csr = w.csr := rfl
@[simp] theorem Wave.wrVMask_mem (w : Wave) (m : Word) (d : Nat) (f : Nat → Word) : (w.wrVMask m d f).mem = w.mem := rfl

@[simp] theorem Wave.wrV_id (w : Wave) (d : Nat) (f : Nat → Word) : (w.wrV d f).id = w.id := rfl
@[simp] theorem Wave.wrV_flow (w : Wave) (d : Nat) (f : Nat → Word) : (w.wrV d f).flow = w.flow := rfl
@[simp] theorem Wave.wrV_regs (w : Wave) (d : Nat) (f : Nat → Word) : (w.wrV d f).regs = { w.regs with v := w.regs.v.setIfInBounds d (setLanes w.flow.mask (w.rdV d) f) } := rfl
@[simp] theorem Wave.wrV_csr (w : Wave) (d : Nat) (f : Nat → Word) : (w.wrV d f).csr = w.csr := rfl
@[simp] theorem Wave.wrV_mem (w : Wave) (d : Nat) (f : Nat → Word) : (w.wrV d f).mem = w.mem := rfl

@[simp] theorem Wave.wrS_id (w : Wave) (d : Nat) (x : Word) : (w.wrS d x).id = w.id := rfl
@[simp] theorem Wave.wrS_flow (w : Wave) (d : Nat) (x : Word) : (w.wrS d x).flow = w.flow := rfl
@[simp] theorem Wave.wrS_regs (w : Wave) (d : Nat) (x : Word) : (w.wrS d x).regs = { w.regs with s := w.regs.s.setIfInBounds d x } := rfl
@[simp] theorem Wave.wrS_csr (w : Wave) (d : Nat) (x : Word) : (w.wrS d x).csr = w.csr := rfl
@[simp] theorem Wave.wrS_mem (w : Wave) (d : Nat) (x : Word) : (w.wrS d x).mem = w.mem := rfl

@[simp] theorem Wave.wrP_id (w : Wave) (k : Nat) (x : Word) : (w.wrP k x).id = w.id := rfl
@[simp] theorem Wave.wrP_flow (w : Wave) (k : Nat) (x : Word) : (w.wrP k x).flow = w.flow := rfl
@[simp] theorem Wave.wrP_regs (w : Wave) (k : Nat) (x : Word) : (w.wrP k x).regs = { w.regs with p := w.regs.p.setIfInBounds k x } := rfl
@[simp] theorem Wave.wrP_csr (w : Wave) (k : Nat) (x : Word) : (w.wrP k x).csr = w.csr := rfl
@[simp] theorem Wave.wrP_mem (w : Wave) (k : Nat) (x : Word) : (w.wrP k x).mem = w.mem := rfl

@[simp] theorem Wave.markV_id (w : Wave) (d n : Nat) (b : Bool) : (w.markV d n b).id = w.id := rfl
@[simp] theorem Wave.markV_flow (w : Wave) (d n : Nat) (b : Bool) : (w.markV d n b).flow = w.flow := rfl
@[simp] theorem Wave.markV_regs (w : Wave) (d n : Nat) (b : Bool) : (w.markV d n b).regs = { w.regs with vfull := (List.range n).foldl (fun x i => setBit x (d + i) b) w.regs.vfull } := rfl
@[simp] theorem Wave.markV_csr (w : Wave) (d n : Nat) (b : Bool) : (w.markV d n b).csr = w.csr := rfl
@[simp] theorem Wave.markV_mem (w : Wave) (d n : Nat) (b : Bool) : (w.markV d n b).mem = w.mem := rfl

@[simp] theorem Wave.markS_id (w : Wave) (d n : Nat) (b : Bool) : (w.markS d n b).id = w.id := rfl
@[simp] theorem Wave.markS_flow (w : Wave) (d n : Nat) (b : Bool) : (w.markS d n b).flow = w.flow := rfl
@[simp] theorem Wave.markS_regs (w : Wave) (d n : Nat) (b : Bool) : (w.markS d n b).regs = { w.regs with sfull := (List.range n).foldl (fun x i => setBit x (d + i) b) w.regs.sfull } := rfl
@[simp] theorem Wave.markS_csr (w : Wave) (d n : Nat) (b : Bool) : (w.markS d n b).csr = w.csr := rfl
@[simp] theorem Wave.markS_mem (w : Wave) (d n : Nat) (b : Bool) : (w.markS d n b).mem = w.mem := rfl

@[simp] theorem Wave.orFlags_id (w : Wave) (f : Flags) : (w.orFlags f).id = w.id := rfl
@[simp] theorem Wave.orFlags_flow (w : Wave) (f : Flags) : (w.orFlags f).flow = w.flow := rfl
@[simp] theorem Wave.orFlags_regs (w : Wave) (f : Flags) : (w.orFlags f).regs = w.regs := rfl
@[simp] theorem Wave.orFlags_csr (w : Wave) (f : Flags) : (w.orFlags f).csr = { w.csr with arithf := w.csr.arithf ||| f } := rfl
@[simp] theorem Wave.orFlags_mem (w : Wave) (f : Flags) : (w.orFlags f).mem = w.mem := rfl

@[simp] theorem Wave.perfAdd_id (w : Wave) (k n : Nat) : (w.perfAdd k n).id = w.id := rfl
@[simp] theorem Wave.perfAdd_flow (w : Wave) (k n : Nat) : (w.perfAdd k n).flow = w.flow := rfl
@[simp] theorem Wave.perfAdd_regs (w : Wave) (k n : Nat) : (w.perfAdd k n).regs = w.regs := rfl
@[simp] theorem Wave.perfAdd_csr (w : Wave) (k n : Nat) : (w.perfAdd k n).csr = { w.csr with perf := w.csr.perf.setIfInBounds k (w.csr.perf.getD k 0 + BitVec.ofNat 32 n) } := rfl
@[simp] theorem Wave.perfAdd_mem (w : Wave) (k n : Nat) : (w.perfAdd k n).mem = w.mem := rfl

@[simp] theorem Wave.withHold_id (w : Wave) (h : Hold) : (w.withHold h).id = w.id := rfl
@[simp] theorem Wave.withHold_flow (w : Wave) (h : Hold) : (w.withHold h).flow = { w.flow with hold := h } := rfl
@[simp] theorem Wave.withHold_regs (w : Wave) (h : Hold) : (w.withHold h).regs = w.regs := rfl
@[simp] theorem Wave.withHold_csr (w : Wave) (h : Hold) : (w.withHold h).csr = w.csr := rfl
@[simp] theorem Wave.withHold_mem (w : Wave) (h : Hold) : (w.withHold h).mem = w.mem := rfl

@[simp] theorem Wave.finish_id (w : Wave) (pc : Addr) : (w.finish pc).id = w.id := rfl
@[simp] theorem Wave.finish_regs (w : Wave) (pc : Addr) : (w.finish pc).regs = w.regs := rfl
@[simp] theorem Wave.finish_csr (w : Wave) (pc : Addr) : (w.finish pc).csr = w.csr := rfl
@[simp] theorem Wave.finish_mem (w : Wave) (pc : Addr) :
    (w.finish pc).mem = { w.mem with walked := [], guards := [], owed := del w.mem.owed pc.toNat } := rfl

end Sys2Proof.Machine
end

