-- ==== Sys2Proof/Laws/Regs.lean ====
section
/-! SUPPORT. What a register reads as after a write, what going on past an instruction leaves, and what issuing comes to
once nothing keeps an instruction from its effect. -/

namespace Sys2Proof.Machine

/-! ### Registers -/

theorem setLanes_getD (m : Word) (old : Lanes) (f : Nat → Word) (l : Nat) :
    (setLanes m old f).getD l 0 = if l < 32 ∧ m.getLsbD l = true then f l else old.getD l 0 := by
  unfold setLanes
  by_cases h : l < 32
  · by_cases hm : m.getLsbD l = true <;> simp [Vector.getD, h, hm]
  · simp [Vector.getD, h]

theorem Wave.rdV_wrVMask (w : Wave) (m : Word) (d : Nat) (f : Nat → Word) (r : Nat) :
    (w.wrVMask m d f).rdV r = if r = d ∧ d < 128 then setLanes m (w.rdV d) f else w.rdV r := by
  unfold Wave.rdV Wave.wrVMask
  by_cases h : r < 128
  · by_cases hd : r = d
    · subst hd; simp [Vector.getD, h, Wave.rdV]
    · have hd' : ¬d = r := fun e => hd e.symm
      simp [Vector.getD, h, hd, hd']
  · have : ¬(r = d ∧ d < 128) := by omega
    rw [if_neg this]
    simp [Vector.getD, h]

theorem Wave.lane_wrVMask (w : Wave) (m : Word) (d : Nat) (f : Nat → Word) (r l : Nat) :
    (w.wrVMask m d f).lane r l = if r = d ∧ d < 128 ∧ l < 32 ∧ m.getLsbD l = true then f l else w.lane r l := by
  unfold Wave.lane
  rw [Wave.rdV_wrVMask]
  by_cases h : r = d ∧ d < 128
  · obtain ⟨rfl, h⟩ := h
    rw [if_pos ⟨rfl, h⟩, setLanes_getD]
    simp only [h, true_and]
  · rw [if_neg h, if_neg (by tauto)]

theorem Wave.lane_wrV (w : Wave) (d : Nat) (f : Nat → Word) (r l : Nat) :
    (w.wrV d f).lane r l = if r = d ∧ d < 128 ∧ l < 32 ∧ w.active l = true then f l else w.lane r l :=
  w.lane_wrVMask w.flow.mask d f r l

theorem Wave.rdV_wrV (w : Wave) (d : Nat) (f : Nat → Word) (r : Nat) (h : r ≠ d) : (w.wrV d f).rdV r = w.rdV r := by
  unfold Wave.wrV; rw [Wave.rdV_wrVMask, if_neg (by tauto)]

@[simp] theorem Wave.rdS_wrV (w : Wave) (d : Nat) (f : Nat → Word) (r : Nat) : (w.wrV d f).rdS r = w.rdS r := rfl
@[simp] theorem Wave.rdP_wrV (w : Wave) (d : Nat) (f : Nat → Word) (r : Nat) : (w.wrV d f).rdP r = w.rdP r := rfl
@[simp] theorem Wave.rdV_wrS (w : Wave) (d : Nat) (x : Word) (r : Nat) : (w.wrS d x).rdV r = w.rdV r := rfl
@[simp] theorem Wave.rdP_wrS (w : Wave) (d : Nat) (x : Word) (r : Nat) : (w.wrS d x).rdP r = w.rdP r := rfl
@[simp] theorem Wave.rdV_wrP (w : Wave) (d : Nat) (x : Word) (r : Nat) : (w.wrP d x).rdV r = w.rdV r := rfl
@[simp] theorem Wave.rdS_wrP (w : Wave) (d : Nat) (x : Word) (r : Nat) : (w.wrP d x).rdS r = w.rdS r := rfl
@[simp] theorem Wave.lane_wrS (w : Wave) (d : Nat) (x : Word) (r l : Nat) : (w.wrS d x).lane r l = w.lane r l := rfl
@[simp] theorem Wave.lane_wrP (w : Wave) (d : Nat) (x : Word) (r l : Nat) : (w.wrP d x).lane r l = w.lane r l := rfl

theorem Wave.rdS_wrS (w : Wave) (d : Nat) (x : Word) (r : Nat) :
    (w.wrS d x).rdS r = if r = d ∧ d < 64 then x else w.rdS r := by
  unfold Wave.rdS Wave.wrS
  by_cases h : r < 64
  · by_cases hd : r = d
    · subst hd; simp [Vector.getD, h]
    · have hd' : ¬d = r := fun e => hd e.symm
      simp [Vector.getD, h, hd, hd']
  · simp [Vector.getD, h]; omega

theorem Wave.rdP_wrP (w : Wave) (d : Nat) (x : Word) (r : Nat) :
    (w.wrP d x).rdP r = if r = d ∧ d < 8 then x else w.rdP r := by
  unfold Wave.rdP Wave.wrP
  by_cases h : r < 8
  · by_cases hd : r = d
    · subst hd; simp [Vector.getD, h]
    · have hd' : ¬d = r := fun e => hd e.symm
      simp [Vector.getD, h, hd, hd']
  · simp [Vector.getD, h]; omega

/-! ### Masks -/

theorem getLsbD_setBit_true (x : Word) (l k : Nat) (hl : l < 32) :
    (setBit x l true).getLsbD k = (x.getLsbD k || decide (k = l)) := by
  have h2 : (BitVec.ofNat 32 (2 ^ l)).getLsbD k = decide (k = l) := by
    rw [BitVec.getLsbD_ofNat, Nat.testBit_two_pow]
    by_cases h : l = k
    · subst h; simp [hl]
    · simp [h, Ne.symm h]
  unfold setBit
  rw [if_pos rfl, BitVec.getLsbD_or, h2]

theorem maskOf_getLsbD (ls : List Nat) (h : ∀ l ∈ ls, l < 32) (k : Nat) : (maskOf ls).getLsbD k = decide (k ∈ ls) := by
  have gen : ∀ (ls : List Nat) (m : Word), (∀ l ∈ ls, l < 32) →
      (ls.foldl (fun m l => setBit m l true) m).getLsbD k = (m.getLsbD k || decide (k ∈ ls)) := by
    intro ls
    induction ls with
    | nil => simp
    | cons a t ih =>
      intro m h
      rw [List.foldl_cons, ih _ fun l hl => h l (List.mem_cons_of_mem _ hl), getLsbD_setBit_true _ _ _ (h a (by simp))]
      by_cases h1 : k = a <;> simp [h1]
  unfold maskOf
  rw [gen ls 0 h]; simp

theorem mem_lanesOf (m : Word) (l : Nat) : l ∈ lanesOf m ↔ l < 32 ∧ m.getLsbD l = true := by
  simp [lanesOf]

theorem Wave.mem_lanes (w : Wave) (l : Nat) : l ∈ w.lanes ↔ l < 32 ∧ w.active l = true := mem_lanesOf _ _

theorem Wave.maskWhere_getLsbD (w : Wave) (p : Nat → Bool) (l : Nat) (h : l < 32) :
    (w.maskWhere p).getLsbD l = (w.active l && p l) := by
  unfold Wave.maskWhere
  rw [maskOf_getLsbD]
  · simp only [List.mem_filter, Wave.mem_lanes]
    by_cases h1 : w.active l = true <;> by_cases h2 : p l = true <;> simp [h, h1, h2]
  · intro k hk; exact ((w.mem_lanes k).1 (List.mem_of_mem_filter hk)).1

/-- The flags of the active lanes are exactly those that some active lane raises. -/
theorem Wave.laneFlags_getLsbD (w : Wave) (g : Nat → Flags) (k : Nat) :
    (w.laneFlags g).getLsbD k = true ↔ ∃ l < 32, w.active l = true ∧ (g l).getLsbD k = true := by
  have gen : ∀ (ls : List Nat) (m : Flags),
      (ls.foldl (fun x l => x ||| g l) m).getLsbD k = true ↔ m.getLsbD k = true ∨ ∃ l ∈ ls, (g l).getLsbD k = true := by
    intro ls
    induction ls with
    | nil => simp
    | cons a t ih => intro m; rw [List.foldl_cons, ih]; simp [or_assoc]
  unfold Wave.laneFlags
  rw [gen]
  simp [Wave.mem_lanes, and_assoc]

/-! ### Going on -/

@[simp] theorem Wave.advance_id (w : Wave) : w.advance.id = w.id := by unfold Wave.advance; simp only; split <;> [rfl; (split <;> rfl)]
@[simp] theorem Wave.advance_regs (w : Wave) : w.advance.regs = w.regs := by unfold Wave.advance; simp only; split <;> [rfl; (split <;> rfl)]
@[simp] theorem Wave.advance_mem (w : Wave) :
    w.advance.mem = { w.mem with walked := [], guards := [], owed := del w.mem.owed w.flow.pc.toNat } := by
  unfold Wave.advance; simp only; split <;> [rfl; (split <;> rfl)]
theorem Wave.advance_csr (w : Wave) : w.advance.csr = (w.perfAdd 0 1).csr := by
  unfold Wave.advance; simp only; split <;> [rfl; (split <;> rfl)]

/-- Going on looks at the flow alone. -/
theorem Wave.advance_flow_congr {v w : Wave} (h : v.flow = w.flow) : v.advance.flow = w.advance.flow := by
  unfold Wave.advance Wave.finish
  simp only [Wave.withHold_flow, Wave.perfAdd_flow, h]
  split <;> [rfl; (split <;> rfl)]

end Sys2Proof.Machine
end

