-- ==== Sys2Proof/Laws/Issue.lean ====
section
/-! SUPPORT. Issuing: everything it can do, and what is left of it once nothing keeps an instruction from its effect. -/

namespace Sys2Proof.Machine

/-- All that issuing can do: nothing, or what the checks and the instruction come to. -/
theorem issue_cases (u : Use) (f : State → Act) (s : State) :
    (s.issues = false ∧ issue u f s = .next s) ∨ (s.issues = true ∧ issue u f s = .next ((u.act f s).settle s)) := by
  unfold issue; cases s.issues <;> simp

/-- Issuing never stops the machine. -/
theorem issue_next (u : Use) (f : State → Act) (s : State) : ∃ t, issue u f s = .next t := by
  rcases issue_cases u f s with h | h <;> exact ⟨_, h.2⟩

/-- What the checks of R51 come to. -/
theorem Use.act_run {u : Use} {f : State → Act} {s : State} (h : s.mayRun u = true) :
    s.issues = true ∧ u.act f s = f (s.holdAlu s.w u.occ) := by
  simp only [State.mayRun, Bool.and_eq_true, Bool.not_eq_true', Bool.or_eq_true, beq_iff_eq, List.isEmpty_iff] at h
  obtain ⟨⟨⟨⟨⟨h1, -⟩, h2⟩, h3⟩, h4⟩, h5⟩ := h
  refine ⟨h1, ?_⟩
  unfold Use.act
  rw [h2, h4, h5]
  simp only [Bool.false_eq_true, if_false]
  rw [if_neg]
  rintro ⟨h6, h7⟩
  rcases h3 with h3 | h3
  · exact h6 h3
  · rw [h3] at h7; exact absurd h7 (by simp)

/-- An instruction that nothing keeps from its effect has it. -/
theorem issue_run {u : Use} {f : State → Act} {s : State} (h : s.mayRun u = true) :
    issue u f s = .next ((f (s.holdAlu s.w u.occ)).settle s) := by
  obtain ⟨h1, h2⟩ := Use.act_run (f := f) h
  unfold issue; rw [h1, h2]; rfl

/-- One whose effect is on the wave alone. -/
theorem issueW_run {u : Use} {f : Wave → Wave} {s : State} (h : s.mayRun u = true) :
    issueW u f s = .next ((s.holdAlu s.w u.occ).onW fun w => (f w).advance) := issue_run h

theorem State.mayRun_clause {s : State} {u : Use} (h : s.mayRun u = true) : ∃ c, s.w.flow.clause = some c := by
  simp only [State.mayRun, Bool.and_eq_true] at h
  exact Option.isSome_iff_exists.1 h.1.1.1.1.2

/-- Work of the vector ALU changes no L1. -/
theorem State.core_holdAlu_l1 (s : State) (w : Wave) (n k : Nat) : ((s.holdAlu w n).core k).l1 = (s.core k).l1 := by
  unfold State.holdAlu
  split
  · rfl
  · unfold State.core
    rw [State.onCore_cores, look_upd]
    split
    · subst k; rfl
    · rfl

/-- The rest of the machine after an instruction of registers only. -/
theorem State.sameRest_onW (s : State) (n : Nat) (f : Wave → Wave) : s.SameRest ((s.holdAlu s.w n).onW f) n where
  others := by simp
  cores := by simp
  die := by simp
  sched := by simp
  host := by simp
  tabs := by simp
  pkg := by simp
  agenda := by simp
  fresh := by simp
  bytes := by
    intro core pa fields
    have h1 : ((s.holdAlu s.w n).onW f).l1? core pa = s.l1? core pa := by
      unfold State.l1? State.l1Core State.fused
      rw [State.onW_die, State.holdAlu_die]
      exact congrArg (fun m => look? m _) (s.core_holdAlu_l1 _ _ _)
    have h2 : ((s.holdAlu s.w n).onW f).peek pa 1 fields = s.peek pa 1 fields := by
      unfold State.peek State.l2? State.l2Bytes State.l2?
      simp only [State.onW_die, State.holdAlu_die, State.onW_pkg, State.holdAlu_pkg]
    unfold State.byteSeen
    rw [h1, h2]
  tile := by
    intro k off
    unfold State.tileByte State.tileBytes State.blk?
    simp only [State.onW_sched, State.holdAlu_sched]

end Sys2Proof.Machine
end

