-- ==== Sys2Proof/Laws/PerInstr.lean ====
section
/-! SUPPORT. One lemma for each instruction: an event has no words, and an encoded instruction has as many words as its
opcode, which stands in bits 31..24 of the first, says (03 R27, R36, R53). -/

namespace Sys2Proof.Laws

/-- Nothing in bits 31..24. -/
def Low (y : Word) : Prop := y.toNat < 2 ^ 24
theorem low_or {x y : Word} (hx : Low x) (hy : Low y) : Low (x ||| y) := by
  unfold Low at *; rw [BitVec.toNat_or]; exact Nat.or_lt_two_pow hx hy
theorem low_atBit {b : Bool} {k : Nat} (h : k < 24) : Low (atBit b k) := by
  unfold Low atBit
  split
  · rw [BitVec.toNat_ofNat]; exact lt_of_le_of_lt (Nat.mod_le _ _) (Nat.pow_lt_pow_right (by omega) h)
  · simp
theorem low_atBits {n : Nat} {x : BitVec n} {lo : Nat} (h : n + lo ≤ 24) : Low (atBits x lo) := by
  unfold Low atBits
  rw [BitVec.toNat_shiftLeft, BitVec.toNat_setWidth, Nat.shiftLeft_eq]
  have : x.toNat % 2 ^ 32 < 2 ^ n := lt_of_le_of_lt (Nat.mod_le _ _) x.isLt
  calc _ ≤ x.toNat % 2 ^ 32 * 2 ^ lo := Nat.mod_le _ _
    _ < 2 ^ n * 2 ^ lo := Nat.mul_lt_mul_of_pos_right this (by positivity)
    _ = 2 ^ (n + lo) := (Nat.pow_add ..).symm
    _ ≤ 2 ^ 24 := Nat.pow_le_pow_right (by omega) h
theorem fld_low {y : Word} (h : Low y) : fld y 24 8 = 0#8 := by
  apply BitVec.eq_of_toNat_eq
  rw [fld, BitVec.extractLsb'_toNat, Nat.shiftRight_eq_div_pow, Nat.div_eq_of_lt h]; rfl
theorem fld_or (x y : Word) : fld (x ||| y) 24 8 = fld x 24 8 ||| fld y 24 8 := by
  simp only [fld, BitVec.extractLsb'_or]
theorem opcode_atOp (op : BitVec 8) {y : Word} (hy : Low y) : opcodeOf (atOp op.toNat ||| y) = op.toNat := by
  rw [opcodeOf, fld_or, fld_low hy, BitVec.or_zero]
  have h : op.toNat < 2 ^ 8 := op.isLt
  rw [fld, atOp, BitVec.extractLsb'_toNat, BitVec.toNat_ofNat, Nat.shiftRight_eq_div_pow,
    show (2 : Nat) ^ 32 = 2 ^ 8 * 2 ^ 24 from rfl, Nat.mul_mod_mul_right, Nat.mul_div_cancel _ (by decide), Nat.mod_mod,
    Nat.mod_eq_of_lt h]
theorem opcode_op {op : Nat} {y : Word} (h : op < 256) (hy : Low y) : opcodeOf (atOp op ||| y) = op := by
  have e := opcode_atOp (BitVec.ofNat 8 op) hy
  rwa [BitVec.toNat_ofNat, Nat.mod_eq_of_lt h] at e

/-- An opcode alone. -/
theorem opcode_none {op : Nat} (h : op < 256) : opcodeOf (atOp op) = op := by
  have e := opcode_op (y := 0) h (by unfold Low; decide)
  rwa [show atOp op ||| (0 : Word) = atOp op from BitVec.or_zero] at e

theorem opcode_F3 {op : Nat} (f : F3) (h : op < 256) : opcodeOf (f.toWord op) = op := by
  simp only [F3.toWord, BitVec.or_assoc]
  exact opcode_op h (low_or (low_atBit (by decide)) (low_or (low_atBits (by decide)) (low_or (low_atBit (by decide))
    (low_or (low_atBits (by decide)) (low_or (low_atBit (by decide)) (low_atBits (by decide)))))))

theorem opcode_U3 {op : Nat} (u : U3) (h : op < 256) : opcodeOf (u.toWord op) = op := opcode_F3 _ h

theorem opcode_word0 {op : Nat} (q : Bool) (d : BitVec 7) (wa : Bool) (a : BitVec 7) (wb : Bool) (b : BitVec 7)
    (h : op < 256) : opcodeOf (word0 op q d wa a wb b) = op := opcode_F3 _ h

theorem opcode_MA {n op : Nat} (d : BitVec 7) (m : MA n) (h : op < 256) : opcodeOf (m.toWord op d) = op := opcode_F3 _ h

theorem opcode_FI {op : Nat} (q : Bool) (d : BitVec 7) (wa : Bool) (a : BitVec 7) (imm : BitVec 8) (h : op < 256) :
    opcodeOf (wordFI op q d wa a imm) = op := by
  simp only [wordFI, BitVec.or_assoc]
  exact opcode_op h (low_or (low_atBit (by decide)) (low_or (low_atBits (by decide)) (low_or (low_atBit (by decide))
    (low_or (low_atBits (by decide)) (low_atBits (by decide))))))

theorem opcode_TA {op : Nat} (t : TA) (h : op < 256) : opcodeOf (t.toWord op) = op := by
  simp only [TA.toWord, BitVec.or_assoc]
  exact opcode_op h (low_or (low_atBit (by decide)) (low_or (low_atBits (by decide)) (low_or (low_atBit (by decide))
    (low_or (low_atBits (by decide)) (low_or (low_atBits (by decide)) (low_atBits (by decide)))))))

theorem opcode_FC {op : Nat} (f : FC) (h : op < 256) : opcodeOf (f.toWord op) = op := by
  simp only [FC.toWord, BitVec.or_assoc]
  exact opcode_op h (low_or (low_atBit (by decide)) (low_or (low_atBits (by decide)) (low_or (low_atBit (by decide))
    (low_or (low_atBits (by decide)) (low_or (low_atBits (by decide)) (low_atBits (by decide)))))))

theorem opcode_wordFS {op : Nat} (sd sa sb imm : BitVec 6) (h : op < 256) : opcodeOf (wordFS op sd sa sb imm) = op := by
  simp only [wordFS, BitVec.or_assoc]
  exact opcode_op h (low_or (low_atBits (by decide)) (low_or (low_atBits (by decide)) (low_or (low_atBits (by decide))
    (low_atBits (by decide)))))

theorem opcode_FS {op : Nat} (f : FS) (h : op < 256) : opcodeOf (f.toWord op) = op := opcode_wordFS _ _ _ _ h

theorem opcode_FB {op : Nat} (neg : Bool) (p : BitVec 3) (level : BitVec 4) (h : op < 256) :
    opcodeOf (wordFB op neg p level) = op := by
  simp only [wordFB, BitVec.or_assoc]
  exact opcode_op h (low_or (low_atBit (by decide)) (low_or (low_atBits (by decide)) (low_atBits (by decide))))

theorem opcode_two {n m op : Nat} {x : BitVec n} {y : BitVec m} {i j : Nat} (h : op < 256) (hx : n + i ≤ 24) (hy : m + j ≤ 24) :
    opcodeOf (atOp op ||| atBits x i ||| atBits y j) = op := by
  rw [BitVec.or_assoc]; exact opcode_op h (low_or (low_atBits hx) (low_atBits hy))

/-- The words of an instruction: none, or as many as its opcode says. -/
def Words.Statement (i : Instr) : Prop :=
  encode i = [] ∨ ∃ w ws, encode i = w :: ws ∧ ws.length + 1 = opcodeWords (opcodeOf w)

theorem words_of {i : Instr} {w : Word} {ws : List Word} {op : Nat} (h : encode i = w :: ws) (ho : opcodeOf w = op)
    (hl : ws.length + 1 = opcodeWords op) : Words.Statement i := .inr ⟨w, ws, h, by rw [ho]; exact hl⟩

theorem Words.iadd (f : F3) : Words.Statement (.iadd f) := words_of rfl (opcode_F3 _ (by decide)) rfl
theorem Words.isub (f : F3) : Words.Statement (.isub f) := words_of rfl (opcode_F3 _ (by decide)) rfl
theorem Words.imul (f : F3) : Words.Statement (.imul f) := words_of rfl (opcode_F3 _ (by decide)) rfl
theorem Words.imulh (f : F3) : Words.Statement (.imulh f) := words_of rfl (opcode_F3 _ (by decide)) rfl
theorem Words.imad (f : F3) : Words.Statement (.imad f) := words_of rfl (opcode_F3 _ (by decide)) rfl
theorem Words.imin (f : F3) : Words.Statement (.imin f) := words_of rfl (opcode_F3 _ (by decide)) rfl
theorem Words.imax (f : F3) : Words.Statement (.imax f) := words_of rfl (opcode_F3 _ (by decide)) rfl
theorem Words.umin (f : F3) : Words.Statement (.umin f) := words_of rfl (opcode_F3 _ (by decide)) rfl
theorem Words.umax (f : F3) : Words.Statement (.umax f) := words_of rfl (opcode_F3 _ (by decide)) rfl
theorem Words.and (f : F3) : Words.Statement (.and f) := words_of rfl (opcode_F3 _ (by decide)) rfl
theorem Words.or (f : F3) : Words.Statement (.or f) := words_of rfl (opcode_F3 _ (by decide)) rfl
theorem Words.xor (f : F3) : Words.Statement (.xor f) := words_of rfl (opcode_F3 _ (by decide)) rfl
theorem Words.andn (f : F3) : Words.Statement (.andn f) := words_of rfl (opcode_F3 _ (by decide)) rfl
theorem Words.shl (f : F3) : Words.Statement (.shl f) := words_of rfl (opcode_F3 _ (by decide)) rfl
theorem Words.shr (f : F3) : Words.Statement (.shr f) := words_of rfl (opcode_F3 _ (by decide)) rfl
theorem Words.sar (f : F3) : Words.Statement (.sar f) := words_of rfl (opcode_F3 _ (by decide)) rfl
theorem Words.popc (u : U3) : Words.Statement (.popc u) := words_of rfl (opcode_U3 _ (by decide)) rfl
theorem Words.clz (u : U3) : Words.Statement (.clz u) := words_of rfl (opcode_U3 _ (by decide)) rfl
theorem Words.ctz (u : U3) : Words.Statement (.ctz u) := words_of rfl (opcode_U3 _ (by decide)) rfl
theorem Words.brev (u : U3) : Words.Statement (.brev u) := words_of rfl (opcode_U3 _ (by decide)) rfl
theorem Words.bfe (u : U3) (sx : Bool) (lenm1 : BitVec 5) (pos : BitVec 5) : Words.Statement (.bfe u sx lenm1 pos) := words_of rfl (opcode_U3 _ (by decide)) rfl
theorem Words.bfi (f : F3) (lenm1 : BitVec 5) (pos : BitVec 5) : Words.Statement (.bfi f lenm1 pos) := words_of rfl (opcode_F3 _ (by decide)) rfl
theorem Words.icmp (f : F3) : Words.Statement (.icmp f) := words_of rfl (opcode_F3 _ (by decide)) rfl
theorem Words.sel (f : F3) (neg : Bool) (pidx : BitVec 3) : Words.Statement (.sel f neg pidx) := words_of rfl (opcode_F3 _ (by decide)) rfl
theorem Words.mov (u : U3) : Words.Statement (.mov u) := words_of rfl (opcode_U3 _ (by decide)) rfl
theorem Words.movi (d : BitVec 7) (imm : BitVec 32) : Words.Statement (.movi d imm) := words_of rfl (opcode_word0 _ _ _ _ _ _ (by decide)) rfl
theorem Words.iaddi (f : FI) : Words.Statement (.iaddi f) := words_of rfl (opcode_FI _ _ _ _ _ (by decide)) rfl
theorem Words.lea (f : F3) (off : BitVec 16) (sx : Bool) (sh : BitVec 3) : Words.Statement (.lea f off sx sh) := words_of rfl (opcode_F3 _ (by decide)) rfl
theorem Words.iadds (f : F3) : Words.Statement (.iadds f) := words_of rfl (opcode_F3 _ (by decide)) rfl
theorem Words.iabs (u : U3) : Words.Statement (.iabs u) := words_of rfl (opcode_U3 _ (by decide)) rfl
theorem Words.ineg (u : U3) : Words.Statement (.ineg u) := words_of rfl (opcode_U3 _ (by decide)) rfl
theorem Words.fadd (f : F3) : Words.Statement (.fadd f) := words_of rfl (opcode_F3 _ (by decide)) rfl
theorem Words.fsub (f : F3) : Words.Statement (.fsub f) := words_of rfl (opcode_F3 _ (by decide)) rfl
theorem Words.fmul (f : F3) : Words.Statement (.fmul f) := words_of rfl (opcode_F3 _ (by decide)) rfl
theorem Words.ffma (f : F3) : Words.Statement (.ffma f) := words_of rfl (opcode_F3 _ (by decide)) rfl
theorem Words.ffma3 (f : F3) (wc : Bool) (c : BitVec 7) : Words.Statement (.ffma3 f wc c) := words_of rfl (opcode_F3 _ (by decide)) rfl
theorem Words.fmin (f : F3) : Words.Statement (.fmin f) := words_of rfl (opcode_F3 _ (by decide)) rfl
theorem Words.fmax (f : F3) : Words.Statement (.fmax f) := words_of rfl (opcode_F3 _ (by decide)) rfl
theorem Words.fcmp (f : F3) : Words.Statement (.fcmp f) := words_of rfl (opcode_F3 _ (by decide)) rfl
theorem Words.frcp (u : U3) : Words.Statement (.frcp u) := words_of rfl (opcode_U3 _ (by decide)) rfl
theorem Words.frsq (u : U3) : Words.Statement (.frsq u) := words_of rfl (opcode_U3 _ (by decide)) rfl
theorem Words.fsqrt (u : U3) : Words.Statement (.fsqrt u) := words_of rfl (opcode_U3 _ (by decide)) rfl
theorem Words.fexp2 (u : U3) : Words.Statement (.fexp2 u) := words_of rfl (opcode_U3 _ (by decide)) rfl
theorem Words.flog2 (u : U3) : Words.Statement (.flog2 u) := words_of rfl (opcode_U3 _ (by decide)) rfl
theorem Words.ftanh (u : U3) : Words.Statement (.ftanh u) := words_of rfl (opcode_U3 _ (by decide)) rfl
theorem Words.fcvt (f : FC) : Words.Statement (.fcvt f) := words_of rfl (opcode_FC _ (by decide)) rfl
theorem Words.hfma2 (f : F3) : Words.Statement (.hfma2 f) := words_of rfl (opcode_F3 _ (by decide)) rfl
theorem Words.bfma2 (f : F3) : Words.Statement (.bfma2 f) := words_of rfl (opcode_F3 _ (by decide)) rfl
theorem Words.dadd (f : F3) : Words.Statement (.dadd f) := words_of rfl (opcode_F3 _ (by decide)) rfl
theorem Words.dmul (f : F3) : Words.Statement (.dmul f) := words_of rfl (opcode_F3 _ (by decide)) rfl
theorem Words.dfma (f : F3) : Words.Statement (.dfma f) := words_of rfl (opcode_F3 _ (by decide)) rfl
theorem Words.dcvt (f : FC) : Words.Statement (.dcvt f) := words_of rfl (opcode_FC _ (by decide)) rfl
theorem Words.vote (d : BitVec 6) (wa : Bool) (a : BitVec 7) (mode : BitVec 2) : Words.Statement (.vote d wa a mode) := words_of rfl (opcode_word0 _ _ _ _ _ _ (by decide)) rfl
theorem Words.shfl (f : F3) (wcode : BitVec 3) (mode : BitVec 2) (useb : Bool) (imm : BitVec 5) : Words.Statement (.shfl f wcode mode useb imm) := words_of rfl (opcode_F3 _ (by decide)) rfl
theorem Words.redx (f : F3) (sdst : Bool) (rop : BitVec 4) : Words.Statement (.redx f sdst rop) := words_of rfl (opcode_F3 _ (by decide)) rfl
theorem Words.nop : Words.Statement (.nop) := words_of rfl (opcode_none (by decide)) rfl
theorem Words.smov (sd : BitVec 6) (sa : BitVec 6) : Words.Statement (.smov sd sa) := words_of rfl (opcode_wordFS _ _ _ _ (by decide)) rfl
theorem Words.smovi (d : BitVec 6) (imm : BitVec 32) : Words.Statement (.smovi d imm) := words_of rfl (opcode_word0 _ _ _ _ _ _ (by decide)) rfl
theorem Words.sadd (f : FS) : Words.Statement (.sadd f) := words_of rfl (opcode_FS _ (by decide)) rfl
theorem Words.ssub (f : FS) : Words.Statement (.ssub f) := words_of rfl (opcode_FS _ (by decide)) rfl
theorem Words.smul (f : FS) : Words.Statement (.smul f) := words_of rfl (opcode_FS _ (by decide)) rfl
theorem Words.sand (f : FS) : Words.Statement (.sand f) := words_of rfl (opcode_FS _ (by decide)) rfl
theorem Words.sor (f : FS) : Words.Statement (.sor f) := words_of rfl (opcode_FS _ (by decide)) rfl
theorem Words.sxor (f : FS) : Words.Statement (.sxor f) := words_of rfl (opcode_FS _ (by decide)) rfl
theorem Words.sshl (f : FS) : Words.Statement (.sshl f) := words_of rfl (opcode_FS _ (by decide)) rfl
theorem Words.sshr (f : FS) : Words.Statement (.sshr f) := words_of rfl (opcode_FS _ (by decide)) rfl
theorem Words.scmp (pd : BitVec 3) (sa : BitVec 6) (sb : BitVec 6) (rel : BitVec 3) : Words.Statement (.scmp pd sa sb rel) := words_of rfl (opcode_wordFS _ _ _ _ (by decide)) rfl
theorem Words.s2v (d : BitVec 7) (wb : Bool) (b : BitVec 6) : Words.Statement (.s2v d wb b) := words_of rfl (opcode_word0 _ _ _ _ _ _ (by decide)) rfl
theorem Words.v2s (d : BitVec 6) (wa : Bool) (a : BitVec 7) (k : BitVec 5) : Words.Statement (.v2s d wa a k) := words_of rfl (opcode_word0 _ _ _ _ _ _ (by decide)) rfl
theorem Words.bra (toff : BitVec 16) : Words.Statement (.bra toff) := words_of rfl (opcode_FB _ _ _ (by decide)) rfl
theorem Words.brc (neg : Bool) (pidx : BitVec 3) (toff : BitVec 16) (roff : BitVec 16) : Words.Statement (.brc neg pidx toff roff) := words_of rfl (opcode_FB _ _ _ (by decide)) rfl
theorem Words.brk (level : BitVec 4) : Words.Statement (.brk level) := words_of rfl (opcode_FB _ _ _ (by decide)) rfl
theorem Words.jmpi (wa : Bool) (a : BitVec 7) (roff : BitVec 16) : Words.Statement (.jmpi wa a roff) := words_of rfl (opcode_word0 _ _ _ _ _ _ (by decide)) rfl
theorem Words.call (toff : BitVec 16) : Words.Statement (.call toff) := words_of rfl (opcode_FB _ _ _ (by decide)) rfl
theorem Words.ret : Words.Statement (.ret) := words_of rfl (opcode_none (by decide)) rfl
theorem Words.exit : Words.Statement (.exit) := words_of rfl (opcode_none (by decide)) rfl
theorem Words.bar (level : BitVec 2) (mode : BitVec 2) (num : BitVec 3) : Words.Statement (.bar level mode num) :=
  words_of (op := 0x55) rfl (by rw [BitVec.or_assoc, BitVec.or_assoc]; exact opcode_op (by decide) (low_or (low_atBits (by decide)) (low_or (low_atBits (by decide)) (low_atBits (by decide))))) rfl
theorem Words.spawn (wa : Bool) (a : BitVec 7) (wb : Bool) (b : BitVec 6) : Words.Statement (.spawn wa a wb b) := words_of rfl (opcode_word0 _ _ _ _ _ _ (by decide)) rfl
theorem Words.tqpush (d : BitVec 6) (wa : Bool) (a : BitVec 7) (wb : Bool) (b : BitVec 6) : Words.Statement (.tqpush d wa a wb b) := words_of rfl (opcode_word0 _ _ _ _ _ _ (by decide)) rfl
theorem Words.tqpop (d : BitVec 6) (nb : Bool) (wb : Bool) (b : BitVec 6) : Words.Statement (.tqpop d nb wb b) := words_of rfl (opcode_word0 _ _ _ _ _ _ (by decide)) rfl
theorem Words.tqstat (d : BitVec 6) (wb : Bool) (b : BitVec 6) : Words.Statement (.tqstat d wb b) := words_of rfl (opcode_word0 _ _ _ _ _ _ (by decide)) rfl
theorem Words.recget (d : BitVec 6) : Words.Statement (.recget d) := words_of rfl (opcode_word0 _ _ _ _ _ _ (by decide)) rfl
theorem Words.yield : Words.Statement (.yield) := words_of rfl (opcode_none (by decide)) rfl
theorem Words.waitc (kind : BitVec 2) (n : BitVec 6) : Words.Statement (.waitc kind n) := words_of rfl (opcode_two (by decide) (by decide) (by decide)) rfl
theorem Words.ld (m : MA 14) (d : BitVec 7) (scope : BitVec 2) (ord : BitVec 3) (size : BitVec 3) (sx : Bool) : Words.Statement (.ld m d scope ord size sx) := words_of rfl (opcode_MA _ _ (by decide)) rfl
theorem Words.st (m : MA 14) (wv : Bool) (v : BitVec 7) (scope : BitVec 2) (ord : BitVec 3) (size : BitVec 3) : Words.Statement (.st m wv v scope ord size) := words_of rfl (opcode_MA _ _ (by decide)) rfl
theorem Words.ldt (t : TA) : Words.Statement (.ldt t) := words_of rfl (opcode_TA _ (by decide)) rfl
theorem Words.stt (t : TA) : Words.Statement (.stt t) := words_of rfl (opcode_TA _ (by decide)) rfl
theorem Words.sld (d : BitVec 6) (wb : Bool) (b : BitVec 6) (off : BitVec 14) (scope : BitVec 2) (ord : BitVec 3) (size : BitVec 3) : Words.Statement (.sld d wb b off scope ord size) := words_of rfl (opcode_word0 _ _ _ _ _ _ (by decide)) rfl
theorem Words.atom (m : MA 10) (d : BitVec 7) (aop : BitVec 4) (wv : Bool) (v : BitVec 7) (scope : BitVec 2) (ord : BitVec 3) (size : BitVec 3) : Words.Statement (.atom m d aop wv v scope ord size) := words_of rfl (opcode_MA _ _ (by decide)) rfl
theorem Words.atomc (m : MA 10) (d : BitVec 7) (wv : Bool) (v : BitVec 7) (scope : BitVec 2) (ord : BitVec 3) (size : BitVec 3) : Words.Statement (.atomc m d wv v scope ord size) := words_of rfl (opcode_MA _ _ (by decide)) rfl
theorem Words.red (m : MA 10) (aop : BitVec 4) (wv : Bool) (v : BitVec 7) (scope : BitVec 2) (ord : BitVec 3) (size : BitVec 3) : Words.Statement (.red m aop wv v scope ord size) := words_of rfl (opcode_MA _ _ (by decide)) rfl
theorem Words.fence (kind : BitVec 3) (scope : BitVec 2) : Words.Statement (.fence kind scope) := words_of rfl (opcode_two (by decide) (by decide) (by decide)) rfl
theorem Words.cctl (m : MA 14) (cop : BitVec 3) : Words.Statement (.cctl m cop) := words_of rfl (opcode_MA _ _ (by decide)) rfl
theorem Words.rbegin (d : BitVec 6) (aoff : BitVec 16) : Words.Statement (.rbegin d aoff) := words_of rfl (opcode_word0 _ _ _ _ _ _ (by decide)) rfl
theorem Words.rcommit : Words.Statement (.rcommit) := words_of rfl (opcode_none (by decide)) rfl
theorem Words.rabort (code : BitVec 7) : Words.Statement (.rabort code) := words_of rfl (opcode_op (by decide) (low_atBits (by decide))) rfl
theorem Words.rstat (d : BitVec 6) (sel : BitVec 3) : Words.Statement (.rstat d sel) := words_of rfl (opcode_word0 _ _ _ _ _ _ (by decide)) rfl
theorem Words.obind (d : BitVec 6) (wb : Bool) (b : BitVec 6) (off : BitVec 32) : Words.Statement (.obind d wb b off) := words_of rfl (opcode_word0 _ _ _ _ _ _ (by decide)) rfl
theorem Words.ounbind (d : BitVec 6) (wb : Bool) (b : BitVec 6) : Words.Statement (.ounbind d wb b) := words_of rfl (opcode_word0 _ _ _ _ _ _ (by decide)) rfl
theorem Words.oseal (d : BitVec 6) (op : BitVec 2) (wb : Bool) (b : BitVec 6) : Words.Statement (.oseal d op wb b) := words_of rfl (opcode_word0 _ _ _ _ _ _ (by decide)) rfl
theorem Words.orecipe (d : BitVec 6) (wb : Bool) (b : BitVec 6) (off : BitVec 32) : Words.Statement (.orecipe d wb b off) := words_of rfl (opcode_word0 _ _ _ _ _ _ (by decide)) rfl
theorem Words.oprio (d : BitVec 6) (prio : BitVec 3) (wb : Bool) (b : BitVec 6) : Words.Statement (.oprio d prio wb b) := words_of rfl (opcode_word0 _ _ _ _ _ _ (by decide)) rfl
theorem Words.oevict (d : BitVec 6) (demote : Bool) (wb : Bool) (b : BitVec 6) : Words.Statement (.oevict d demote wb b) := words_of rfl (opcode_word0 _ _ _ _ _ _ (by decide)) rfl
theorem Words.tmtag (q : Bool) (d : BitVec 7) (wa : Bool) (a : BitVec 7) (set : Bool) (tag : BitVec 2) : Words.Statement (.tmtag q d wa a set tag) := words_of rfl (opcode_FI _ _ _ _ _ (by decide)) rfl
theorem Words.tmm (vacc : BitVec 7) (wa : Bool) (a : BitVec 7) (wb : Bool) (b : BitVec 6) (consume : Bool) (pm1 : BitVec 5) (slot : BitVec 7) : Words.Statement (.tmm vacc wa a wb b consume pm1 slot) := words_of rfl (opcode_word0 _ _ _ _ _ _ (by decide)) rfl
theorem Words.tprom (d : BitVec 7) : Words.Statement (.tprom d) := words_of rfl (opcode_word0 _ _ _ _ _ _ (by decide)) rfl
theorem Words.tbound (d : BitVec 6) (wa : Bool) (a : BitVec 7) (slot : BitVec 7) : Words.Statement (.tbound d wa a slot) := words_of rfl (opcode_word0 _ _ _ _ _ _ (by decide)) rfl
theorem Words.tcnt (u : U3) (kind : BitVec 4) : Words.Statement (.tcnt u kind) := words_of rfl (opcode_word0 _ _ _ _ _ _ (by decide)) rfl
theorem Words.tlenc (d : BitVec 6) (wb : Bool) (b : BitVec 6) (pitch : BitVec 16) : Words.Statement (.tlenc d wb b pitch) := words_of rfl (opcode_word0 _ _ _ _ _ _ (by decide)) rfl
theorem Words.tldec (d : BitVec 7) (wa : Bool) (a : BitVec 7) (wb : Bool) (b : BitVec 6) (hoff : BitVec 16) : Words.Statement (.tldec d wa a wb b hoff) := words_of rfl (opcode_word0 _ _ _ _ _ _ (by decide)) rfl
theorem Words.qbx (u : U3) (bf : Bool) (kind : BitVec 3) : Words.Statement (.qbx u bf kind) := words_of rfl (opcode_FI _ _ _ _ _ (by decide)) rfl
theorem Words.dqbx (u : U3) (bf : Bool) (kind : BitVec 3) : Words.Statement (.dqbx u bf kind) := words_of rfl (opcode_FI _ _ _ _ _ (by decide)) rfl
theorem Words.decs (d : BitVec 6) (wb : Bool) (b : BitVec 6) (wl : Bool) (l : BitVec 6) : Words.Statement (.decs d wb b wl l) := words_of rfl (opcode_word0 _ _ _ _ _ _ (by decide)) rfl
theorem Words.xmm (d : BitVec 7) (wb : Bool) (b : BitVec 6) (zc : Bool) (conjb : Bool) (form : BitVec 2) : Words.Statement (.xmm d wb b zc conjb form) := words_of rfl (opcode_word0 _ _ _ _ _ _ (by decide)) rfl
theorem Words.tstat (d : BitVec 6) (sel : BitVec 3) : Words.Statement (.tstat d sel) := words_of rfl (opcode_word0 _ _ _ _ _ _ (by decide)) rfl
theorem Words.cpyt (wb : Bool) (b : BitVec 6) (tadd : BitVec 32) : Words.Statement (.cpyt wb b tadd) := words_of rfl (opcode_word0 _ _ _ _ _ _ (by decide)) rfl
theorem Words.cpyg (wb : Bool) (b : BitVec 6) (tstride : BitVec 32) : Words.Statement (.cpyg wb b tstride) := words_of rfl (opcode_word0 _ _ _ _ _ _ (by decide)) rfl
theorem Words.cpyw (slot : BitVec 7) (wb : Bool) (b : BitVec 6) (sig : BitVec 32) : Words.Statement (.cpyw slot wb b sig) := words_of rfl (opcode_word0 _ _ _ _ _ _ (by decide)) rfl
theorem Words.cpyp (wb : Bool) (b : BitVec 6) (redop : BitVec 3) : Words.Statement (.cpyp wb b redop) := words_of rfl (opcode_word0 _ _ _ _ _ _ (by decide)) rfl
theorem Words.cfill (wb : Bool) (b : BitVec 6) (tadd : BitVec 32) : Words.Statement (.cfill wb b tadd) := words_of rfl (opcode_word0 _ _ _ _ _ _ (by decide)) rfl
theorem Words.cwaitCnt (n : BitVec 6) : Words.Statement (.cwaitCnt n) := words_of rfl (opcode_FI _ _ _ _ _ (by decide)) rfl
theorem Words.cwaitSeq (wa : Bool) (a : BitVec 6) : Words.Statement (.cwaitSeq wa a) := words_of rfl (opcode_FI _ _ _ _ _ (by decide)) rfl
theorem Words.cseq (d : BitVec 6) (wm : Bool) : Words.Statement (.cseq d wm) := words_of rfl (opcode_word0 _ _ _ _ _ _ (by decide)) rfl
theorem Words.csrr (q : Bool) (d : BitVec 7) (n : BitVec 8) : Words.Statement (.csrr q d n) := words_of rfl (opcode_FI _ _ _ _ _ (by decide)) rfl
theorem Words.csrw (q : Bool) (wa : Bool) (a : BitVec 7) (n : BitVec 8) : Words.Statement (.csrw q wa a n) := words_of rfl (opcode_FI _ _ _ _ _ (by decide)) rfl
theorem Words.trap (code : BitVec 7) : Words.Statement (.trap code) := words_of rfl (opcode_FI _ _ _ _ _ (by decide)) rfl
theorem Words.tfence : Words.Statement (.tfence) := words_of rfl (opcode_none (by decide)) rfl
theorem Words.rft : Words.Statement (.rft) := words_of rfl (opcode_none (by decide)) rfl
theorem Words.resumef : Words.Statement (.resumef) := words_of rfl (opcode_none (by decide)) rfl
theorem Words.hbeat (d : BitVec 6) : Words.Statement (.hbeat d) := words_of rfl (opcode_word0 _ _ _ _ _ _ (by decide)) rfl
theorem Words.clock (d : BitVec 6) : Words.Statement (.clock d) := words_of rfl (opcode_word0 _ _ _ _ _ _ (by decide)) rfl
theorem Words.perfc (d : BitVec 6) (n : BitVec 8) : Words.Statement (.perfc d n) := words_of rfl (opcode_FI _ _ _ _ _ (by decide)) rfl
theorem Words.bkpt : Words.Statement (.bkpt) := words_of rfl (opcode_none (by decide)) rfl
theorem Words.clauseEntry : Words.Statement (.clauseEntry) := .inl rfl
theorem Words.linkFailure (l : FabricLink) : Words.Statement (.linkFailure l) := .inl rfl
theorem Words.reroutedPacketReceipt (k : BitVec 4) : Words.Statement (.reroutedPacketReceipt k) := .inl rfl
theorem Words.homeRequest (src : Requester) (hint : BitVec 3) (pa : PagedAddr) (wr : Bool) (data : BitVec 64) : Words.Statement (.homeRequest src hint pa wr data) := .inl rfl
theorem Words.blockWriteBack (pa : BitVec 46) : Words.Statement (.blockWriteBack pa) := .inl rfl
theorem Words.blockRead (pa : BitVec 46) : Words.Statement (.blockRead pa) := .inl rfl
theorem Words.migrationWindowEnd (md : BitVec 3) : Words.Statement (.migrationWindowEnd md) := .inl rfl
theorem Words.homeBlockExchange (md : BitVec 3) (lframe : BitVec 20) (blk : BitVec 8) : Words.Statement (.homeBlockExchange md lframe blk) := .inl rfl
theorem Words.heartbeatTick : Words.Statement (.heartbeatTick) := .inl rfl
theorem Words.coldReset : Words.Statement .coldReset := .inl rfl
theorem Words.sleepEntry : Words.Statement (.sleepEntry) := .inl rfl
theorem Words.sleepExit : Words.Statement (.sleepExit) := .inl rfl
theorem Words.d3cold : Words.Statement .d3cold := .inl rfl
theorem Words.guploadW (val : BitVec 64) : Words.Statement (.guploadW val) := .inl rfl
theorem Words.gtrigW (val : BitVec 64) : Words.Statement (.gtrigW val) := .inl rfl
theorem Words.lowHalfWrite (off : BitVec 16) (val : BitVec 32) : Words.Statement (.lowHalfWrite off val) := .inl rfl
theorem Words.launchStart : Words.Statement (.launchStart) := .inl rfl
theorem Words.clusterLaunch : Words.Statement (.clusterLaunch) := .inl rfl
theorem Words.gangLaunch : Words.Statement (.gangLaunch) := .inl rfl
theorem Words.cardComplete (node : BitVec 10) : Words.Statement (.cardComplete node) := .inl rfl
theorem Words.spawnBinTimerExpiry (core : BitVec 7) (bin : BitVec 2) : Words.Statement (.spawnBinTimerExpiry core bin) := .inl rfl
theorem Words.spawnBinLaunch (core : BitVec 7) (bin : BitVec 2) : Words.Statement (.spawnBinLaunch core bin) := .inl rfl
theorem Words.tqTimerExpiry (q : BitVec 6) : Words.Statement (.tqTimerExpiry q) := .inl rfl
theorem Words.tqLaunch (q : BitVec 6) (core : BitVec 7) : Words.Statement (.tqLaunch q core) := .inl rfl
theorem Words.tqRefill (q : BitVec 6) : Words.Statement (.tqRefill q) := .inl rfl
theorem Words.tqRingWrite (q : BitVec 6) : Words.Statement (.tqRingWrite q) := .inl rfl
theorem Words.tqpopWake (q : BitVec 6) : Words.Statement (.tqpopWake q) := .inl rfl
theorem Words.loadReply (wid : Nat) (k : Nat) : Words.Statement (.loadReply wid k) := .inl rfl
theorem Words.storeQueueDrain (wid : Nat) : Words.Statement (.storeQueueDrain wid) := .inl rfl
theorem Words.writeBufferPerform (core : BitVec 7) (buf : BitVec 3) : Words.Statement (.writeBufferPerform core buf) := .inl rfl
theorem Words.l2SliceAccess (core : BitVec 7) (pa : BitVec 46) (op : L2Req) (data : BitVec 64) : Words.Statement (.l2SliceAccess core pa op data) := .inl rfl
theorem Words.pageWalkComplete (wid : Nat) : Words.Statement (.pageWalkComplete wid) := .inl rfl
theorem Words.kickTodev (n : BitVec 8) : Words.Statement (.kickTodev n) := .inl rfl
theorem Words.kickTohost (n : BitVec 8) : Words.Statement (.kickTohost n) := .inl rfl
theorem Words.kickTohostComplete : Words.Statement (.kickTohostComplete) := .inl rfl
theorem Words.shoot (val : BitVec 64) : Words.Statement (.shoot val) := .inl rfl
theorem Words.shootdownComplete : Words.Statement (.shootdownComplete) := .inl rfl
theorem Words.cmdstatRead : Words.Statement (.cmdstatRead) := .inl rfl
theorem Words.jobRun (val : BitVec 64) : Words.Statement (.jobRun val) := .inl rfl
theorem Words.jobStop (val : BitVec 64) : Words.Statement (.jobStop val) := .inl rfl
theorem Words.faultqPop (wide : Bool) : Words.Statement (.faultqPop wide) := .inl rfl
theorem Words.faultdone (token : BitVec 64) : Words.Statement (.faultdone token) := .inl rfl
theorem Words.bkqPop (wide : Bool) : Words.Statement (.bkqPop wide) := .inl rfl
theorem Words.bkrel (val : BitVec 32) : Words.Statement (.bkrel val) := .inl rfl
theorem Words.monAlarmRead : Words.Statement (.monAlarmRead) := .inl rfl
theorem Words.hotabWrite (n : BitVec 8) (val : BitVec 64) : Words.Statement (.hotabWrite n val) := .inl rfl
theorem Words.tqcfgEnable (q : BitVec 6) : Words.Statement (.tqcfgEnable q) := .inl rfl
theorem Words.tqcfgDisable (q : BitVec 6) : Words.Statement (.tqcfgDisable q) := .inl rfl
theorem Words.registerWrite (off : BitVec 16) (wide : Bool) (val : BitVec 64) : Words.Statement (.registerWrite off wide val) := .inl rfl
theorem Words.getcert : Words.Statement .getcert := .inl rfl
theorem Words.attest : Words.Statement .attest := .inl rfl
theorem Words.keyload (slot : BitVec 8) : Words.Statement (.keyload slot) := .inl rfl
theorem Words.keyerase (slot : BitVec 8) : Words.Statement (.keyerase slot) := .inl rfl
theorem Words.unknownCommand (cmd : BitVec 16) : Words.Statement (.unknownCommand cmd) := .inl rfl
theorem Words.hostMemRead (hdm : BitVec 29) (n : BitVec 7) : Words.Statement (.hostMemRead hdm n) := .inl rfl
theorem Words.hostMemWrite (hdm : BitVec 29) (n : BitVec 4) (data : BitVec 64) : Words.Statement (.hostMemWrite hdm n data) := .inl rfl
theorem Words.peerRequest (idx : BitVec 8) (peer : BitVec 10) (off : BitVec 48) (op : PeerOp) (data : PeerData) : Words.Statement (.peerRequest idx peer off op data) := .inl rfl
theorem Words.peerTimeout (core : BitVec 7) (seq : BitVec 32) : Words.Statement (.peerTimeout core seq) := .inl rfl
theorem Words.alarmLog (src : BitVec 2) : Words.Statement (.alarmLog src) := .inl rfl
theorem Words.alarmHalt (src : BitVec 2) : Words.Statement (.alarmHalt src) := .inl rfl
theorem Words.alarmErase (src : BitVec 2) : Words.Statement (.alarmErase src) := .inl rfl
theorem Words.temperatureThreshold (word : BitVec 6) (val : BitVec 32) : Words.Statement (.temperatureThreshold word val) := .inl rfl
theorem Words.copyStart (core : BitVec 7) (seq : BitVec 32) : Words.Statement (.copyStart core seq) := .inl rfl
theorem Words.copyLineArrival (core : BitVec 7) (seq : BitVec 32) (line : BitVec 12) : Words.Statement (.copyLineArrival core seq line) := .inl rfl
theorem Words.copyComplete (core : BitVec 7) (seq : BitVec 32) : Words.Statement (.copyComplete core seq) := .inl rfl
theorem Words.cwaitSatisfied (wid : Nat) : Words.Statement (.cwaitSatisfied wid) := .inl rfl
theorem Words.tmmStart (core : BitVec 7) (ta : Bool) : Words.Statement (.tmmStart core ta) := .inl rfl
theorem Words.tmmComplete (core : BitVec 7) (ta : Bool) : Words.Statement (.tmmComplete core ta) := .inl rfl
theorem Words.promotion (core : BitVec 7) (ta : Bool) : Words.Statement (.promotion core ta) := .inl rfl
theorem Words.xmmStart (core : BitVec 7) : Words.Statement (.xmmStart core) := .inl rfl
theorem Words.xmmComplete (core : BitVec 7) : Words.Statement (.xmmComplete core) := .inl rfl
theorem Words.tlencComplete (core : BitVec 7) : Words.Statement (.tlencComplete core) := .inl rfl
theorem Words.tldecComplete (core : BitVec 7) : Words.Statement (.tldecComplete core) := .inl rfl
theorem Words.decsComplete (core : BitVec 7) : Words.Statement (.decsComplete core) := .inl rfl
theorem Words.recipePostRetry (core : BitVec 7) : Words.Statement (.recipePostRetry core) := .inl rfl
theorem Words.chainBegin : Words.Statement (.chainBegin) := .inl rfl
theorem Words.nestedRecipeStart (wid : Nat) : Words.Statement (.nestedRecipeStart wid) := .inl rfl
theorem Words.tileRebuildComplete (wid : Nat) : Words.Statement (.tileRebuildComplete wid) := .inl rfl
theorem Words.regionCommit (rid : BitVec 6) : Words.Statement (.regionCommit rid) := .inl rfl
theorem Words.evictionDecision : Words.Statement (.evictionDecision) := .inl rfl
theorem Words.waveStop (wid : Nat) : Words.Statement (.waveStop wid) := .inl rfl
theorem Words.blockImageWrite (blk : Nat) : Words.Statement (.blockImageWrite blk) := .inl rfl
theorem Words.waveRestore (unit : Nat) : Words.Statement (.waveRestore unit) := .inl rfl
theorem Words.reservedOpcode (word : BitVec 32) : Words.Statement (.reservedOpcode word) := .inl rfl

end Sys2Proof.Laws
end

