-- ==== Sys2Proof/Laws/Walk.lean ====
section
/-! SUPPORT. Address translation: a page-table walk, and so an engine's access, depends on the page of an address alone. -/

namespace Sys2Proof.Machine

/-- A leaf depends on the page alone. -/
theorem State.leafOf_page (s : State) (e : Nat) {bits a b : Nat} (hb : bits = 16 ∨ bits = 21 ∨ bits = 30) (h : a / 65536 = b / 65536) :
    s.leafOf e bits a = s.leafOf e bits b := by
  have hf : (bitsN e 16 30 * 65536 + a % 2 ^ bits) / 65536 = (bitsN e 16 30 * 65536 + b % 2 ^ bits) / 65536 := by
    rcases hb with rfl | rfl | rfl <;> omega
  have hp : paOk (bitsN e 16 30 * 65536 + a % 2 ^ bits) = paOk (bitsN e 16 30 * 65536 + b % 2 ^ bits) := by
    refine decide_eq_decide.mpr ?_
    simp only [dramLimit]
    omega
  simp only [State.leafOf, hp, hf, h]

/-- A walk depends on the page alone (09 R152). -/
theorem State.walk_page (s : State) {a b : Nat} (h : a / 65536 = b / 65536) : s.walk a = s.walk b := by
  have h1 : a / 2 ^ 30 = b / 2 ^ 30 := by omega
  have h2 : a / 2 ^ 21 = b / 2 ^ 21 := by omega
  have h3 : a / 2 ^ 16 = b / 2 ^ 16 := by omega
  have hw : ∀ t i l, s.walkFrom a t i l = s.walkFrom b t i l := by
    intro t i l
    simp only [State.walkFrom]
    rw [s.leafOf_page _ (by split <;> [skip; split] <;> simp) h]
  simp only [State.walk, entryAt, h1, h2, h3, hw]

/-- An engine that reaches an address reaches every address of its page, at the same place in the same frame. -/
theorem State.engine_page (s : State) {a b pa f : Nat} {rd wr : Bool} (h : a / 65536 = b / 65536) (ha : s.engine a rd wr = .ok pa f) :
    s.engine b rd wr = .ok (pa / 65536 * 65536 + b % 65536) f := by
  unfold State.engine at ha ⊢
  rw [← s.walk_page h]
  by_cases hv : 2 ^ 48 ≤ a
  · rw [if_pos hv] at ha
    cases ha
  · rw [if_neg hv] at ha
    rw [if_neg (by omega)]
    cases hw : s.walk a <;> rw [hw] at ha <;> simp only [reduceCtorEq] at ha
    rename_i e
    by_cases h1 : (rd && !e.r || wr && !e.w) = true
    · simp [h1] at ha
    · by_cases h2 : s.keyAbsent e.fields = true
      · simp [h1, h2] at ha
      · simp only [h1, h2, Bool.false_eq_true, ite_false] at ha ⊢
        injection ha with hp hf
        have hq : pa / 65536 = e.frame := by clear hv; omega
        rw [hf, hq]

end Sys2Proof.Machine
end

