-- ==== Sys2Proof/Tests/Slice0.lean ====
section
/-! SUPPORT. Tests: words written out by hand from the encoding tables, ill-formed terms, results worked out in the spec, and
for each statement of Certificates/Slice0/Obligations.lean a state and operands that meet what it assumes. -/

namespace Sys2Proof.Machine

set_option Elab.async false

/-! ### Encodings: each word is written out from the table that its rule names -/

/-- Does the decoder read each word (of 32 or 64 bits, first word lowest) as the instruction beside it? -/
def reads (l : List (Nat × Nat × Instr)) : Bool := l.all fun e => decodeTableWord e.1 e.2.1 == some e.2.2

def f3a : F3 := { q := false, d := 6, wa := true, a := 4, wb := true, b := 5 }
def f3d : F3 := { q := true, d := 8, wa := true, a := 4, wb := true, b := 6 }
def f3p : F3 := { f3a with d := 2 }
def u3a : U3 := { d := 5, wa := true, a := 4 }
def fsa : FS := { sd := 5, sa := 6, sb := 7, imm := 0 }
def fca : FC := { q := false, d := 3, wa := true, a := 2, rm := 5, kind := 0 }
def taa : TA := { q := false, d := 6, wa := true, a := 4, off5 := 2, size := 2 }
def maPair : MA 14 := { am := false, wa := true, a := 4, wb := false, b := 0, off := 8 }
def maBase : MA 14 := { am := true, wa := true, a := 4, wb := true, b := 8, off := 0 }
def maAtom : MA 10 := { am := false, wa := true, a := 4, wb := false, b := 0, off := 4 }

/-- Tables 3.4, 3.6, 11.4 to 11.7 (R161 to R170). -/
theorem test_decode_class0 : reads
    [(32, 0x00068485, .iadd f3a), (32, 0x01068485, .isub f3a), (32, 0x02068485, .imul f3a), (32, 0x03068485, .imulh f3a),
     (32, 0x04068485, .imad f3a), (32, 0x05068485, .imin f3a), (32, 0x06068485, .imax f3a), (32, 0x07068485, .umin f3a),
     (32, 0x08068485, .umax f3a), (32, 0x09068485, .and f3a), (32, 0x0A068485, .or f3a), (32, 0x0B068485, .xor f3a),
     (32, 0x0C068485, .andn f3a), (32, 0x0D068485, .shl f3a), (32, 0x0E068485, .shr f3a), (32, 0x0F068485, .sar f3a),
     (32, 0x10058400, .popc u3a), (32, 0x11058400, .clz u3a), (32, 0x12058400, .ctz u3a), (32, 0x13058400, .brev u3a),
     (64, 0x0000056814058400, .bfe u3a true 11 8), (64, 0x0000016815068485, .bfi f3a 11 8),
     (32, 0x16828485, .icmp { f3p with q := true }), (64, 0x0000000A17068485, .sel f3a true 2), (32, 0x18058400, .mov u3a),
     (64, 0x1234567819050000, .movi 5 0x12345678), (32, 0x1A0584FE, .iaddi { q := false, d := 5, wa := true, a := 4, imm := 0xFE }),
     (64, 0x0010000B1B868488, .lea { q := true, d := 6, wa := true, a := 4, wb := true, b := 8 } 16 true 3),
     (32, 0x1C068485, .iadds f3a), (32, 0x1D058400, .iabs u3a), (32, 0x1E058400, .ineg u3a)] = true := by decide +kernel

/-- Tables 11.8 to 11.17 (R171 to R187). -/
theorem test_decode_class1 : reads
    [(32, 0x20068485, .fadd f3a), (32, 0x21068485, .fsub f3a), (32, 0x22068485, .fmul f3a), (32, 0x23068485, .ffma f3a),
     (64, 0x0000008724068485, .ffma3 f3a true 7), (32, 0x25068485, .fmin f3a), (32, 0x26068485, .fmax f3a),
     (32, 0x27028485, .fcmp f3p), (32, 0x28058400, .frcp u3a), (32, 0x29058400, .frsq u3a), (32, 0x2A058400, .fsqrt u3a),
     (32, 0x2B058400, .fexp2 u3a), (32, 0x2C058400, .flog2 u3a), (32, 0x2D058400, .ftanh u3a), (32, 0x2E038250, .fcvt fca),
     (32, 0x2F068485, .hfma2 f3a), (32, 0x30068485, .bfma2 f3a), (32, 0x31888486, .dadd f3d), (32, 0x32888486, .dmul f3d),
     (32, 0x33888486, .dfma f3d), (32, 0x34088404, .dcvt { q := false, d := 8, wa := true, a := 4, rm := 0, kind := 4 }),
     (32, 0x35068402, .vote 6 true 4 2), (64, 0x00000B0136078600, .shfl { q := false, d := 7, wa := true, a := 6, wb := false, b := 0 } 2 3 false 1),
     (64, 0x0000001A370A8485, .redx { f3a with d := 10 } true 10)] = true := by decide +kernel

/-- Tables 3.7, 3.8, 13.1 to 13.3 (R191 to R204). -/
theorem test_decode_class2 : reads
    [(32, 0x40000000, .nop), (32, 0x41146000, .smov 5 6), (64, 0xFFFFFFFE42050000, .smovi 5 0xFFFFFFFE), (32, 0x431461C0, .sadd fsa),
     (32, 0x441461C0, .ssub fsa), (32, 0x451461C0, .smul fsa), (32, 0x461461C0, .sand fsa), (32, 0x471461C0, .sor fsa),
     (32, 0x481461C0, .sxor fsa), (32, 0x491461C0, .sshl fsa), (32, 0x4A146063, .sshr { sd := 5, sa := 6, sb := 1, imm := 0x23 }),
     (32, 0x4B0861C3, .scmp 2 6 7 3), (32, 0x4C860085, .s2v 6 true 5), (32, 0x4D058409, .v2s 5 true 4 9),
     (64, 0x001000004E000000, .bra 16), (64, 0x0010FFF04FB00000, .brc true 3 16 0xFFF0), (64, 0x50050000, .brk 5),
     (64, 0x0000002051008400, .jmpi true 4 32), (64, 0x0010000052000000, .call 16), (32, 0x53000000, .ret), (32, 0x54000000, .exit),
     (32, 0x55000093, .bar 2 1 3), (32, 0x56808886, .spawn true 8 true 6), (32, 0x57868887, .tqpush 6 true 8 true 7),
     (32, 0x58860187, .tqpop 6 true true 7), (32, 0x59860087, .tqstat 6 true 7), (32, 0x5A060000, .recget 6), (32, 0x5B000000, .yield),
     (32, 0x5C000083, .waitc 2 3)] = true := by decide +kernel

/-- Tables 13.4 and 13.5 (R205 to R219, R307, R308, R326 to R329). -/
theorem test_decode_class3 : reads
    [(64, 0x0003004760868488, .ld maBase 6 3 2 1 true), (64, 0x0020860C61008400, .st maPair true 6 0 0 3), (32, 0x62068412, .ldt taa),
     (32, 0x63068412, .stt taa), (64, 0x0010000864860088, .sld 6 true 8 4 0 0 2),
     (64, 0x0122872865068400, .atom maAtom 6 8 true 7 2 1 2), (64, 0x0102872866068400, .atomc maAtom 6 true 7 2 1 2),
     (64, 0x0102872867008400, .red maAtom 0 true 7 2 1 2), (32, 0x6800000E, .fence 3 2),
     (64, 0x0000000869008400, .cctl { maPair with off := 0 } 2), (64, 0x0000000C6A140000, .rbegin 20 12), (32, 0x6B000000, .rcommit),
     (32, 0x6C000007, .rabort 7), (32, 0x6D050003, .rstat 5 3), (64, 0xFFFFFFC06E860088, .obind 6 true 8 0xFFFFFFC0),
     (32, 0x6F860087, .ounbind 6 true 7), (32, 0x70840186, .oseal 4 1 true 6), (64, 0x0000004071840086, .orecipe 4 true 6 0x40),
     (32, 0x72860587, .oprio 6 5 true 7), (32, 0x73860187, .oevict 6 true true 7), (32, 0x74068482, .tmtag false 6 true 4 true 2)] = true := by
  decide +kernel

/-- The formats of R250 to R265. -/
theorem test_decode_class4 : reads
    [(64, 0x0000018380C0828A, .tmm 64 true 2 true 10 false 3 3), (32, 0x81400000, .tprom 64), (32, 0x82048203, .tbound 4 true 2 3),
     (32, 0x83058400, .tcnt u3a 0), (64, 0x0000010084850088, .tlenc 5 true 8 256), (64, 0x0000020085848286, .tldec 4 true 2 true 6 512),
     (32, 0x86068505, .qbx { d := 6, wa := true, a := 5 } false 5), (32, 0x87078605, .dqbx { d := 7, wa := true, a := 6 } false 5),
     (64, 0x0000008A88840088, .decs 4 true 8 true 10), (64, 0x0000000F89A00088, .xmm 32 true 8 true true 3), (32, 0x8A070000, .tstat 7 0)] = true := by
  decide +kernel

/-- The formats of R275 to R287 and of R220 to R226. -/
theorem test_decode_class5_class6 : reads
    [(64, 0x00000000A0800090, .cpyt true 16 0), (64, 0x00000040A1800098, .cpyg true 24 0x40), (64, 0x00002000A2850098, .cpyw 5 true 24 0x2000),
     (64, 0x00000002A38000A0, .cpyp true 32 2), (64, 0x00000000A48000A8, .cfill true 40 0), (32, 0xA5000000, .cwaitCnt 0),
     (32, 0xA5809480, .cwaitSeq true 20), (32, 0xA6140000, .cseq 20 false), (32, 0xA6150001, .cseq 21 true),
     (32, 0xC0950022, .csrr true 21 0x22), (32, 0xC1808611, .csrw true true 6 0x11), (32, 0xC2000009, .trap 9), (32, 0xC3000000, .tfence),
     (32, 0xC4000000, .rft), (32, 0xC5000000, .resumef), (32, 0xC6060000, .hbeat 6), (32, 0xC7060000, .clock 6), (32, 0xC8050003, .perfc 5 3),
     (32, 0xC9000000, .bkpt)] = true := by decide +kernel

/-- R36, R44, R53: a reserved opcode, a class that does not exist, a field that must be 0, a scalar number of 64, an odd pair, a
comparison into p6, a reserved size, a missing second word. -/
theorem test_decode_refuses : [(32, 0x1F000000), (32, 0xE8000000), (32, 0x10858400), (32, 0x35468402), (32, 0x31898486), (32, 0x16868485),
    (64, 0x0000001461008400)].all (fun e => decodeTableWord e.1 e.2 == none) = true ∧ (decode [0x19050000]).toOption = none := by
  decide +kernel

/-! ### Ill-formed terms, one for each check -/

/-- Each term breaks the rule of its entry (R36, R44, and the entry's own). -/
theorem test_ill_formed :
    ([.iadd { f3a with q := true, b := 64 }, .icmp { f3a with d := 6 }, .dadd { f3d with a := 5 }, .lea { f3d with b := 7 } 0 false 0,
      .iaddi { q := true, d := 5, wa := true, a := 64, imm := 0 }, .fcvt { fca with kind := 9 }, .fcvt { fca with q := true, a := 70 },
      .dcvt { fca with kind := 7 }, .dcvt { fca with kind := 1 }, .shfl { f3a with b := 0, wb := false } 5 0 false 0,
      .shfl f3a 0 0 false 0, .shfl f3a 0 0 true 3, .redx f3a false 13, .redx f3a false 0, .redx { f3a with d := 7 } false 10,
      .redx { f3a with d := 64, b := 0, wb := false } true 0, .sadd { fsa with imm := 3 }, .sshr { fsa with imm := 2 }, .scmp 0 0 0 6,
      .bar 3 3 0, .bar 0 0 1, .bar 2 0 4, .bar 3 0 2, .spawn true 0 true 5, .recget 5, .hbeat 5, .clock 5] : List Instr).all
        (fun i => !i.wellFormed) = true := by decide +kernel

theorem test_ill_formed_memory :
    ([.ld maPair 6 0 0 5 false, .ld maPair 6 0 0 2 true, .ld maPair 6 0 3 2 false, .ld maPair 7 0 0 3 false, .st maPair true 7 0 0 3,
      .st maPair true 6 0 2 2, .ldt { taa with size := 5 }, .ldt { taa with q := true, a := 64 }, .sld 6 true 8 0 0 0 1,
      .sld 6 true 7 0 0 0 2, .atom maAtom 6 12 true 7 2 1 2, .atomc maAtom 6 true 7 2 1 1, .red maAtom 8 true 7 2 1 2, .fence 0 0,
      .fence 5 0, .cctl maPair 5, .rstat 5 5, .obind 6 true 7 0, .orecipe 6 true 7 0, .tlenc 6 true 7 0, .decs 6 true 7 true 0,
      .oseal 6 2 true 0, .tmtag true 6 true 64 false 0, .tmm 64 true 70 true 10 false 0 0, .tcnt u3a 3, .tldec 5 true 2 true 6 0,
      .qbx u3a false 2, .dqbx u3a false 6, .xmm 32 true 8 false true 1, .xmm 33 true 8 false false 0, .tstat 5 6, .cpyt true 12 0,
      .cpyp true 32 4, .cpyp true 33 0, .csrr true 5 0x25, .csrr true 64 0, .csrw true true 6 0x13, .csrw true true 64 0x11,
      .perfc 5 8] : List Instr).all (fun i => !i.wellFormed) = true := by decide +kernel

/-! ### Small states -/

/-- The bits of an instruction's words, first word lowest. -/
def bitsOf (i : Instr) : Nat := match encode i with
  | [a] => a.toNat
  | a :: b :: _ => a.toNat + b.toNat * 2 ^ 32
  | [] => 0

/-- The machine after reset with an instruction placed where the next step runs it. -/
def placed (i : Instr) : State := State.reset.withFetchWord 64 (bitsOf i)

/-- That machine with a changed acting wave. -/
def placedW (i : Instr) (f : Wave → Wave) : State := (placed i).onW f

/-- A wave with a changed flow, with scalar and vector values. -/
def Wave.flowOf (w : Wave) (f : WaveFlow → WaveFlow) : Wave := { w with flow := f w.flow }
def Wave.sets (w : Wave) (l : List (Nat × Word)) : Wave := l.foldl (fun v e => v.wrS e.1 e.2) w
def Wave.setv (w : Wave) (r : Nat) (f : Nat → Word) : Wave := { w with regs := { w.regs with v := w.regs.v.setIfInBounds r (Vector.ofFn fun i => f i.val) } }

/-- Does every operation run in the state in which it is placed? -/
def lanesRun (l : List LaneOp) : Bool := l.all fun o => o.i.wellFormed && (placed o.i).mayRun o.u
def pairsRun (l : List PairOp) : Bool := l.all fun o => o.i.wellFormed && (placed o.i).mayRun o.u
def scalarsRun (l : List ScalarOp) : Bool := l.all fun o => o.i.wellFormed && (placed o.i).mayRun o.u

/-! ### Witnesses: vector and scalar instructions -/

theorem witness_TwoSourceIntegerResults : lanesRun (intTwoSource f3a 3 2 false 1) = true := by decide +kernel
theorem witness_OneSourceIntegerResults :
    lanesRun (intOneSource u3a true 31 0 { q := true, d := 127, wa := true, a := 63, imm := 0x80 } 0xFFFFFFFF) = true := by decide +kernel
theorem witness_SaturatingIntegers : lanesRun (intSaturating f3a u3a) = true := by decide +kernel
theorem witness_FloatResults : lanesRun (fltOneResult f3a true 7 u3a fca) = true := by decide +kernel
theorem witness_PairResults : pairsRun (pairResults f3d 0x8000 true 7) = true := by decide +kernel
theorem witness_DoubleConversions : ((List.range 7).all fun k =>
    let g : FC := { q := false, d := 126, wa := true, a := 4, rm := 0, kind := BitVec.ofNat 4 k }
    (Instr.dcvt g).wellFormed && (placed (.dcvt g)).mayRun (valu 1 4 [bsrc g.q g.a (dcvtSrc g.kind) g.wa] [vdst g.d (dcvtDst g.kind)])) =
    true := by decide +kernel
theorem witness_Comparisons : ([0, 5].all fun d =>
    let f : F3 := { f3a with d := d }
    (placed (.icmp f)).mayRun (valu 0 1 (f3srcs f 1) []) && (placed (.fcmp f)).mayRun (valu 1 1 (f3srcs f 1) [])) = true := by decide +kernel
theorem witness_LaneExchange :
    (lanesRun ((crossLane { f3a with b := 0, wb := false } 4 3 31).take 1) && lanesRun ((crossLane f3a 0 2 0).drop 1)) = true := by decide +kernel
theorem witness_Reductions : (((List.range 13).flatMap fun k => [(k, true), (k, false)]).all fun e =>
    let f : F3 := if e.1 = 10 ∨ e.1 = 11 then f3a else { f3a with b := 0, wb := false }
    (Instr.redx f e.2 (BitVec.ofNat 4 e.1)).wellFormed &&
      (placed (.redx f e.2 (BitVec.ofNat 4 e.1))).mayRun (redxUse f e.2 (BitVec.ofNat 4 e.1)) && (placed .nop).w.flow.mask != 0) = true := by
  decide +kernel
theorem witness_ScalarResults : scalarsRun (scalarResults fsa 63 4 true 7 true 4 7 5) = true := by decide +kernel
theorem witness_UnitReads :
    (scalarsRun (unitReads 7 5 true) && (placed .nop).w.mem.region.isNone) = true ∧
    (let i := Instr.tbound 7 true 4 127
     let u : Use := { useOf 4 [vsrc 4 1 true] [sdst 7 1] with slots := [127] }
     (placed i).mayRun u = true ∧ fwValid 0 ((placed i).slotOf (placed i).w 127) = false ∧
     (∃ s : State, s.mayRun u = true ∧ fwValid (s.w.lane 4 s.w.firstLane).toNat (s.slotOf s.w 127) = true)) := by
  refine ⟨by decide +kernel, by decide +kernel, by decide +kernel, ?_⟩
  exact ⟨((placed (.tbound 7 true 4 127)).onW fun w => w.setv 4 fun _ => 0xA7000000).onBlk 1 (fun b => b.onSlot 127 fun x => { x with loaded := true }),
    by decide +kernel, by decide +kernel⟩
theorem witness_TermCountsAndBlocks :
    (lanesRun (classFourLanes u3a 5 true 3) && (placed (.qbx u3a false 5)).mayRun (useOf 4 [u3src u3a 1] [vdst u3a.d 1])) = true := by
  decide +kernel

/-- A machine whose wave belongs to a card of a running launch. -/
def onCardState (i : Instr) : State :=
  { placedW i (fun w => { w with id := { w.id with card := some (0, 0) } }) with
      sched := { (placed i).sched with running := some { num := 0, graph := 0, gtrig := 0, readyNo := 0, token := none, cards := [
        { node := 0, counter := 0, ready := some 0, launched := 1, live := 1, waves := 1, next := 0, cores := [0]
          done := false }] } } }

theorem witness_ScalarPairs :
    ((placed (.hbeat 62)).mayRun (useOf 6 [] [sdst 62 2]) && (placed (.clock 0)).mayRun (useOf 6 [] [sdst 0 2]) &&
      (onCardState (.recget 6)).mayRun (useOf 2 [] [sdst 6 2]) && ((onCardState (.recget 6)).cardRun? (some (0, 0))).isSome &&
      -- a wave of no card has no dealer
      (placed (.recget 62)).mayRun (useOf 2 [] [sdst 62 2]) && (placed (.recget 62)).w.mem.region.isNone &&
      ((placed (.recget 62)).cardRun? (placed (.recget 62)).w.id.card).isNone) = true := by
  decide +kernel
theorem witness_ScalarCompare : ((List.range 6).all fun r =>
    (placed (.scmp 7 6 7 (BitVec.ofNat 3 r))).mayRun (useOf 2 [ssrc 6 1 true, ssrc 7 1 true] [])) = true := by decide +kernel

/-- The wave with vector register `r` empty. -/
def Wave.emptyV (w : Wave) (r : Nat) : Wave := { w with regs := { w.regs with vfull := w.regs.vfull &&& ~~~(1#128 <<< r) } }

theorem witness_ScalarVectorMoves :
    ((placed (.s2v 6 true 5)).mayRun (useOf 2 [ssrc 5 1 true] [vdst 6 1]) && (placed (.v2s 5 true 4 31)).mayRun (v2sUse 5 true 4) &&
      (placedW (.v2s 5 true 4 31) fun w => w.emptyV 4).mayRun (v2sUse 5 true 4) &&
      !(placedW (.v2s 5 true 4 31) fun w => w.emptyV 4).w.regs.vfull.getLsbD 4 &&
      !(placedW (.v2s 5 true 4 31) fun w => w.emptyV 4).promotingIn (placedW (.v2s 5 true 4 31) fun w => w.emptyV 4).w 4 1) = true := by
  decide +kernel

/-! ### Witnesses: control flow -/

/-- The wave with predicate 1 and a stack. -/
def Wave.withP (w : Wave) (x : Word) (st : List StackEntry) : Wave := { w.wrP 1 x with flow := { w.flow with stack := st } }
def entry (k : StackKind) (m : Word) : StackEntry := { kind := k, pc := headerPos 64, mask := m, rpc := rpcNone }

theorem witness_Branches :
    ((placed (.bra 4)).mayRun (useCt []) && (placed (.brc false 1 4 8)).mayRun (useCt []) &&
      -- every lane, none, and some of them taken; at depth 30 and at depth 31
      [(0xFFFFFFFF, 0), (0, 0), (0x0000FFFF, 30), (0x0000FFFF, 31)].all fun e =>
        (placedW (.brc false 1 4 8) fun w => w.withP e.1 (List.replicate e.2 (entry .join 1))).mayRun (useCt [])) = true := by decide +kernel

theorem witness_CallsReturnsBreaks :
    let st := fun l => (placedW .ret fun w => w.withP 0 l).mayRun (useCt [])
    st (List.replicate 31 (entry .join 1)) = true ∧ st (List.replicate 32 (entry .join 1)) = true ∧
    -- RET: nothing left above the CALLJ, a PATH left above it, no CALLJ
    (let l := [entry .callj 0xFFFFFFFF]
     st l = true ∧ less 0xFFFFFFFF [] = [] ∧ (entry .callj 0xFFFFFFFF).mask &&& (placed .ret).w.flow.alive ≠ 0 ∧ (placed .ret).w.freeStack = true) ∧
    less 0x0000FFFF [entry .path 0xFFFF0000] = [entry .path 0xFFFF0000] ∧ st [entry .join 1] = true ∧
    -- BRK: a JOIN at the level, a CALLJ above it, the level at the depth
    ([entry .join 3, entry .path 0xFFFF0000] : List StackEntry)[0]?.map (·.kind) = some .join ∧
    ([entry .join 3, entry .callj 3] : List StackEntry)[1]?.map (·.kind) = some .callj ∧ (placed (.brk 15)).w.flow.stack.length ≤ 15 := by
  decide +kernel

/-- The machine with its first page in core 0's TLB, readable, writable and executable. -/
def paged (s : State) : State :=
  s.onCore 0 fun c => { c with tlb := [{ vpn := 0, frame := 0, r := true, w := true, x := true, fields := 0, hint := 0 }] }

/-- Memory with the bytes of the number `x` from a block's start `a` on, past what it has (Table 5.9: code 0, raw). -/
def Pkg.withBytes (p : Pkg) (a n x : Nat) : Pkg :=
  { p with dram := p.dram ++ (((natBytes n x).zipIdx a).filter fun e => e.1 != 0).map fun e => (e.2, e.1)
           blkMeta := p.blkMeta ++ [(a / 256, { code := 0, fields := 0 })] }

/-- Memory whose first table entry is a 1 GiB leaf with every right at physical address 0 (Table 9.8), and with the header of a
clause of class 2 with LAND at 0x1000 and at 0x1100 (Table 3.1). -/
def Pkg.mapped (p : Pkg) : Pkg := ((p.withBytes 0 8 0x3B).withBytes 0x1000 4 0xE803FEA1).withBytes 0x1100 4 0xE803FEA1
def mapped (s : State) : State := { s with pkg := s.pkg.mapped }

theorem witness_IndirectJumps :
    -- a target that is no landing; one landing for every lane; two landings
    (let s := mapped (placed (.jmpi true 4 8))
     s.mayRun (useCt [vsrc 4 1 true]) = true ∧ s.lands 0 = false) ∧
    (let s := mapped (placedW (.jmpi true 4 8) fun w => w.setv 4 fun l => if l < 16 then 0x1000 else 0x1100)
     s.mayRun (useCt [vsrc 4 1 true]) = true ∧ s.lands 0x1000 = true ∧ s.lands 0x1100 = true ∧ s.w.csr.codebase = 0 ∧
       s.w.flow.stack.length + 1 + 1 ≤ 32 ∧ s.w.freeStack = true) := by decide +kernel

theorem witness_Exits :
    (let s := placedW .exit fun w => w.withP 0 []
     s.mayRun (useCt []) = true ∧ s.w.freeStack = true ∧ (s.core s.w.id.core).arrOf s.w.id.wid = none ∧ s.others = []) ∧
    (let s := placedW .exit fun w => (w.withP 0 [entry .path 0xFFFF0000]).flowOf fun f => { f with mask := 0xFFFF }
     s.mayRun (useCt []) = true ∧ less s.w.flow.mask s.w.flow.stack = [entry .path 0xFFFF0000]) ∧
    -- the lanes that exit are the ones that a wave barrier waits for
    (let s := placedW .exit fun w => (w.withP 0 [entry .parked 0xFFFF0000]).flowOf fun f => { f with mask := 0xFFFF, wbArrived := 0xFFFF0000 }
     s.mayRun (useCt []) = true ∧ s.w.flow.alive &&& ~~~s.w.flow.mask &&& ~~~s.w.flow.wbArrived = 0) := by decide +kernel

theorem witness_WaitsAndHints :
    ((placed .nop).mayRun (useOf 2 [] []) && decide ((placed .nop).opCount 2 (placed .nop).w ≤ 0)) = true ∧
    (let s := placedW .nop fun w => { w with mem := { w.mem with sq := [{ seq := 0, tile := true, size := 4, lanes := [] }] } }
     s.mayRun (useOf 2 [] []) = true ∧ 0 < s.opCount 2 s.w) := by decide +kernel

theorem witness_WaveBarriers :
    (let s := placed (.bar 0 0 0)
     s.mayRun (useOf 2 [] []) = true ∧ s.w.flow.mask &&& s.w.flow.wbArrived = 0 ∧ s.w.flow.alive &&& ~~~(s.w.flow.wbArrived ||| s.w.flow.mask) = 0) ∧
    -- lanes left to arrive and a PATH below: with and without .arrive, and in MODE 2 also where the lanes have arrived
    ([(0, 0), (1, 0), (2, 0), (2, 0xFFFF)].all fun (e : BitVec 2 × Word) =>
      let s := placedW (.bar 0 e.1 0) fun w => (w.withP 0 [entry .path 0xFFFF0000]).flowOf fun f => { f with mask := 0xFFFF, wbArrived := e.2 }
      s.mayRun (useOf 2 [] []) && (s.w.flow.mask &&& s.w.flow.wbArrived == e.2) && s.w.flow.alive &&& ~~~(s.w.flow.wbArrived ||| s.w.flow.mask) != 0 &&
        s.w.freeStack && s.w.flow.mask != 0) = true := by
  decide +kernel

/-- A block of `n` waves of which the acting wave is the first. -/
def blockOf (i : Instr) (n : Nat) : State := (placed i).onBlk 1 fun b => { b with wpb := n, waves := (List.range n).map (· + 1) }

/-- That machine with barrier 0 of the block as given, and what the wave holds. -/
def atBar (mode : BitVec 2) (arrived : List Nat) (h : Hold) : State :=
  ((blockOf (.bar 1 mode 0) 2).onBlk 1 fun b => { b with bars := [(0, { phase := 4, arrived := arrived })] }).onW fun w => w.withHold h

theorem witness_BlockBarriers :
    -- the last to arrive and not the last, in each mode
    ([1, 2].all fun n => [0, 1, 2].all fun (mode : BitVec 2) =>
      let s := blockOf (.bar 1 mode 0) n
      s.mayRun (useOf 2 [] []) && s.plain && (s.blk? 1).isSome && (s.w.id.blk == some 1) && (s.w.id.kind == .block) &&
        (s.w.flow.mask == s.w.flow.alive) && s.w.waitingBar.isNone && !s.promoting s.w && s.earlierDone s.w s.w.mem.seq &&
        (s.plainRelease 0 0).isSome) = true ∧
    (∀ b, (blockOf (.bar 1 0 0) 1).blk? 1 = some b → ∀ i ∈ (blockOf (.bar 1 0 0) 1).barMembers b 1, i = 1) ∧
    (∀ b, (blockOf (.bar 1 0 0) 2).blk? 1 = some b → 2 ∈ (blockOf (.bar 1 0 0) 2).barMembers b 1) ∧
    -- a second arrival in a phase; a wait in phase 4, and one whose phase has ended; a store before the barrier
    ((atBar 0 [1] .run).mayRun (useOf 2 [] []) = true ∧
      (∀ b, (atBar 0 [1] .run).blk? 1 = some b → ((atBar 0 [1] .run).bar 1 b 1 0).arrived.contains 1 = true) ∧
      [3, 4].all (fun ph => (atBar 0 [] (.bar 1 0 ph)).mayRun (useOf 2 [] []) && ((atBar 0 [] (.bar 1 0 ph)).w.waitingBar == some (1, 0, ph))) = true ∧
      (let s := (atBar 0 [] .run).onW fun w => { w with mem := { w.mem with sq := [{ seq := 0, tile := true, size := 4, lanes := [] }], seq := 1 } }
       s.mayRun (useOf 2 [] []) = true ∧ s.earlierDone s.w s.w.mem.seq = false)) := by
  refine ⟨by decide +kernel, ?_, ?_, by decide +kernel, ?_, by decide +kernel, by decide +kernel⟩ <;> intro b h <;> cases h <;> decide +kernel

theorem witness_Spawning :
    let s := placedW (.spawn true 8 true 6) fun w => w.sets [(6, 0x1000)]
    s.mayRun (useOf 2 [vsrc 8 8 true, ssrc 6 2 true] []) = true ∧ s.plain = true ∧ entryOk (s.w.rdS2 6).toNat = true ∧
      (s.core 0).binFor (s.w.rdS2 6).toNat = some 0 ∧ s.w.lanes.length ≤ 64 := by decide +kernel

/-- Queue 0 as given, with `n` records on chip. -/
def queued (i : Instr) (n : Nat) (g : TaskQueue → TaskQueue) : State :=
  (placed i).onQueue 0 fun q => g { q with enable := true, chip := List.replicate n (List.replicate 8 7) }

theorem witness_TaskQueues :
    (let i := Instr.tqpush 6 true 8 true 7
     let ok := fun (s : State) => s.mayRun (useOf 2 [vsrc 8 8 true, ssrc 7 1 true] [sdst 6 1]) && s.plain && (s.queue 0).unwritten.isEmpty &&
       (s.queue 0).wtoken.isNone && s.earlierDone s.w s.w.mem.seq && (s.plainRelease 0 2).isSome && decide ((s.queue 0).chip.length ≤ 32) &&
       decide ((s.queue 0).head = (s.queue 0).tail ∨ (s.queue 0).chip.length = 32) && s.others.isEmpty
     -- 32 records into a free chip, past a chip of 31 and of 32 into a ring of 32, and behind records in the ring; with a timer to start
     ([(0, 0, 0), (31, 5, 0), (32, 5, 0), (32, 6, 32)].all fun (e : Nat × Nat × Nat) =>
       let s := queued i e.1 fun q => { q with log2cap := e.2.1, launch := true, tail := e.2.2 }
       ok s && (s.queue 0).due.isNone && decide ((s.queue 0).tail - (s.queue 0).head + (s.w.lanes.length - (32 - e.1)) ≤ 2 ^ e.2.1)) = true ∧
     -- one record too many for the ring; a queue that is off; an earlier store
     (let s := queued i 31 fun q => { q with log2cap := 4 }
      ok s = true ∧ 2 ^ (s.queue 0).log2cap < (s.queue 0).tail - (s.queue 0).head + (s.w.lanes.length - 1)) ∧
     ok (queued i 0 fun q => { q with enable := false }) = true ∧
     (let s := (queued i 0 id).onW fun w => { w with mem := { w.mem with sq := [{ seq := 0, tile := true, size := 4, lanes := [] }], seq := 1 } }
      s.mayRun (useOf 2 [vsrc 8 8 true, ssrc 7 1 true] [sdst 6 1]) = true ∧ s.earlierDone s.w s.w.mem.seq = false) ∧
     -- a queue whose ring owes a write that waits on an absent page: no record goes to the ring, and one to the chip
     ([0, 32].all fun n =>
       let s := queued i n fun q => { q with log2cap := 6, wtoken := some 3, unwritten := [(0, [])], tail := if n = 0 then 0 else 1 }
       let u := s.tidyQueue 0 64
       s.mayRun (useOf 2 [vsrc 8 8 true, ssrc 7 1 true] [sdst 6 1]) && s.plain && (u.w == s.w) && (u.queue 0).wtoken.isSome &&
         u.earlierDone u.w s.w.mem.seq && (u.plainRelease 0 2).isSome && (u.l1Cores 0).all fun k => sortedKeys (u.core k).l1) = true) ∧
    -- pops: of a record, of none with and without NB, of a queue that is off or in LAUNCH mode, of a wave that waits, and to be evicted
    ([queued (.tqpop 6 true true 7) 1 id, queued (.tqpop 6 true true 7) 0 id, queued (.tqpop 6 false true 7) 0 id,
      queued (.tqpop 6 false true 7) 1 (fun q => { q with enable := false }),
      queued (.tqpop 6 false true 7) 1 (fun q => { q with launch := true, due := some 9 }),
      (queued (.tqpop 6 false true 7) 0 id).onW fun w => w.withHold (.pop 0),
      (queued (.tqpop 6 false true 7) 1 fun q => { q with enable := false }).onW fun w => w.withHold (.pop 0),
      (queued (.tqpop 6 false true 7) 0 id).onW fun w => w.flowOf fun f => { f with stopReq := true }].all fun s =>
        s.mayRun (useOf 2 [ssrc 7 1 true] [sdst 6 1, vdst 0 8]) && s.plain && (s.queue 0).blocked.isEmpty && !s.promoting s.w &&
          (s.queue 0).unwritten.isEmpty && (s.queue 0).wtoken.isNone && ((s.queue 0).head == (s.queue 0).tail) &&
          (((s.tidyQueue 0 64).wakePops 0 64).w == s.w)) = true := by decide +kernel

/-! ### Witnesses: memory instructions -/

/-- What `State.Accessible` asks, as a computation. -/
def State.accessB (s : State) (rd wr : Bool) (size : Nat) (ls : List (Nat × Nat)) : Bool :=
  ls.all fun e => decide (e.2 % size = 0) && decide (e.2 < 2 ^ 48) && !s.owes s.w (.page (e.2 / 65536)) && !s.handedOver e.2 && !s.locked e.2 wr &&
    (!wr || !s.sealedWrite s.w e.2) && decide (s.missTiles s.w [e.2] = []) &&
    match s.tlbHit s.w.id.core (e.2 / 65536) with
    | some x => (!rd || x.r) && (!wr || x.w) && !s.keyAbsent x.fields
    | none => false

theorem accessible_of {s : State} {rd wr : Bool} {size : Nat} {ls : List (Nat × Nat)} (h : s.accessB rd wr size ls = true) :
    s.Accessible rd wr size ls := by
  intro e he
  have := List.all_eq_true.mp h e he
  cases hx : s.tlbHit s.w.id.core (e.2 / 65536) with
  | none => rw [hx] at this; simp at this
  | some x =>
    rw [hx] at this
    cases rd <;> cases wr <;> simp_all

theorem readable_of {s : State} {at2 : Bool} {size : Nat} {ls : List (Nat × Nat)}
    (h : (ls.all fun e => !s.readsPoison s.w at2 s.w.mem.seq size (s.accessOf (fun _ => 0) (fun _ => 0) e)) = true) : s.Readable at2 size ls :=
  fun e he => by simpa using List.all_eq_true.mp h e he

theorem witness_LoadsIssue :
    (let i := Instr.ld maPair 6 3 2 3 false
     let s := paged (placed i)
     s.w.mem.region = none ∧ i.wellFormed = true ∧ s.mayRun (useOf 3 (maSrcs maPair) [vdst 6 (wordsOf 3)]) = true ∧
       s.Accessible true false (bytesOf 3) (s.w.addrs maPair) ∧ s.Readable false (bytesOf 3) (s.w.addrs maPair)) ∧
    (let i := Instr.sld 6 true 8 0x1FF8 0 0 3
     let s := paged (placed i)
     i.wellFormed = true ∧ s.mayRun (useOf 3 [ssrc 8 2 true] [sdst 6 (wordsOf 3)]) = true ∧ s.Accessible true false (bytesOf 3) [(0, 0x1FF8)] ∧
       s.Readable false (bytesOf 3) [(0, 0x1FF8)]) ∧
    -- the last word of the tile memory
    (let i := Instr.ldt { taa with off5 := 31 }
     let s := placedW i fun w => w.setv 4 fun _ => 524288 - 128
     i.wellFormed = true ∧ s.mayRun (useOf 3 [bsrc false 4 1 true] [vdst 6 (wordsOf 2)]) = true ∧
       ∀ x ∈ tileAddrs { taa with off5 := 31 } s.w, x.2 % bytesOf 2 = 0 ∧ x.2 + bytesOf 2 = s.tmem s.w) := by
  refine ⟨⟨by decide +kernel, by decide +kernel, by decide +kernel, accessible_of (by decide +kernel), readable_of (by decide +kernel)⟩,
    ⟨by decide +kernel, by decide +kernel, accessible_of (by decide +kernel), readable_of (by decide +kernel)⟩, by decide +kernel⟩

theorem witness_StoresIssue :
    ([(0 : BitVec 3), 3].all fun ord =>
      let i := Instr.st maPair true 6 0 ord 3
      let s := paged (placed i)
      i.wellFormed && s.w.mem.region.isNone && s.mayRun (stUse maPair true 6 3) && s.accessB false true 8 (s.w.addrs maPair)) = true ∧
    (let i := Instr.stt taa
     let s := placed i
     i.wellFormed = true ∧ s.mayRun (sttUse taa) = true ∧ (∀ x ∈ tileAddrs taa s.w, x.2 % 4 = 0 ∧ x.2 + 4 ≤ s.tmem s.w)) ∧
    -- a line that is PENDING
    (let s := (placed (.stt taa)).onBlk 1 fun b => b.setTag 0 tagPENDING
     s.mayRun (sttUse taa) = true ∧ (match s.blkOf s.w with | some b => b.pending 8 4 | none => false) = true) := by
  decide +kernel

theorem witness_AtomicsIssue :
    (let s := paged (placed (.atom maAtom 6 8 true 7 2 1 2))
     s.w.mem.region = none ∧ s.Accessible true true (bytesOf 2) (s.w.addrs maAtom) ∧ s.Readable true (bytesOf 2) (s.w.addrs maAtom)) ∧
    ([Instr.atom maAtom 6 11 true 7 2 4 2, .atomc maAtom 6 true 7 0 0 2].all (fun i =>
      i.wellFormed && (paged (placed i)).mayRun (atomUse maAtom 6 true 7 2)) &&
      (Instr.red maAtom 7 true 7 2 3 2).wellFormed && (paged (placed (.red maAtom 7 true 7 2 3 2))).mayRun (redUse maAtom true 7 2)) = true := by
  refine ⟨⟨by decide +kernel, accessible_of (by decide +kernel), readable_of (by decide +kernel)⟩, by decide +kernel⟩

theorem witness_AccessTraps :
    -- an odd address; a page that misses; a store; a scalar load; a tile load past the end
    (let s := placedW (.ld maPair 6 0 0 2 false) fun w => w.setv 4 fun l => if l = 31 then 1 else 0
     s.mayRun (ldUse maPair 6 2) = true ∧ (s.w.addrs maPair).filter (fun x => x.2 % 4 != 0) = [(31, 9)]) ∧
    (let s := placed (.ld maPair 6 0 0 2 false)
     s.mayRun (ldUse maPair 6 2) = true ∧ (s.w.addrs maPair).filter (fun x => x.2 % 4 != 0) = [] ∧ s.tlbHit 0 0 = none) ∧
    (placedW (.st maPair true 6 0 0 2) fun w => w.setv 4 fun _ => 1).mayRun (stUse maPair true 6 2) = true ∧
    (placed (.sld 6 true 8 1 0 0 2)).mayRun (sldUse 6 true 8 2) = true ∧
    (let s := placedW (.ldt taa) fun w => w.setv 4 fun _ => 524288 - 8
     s.mayRun (ldtUse taa) = true ∧ ∀ x ∈ tileAddrs taa s.w, s.tmem s.w < x.2 + 4 ∧ x.2 % 4 = 0) := by decide +kernel

theorem witness_Fences :
    -- each kind at each kind of scope; with a load and a store to wait for; in a region
    ([(1, 0), (2, 1), (3, 3), (4, 0), (4, 3)].all fun (e : BitVec 3 × BitVec 2) =>
      let s := placed (.fence e.1 e.2)
      (Instr.fence e.1 e.2).wellFormed && s.mayRun (useOf 3 [] []) && (s.w.flow.hold == .run) && s.earlierDone s.w s.w.mem.seq &&
        s.w.mem.loads.isEmpty && (s.releaseAll 0).isSome && (s.l1Cores 0).all fun k => sortedKeys (s.core k).l1) = true ∧
    (let s := placedW (.fence 3 2) fun w => { w with mem := { w.mem with seq := 1, sq := [{ seq := 0, tile := true, size := 4, lanes := [] }] } }
     s.mayRun (useOf 3 [] []) = true ∧ s.earlierDone s.w s.w.mem.seq = false) ∧
    (let s := placedW (.fence 3 2) fun w => { w with mem := { w.mem with region := some 0 } }
     s.mayRun (useOf 3 [] []) = true ∧ s.w.mem.region ≠ none) ∧
    [0, 1].all (fun tick =>
      let s := placedW (.fence 4 3) fun w => w.flowOf fun f => { f with hold := .sc tick }
      s.mayRun (useOf 3 [] []) && (s.heartbeat.toNat == 0) && (s.releaseAll 0).isSome) = true := by decide +kernel

theorem witness_CacheControl : ((List.range 5).all fun k =>
    let m := { maPair with off := 0 }
    let s := paged (placed (.cctl m (BitVec.ofNat 3 k)))
    (Instr.cctl m (BitVec.ofNat 3 k)).wellFormed && s.mayRun (useOf 3 (maSrcs m) []) && s.w.mem.region.isNone && s.w.mem.sq.isEmpty &&
      s.accessB true false 1 (s.w.addrs m) && (decide (2 < k) ||
        (((s.w.addrs m).map (s.accessOf (fun _ => 0) fun _ => 0)).foldlM (fun (t : State) a => t.cctlLine k a) s).isSome)) = true := by
  decide +kernel

theorem witness_TileTags :
    let s := placedW (.tmtag false 6 true 4 true 2) fun w => w.setv 4 fun _ => 524287
    s.mayRun (useOf 3 [bsrc false 4 1 true] [vdst 6 1]) = true ∧ s.w.mem.region = none ∧ s.w.id.blk = some 1 ∧
      (s.blk? 1).map (·.tmem) = some 524288 ∧ ∀ l ∈ s.w.lanes, (s.w.opB false 4 l).toNat < 524288 := by decide +kernel

/-- A region of the acting wave. -/
def region0 (s : State) : Region :=
  { wid := 1, seqNo := 0, label := 0x40, sd := 63, mask0 := 0xFFFFFFFF, rpc0 := rpcNone, depth0 := s.w.flow.stack.length
    reads := [], versions := [], preds := [], pend := [], waiting := false }
def inRegion (i : Instr) : State :=
  let s := placedW i fun w => { w with mem := { w.mem with region := some 0 } }
  { s with die := { s.die with regions := [(0, region0 s)] } }

/-- A version of line 0, and a region of wave 2 beside the acting wave's. -/
def version0 (k : Byte) (order : Nat) : Version :=
  { line := 0, va := 0, fields := 0, order := order, data := List.replicate 64 k, mask := BitVec.allOnes 64 }

/-- The machine at `i`, its wave in region 0 as `x` gives it, with other regions, of waves 2, 3 and so on. -/
def amongRegions (i : Instr) (x : Region → Region) (ys : List (Region → Region)) : State :=
  let s := inRegion i
  let w := (placed .nop).w
  let others := (List.range ys.length).map fun k => { w with id := { w.id with wid := 2 + k, slot := 1 + k }, mem := { w.mem with region := some (1 + k) } }
  let rs := ys.zipIdx.map fun e => (1 + e.2, { e.1 { region0 s with seqNo := BitVec.ofNat 32 (1 + e.2) } with wid := 2 + e.2 })
  { s with others := others, die := { s.die with regions := (0, x (region0 s)) :: rs } }

theorem witness_Regions :
    (let s := placed (.rbegin 20 12)
     s.mayRun (useOf 3 [] [sdst 20 1]) = true ∧ s.plain = true ∧ s.w.flow.mask = s.w.flow.alive ∧ s.w.flow.hold = .run ∧
       (s.fenceDone true true 2).isSome = true ∧ s.die.rwait = [] ∧ s.freeRegionId = some 0) ∧
    ((placed .rcommit).mayRun (useOf 3 [] []) = true ∧ (placed .rcommit).regionOf (placed .rcommit).w = none) ∧
    (let s := inRegion .rcommit
     let x := region0 (placed .rcommit)
     s.mayRun (useOf 3 [] []) = true ∧ s.regionOf s.w = some (0, x) ∧ s.w.flow.stack.length = x.depth0 ∧ s.commitReady s.w x = true ∧
       (s.commitRegion s.w 0 x).isSome = true ∧ s.edges = [] ∧ x.wid = s.w.id.wid ∧ x.mask0 &&& s.w.flow.alive ≠ 0 ∧ s.w.mem.loads = [] ∧ x.sd < 64) ∧
    -- with a version to write, before and after another region; with one to wait for, and to abort
    (let x := { region0 (placed .rcommit) with versions := [version0 7 0] }
     let s := amongRegions .rcommit (fun _ => x) [fun y => { y with preds := [0] }]
     s.mayRun (useOf 3 [] []) = true ∧ s.regionOf s.w = some (0, x) ∧ s.w.flow.mask = s.w.flow.alive ∧ s.w.flow.stack.length = x.depth0 ∧
       s.commitReady s.w x = true ∧ (s.commitRegion s.w 0 x).isSome = true ∧ sortedKeys s.die.regions = true ∧ (x.versions.map (·.line)).Nodup ∧
       x.versions ≠ []) ∧
    (let x := { region0 (placed .rcommit) with preds := [1] }
     let s := amongRegions .rcommit (fun _ => x) [id]
     s.mayRun (useOf 3 [] []) = true ∧ s.regionOf s.w = some (0, x) ∧ s.w.flow.mask = s.w.flow.alive ∧ x.preds ≠ []) ∧
    (let x := region0 (placed .rcommit)
     let s := amongRegions (.rabort 9) (fun _ => x) [fun y => { y with preds := [0] }, fun y => { y with preds := [0, 1] }]
     s.mayRun (useOf 3 [] []) = true ∧ s.regionOf s.w = some (0, x) ∧ s.RegionsSane ∧ x.wid = s.w.id.wid) := by
  unfold State.RegionsSane; decide +kernel

/-- A shape record (Table 9.3): INT8 at 0x2000, 256 elements in one tile, and the given flags. -/
def shapeRec (flags : Nat) : Nat := 0x2000 + flags * 2 ^ 82 + 256 * 2 ^ 160 + 2 ^ 176 + 256 * 2 ^ 192 + 2 ^ 320
/-- A recipe record (Table 21.3) for object 1, one level deep. -/
def recipeRec : Nat := 0x1000 + 2 ^ 192 + 2 ^ 204
def obj1 (isSealed : Bool) (st : TileState) : Obj :=
  { shape := shapeRec 1, prio := 3, isSealed := isSealed, recipe := some recipeRec, tiles := [(0, { st := st, guards := [] })] }
def State.withObj (s : State) (o : Obj) : State := { s with die := { s.die with objects := [(1, o)] } }

/-- The machine at an OBIND or ORECIPE of the record `r`, which stands at 0x1200. -/
def recorded (i : Instr) (r : Nat) (f : State → State) : State :=
  let s := f (paged (placedW i fun w => w.sets [(8, 0x1200)]))
  { s with pkg := s.pkg.withBytes 0x1200 64 r }
/-- What `State.ReadsRecord` finds, where nothing keeps the read: the state once the record is read, and the record. -/
def recordRead (s : State) (va : Nat) : Option (State × Nat) :=
  let a := s.accessOf (fun _ => 0) (fun _ => 0) (0, va)
  if s.accessB true false 64 [(0, va)] && s.w.mem.sq.isEmpty && s.w.mem.loads.isEmpty && s.w.mem.strong.isEmpty &&
      ((s.core s.w.id.core).wbuf.all fun q => q.2.isEmpty) && !s.readsPoison s.w false s.w.mem.seq 64 a then
    (s.reachL2 s.w.id.core a).bind fun t =>
      if t.l2Poison a.pa then none
      else (t.recordDrainOver s.w.id.core (a.pa / 256)).bind fun x => x.fitEvery.map fun u => (u, bytesNat (x.l2Bytes a.pa 64))
  else none

theorem readsRecord_of {s u : State} {va r : Nat} (h : recordRead s va = some (u, r)) : s.ReadsRecord va u r := by
  simp only [recordRead] at h
  split at h
  · rename_i hc
    simp only [Bool.and_eq_true, List.isEmpty_iff] at hc
    obtain ⟨⟨⟨⟨⟨ha, hq⟩, hl⟩, hs⟩, hw⟩, hr⟩ := hc
    obtain ⟨t, ht, h⟩ := Option.bind_eq_some_iff.mp h
    split at h
    · exact nomatch h
    · rename_i hp
      obtain ⟨x, hx, h⟩ := Option.bind_eq_some_iff.mp h
      obtain ⟨v, hv, h⟩ := Option.map_eq_some_iff.mp h
      cases h
      exact ⟨accessible_of ha, fun e he => by simpa [List.mem_singleton.mp he] using hr,
        ⟨hq, hl, hs, fun q hm => by simpa using List.all_eq_true.mp hw q hm⟩, t, x, ht, by simpa using hp, hx, hv, rfl⟩
  · exact nomatch h

/-- Does an OBIND or ORECIPE of the record `r` read it, and then find a state with `p`? -/
def recordOk (i : Instr) (r : Nat) (f : State → State) (p : State → Bool) : Bool :=
  let s := recorded i r f
  s.mayRun (useOf 3 [ssrc 8 2 true] [sdst 6 1]) && s.plain && match recordRead s 0x1200 with
  | some x => x.2 == r && p x.1
  | none => false

theorem witness_Bindings :
    -- a record of zeros; one whose range is taken; a good one; a recipe for no object, and one that is accepted
    (let i := Instr.obind 6 true 8 0
     shapeOk 0 = false ∧ recordOk i 0 id (fun _ => true) = true ∧ shapeOk (shapeRec 0) = true ∧
     recordOk i (shapeRec 0) (fun s => s.withObj (obj1 false .present)) (fun u => u.die.objects.any fun e => shapesMeet (shapeRec 0) e.2.shape) =
       true ∧
     recordOk i (shapeRec 0) id (fun u => u.die.objects.isEmpty && (u.freeId == some 1) &&
       (u.allWriteBack (fun l => inShape (shapeRec 0) (l.va / 256)) fun _ => false).isSome) = true) ∧
    (let i := Instr.orecipe 6 true 8 0
     recordOk i recipeRec id (fun u => u.recipeStatus recipeRec == 0x80000002) = true ∧
     recordOk i recipeRec (fun s => s.withObj { obj1 false .present with recipe := none }) (fun u => u.recipeStatus recipeRec == 0 &&
       (u.obj? (rcOut recipeRec)).isSome) = true) := by decide +kernel

theorem witness_Bindings_refused :
    -- a recipe that is none, for an object that is not droppable, with a tile dropped, of two dimensions of tiles, with no recipe slot,
    -- and past the tiles that the tile storage has entries for
    let i := Instr.orecipe 6 true 8 0
    let o : Obj := { obj1 false .present with recipe := none }
    let at' := fun (f : State → State) (r x : Nat) => recordOk i r f fun u => u.recipeStatus r == x
    at' id (recipeRec + 1) 0x80000001 = true ∧ (recipeRec + 1) % 4 ≠ 0 ∧
    at' (fun s => s.withObj { o with shape := shapeRec 0 }) recipeRec 0x80000002 = true ∧
    at' (fun s => s.withObj (obj1 true .dropped)) recipeRec 0x80000003 = true ∧
    at' (fun s => s.withObj { o with shape := shapeRec 1 + 2 ^ 81 }) recipeRec 0x80000004 = true ∧
    at' (fun s => { s.withObj o with tabs := { s.tabs with bootcfg := 0 } }) recipeRec 0x80000005 = true ∧
    at' (fun s => { s with die := { s.die with objects := [(1, o), (2, { obj1 false .present with shape := shapeRec 1 + 2 ^ 220 })] } }) recipeRec
      0x80000006 = true := by decide +kernel

theorem look?_isSome {α : Type} (m : Map α) (k : Nat) (h : k ∈ m.map (·.1)) : (look? m k).isSome = true := by
  induction m with
  | nil => exact nomatch h
  | cons e m ih =>
    simp only [look?]
    split
    · rfl
    · rename_i hne
      exact ih ((List.mem_cons.mp h).resolve_left fun hk => hne hk.symm)

/-- Every id is bound, to a shape that does not meet `shapeRec 0`. -/
def allBound : Map Obj := (List.range 4095).map fun i => (i + 1, { obj1 false .present with shape := shapeRec 1 + 0x1000 })

theorem witness_Bindings_none :
    recordOk (.obind 6 true 8 0) (shapeRec 0) (fun s => { s with die := { s.die with objects := allBound } })
      (fun u => !u.die.objects.any fun e => shapesMeet (shapeRec 0) e.2.shape) = true ∧
    ∀ u : State, u.die.objects = allBound → u.freeId = none := by
  refine ⟨by decide +kernel, fun u h => List.findSome?_eq_none_iff.mpr fun i hi => ?_⟩
  have hk : i + 1 ∈ allBound.map (·.1) := by simpa [allBound, Function.comp_def] using hi
  have hs : (u.obj? (i + 1)).isSome = true := by rw [State.obj?, h]; exact look?_isSome _ _ hk
  simp [Option.isNone_iff_eq_none, Option.ne_none_iff_isSome.mpr hs]

/-- What holds of a core after reset and of every listed core holds of every core. -/
theorem core_all {s : State} {p : Core → Bool} (h0 : p Core.empty = true) (h : s.cores.all (fun e => p e.2) = true) (k : Nat) :
    p (s.core k) = true := by
  rw [State.core, look]
  cases hk : look? s.cores k with
  | none => exact h0
  | some x =>
    have : ∀ m : Map Core, look? m k = some x → m.all (fun e => p e.2) = true → p x = true := by
      intro m
      induction m with
      | nil => exact fun hn => nomatch hn
      | cons e m ih =>
        intro hx ha
        simp only [List.all_cons, Bool.and_eq_true] at ha
        simp only [look?] at hx
        split at hx
        · cases hx; exact ha.1
        · exact ih hx ha.2
    exact this _ hk h

theorem witness_ObjectControl :
    let i := fun (o : Obj) => (placedW (.oprio 6 5 true 7) fun w => w.sets [(7, 1)]).withObj o
    let idle := fun (s : State) => s.mayRun (useOf 3 [ssrc 7 1 true] [sdst 6 1]) && s.plain && ((s.w.rdS 7).toNat % 4096 == 1)
    let sorted := fun (s : State) => ∀ k, sortedKeys (s.core k).l1 = true
    let backs := fun (s : State) => (s.allWriteBack (fun l => l.obj == 1) fun x => x == 1).isSome
    -- no object; an object that OPRIO, OEVICT and OUNBIND take; one whose tile is forming; OSEAL to seal and to open
    idle (i (obj1 true .present)) = true ∧ (placed (.oprio 6 5 true 7)).obj? 1 = none ∧ (i (obj1 true .present)).obj? 1 = some (obj1 true .present) ∧
    (let s := i (obj1 true .present)
     s.rebuilding 1 (obj1 true .present) = false ∧ backs s = true ∧ sorted s ∧ s.w.flow.hold = .run ∧ (s.evictObj 1 (obj1 true .present)).isSome = true ∧
       sortedKeys s.die.l2 = true ∧ (∀ k, ∀ x ∈ (s.core k).l1, x.2.obj = s.objOf x.2.va)) ∧
    (idle (i (obj1 true .forming)) = true ∧ shDroppable (obj1 true .forming).shape = true ∧ (i (obj1 true .forming)).rebuilding 1 (obj1 true .forming) = true) ∧
    (let s := i (obj1 false .present)
     idle s = true ∧ s.storeCount s.w = 0 ∧ s.unperformed (fun va => s.objOf va == 1) = false ∧ backs s = true ∧ sorted s) ∧
    (i (obj1 true .present)).tilesBusy 1 (obj1 true .present) = false := by
  refine ⟨?a, ?b, ?c, ⟨?d, ?e, ?_, ?f, ?g, ?h, ?_⟩, ?i, ⟨?j, ?k, ?l, ?m, ?_⟩, ?n⟩
  case a | b | c | d | e | f | g | h | i | j | k | l | m | n => decide +kernel
  · exact core_all (p := fun c => sortedKeys c.l1) (by decide +kernel) (by decide +kernel)
  · intro k x hx
    have := core_all (s := (placedW (.oprio 6 5 true 7) fun w => w.sets [(7, 1)]).withObj (obj1 true .present)) (p := fun c => c.l1.isEmpty)
      (by decide +kernel) (by decide +kernel) k
    rw [List.isEmpty_iff.mp this] at hx
    exact nomatch hx
  · exact core_all (p := fun c => sortedKeys c.l1) (by decide +kernel) (by decide +kernel)

theorem witness_ObjectControl_refused :
    let i := fun (o : Obj) => (placedW (.oprio 6 5 true 7) fun w => w.sets [(7, 1)]).withObj o
    [({ obj1 false .present with shape := shapeRec 0 }, false, false, false), (obj1 true .present, true, true, false), (obj1 false .present, true, false, false),
      ({ obj1 false .present with recipe := none }, true, false, true)].all (fun (e : Obj × Bool × Bool × Bool) =>
        (i e.1).mayRun (useOf 3 [ssrc 7 1 true] [sdst 6 1]) && (i e.1).plain && (((i e.1).w.rdS 7).toNat % 4096 == 1) && ((i e.1).obj? 1 == some e.1) &&
          (shDroppable e.1.shape == e.2.1) && (e.1.isSealed == e.2.2.1) && (e.1.recipe.isNone == e.2.2.2)) = true := by decide +kernel

/-- A region's wave of one lane, at a line that the L2 holds. -/
def regionAt (i : Instr) (vs : List Version) : State :=
  let s := paged (placedW i fun w => { w.flowOf fun f => { f with mask := 0x80000000 } with mem := { w.mem with region := some 0 } })
  let t : State := { s with die := { s.die with regions := [(0, { region0 s with versions := vs })] } }
  t.l2Fill 0 0 0

theorem witness_RegionAccesses :
    ([[], [{ line := 0, va := 0, fields := 0, order := 0, data := List.replicate 64 7, mask := BitVec.allOnes 64 }]] : List (List Version)).all
      (fun vs => [Instr.ld maPair 6 0 0 2 false, .st maPair true 6 0 0 2].all fun i =>
        let s := regionAt i vs
        i.wellFormed && (s.die.regions.length == 1) && (s.w.lanes == [31]) && (s.l1? 0 8).isNone && (s.l2? 0).isSome && !s.l2Poison 8 &&
          decide (s.setSize 0 ≤ 16) && s.accessB true true 4 [(31, 8)] && (ea maPair s.w 31 == 8) &&
          (s.mayRun (ldUse maPair 6 2) || s.mayRun (stUse maPair true 6 2))) = true := by decide +kernel

/-- The machine at an access of the acting wave's region 0 to line 0, by one lane, beside other regions; the line stands in the L2. -/
def racing (i : Instr) (x : Region → Region) (ys : List (Region → Region)) : State :=
  let s := paged ((amongRegions i x ys).onW fun w => w.flowOf fun f => { f with mask := 0x80000000 })
  { s with die := { s.die with l2 := (s.l2Fill 0 0 0).die.l2 } }

def ldR : Instr := .ld maPair 6 0 0 2 false

def stR : Instr := .st maPair true 6 0 0 2

/-- The access that `ldR` and `stR` make there. -/
def accR (s : State) : List LaneAcc := (s.w.addrs maPair).map (s.accessOf (fun _ => 0) fun _ => 0)

theorem look?_mem {α : Type} {m : Map α} {k : Nat} {x : α} (h : look? m k = some x) : (k, x) ∈ m := by
  induction m with
  | nil => exact nomatch h
  | cons e t ih =>
    obtain ⟨j, y⟩ := e
    simp only [look?] at h
    split at h
    · rename_i hj; cases h; subst hj; exact List.mem_cons_self
    · exact List.mem_cons_of_mem _ (ih h)

theorem not_counted {s : State} (h : ∀ e ∈ s.die.regions, e.2.preds = [] ∧ e.2.pend = []) (r u v : Nat) : ¬s.Counted r u v := by
  rintro (⟨y, hy, hu⟩ | ⟨z, y, -, hy, hp⟩)
  · rw [(h _ (look?_mem hy)).1] at hu; exact nomatch hu
  · rw [(h _ (look?_mem hy)).2] at hp; exact nomatch hp

theorem not_closes {s : State} (h : ∀ e ∈ s.die.regions, e.2.preds = [] ∧ e.2.pend = []) (r : Nat) (x : Region) (rd wr : Bool)
    (as : List LaneAcc) (u : Nat) : ¬s.Closes r x rd wr as u := by
  rintro ⟨-, ht⟩
  cases ht with
  | single h1 => exact not_counted h _ _ _ h1
  | tail _ h1 => exact not_counted h _ _ _ h1

theorem newEdge_region {s : State} {r : Nat} {x : Region} {rd wr : Bool} {as : List LaneAcc} {u : Nat} (h : s.NewEdge r x rd wr as u) :
    u ≠ r ∧ ∃ y, s.region? u = some y := by
  obtain ⟨-, a, -, ⟨-, -, z, ⟨hr, -, y, hy, -⟩, -⟩ | ⟨-, hr, y, hy, -⟩⟩ := h
  · exact ⟨hr, y, hy⟩
  · exact ⟨hr, y, hy⟩

theorem not_pastBounds {s : State} (h : ∀ e ∈ s.die.regions, e.2.preds = [] ∧ e.2.pend = []) {x : Region} {rd wr : Bool}
    {as : List LaneAcc} (h1 : ∀ e ∈ s.die.regions, e.1 ≤ 1) : ¬s.PastBounds 0 x rd wr as := by
  have he : ∀ u v, ¬s.EdgeTo u v := fun u v hu => not_counted h 0 u v (.inl hu)
  have hn : ∀ {u}, s.NewEdge 0 x rd wr as u → u = 1 := fun hu => by
    obtain ⟨h0, y, hy⟩ := newEdge_region hu
    have := h1 _ (look?_mem hy)
    simp only at this; omega
  rintro (⟨us, v, hd, hl, hu⟩ | ⟨a, b, c, d, e, h2, h3, -⟩)
  · have all : ∀ u ∈ us, u = 1 := fun u hm => (hu u hm).elim (fun k => absurd k (he _ _)) fun k => hn k.2
    match us, hl with
    | a :: b :: t, _ =>
      have ha := all a (by simp)
      have hb := all b (by simp)
      simp [ha, hb] at hd
  · have hb := h2.resolve_left (he _ _)
    have hc := h3.resolve_left (he _ _)
    have := hn hc.2
    omega

theorem witness_SharedRegionAccesses :
    -- a line of which the other region has read the bytes and holds a version
    ∀ e ∈ [(ldR, true, false), (stR, false, true)],
      let s := racing e.1 id [fun y => { y with reads := [0], versions := [version0 7 0] }]
      let x := region0 (inRegion e.1)
      e.1.wellFormed = true ∧ s.w.mem.region = some 0 ∧ s.w.lanes = [31] ∧ (s.mayRun (ldUse maPair 6 2) || s.mayRun (stUse maPair true 6 2)) = true ∧
        s.Accessible e.2.1 e.2.2 4 (s.w.addrs maPair) ∧ s.region? 0 = some x ∧ s.RegionsSane ∧
        s.Performs 0 x e.2.1 e.2.2 ((s.w.addrs maPair).map (s.accessOf (s.w.dataOf 6 4) fun _ => 0)) := by
  intro e he
  have hn : ∀ e ∈ [(ldR, true, false), (stR, false, true)], ∀ z ∈
    (racing (e : Instr × Bool × Bool).1 id [fun y => { y with reads := [0], versions := [version0 7 0] }]).die.regions, z.2.preds = [] ∧ z.2.pend = [] ∧ z.1 ≤ 1 := by
    decide +kernel
  refine ⟨?_, ?_, ?_, ?_, accessible_of ?_, ?_, ?_, not_closes (fun z hz => ⟨(hn e he z hz).1, (hn e he z hz).2.1⟩) _ _ _ _ _,
    not_pastBounds (fun z hz => ⟨(hn e he z hz).1, (hn e he z hz).2.1⟩) fun z hz => (hn e he z hz).2.2, ?_, ?_⟩
  case refine_7 => unfold State.RegionsSane; fin_cases he <;> decide +kernel
  case refine_8 => unfold State.PastCapacity; fin_cases he <;> decide +kernel
  all_goals fin_cases he <;> decide +kernel

/-- What every clause about an access of region 0 asks of the state, the access and the region. -/
def accessesIn (i : Instr) (rd wr : Bool) (s : State) (x : Region) : Bool :=
  i.wellFormed && (s.mayRun (ldUse maPair 6 2) || s.mayRun (stUse maPair true 6 2)) && s.accessB rd wr 4 (s.w.addrs maPair) &&
    (s.w.mem.region == some 0) && (s.region? 0 == some x) && (x.wid == s.w.id.wid)

/-- Region 0 would come after region 1, which comes after it; it is the younger one, or the older. -/
def cyclicRace (young : Bool) : State :=
  racing stR (fun x => { x with seqNo := if young then 5 else 0 }) [fun y => { y with reads := [0], preds := [0] }]

theorem witness_RegionTests_cycle : ∀ young : Bool,
    let s := cyclicRace young
    let x := { region0 (inRegion stR) with seqNo := if young then 5 else 0 }
    let older := fun u => s.Closes 0 x false true (accR s) u ∧ ∃ y, s.region? u = some y ∧ younger x y = true
    accessesIn stR false true s x = true ∧ s.RegionsSane ∧ s.Closes 0 x false true (accR s) 1 ∧ (∃ y, s.region? 1 = some y) ∧
      (young = true → older 1 ∧ ∀ u, older u → 1 ≤ u) ∧
      (young = false → (∀ u, ¬older u) ∧ ∀ a ∈ accR s, s.l2? (a.pa / 256) ≠ none ∧ s.l2Poison a.pa = false) := by
  intro young
  have hr : ∀ b, ∃ y, (cyclicRace b).region? 1 = some y ∧ 0 ∈ y.reads ∧ 0 ∈ y.preds ∧ y.seqNo = 1 := fun b =>
    ⟨_, rfl, by decide +kernel, by decide +kernel, by decide +kernel⟩
  have ha : ∀ b, ∃ a, accR (cyclicRace b) = [a] ∧ a.pa / 64 = 0 := fun b => by
    cases b
    · exact ⟨_, rfl, by decide +kernel⟩
    · exact ⟨_, rfl, by decide +kernel⟩
  obtain ⟨y, hy, hread, hpred, hseq⟩ := hr young
  obtain ⟨a, hacc, hline⟩ := ha young
  have hkeys : ∀ b, ∀ e ∈ (cyclicRace b).die.regions, e.1 = 0 ∨ e.1 = 1 := by decide +kernel
  have hc : (cyclicRace young).Closes 0 { region0 (inRegion stR) with seqNo := if young then 5 else 0 } false true (accR (cyclicRace young)) 1 := by
    refine ⟨.inl ⟨?_, a, by rw [hacc]; simp, .inr ⟨rfl, by omega, y, hy, .inl (by rw [hline]; exact hread)⟩⟩, .single (.inl ⟨y, hy, hpred⟩)⟩
    exact fun h => nomatch (show (1 : Nat) ∈ ([] : List Nat) from h)
  have hne : ∀ u, (cyclicRace young).Closes 0 { region0 (inRegion stR) with seqNo := if young then 5 else 0 } false true (accR (cyclicRace young)) u → u ≠ 0 := by
    rintro u ⟨h | ⟨-, -, -, -, -, -, -, h, -⟩, -⟩
    · exact (newEdge_region h).1
    · exact h
  refine ⟨?_, ?_, hc, ⟨y, hy⟩, fun ht => ⟨⟨hc, y, hy, ?_⟩, fun u hu => Nat.pos_of_ne_zero (hne u hu.1)⟩, fun hf => ⟨fun u hu => ?_, ?_⟩⟩
  · cases young <;> decide +kernel
  · unfold State.RegionsSane; cases young <;> decide +kernel
  · subst ht; simp only [younger, hseq]; decide
  · obtain ⟨hu, z, hz, hyz⟩ := hu
    have h1 : u = 1 := (hkeys young _ (look?_mem hz)).resolve_left (hne u hu)
    subst h1; subst hf
    rw [hy] at hz; cases hz
    simp only [younger, hseq] at hyz
    exact absurd hyz (by decide)
  · subst hf; decide +kernel

/-- Nine other regions have read the line that region 0 would write; a region that has read as many lines as it may; one that keeps
a write-back of the core's own bytes. -/
def pastBounds : State := racing stR id (List.replicate 9 fun y => { y with reads := [0] })

def pastCapacity : State := racing ldR (fun x => { x with reads := (List.range 512).map (· + 1) }) []

def keptBack : State := (racing stR id [fun y => { y with reads := [0] }]).onCore 0 fun c =>
  { c with l1 := [(0, { L1Line.empty 0 0 0 with valid := 1, dirty := 1 })] }

theorem witness_RegionTests :
    (let x := region0 (inRegion stR)
     accessesIn stR false true pastBounds x = true ∧ pastBounds.RegionsSane ∧ (∀ u, ¬pastBounds.Closes 0 x false true (accR pastBounds) u) ∧
       pastBounds.PastBounds 0 x false true (accR pastBounds)) ∧
    (let x := region0 (inRegion stR)
     accessesIn stR false true keptBack x = true ∧ keptBack.RegionsSane ∧ (∀ u, ¬keptBack.Closes 0 x false true (accR keptBack) u) ∧
       ∃ u, keptBack.KeepsBack keptBack.w.id.core 0 (accR keptBack) u) ∧
    (let x := { region0 (inRegion ldR) with reads := (List.range 512).map (· + 1) }
     accessesIn ldR true false pastCapacity x = true ∧ pastCapacity.RegionsSane ∧
       (∀ u, ¬pastCapacity.Closes 0 x true false (accR pastCapacity) u) ∧ ¬pastCapacity.PastBounds 0 x true false (accR pastCapacity) ∧
       (∀ u, ¬pastCapacity.KeepsBack pastCapacity.w.id.core 0 (accR pastCapacity) u) ∧ pastCapacity.PastCapacity x true false (accR pastCapacity)) := by
  refine ⟨⟨by decide +kernel, ?_, not_closes (by decide +kernel) _ _ _ _ _, .inl ⟨[1, 2, 3, 4, 5, 6, 7, 8, 9], 0, by decide, rfl, fun u hu => .inr ⟨rfl, ?_⟩⟩⟩,
    ⟨by decide +kernel, ?_, not_closes (by decide +kernel) _ _ _ _ _, 1, ?_⟩,
    ⟨by decide +kernel, ?_, not_closes (by decide +kernel) _ _ _ _ _, not_pastBounds (by decide +kernel) (by decide +kernel), ?_, ?_⟩⟩
  · unfold State.RegionsSane; decide +kernel
  · have h : ∀ u ∈ [1, 2, 3, 4, 5, 6, 7, 8, 9], u ≠ 0 ∧ ∃ y, pastBounds.region? u = some y ∧ 0 ∈ y.reads := by
      intro u hu
      fin_cases hu <;> exact ⟨by decide, _, rfl, by decide +kernel⟩
    obtain ⟨h0, y, hy, hr⟩ := h u hu
    exact ⟨fun h => (nomatch (show u ∈ ([] : List Nat) from h)), (accR pastBounds).headD { lane := 0, va := 0, pa := 0, fields := 0, data := 0, cmp := 0 },
      by decide +kernel, .inr ⟨rfl, h0, y, hy, .inl (by
        rw [show ((accR pastBounds).headD { lane := 0, va := 0, pa := 0, fields := 0, data := 0, cmp := 0 }).pa / 64 = 0 by decide +kernel]; exact hr)⟩⟩
  · unfold State.RegionsSane; decide +kernel
  · exact ⟨(accR keptBack).headD { lane := 0, va := 0, pa := 0, fields := 0, data := 0, cmp := 0 }, by decide +kernel,
      { L1Line.empty 0 0 0 with valid := 1, dirty := 1 }, by decide +kernel, 0, by omega, by decide +kernel, by omega, _, rfl, .inl (by decide +kernel)⟩
  · unfold State.RegionsSane; decide +kernel
  · rintro u ⟨a, ha, l, hl, -⟩
    have : ∀ a ∈ accR pastCapacity, pastCapacity.l1? pastCapacity.w.id.core a.pa = none := by decide +kernel
    rw [this a ha] at hl; exact nomatch hl
  · unfold State.PastCapacity; decide +kernel

/-! ### Witnesses: the memory system, copies, term units -/

def acc0 (pa : Nat) : LaneAcc := { lane := 31, va := pa, pa := pa, fields := 0, data := 0xFFFFFF85, cmp := 0 }
def load0 (kind : LoadKind) : LoadEnt :=
  { seq := 0, kind := kind, scalar := false, dst := 127, size := 1, sx := true, scope := 0, acq := false, lanes := [acc0 255], got := []
    pc := 0, objs := [], all := false, flags := false }
def Wave.onMem (w : Wave) (f : WaveMem → WaveMem) : Wave := { w with mem := f w.mem }

/-- The wave with the load `e` outstanding. -/
def loading (e : LoadEnt) (f : WaveMem → WaveMem) : State := placedW .nop fun w => w.onMem fun m => f { m with loads := [e], seq := 1 }
/-- A state in which the load of the acting wave may return, as far as it does not depend on its kind. -/
def loadB (s : State) (e : LoadEnt) : Bool :=
  let n := max 1 (e.size / 4)
  !s.host.jobDead && !s.tabs.halted && (s.wave? 1 == some s.w) && (s.w.mem.loads == [e]) && [1, 2, 4, 8, 16].contains e.size &&
    (e.lanes.map (·.lane) == [31] || e.lanes.map (·.lane) == [0]) && s.w.mem.v2s.isEmpty && e.inOrder s.w.mem.loads &&
    decide (e.dst + n ≤ if e.scalar then 64 else 128) && !(e.scalar && e.sx) && e.lanes.all fun l => decide (s.setSize (l.pa / 256) ≤ 16)

theorem witness_LoadsReturn_tile :
    (let e := load0 .tile
     loadB (loading e id) e = true ∧ (loading e id).Finds (loading e id).w e (acc0 255) 0) ∧
    (let e := { load0 .tile with dst := 124, size := 16, sx := false, lanes := [acc0 240] }
     loadB (loading e id) e = true ∧ (loading e id).Finds (loading e id).w e (acc0 240) 0) := by
  refine ⟨⟨by decide +kernel, by decide +kernel, _, rfl, by decide +kernel, .inr ⟨?_, by decide +kernel⟩⟩,
    ⟨by decide +kernel, by decide +kernel, _, rfl, by decide +kernel, .inr ⟨?_, by decide +kernel⟩⟩⟩ <;>
  exact fun q hq => nomatch hq

theorem witness_LoadsReturn_weak :
    -- from the L1, into v127 and, 8 bytes, into the last scalar pair
    (let e := load0 .weak
     let s := (loading e id).l1Fill 0 255 255 0
     loadB s e = true ∧ s.Finds s.w e (acc0 255) 0) ∧
    (let a := { acc0 240 with lane := 0 }
     let e := { load0 .weak with scalar := true, dst := 62, size := 8, sx := false, lanes := [a] }
     let s := (loading e id).l1Fill 0 240 240 0
     loadB s e = true ∧ s.Finds s.w e a 0) ∧
    -- 8 bytes from the newest lane of an earlier store
    (let e := { load0 .weak with seq := 1, dst := 126, size := 8, sx := false, lanes := [acc0 240] }
     let s := loading e fun m => { m with sq := [{ seq := 0, tile := false, size := 8, lanes := [{ acc0 240 with lane := 3, data := 5 }, { acc0 240 with lane := 4 }] }] }
     loadB s e = true ∧ s.Finds s.w e (acc0 240) 0xFFFFFF85) := by
  refine ⟨⟨by decide +kernel, by decide +kernel, .inr ⟨(fun q hq => nomatch hq), by decide +kernel, by decide +kernel, by decide +kernel, by decide +kernel⟩⟩,
    ⟨by decide +kernel, by decide +kernel, .inr ⟨(fun q hq => nomatch hq), by decide +kernel, by decide +kernel, by decide +kernel, by decide +kernel⟩⟩,
    ⟨by decide +kernel, by decide +kernel, .inl ⟨[], _, [], [_], { acc0 240 with lane := 4 }, [], rfl, rfl, by decide +kernel, by decide +kernel,
      rfl, rfl, rfl, (fun y hy => nomatch hy), fun p hp => nomatch hp⟩⟩⟩

theorem witness_LoadsReturn_strong :
    (let a := { acc0 240 with lane := 0 }
     let e := { load0 .strong with scalar := true, dst := 63, size := 4, sx := false, lanes := [a] }
     let s := (loading e id).l1Fill 0 240 240 0
     loadB s e = true ∧ s.Finds s.w e a 0 ∧ s.setsFit) ∧
    -- what a region's access found, and what an atomic brought back
    ([LoadKind.region, .atomic].all fun k =>
      let e := { load0 k with size := 4, sx := false, lanes := [acc0 252], got := [(31, 9)] }
      loadB (loading e id) e && (e.got == e.lanes.map fun l => (l.lane, 9)) && !e.acq) = true ∧
    -- beyond the L1: at .die and at .clust
    ([1, 2].all fun sc =>
      let e := { load0 .strong with scope := sc, size := 4, sx := false, lanes := [acc0 252] }
      let s := loading e id
      loadB s e && s.beyondL1 0 sc && !s.w.undrained 0 252 && (s.buffered s.w 0 252 4).isNone &&
        match s.reachL2 0 (acc0 252) with
        | none => false
        | some t => !t.l2Poison 252 && ((t.recordDrainOver 0 0).bind fun u =>
            (u.onAny 1 fun v => v.reply e [(31, bytesNat (u.l2Bytes 252 4))]).fitEvery).isSome) = true := by
  refine ⟨⟨by decide +kernel, ⟨by decide +kernel, by decide +kernel, by decide +kernel, by decide +kernel, by decide +kernel, by decide +kernel,
    by decide +kernel⟩, by unfold State.setsFit; decide +kernel⟩, by decide +kernel, by decide +kernel⟩

def store0 (tile : Bool) : StoreEnt := { seq := 0, tile := tile, size := 4, lanes := [acc0 0, { acc0 124 with lane := 30 }] }
def storing (tile : Bool) : State := placedW .nop fun w => w.onMem fun m => { m with sq := [store0 tile], seq := 1 }

theorem witness_StoresDrain : [true, false].all (fun k =>
    let s := storing k
    let e := store0 k
    !s.host.jobDead && !s.tabs.halted && (s.others.all fun v => v.flow.alive != 0) && (s.sched.blocks.all fun e => !e.2.waves.isEmpty) &&
      (s.wave? 1 == some s.w) && (s.w.mem.sq == [e]) && s.canDrain s.w e && e.size == 4 &&
      e.lanes.all fun l => l.pa % 4 == 0 && s.eager (s.objOf l.va) &&
        decide ((s.l1Ways 0 l.pa ++ ((e.lanes.filter fun (m : LaneAcc) => s.l1Core 0 m.pa == s.l1Core 0 l.pa && s.l1Set 0 m.pa == s.l1Set 0 l.pa).map fun (m : LaneAcc) =>
          m.pa / 128)).eraseDups.length ≤ 4)) = true ∧
    (storing true).w.id.blk = some 1 ∧ ((storing true).blk? 1).isSome = true ∧ ∀ k, sortedKeys ((storing false).core k).l1 = true :=
  ⟨by decide +kernel, by decide +kernel, by decide +kernel, core_all (p := fun c => sortedKeys c.l1) (by decide +kernel) (by decide +kernel)⟩

theorem noSealed_of {s : State} (h : s.die.objects = []) : s.noSealed := by
  intro va
  simp [State.sealedTile, State.obj?, h, look?]

def wbEnt0 (aop : Option Nat) : WbEnt :=
  { id := 0, pc := 0, wid := 1, seq := 0, lane := 0, va := 64, pa := 64, fields := 0, size := 8, aop := aop, data := 1, cmp := 0, scope := 2
    rel := false, returns := true, relEnt := none }
def buffered (e : WbEnt) : State :=
  (placedW .nop fun w => w.onMem fun m => { m with loads := [{ load0 .atomic with size := 8 }], seq := 1 }).onCore 0 fun c =>
    { c with wbuf := [(7, [e])] }

theorem witness_StrongStoresPerform :
    (∀ e, (buffered e).noSealed) ∧
    -- a store beyond the L1 and one within it, and two atomics
    [wbEnt0 none, { wbEnt0 none with scope := 0 }, wbEnt0 (some 0), wbEnt0 (some 16)].all (fun e =>
      let s := buffered e
      !s.host.jobDead && !s.tabs.halted && (s.others.all fun v => v.flow.alive != 0) && (s.sched.blocks.all fun e => !e.2.waves.isEmpty) &&
        (s.waves.all fun w => w.mem.strong.isEmpty) && (look [] (s.core 0).wbuf 7 == [e]) && !s.regionHeld none (e.pa / 64) &&
        !s.entryAcq e && (s.beyondL1 0 e.scope == (e.scope == 2)) && decide (s.setSize 0 < 16) && s.eager (s.objOf e.va) &&
        (s.l1Room 0 e.pa).isSome && s.l1Fits 0 e.pa && (s.toPointOver none 0 e.pa).isSome &&
        match s.reachL2 0 { lane := e.lane, va := e.va, pa := e.pa, fields := e.fields, data := e.data, cmp := e.cmp } with
        | none => false
        | some u => !u.l2Poison e.pa) = true ∧
    -- the same with the line in the L2, of which every byte but the stored ones stays
    (let s := (buffered (wbEnt0 none)).l2Fill 0 0 0
     (s.l2? 0).isSome = true ∧ (s.toPointOver none 0 64).isSome = true ∧ s.setSize 0 ≤ 16 ∧ (wbEnt0 none).scope ≠ 3) :=
  ⟨fun _ => noSealed_of rfl, by decide +kernel, by decide +kernel⟩

theorem witness_SliceAccesses :
    (paged (placed .nop)).noSealed ∧
    (let s := paged (placed .nop)
     let e : TlbEnt := { vpn := 0, frame := 0, r := true, w := true, x := true, fields := 0, hint := 0 }
     s.tlbFrame 0 0 = some e ∧ [L2Req.read, .writeBack, .write, .release].all (s.sliceReady 0xF8 e) = true ∧
       (((s.l2Fill 0 0xF8 0).recordDrainOver 0 0).bind State.fitEvery).isSome = true ∧
       (s.wb1 none (s.l1Core 0 0xF8) 1).isSome = true ∧ s.hasWay 0 ∧ (s.toPoint none 0 0xF8).isSome = true ∧
       ∀ k ∈ s.l1Cores 0, ∀ x ∈ (s.core k).l1, x.2.dirty = 0) ∧
    -- the line in the L2 with no record, and core 0's own bytes of it in its L1
    (let s := ((paged (placed .nop)).l2Fill 0 0 0).onCore 0 fun c => { c with l1 := [(1, { L1Line.empty 0 0 0 with valid := 3, dirty := 1 })] }
     (∃ l, s.l2? 0 = some l ∧ l.rel.entries = []) ∧ s.setsFit ∧ s.setSize 0 ≤ 16 ∧ (s.wb1 none (s.l1Core 0 0xF8) 1).isSome = true ∧
       ∃ l, s.l1? 0 0xF8 = some l ∧ l.dirty ≠ 0 ∧ l.dirty &&& ~~~l.valid = 0) := by
  refine ⟨noSealed_of rfl, ⟨by decide +kernel, by decide +kernel, by decide +kernel, by decide +kernel, .inl (by decide +kernel), by decide +kernel,
    by decide +kernel⟩, ⟨?_, by unfold State.setsFit; decide +kernel, by decide +kernel, by decide +kernel,
    { L1Line.empty 0 0 0 with valid := 3, dirty := 1 }, by decide +kernel, by decide +kernel, by decide +kernel⟩⟩
  exact ⟨_, rfl, rfl⟩

theorem witness_PageWalks :
    -- a page with a leaf, a page without, and a root outside memory
    (let s := mapped (placedW .nop fun w => w.flowOf fun f => { f with hold := .walk [1] })
     s.wave? 1 = some s.w ∧ s.walking.contains 1 = true ∧ s.rootOk = true ∧ (match s.walk 65536 with | .leaf _ => true | _ => false) = true) ∧
    (let s := placedW .nop fun w => w.flowOf fun f => { f with hold := .walk [0xFFFFFFFF, 1] }
     let bad : State := { s with host := { s.host with troot := 0x3FFFFFE00000 } }
     s.wave? 1 = some s.w ∧ s.walking.contains 0xFFFFFFFF = true ∧ s.rootOk = true ∧
       (match s.walk (0xFFFFFFFF * 65536) with | .leaf _ => true | _ => false) = false ∧ bad.rootOk = false ∧
       bad.walking.contains 0xFFFFFFFF = true) := by decide +kernel

theorem witness_RegionCommits :
   let s := fun (x : Region) => (amongRegions .rcommit (fun _ => x) [fun y => { y with preds := [0] }]).onW fun w => w.flowOf fun f => { f with hold := .rcommit }
   let x := { region0 (placed .rcommit) with versions := [version0 7 0] }
   (s x).region? 0 = some x ∧ (s x).w.id.wid = 1 ∧ (s x).w.mem.region = some 0 ∧ (s x).w.flow.mask = (s x).w.flow.alive ∧
     (s x).w.flow.stack.length = x.depth0 ∧ (s x).host.jobDead = false ∧ (s x).tabs.halted = false ∧ (s x).commitReady (s x).w x = true ∧
     ((s x).commitRegion (s x).w 0 x).isSome = true ∧ sortedKeys (s x).die.regions = true ∧ (x.versions.map (·.line)).Nodup ∧ x.versions ≠ [] := by
  decide +kernel

/-- The parameters of a fill of two rows of 256 bytes of tile memory from 128 on with 0xAB, and the options `opt`. -/
def fillRegs (opt : Nat) (w : Wave) : Wave := w.sets [(44, 128), (45, 0x01000002), (47, BitVec.ofNat 32 (0xAB000000 + opt))]

theorem witness_CopiesIssue :
    -- each copy at parameters of zeros, which break a limit or not, and a fill within its limits
    ((placed .nop).copiesOf 40 true 0 127 3).all (fun o =>
      let s := placed o.1
      o.1.wellFormed && s.mayRun o.2.1 && s.w.mem.region.isNone && decide ((s.core 0).copies.length < 16) && !o.2.2.peerBad && !o.2.2.vaBad &&
        (o.2.2.limitBad || (!o.2.2.rangeBad (s.tmem s.w) true && o.2.2.ord != 1))) = true ∧
    (let s := placedW (.cfill true 40 0) (fillRegs 0)
     let c := s.copyOf 4 40 0 0 0
     c.limitBad = false ∧ c.peerBad = false ∧ c.vaBad = false ∧ c.rangeBad (s.tmem s.w) true = false ∧ c.ord ≠ 1 ∧ c.destLines = [1, 2, 3, 4]) ∧
    -- a fill with .rel, with and without a store before it
    (let s := placedW (.cfill true 40 0) (fillRegs (2 ^ 20 + 2 ^ 23))
     let c := s.copyOf 4 40 0 0 0
     s.mayRun (useOf 5 [ssrc 40 8 true] []) = true ∧ c.limitBad = false ∧ c.ord = 1 ∧ s.earlierDone s.w s.w.mem.seq = true ∧
       ((s.releaseSteps 0 c.scope).map fun x => decide (x.1.w = s.w) && decide (x.1.sched = s.sched)) = some true ∧
       (s.onW fun w => w.onMem fun m => { m with sq := [store0 false], seq := 1 }).earlierDone
         (s.w.onMem fun m => { m with sq := [store0 false], seq := 1 }) 1 = false) := by
  decide +kernel

/-- The byte that `State.InL2` finds. -/
def State.inL2B (s : State) (va : Nat) : Option Byte :=
  match s.engine va true false with
  | .ok pa _ => match s.l2? (pa / 256) with
    | some l => if (s.sealedTile va).isNone && !l.poison && decide (s.setSize (pa / 256) ≤ 16) then some (l.data.getD (pa % 256) 0) else none
    | none => none
  | _ => none

theorem inL2_of {s : State} {va : Nat} {x : Byte} (h : s.inL2B va = some x) : s.InL2 va x := by
  unfold State.inL2B at h
  split at h
  · rename_i pa f he
    split at h
    · rename_i l hl
      split at h
      · rename_i hc
        simp only [Bool.and_eq_true, Option.isNone_iff_eq_none, Bool.not_eq_true', decide_eq_true_eq] at hc
        exact ⟨pa, f, l, he, hc.1.1, hl, hc.1.2, hc.2, Option.some.inj h⟩
      · exact nomatch h
    · exact nomatch h
  · exact nomatch h

/-- Where one byte of a line is there, and no tile is sealed, every byte of the line is. -/
theorem inL2_line {s : State} (hs : s.noSealed) {a b : Nat} (h : (s.inL2B a).isSome = true) (hb : b / 256 = a / 256) :
    s.InL2 b ((s.inL2B b).getD 0) := by
  obtain ⟨x, hx⟩ := Option.isSome_iff_exists.mp h
  obtain ⟨pa, f, l, he, -, hl, hp, hz, -⟩ := inL2_of hx
  have hq := s.engine_page (b := b) (by omega) he
  have hpa : pa % 65536 = a % 65536 := by
    have := s.engine_page (b := a) rfl he
    rw [he] at this
    injection this with h1
    omega
  have hl' : s.l2? ((pa / 65536 * 65536 + b % 65536) / 256) = some l := by rw [← hl]; congr 1; omega
  have hz' : s.setSize ((pa / 65536 * 65536 + b % 65536) / 256) ≤ 16 := by
    rw [show (pa / 65536 * 65536 + b % 65536) / 256 = pa / 256 by omega]; exact hz
  apply inL2_of
  simp [State.inL2B, hq, hl', hp, hz', hs b]

/-- The lines that hold the `n` bytes from `va` on, a line's start, are there. -/
def State.inL2All (s : State) (va n : Nat) : Bool := va % 256 == 0 && (List.range ((n + 255) / 256)).all fun i => (s.inL2B (va + 256 * i)).isSome

theorem inL2_all {s : State} (hs : s.noSealed) {va n : Nat} (h : s.inL2All va n = true) (i : Nat) (hi : i < n) :
    s.InL2 (va + i) ((s.inL2B (va + i)).getD 0) := by
  simp only [State.inL2All, Bool.and_eq_true, beq_iff_eq, List.all_eq_true, List.mem_range] at h
  exact inL2_line hs (h.2 (i / 256) (by omega)) (by omega)

/-- A machine at a TQPOP of a full chip with two records behind it in the ring, whose line stands in the L2. -/
def ringed : State := (mapped (queued (.tqpop 6 true true 7) 32 fun q => { q with log2cap := 5, ringbase := 0x4000, tail := 2 })).l2Fill 0x40 0x4000 0

theorem witness_TaskQueues_ring :
    let s := ringed
    let x := s.queue 0
    s.mayRun (useOf 2 [ssrc 7 1 true] [sdst 6 1, vdst 0 8]) = true ∧ s.plain = true ∧ s.w.flow.hold ≠ .pop 0 ∧ ringIdle x ∧ x.blocked = [] ∧
      x.head < x.tail ∧ x.launch = false ∧ x.rtoken = none ∧ s.host.jobDead = false ∧ s.tabs.halted = false ∧
      (∀ i < 2, x.slotVa (x.head + i) % 32 = 0 ∧ ∀ j < 32, s.InL2 (x.slotVa (x.head + i) + j) ((s.inL2B (x.slotVa (x.head + i) + j)).getD 0)) := by
  have h : (ringed.inL2B 0x4000).isSome = true := by decide +kernel
  have hv : ∀ i < 2, (ringed.queue 0).slotVa ((ringed.queue 0).head + i) = 0x4000 + 32 * i := by decide +kernel
  refine ⟨by decide +kernel, by decide +kernel, by decide +kernel, by unfold ringIdle; decide +kernel, by decide +kernel, by decide +kernel,
    by decide +kernel, by decide +kernel, by decide +kernel, by decide +kernel, fun i hi => ?_⟩
  simp only [hv i hi]
  exact ⟨by omega, fun j hj => inL2_line (noSealed_of (by decide +kernel)) h (by omega)⟩

/-- A machine with bytes at 0x3000 and their line in the L2, and the registers from s40 on. -/
def copyState (regs : List Nat) : State :=
  let s := mapped (placedW (.cfill true 40 0) fun w => w.sets (regs.zipIdx.map fun x => (40 + x.2, BitVec.ofNat 32 x.1)))
  ({ s with pkg := s.pkg.withBytes 0x3000 8 0x0706050400000001 } : State).l2Fill 0x30 0x3000 0

/-- That machine with one copy, started or not. -/
def copying (regs : List Nat) (op word1 redop : Nat) (f : Copy → Copy) : State :=
  let s := copyState regs
  s.onCore 0 fun k => { k with copies := [f (s.copyOf op 40 word1 0 redop)] }
def started (c : Copy) : Copy := { c with started := true }

/-- What every clause about a copy that goes on asks. -/
def copyB (s : State) (p : Copy → Bool) : Bool := match s.copy? 0 1 with
  | none => false
  | some c => !s.host.jobDead && !s.tabs.halted && c.waits.isEmpty && c.token.isNone && (c.blk == some 1) && (s.blk? 1).isSome && c.ord != 2 &&
      (c.err == 0) && p c

theorem witness_CopiesRun_start :
    -- a copy within its limits and one beyond
    copyB (copying [0, 0, 0, 0, 128, 0x01000002, 0, 0xAB000000] 4 0 0 fun c => { c with lines := c.destLines }) (fun c =>
      let s := copying [0, 0, 0, 0, 128, 0x01000002, 0, 0xAB000000] 4 0 0 fun c => { c with lines := c.destLines }
      !c.started && !c.bad && s.copyMay 0 c && s.copyLocksOk 0 c && (s.startCopy 0 c).isSome &&
        (s.l1Cores 0).all fun k => (s.core k).l1.all fun x => !c.covers x.2.va || x.2.dirty == 0) = true ∧
    copyB (copying [] 4 0 0 fun c => { c with bad := true }) (fun c => !c.started && c.bad &&
      (copying [] 4 0 0 fun c => { c with bad := true }).copyMay 0 c && (copying [] 4 0 0 fun c => { c with bad := true }).copyLocksOk 0 c) =
      true := by
  decide +kernel

theorem witness_CopiesRun_arrival :
    let go := fun (c : Copy) => c.started && !c.bad && c.toTile && c.tlf != 2 && !c.limitBad && c.lines.contains 4
    -- CFILL; CPYT of 4 bytes; CPYG of two rows of 4 bytes whose indices are 1 and 0x07060504, of a table of two rows
    copyB (copying [0, 0, 0, 0, 128, 0x01000002, 0, 0xAB000000] 4 0 0 fun c => started { c with lines := [1, 4] }) (fun c => go c && c.op == 4) = true ∧
    (let s := copying [0x3000, 0, 0, 0, 512, 0x00040001, 0, 0] 0 0 0 fun c => started { c with lines := [4] }
     copyB s (fun c => go c && c.op == 0 && c.rows == 1 && c.rowLen == 4) = true ∧ s.inL2All 0x3000 4 = true) ∧
    (let s := copying [0x3010, 0, 0x3000, 0, 512, 0x00040002, 2, 0xAB000000] 1 4 0 fun c => started { c with lines := [4] }
     let x := fun va => (s.inL2B va).getD 0
     copyB s (fun c => go c && c.op == 1 && c.rows == 2 && c.rowLen == 4 && c.index x 0 == 1 && decide (c.p 6 ≤ c.index x 1)) = true ∧
       s.inL2All 0x3000 0x18 = true ∧ s.die.objects = []) := by
  decide +kernel

/-- What the clause about a copy of `n` bytes out to 0x3080 asks of its destination. -/
def outB (s : State) (n : Nat) (p : Copy → Bool) : Bool := copyB s fun c =>
  c.started && !c.bad && c.relEnt.isNone && (c.tlf == 0) && (c.dstRows == [(0x3080, n)]) && !inPeer 0x3080 && s.die.regions.isEmpty &&
    (s.engine 0x3080 (decide (c.redop ≠ 0)) true == .ok 0x3080 0) && (s.inL2B 0x3080).isSome &&
    decide ((s.core 0).summary.length + (s.destObjs c).length ≤ 32) && p c

theorem regionHeld_none {s : State} (h : s.die.regions = []) (k : Nat) : s.regionHeld none k = false := by simp [State.regionHeld, h]

theorem witness_CopiesRun_complete :
    -- into tile memory, all lines arrived
    copyB (copying [0, 0, 0, 0, 128, 0x01000002, 0, 0xAB000000] 4 0 0 started) (fun c => c.started && !c.bad && c.toTile && c.lines.isEmpty) = true ∧
    -- out: CFILL; CPYT, and of one column of conjugated elements; CPYP, plain and with an F32 reduce-add
    outB (copying [0x3080, 0, 0, 0, 0, 0x00080001, 0, 0xAB000020] 4 0 0 started) 8 (fun c => c.op == 4 && c.redop == 0) = true ∧
    outB (copying [0x3080, 0, 0, 0, 512, 0x00080001, 0, 0x20] 0 0 0 started) 8 (fun c => c.op == 0 && c.redop == 0 && !c.trans) = true ∧
    outB (copying [0x3080, 0, 0, 0, 512, 0x00080004, 0, 0x1B020] 0 0 0 started) 32 (fun c => c.op == 0 && c.trans && c.conj && c.e == 8) = true ∧
    [0, 2].all (fun r =>
      let s := copying [0x3000, 0, 0x3080, 0, 0, 0x00040001, 0, 0] 3 0 r started
      outB s 4 (fun c => c.op == 3 && c.redop == r && !inPeer (c.pair 0)) && s.inL2All 0x3000 4) = true := by
  decide +kernel

/-- A CPYW of an INT8 image from 0x4000 into slot 0, or of four compressed bytes from 0x3000. -/
def toSlot (raw : Bool) : State :=
  let s := copying (if raw then [0x4000, 0, 0, 0, 0, 0, 0, 0] else [0x3000, 0, 4, 0, 0, 0, 0, 0x10]) 2 0 0 started
  let t := s.onBlk 1 fun b => b.onSlot 0 fun x => { x with loaded := true, filler := some 1 }
  if raw then (List.range 24).foldl (fun (t : State) i => t.l2Fill (64 + i) (0x4000 + 256 * i) 0) t else t

theorem witness_CopiesRun_slot :
    [(true, 6144), (false, 4)].all (fun e =>
      let s := toSlot e.1
      copyB s fun c => c.started && !c.bad && c.op == 2 && c.srcLen == e.2 && ((s.core 0).copies == [c]) && c.form == !e.1 && !c.sigma &&
        match s.blk? 1 with
        | some b => ((b.slot 0).filler == some 1) && (b.slot 0).source.isNone
        | none => false) = true ∧
    -- one image whose source is there, and four bytes that are none
    (toSlot true).inL2All 0x4000 6144 = true ∧ (toSlot false).inL2All 0x3000 4 = true ∧ (toSlot true).die.objects = [] ∧
    (sscImage 32 (imageSize 0) ((List.range 4).map fun i => (((toSlot false).inL2B (0x3000 + i)).getD 0).toNat)).isSome = false := by
  decide +kernel

theorem witness_CopyWaits :
    -- no copy, one copy more than N, and a wave that waits
    ((placed (.cwaitCnt 0)).mayRun (useOf 5 [] []) = true ∧ (placed (.cwaitCnt 0)).w.mem.acqs = []) ∧
    (let s := copying [] 4 0 0 id
     s.mayRun (useOf 5 [] []) = true ∧ (s.core 0).copies.length = 1) ∧
    (let s := placedW (.cwaitCnt 0) fun w => w.flowOf fun f => { f with stalled := true }
     s.w.instr = .cwaitCnt 0 ∧ s.w.flow.hold = .run ∧ s.w.flow.stalled = true) ∧
    -- a watermark of 0 against 0 and against 1
    [0, 1].all (fun x => (placedW (.cwaitSeq true 63) fun w => w.sets [(63, x)]).mayRun (useOf 5 [ssrc 63 1 true] [])) = true := by
  decide +kernel

/-- A started CPYP from this die to the peer window, of one row of 4 bytes. -/
def toPeer : State := copying [0, 0x10000, 0, 0x10000, 0, 0x00040001] 3 0 0 started

theorem witness_PeerTimeout : toPeer.host.jobDead = false ∧ toPeer.tabs.halted = false ∧ ∃ c, toPeer.copy? 0 1 = some c ∧ c.started = true ∧
    c.bad = false ∧ c.op = 3 ∧ c.vas.any inPeer = true ∧ (∀ x ∈ c.dstRows, inPeer x.1 = true) ∧ c.ord ≠ 2 ∧
    (toPeer.wave? c.wid).isSome = true := by
  refine ⟨by decide +kernel, by decide +kernel, _, rfl, by decide +kernel⟩

/-! ### Witnesses: term arrays and the units of a core -/

/-- INT8 by INT8 with integer accumulators (Table 15.3). -/
def fwInt : Nat := 0xA7000400
/-- The wave has array 1, and slot 3 holds an INT8 weight image of zeros. -/
def withArray (s : State) (f : TermArray → TermArray) : State :=
  (s.onCore 0 fun c => c.onArr 1 fun a => f { a with owner := some 1 }).onBlk 1 fun b =>
    b.onSlot 3 fun x => { x with loaded := true, bytes := List.replicate 6144 0 }
def tmmI : Instr := .tmm 64 true 2 true 10 false 3 3
def tmm0 : TermOp :=
  { kind := .tmm, wid := 1, blk := some 1, vacc := 64, fw := fwInt, aoff := 128, consume := false, p := 1, slot := 3, seq := 0
    ssc := false, lc := 0, sigma := false, filler := none, zeroB := false }

/-- A machine at `tmmI` whose operand ends where the tile memory ends, into v64 .. v127. -/
def tmmState (f : TermArray → TermArray) : State :=
  withArray (placedW tmmI fun w => (w.setv 2 fun _ => BitVec.ofNat 32 fwInt).sets [(10, 524288 - 12288)]) f

theorem witness_TermWorkIssues :
    -- the wave's array with no run, with the run that the TMM joins and with one that it does not join; the first TMM of a wave, and
    -- one that finds TA0 taken
    ([id, fun a => { a with run := some { vacc := 64, fw := fwInt, n := 1 } }, fun a => { a with run := some { vacc := 0, fw := fwInt, n := 1 } },
        fun a => { a with owner := none }].all fun f =>
      let s := tmmState f
      s.w.mem.region.isNone && s.mayRun (tmmUse 64 true 2 true 10 3) && s.w.flow.mask == 0xFFFFFFFF && s.w.fullV 64 64 &&
        ((List.range 32).all fun l => s.w.lane 2 l == s.w.lane 2 0) && fwValid (s.w.lane 2 0).toNat (s.slotOf s.w 3) &&
        (s.w.rdS 10).toNat % 128 == 0 && (s.w.rdS 10).toNat + aExtent (s.w.lane 2 0).toNat == s.tmem s.w && ((s.core 0).arr 1).queue.isEmpty) =
      true ∧
    ((tmmState id).core 0).arrOf 1 = some 1 ∧ (tmmState id).openRun (tmmState id).w = none ∧
    ([64, 0].all fun v =>
      let s := tmmState fun a => { a with run := some { vacc := v, fw := fwInt, n := 1 } }
      ((s.core 0).arrOf 1 == some 1) && (s.openRun s.w == some { vacc := v, fw := fwInt, n := 1 })) = true ∧
    (let s := tmmState fun a => { a with owner := none }
     let t := s.onCore 0 fun c => c.onArr 0 fun a => { a with owner := some 9 }
     [s, t].all (fun s => ((s.core 0).arrOf 1).isNone && ((s.core 0).arr 1).owner.isNone && (s.waves.all fun y => y.id.kind != .kindling) &&
       (s.openRun s.w).isNone) = true ∧ ((s.core 0).arr 0).owner = none ∧ ((t.core 0).arr 0).owner ≠ none) ∧
    -- TPROM with and without an array
    [some 1, none].all (fun o =>
      let s := withArray (placed (.tprom 64)) fun a => { a with owner := o }
      s.mayRun { useOf 4 [] [] with named := [vdst 64 1] } && ((s.core 0).arrOf 1 == o.map fun _ => 1)) = true := by decide +kernel

theorem witness_TermTraps :
    let st := fun (f : Wave → Wave) => withArray (placedW tmmI f) id
    let fw := fun (w : Wave) => w.setv 2 fun _ => BitVec.ofNat 32 fwInt
    [(st fun w => w.flowOf fun f => { f with mask := 0x7FFFFFFF }), st fun w => w.setv 2 fun l => BitVec.ofNat 32 (l / 31), st id,
     st fun w => (fw w).sets [(10, 64)], st fun w => (fw w).sets [(10, 524288 - 12288 + 128)]].all (fun s =>
      s.w.mem.region.isNone && s.mayRun (tmmUse 64 true 2 true 10 3)) = true ∧
    (st fun w => w.setv 2 fun l => BitVec.ofNat 32 (l / 31)).w.lane 2 31 ≠ 0 ∧
    fwValid 0 ((st id).slotOf (st id).w 3) = false ∧ fwValid fwInt ((st id).slotOf (st id).w 3) = true ∧
    (st id).tmem (st id).w < 524288 - 12288 + 128 + aExtent fwInt := by decide +kernel

theorem witness_UnitWorkIssues :
    -- two operands of an XMM, the second one at the end of tile memory
    (let s := placedW (.xmm 120 true 8 true false 1) fun w => w.sets [(8, 64), (9, 524288 - 1024)]
     s.w.mem.region = none ∧ s.mayRun (useOf 4 [ssrc 8 2 true] [vdst 120 (xmmRegs 1)]) = true ∧ s.w.flow.mask = 0xFFFFFFFF ∧
       (s.w.rdS 9).toNat + xmmBytes 1 ≤ s.tmem s.w ∧ (s.core s.w.id.core).xq.length < 4) ∧
    (let s := placedW (.tldec 126 true 4 true 8 16) fun w => w.sets [(8, 524288 - 32)]
     s.mayRun (useOf 4 [vsrc 4 1 true, ssrc 8 1 true] [vdst 126 2]) = true ∧ ((s.w.rdS 8).toNat + 16) % 16 = 0 ∧
       (s.w.rdS 8).toNat + 16 + 16 ≤ s.tmem s.w) ∧
    (placed (.decs 63 true 8 true 7)).mayRun (useOf 4 [ssrc 8 2 true, ssrc 7 1 true] [sdst 63 1]) = true ∧
    (let s := placed (.tlenc 63 true 8 0)
     s.mayRun (useOf 4 [ssrc 8 2 true] [sdst 63 1]) = true ∧ (s.w.rdS 9).toNat % 16 = 0 ∧ (s.w.rdS 9).toNat + 16 ≤ s.tmem s.w) := by
  decide +kernel

/-- An array that has started a TMM of format `fw`, its slot's image of `n` bytes in the row files, as part of a run or not. -/
def tmmRuns (o : TermOp) (run : Option TermRun) : State :=
  withArray (placed .nop) fun a =>
    { a with queue := [o], started := some 0, run := run, file := { Slot.unloaded with loaded := true, bytes := List.replicate 6144 0, sig := [1] } }

theorem witness_TermRuns_start :
    -- a TMM whose slot was loaded before, and one that waits for CPYW 4, which has completed, while a later CPYW of the slot has not
    [none, some 4].all (fun f =>
      let o := { tmm0 with filler := f }
      let s := withArray (copying [] 2 0 0 fun c => { c with seq := 5, slot := 3 }) fun a => { a with queue := [o] }
      (((s.core 0).arr 1).queue == [o]) && ((s.core 0).arr 1).started.isNone && !s.tileBefore o.wid o.seq && match s.blk? 1 with
      | none => false
      | some b => !b.pending o.aoff (o.aBytes b) && match f with
        | none => true
        | some f => (s.core 0).copies.all fun c => !seqLe c.seq f) = true := by
  decide +kernel

theorem witness_TermRuns_complete :
    -- integers with P of 1, P of 2 as the first and as the second of a run, .consume, SMOOTH, a failed fill, and BX blocks into F32
    ([(tmm0, none), ({ tmm0 with p := 2 }, none), ({ tmm0 with p := 2, consume := true }, some { vacc := 64, fw := fwInt, n := 1 }),
      ({ tmm0 with sigma := true, fw := fwInt + 2 ^ 16 }, none), ({ tmm0 with zeroB := true }, none),
      ({ tmm0 with fw := 0xA7000000 + 3 + 3 * 64 }, none)] : List (TermOp × Option TermRun)).all (fun e =>
      let o := e.1
      let s := tmmRuns o e.2
      let a := (s.core 0).arr 1
      (s.blk? 1).isSome && (a.queue == [o]) && (o.kind == .tmm) && (a.started == some 0) && (a.run == e.2) && a.sums.isEmpty &&
        (s.wave? 1 == some s.w) && decide (o.vacc + 64 ≤ 128) && s.w.mem.v2s.isEmpty && (!isBx (fwAkind o.fw) || !fwAcc o.fw) && !o.ssc) = true := by
  decide +kernel

theorem witness_Promotions :
    let o : TermOp := { tmm0 with kind := .tprom, vacc := 127 }
    let run : TermRun := { vacc := 64, fw := fwInt, n := 1 }
    (let s := withArray (placed .nop) fun a => { a with queue := [o] }
     ((s.core 0).arr 1).queue = [o] ∧ ((s.core 0).arr 1).run = none ∧ s.wave? o.wid = some s.w) ∧
    -- a run that the entry names, one that it does not name, and one of another wave
    ([(o, some 1), ({ o with vacc := 63 }, some 1), (o, some 9), ({ o with kind := .request, vacc := 0 }, some 1)] : List (TermOp × Option Nat)).all
      (fun e =>
        let t := withArray (placed .nop) fun a => { a with queue := [e.1], run := some run, owner := e.2 }
        (((t.core 0).arr 1).run == some run) && (((t.core 0).arr 1).queue == [e.1]) && (((t.core 0).arr 1).owner == e.2) &&
          (t.wave? 1 == some t.w) && t.w.mem.v2s.isEmpty) = true := by
  decide +kernel

theorem witness_ExactUnitRuns : ([(0, 112), (1, 120), (2, 120), (3, 120)].all fun e =>
    let o : XmmOp := { wid := 1, blk := some 1, d := e.2, aoff := 0, boff := 1024, form := e.1, conjb := false, zc := false, seq := 0
                       started := none }
    let at' := fun (o : XmmOp) => (placed .nop).onCore 0 fun c => { c with xq := [o] }
    match (at' o).blk? 1 with
    | none => false
    | some b => (((at' o).core 0).xq == [o]) && !(at' o).tileBefore o.wid o.seq && !b.pending o.aoff (xmmBytes o.form) &&
        !b.pending o.boff (xmmBytes o.form) && (((at' { o with started := some 0 }).core 0).xq == [{ o with started := some 0 }]) &&
        decide (o.d + xmmRegs o.form ≤ 128) && ((at' o).wave? 1 == some (at' o).w) && (at' o).w.mem.v2s.isEmpty) = true := by
  decide +kernel

def unitOp0 (enc : Bool) (src dst arg : Nat) : UnitOp :=
  { wid := 1, blk := some 1, enc := enc, d := 62, src := src, dst := dst, arg := arg, lanes := [(0, 0), (31, 0xFFFFFFFF)], seq := 0, since := 0 }

/-- A block whose tile memory holds at 1024 the header of a tile of one INT8 row of 8 elements (Table 5.3, R74), and the data that
follow. -/
def withTlf (s : State) (h : TlfHdr) : State := s.onBlk 1 fun b => b.putNums [(1024, h.bytes)]

theorem witness_TileUnitsRun :
    -- TLENC: a header of zeros, and one of a valid shape
    ([TlfHdr.parse [], { TlfHdr.parse [] with rows := 1, e := 8, l := 2 }].all (fun h =>
      let o := unitOp0 true 0 1024 0
      let s := (withTlf (placed .nop) h).onCore 0 fun c => { c with tlfq := [o] }
      match s.blk? 1 with
      | some b => s.tlencReady 0 b o && ((s.core 0).tlfq == [o]) && (s.wave? 1 == some s.w) && o.d < 64
      | none => false)) = true ∧
    -- TLDEC: no header; a tile of one row of 8 INT8, of which lane 31 names no row; and one of a row of 16 BX5 elements
    ([(TlfHdr.parse [], false), ({ TlfHdr.parse [] with rows := 1, e := 8, l := 16 }, true), ({ TlfHdr.parse [] with rows := 1, e := 16, l := 16, kind := 3 }, true)].all
      (fun h =>
        let o := unitOp0 false 1024 0 0
        let s := (withTlf (placed .nop) h.1).onCore 0 fun c => { c with tlfq := [o] }
        match s.blk? 1 with
        | some b => s.tldecReady b o && ((s.core 0).tlfq == [o]) && decide (o.lanes.map (·.1)).Nodup && (o.lanes.all fun x => decide (x.1 < 32)) &&
            s.w.mem.v2s.isEmpty && ((tldecElem b o 0).isSome == h.2) && (tldecElem b o 0xFFFFFFFF).isNone
        | none => false)) = true ∧
    ([0, 16, 2048].all fun n =>
      let o := unitOp0 false 0 4096 n
      let s := (placed .nop).onCore 0 fun c => { c with decq := [o] }
      match s.blk? 1 with
      | some b => s.decsReady b o && ((s.core 0).decq == [o])
      | none => false) = true := by decide +kernel

/-- The tile that a TLENC at the head of core 0's queue is to encode. -/
def encJob (b : Block) (o : UnitOp) : EncJob :=
  let n := fun (a : Nat) => (look 0 b.tile a).toNat
  let h := fun (j : Nat) => n (o.dst + j)
  let shape := fun (row : Nat → Nat → Nat) => ({ kind := h 0 % 16, rows := h 2 + 256 * h 3, e := h 4 + 256 * h 5, l := h 6 + 256 * h 7,
                                                  cap := h 8 + 256 * h 9, row := row } : EncJob)
  let p := if o.arg = 0 then (shape fun _ _ => 0).dr else o.arg
  shape fun i j => n (o.src + i * p + j)

theorem witness_TileUnitsRun_tlenc :
    -- a header of zeros; a source past the tile memory; a source that the result meets; terms; an escape row; dense
    let good : TlfHdr := { TlfHdr.parse [] with rows := 1, e := 8, l := 8 }
    let st := fun (h : TlfHdr) (src : Nat) =>
      ((withTlf (placed .nop) h).onBlk 1 fun b => b.putNums [(0, [0x55, 0xFF, 0x7F, 0, 0, 0, 0, 1])]).onCore 0 fun c => { c with tlfq := [unitOp0 true src 1024 0] }
    ([(TlfHdr.parse [], 0, 0), (good, 524284, 1), (good, 1020, 2), ({ good with l := 20 }, 0, 3), ({ good with esccap := 1 }, 0, 3),
      (good, 0, 3)] : List (TlfHdr × Nat × Nat)).all fun e =>
        let s := st e.1 e.2.1
        let o := unitOp0 true e.2.1 1024 0
        match s.blk? 1 with
        | none => false
        | some b =>
          let g := encJob b o
          let size := 16 + g.rows * g.l + g.cap * g.dr
          let valid := decide (1 ≤ g.rows ∧ 8 ≤ g.e ∧ g.e % 8 = 0 ∧ g.fx + g.e / 2 ≤ g.l ∧ g.rows * g.dr ≤ g.rows * g.l + g.cap * g.dr)
          let inside := decide (o.src + g.rows * g.dr ≤ b.tmem ∧ o.dst + size ≤ b.tmem)
          let apart := !decide (o.src < o.dst + size ∧ o.dst < o.src + g.rows * g.dr)
          s.tlencReady 0 b o && ((s.core 0).tlfq == [o]) && (s.wave? 1 == some s.w) && (s.tabs.power == .active) &&
            ((if !valid then 0 else if !inside then 1 else if !apart then 2 else 3) == e.2.2) = true := by decide +kernel

/-- The machine with `bs` at the start of the tile memory and a DECS of `n` bytes at `src` to be completed. -/
def decsAt (bs : List Nat) (src dst n : Nat) : State :=
  ((placed .nop).onBlk 1 fun b => b.putNums [(0, bs)]).onCore 0 fun c => { c with decq := [unitOp0 false src dst n] }

/-- The chunk that it is to decode. -/
def decsJob (bs : List Nat) (src dst n : Nat) : SscJob :=
  { lc := n, byte := fun i => (((decsAt bs src dst n).blk? 1).elim 0 fun b => (look 0 b.tile (src + i)).toNat) }

theorem witness_TileUnitsRun_decs :
    -- of no length and past the greatest; past the tile memory; a bad header; onto itself; of 2 bytes in 8 bits; of 1 byte
    ([([], 0, 4096, 0), ([], 0, 4096, 2048), ([], 524286, 0, 5), ([9], 0, 4096, 5), ([0, 1, 0, 0, 0], 0, 4, 5), ([0, 2, 0, 0, 0xFF], 0, 4096, 5),
      ([0, 1, 0, 0, 0], 0, 4096, 5)] : List (List Nat × Nat × Nat × Nat)).all (fun e =>
        let s := decsAt e.1 e.2.1 e.2.2.1 e.2.2.2
        match s.blk? 1 with
        | none => false
        | some b => s.decsReady b (unitOp0 false e.2.1 e.2.2.1 e.2.2.2) && (s.wave? 1 == some s.w) && (s.tabs.power == .active) &&
            (b.tmem == 524288)) = true ∧
    ¬(decsJob [9] 0 4096 5).HeaderOk ∧ (decsJob [0, 1, 0, 0, 0] 0 4 5).HeaderOk ∧
    (let c := decsJob [0, 2, 0, 0, 0xFF] 0 4096 5
     c.HeaderOk ∧ c.raw = 2 ∧ ∀ out, ¬c.Gives out) ∧
    (let c := decsJob [0, 1, 0, 0, 0] 0 4096 5
     c.HeaderOk ∧ c.raw = 1 ∧ c.Gives fun _ => 0) := by
  have hn : ∀ bs src dst n, (decsJob bs src dst n).byte 0 = 0 → (decsJob bs src dst n).n = 1 := fun _ _ _ _ h => by simp [SscJob.n, h]
  refine ⟨by decide +kernel, fun h => absurd h.1 (by decide +kernel), ⟨by decide +kernel, by decide +kernel, by decide +kernel, ?_, by decide +kernel⟩,
    ⟨⟨by decide +kernel, by decide +kernel, by decide +kernel, ?_, by decide +kernel⟩, by decide +kernel, fun out h => ?_⟩,
    ⟨by decide +kernel, by decide +kernel, by decide +kernel, ?_, by decide +kernel⟩, by decide +kernel, ?_⟩
  · rw [hn _ _ _ _ (by decide +kernel)]; decide +kernel
  · rw [hn _ _ _ _ (by decide +kernel)]; decide +kernel
  · have h0 := h 0 (by decide +kernel)
    have hr : (List.range (((decsJob [0, 2, 0, 0, 0xFF] 0 4096 5).raw + (decsJob [0, 2, 0, 0, 0xFF] 0 4096 5).n - 1 - 0) /
        (decsJob [0, 2, 0, 0, 0xFF] 0 4096 5).n)) = [0, 1] := by decide +kernel
    rw [hr] at h0
    obtain ⟨z, p', ⟨hp, hs⟩, -⟩ := h0
    have ht : 8 * ((decsJob [0, 2, 0, 0, 0xFF] 0 4096 5).stop 0 - (decsJob [0, 2, 0, 0, 0xFF] 0 4096 5).start 0) = 8 := by decide +kernel
    rw [ht] at hp
    have hbit : ∀ q < 8, ((decsJob [0, 2, 0, 0, 0xFF] 0 4096 5).byte ((decsJob [0, 2, 0, 0, 0xFF] 0 4096 5).start 0 + (0 + q) / 8)).testBit
        (7 - (0 + q) % 8) = true := by decide +kernel
    rcases hs with ⟨q, -, -, hq, -, rfl⟩ | ⟨-, -, rfl⟩
    · have := hbit q (by omega)
      simp_all
    · omega
  · rw [hn _ _ _ _ (by decide +kernel)]; decide +kernel
  · intro i hi
    rw [hn _ _ _ _ (by decide +kernel)] at hi
    obtain rfl : i = 0 := by omega
    have hr : (List.range (((decsJob [0, 1, 0, 0, 0] 0 4096 5).raw + (decsJob [0, 1, 0, 0, 0] 0 4096 5).n - 1 - 0) /
        (decsJob [0, 1, 0, 0, 0] 0 4096 5).n)) = [0] := by decide +kernel
    rw [hr]
    exact ⟨0, 1, ⟨by decide +kernel, .inl ⟨0, by omega, fun j h => absurd h (by omega), by decide +kernel, by decide +kernel, by decide +kernel⟩⟩,
      by omega, by decide +kernel, trivial⟩

theorem witness_DecsWithoutBlock : [0, 16, 2048].all (fun n =>
    let o := { unitOp0 false 0 4096 n with blk := none }
    let s := (placed .nop).onCore 0 fun c => { c with decq := [o] }
    ((s.core 0).decq == [o]) && (s.wave? 1 == some s.w) && (s.tabs.power == .active)) = true := by decide +kernel

/-! ### Witnesses: special registers, traps, clauses, steps -/

theorem witness_SpecialRegisters :
    ([0x00, 0x22, 0x23, 0x24].all fun n => [true, false].all fun q =>
      let s := placed (.csrr q 6 (BitVec.ofNat 8 n))
      (Instr.csrr q 6 (BitVec.ofNat 8 n)).wellFormed && s.mayRun (csrrUse q 6)) = true ∧
    ((placed .nop).csrTable 0).map (·.1) = List.range 0x23 ∧
    ([(true, 63), (false, 127)].all fun e => (placed (.csrw e.1 true e.2 0x22)).mayRun (useOf 6 [bsrc e.1 e.2 1 true] [])) = true ∧
    ((csrWrites (placed .nop).w.csr 0).any fun e => e.1 == 0x08) = true ∧ ((csrWrites (placed .nop).w.csr 0).any fun e => e.1 == 0x22) = true := by
  decide +kernel

/-- The wave with a handler address. -/
def Wave.withTvec (w : Wave) (x : Addr) : Wave := { w with csr := { w.csr with tvec := x } }

theorem witness_TrapsTaken :
    (let s := placedW (.trap 3) fun w => w.withTvec 0x1000
     s.w.id.chain = none ∧ s.w.mem.region = none ∧ s.w.flow.hold ≠ .blank ∧ supervisorCode 0x83 = false ∧ s.w.flow.handler = false ∧
       s.w.flow.contin = false ∧ s.w.csr.tvec ≠ 0) ∧
    -- an instruction of two words, one of one word at the end of its clause, and TRAP before another word
    ((placed (.bra 4)).w.flow.clause.map fun c => (posIndex (placed (.bra 4)).w.flow.pc, (wordsAt 0 c.words).length)) = some (0, 2) ∧
    ((placed .nop).w.flow.clause.map fun c => (wordsAt (posIndex (placed .nop).w.flow.pc) c.words).length) = some 1 ∧
    (let w := (placed (.trap 3)).w.flowOf fun f => { f with clause := some { hdr := 0xE8000062, words := encode (.trap 3) ++ encode .bkpt } }
     w.flow.clause.map (fun c => ((wordsAt (posIndex w.flow.pc) c.words).length, opcodeOf (c.words.headD 0))) = some (2, 0xC2)) ∧
    -- each ground of a supervisor fault
    ((placed .nop).host.jobDead = false ∧ (placed .nop).w.csr.tvec = 0 ∧ supervisorCode cKEY_ABSENT = true) ∧
    (let s := placedW .nop fun w => (w.withTvec 0x1000).flowOf fun f => { f with handler := true }
     s.w.flow.handler = true ∧ s.w.csr.tvec ≠ 0 ∧ s.w.id.chain = none ∧ s.w.mem.region = none) ∧
    (let s := placedW .nop fun w => (w.withTvec 0x1000).flowOf fun f => { f with contin := true }
     s.w.flow.contin = true ∧ s.w.csr.tvec ≠ 0) := by decide +kernel

/-- A wave whose EPC is `x`. -/
def Wave.withEpc (w : Wave) (x : Addr) : Wave := { w with csr := { w.csr with epc := x } }

/-- Memory with a clause of two instructions at 0x2000, and its page in core 0's TLB. -/
def clauseState (i : Instr) (f : Wave → Wave) : State :=
  let s := paged (placedW i f)
  { s with pkg := s.pkg.mapped.withBytes 0x2000 12 (0xE8000022 + 2 ^ 32 * bitsOf .nop + 2 ^ 64 * bitsOf .nop) }

/-- Does a wave find a clause of two instructions at an address, or a bad header? -/
def findsTwo (s : State) (hdr : Nat) : Bool := match s.fetchClause s.w hdr with
  | .clause c => hdrNI c.hdr == 2
  | _ => false
def findsBad (s : State) (hdr : Nat) : Bool := match s.fetchClause s.w hdr with
  | .badHeader => true
  | _ => false

theorem witness_TrapInstructions :
    ([Instr.trap 127, .tfence, .rft, .resumef, .bkpt].all fun i => i.wellFormed && (placed i).mayRun (useOf 6 [] [])) = true ∧
    -- TFENCE: flags on their way; flags that are enabled; flags that are not
    (let s := placedW .tfence fun w => w.onMem fun m => { m with loads := [{ load0 .atomic with flags := true }], seq := 1 }
     s.mayRun (useOf 6 [] []) && s.flagsPending s.w) = true ∧
    (let s := placedW .tfence fun w => { w with csr := { w.csr with arithf := 0x81, arithe := 0x80 } }
     s.mayRun (useOf 6 [] []) && !s.flagsPending s.w && s.w.csr.arithf &&& s.w.csr.arithe != 0) = true ∧
    (placed .tfence).w.csr.arithf &&& (placed .tfence).w.csr.arithe = 0 := by decide +kernel

theorem witness_TrapInstructions_returns :
    -- EPC and FPC at a header, at each instruction of two, past them, at a bad header, and with a reserved bit set
    posOk (headerPos 0x2000) = true ∧ posIndex (headerPos 0x2000) = 15 ∧ posOk 2 = false ∧
    ([(0, 0x2000), (1, 0x2000), (2, 0x2000), (0, 0x2004)].all fun e =>
      let s := clauseState .rft fun w => w.withEpc (mkPos e.1 e.2)
      let t := clauseState .resumef fun w => { w with csr := { w.csr with ftoken := 9, fpc := mkPos e.1 e.2 } }
      s.mayRun (useOf 6 [] []) && posOk s.w.csr.epc && (posIndex s.w.csr.epc == e.1) && (posHdr s.w.csr.epc == e.2) &&
        t.mayRun (useOf 6 [] []) && t.die.faults.isEmpty && posOk t.w.csr.fpc &&
        if e.2 = 0x2000 then findsTwo s 0x2000 && findsTwo t 0x2000 else findsBad s 0x2004 && findsBad t 0x2004) = true ∧
    -- RESUMEF with no token and with a token outstanding
    (placed .resumef).w.csr.ftoken = 0 ∧
    (let f : OutFault := { token := 9, key := .page 0, queued := true, va := 0, engine := false }
     let s := placedW .resumef fun w => { w with csr := { w.csr with ftoken := 9 } }
     let t : State := { s with die := { s.die with faults := [f] } }
     t.mayRun (useOf 6 [] []) && t.w.csr.ftoken == 9 && t.die.faults.any fun f => f.token == t.w.csr.ftoken.toNat) = true ∧
    -- BKPT without BKPTEN, and with the queue with room and full
    (placed .bkpt).host.bkpten = false ∧
    ([63, 64].all fun n =>
      let s := placed .bkpt
      let t : State := { s with host := { s.host with bkpten := true, bkq := List.replicate n (0, 0, 0) } }
      t.mayRun (useOf 6 [] []) && t.host.bkpten) = true := by decide +kernel

/-- Does a wave's fetch of a clause at an address wait for a walk, or fault? -/
def findsNone (s : State) (hdr : Nat) : Nat := match s.fetchClause s.w hdr with
  | .walk _ => 1
  | .fault _ _ => 2
  | _ => 0

theorem witness_TrapInstructions_unfetched :
    -- EPC and FPC at the second instruction of a clause on a page that the TLBs lack, and on one past the last
    ([(0x20000, 1), (2 ^ 48, 2)].all fun e =>
      let s := clauseState .rft fun w => w.withEpc (mkPos 1 e.1)
      let t := clauseState .resumef fun w => { w with csr := { w.csr with ftoken := 9, fpc := mkPos 1 e.1 } }
      s.mayRun (useOf 6 [] []) && posOk s.w.csr.epc && (posIndex s.w.csr.epc == 1) && (posHdr s.w.csr.epc == e.1) && (findsNone s e.1 == e.2) &&
        t.mayRun (useOf 6 [] []) && t.die.faults.isEmpty && posOk t.w.csr.fpc && (findsNone t e.1 == e.2)) = true := by decide +kernel

theorem witness_FaultsTaken :
    -- outside and inside a handler and a continuation, with CONT 0 and another, the fault outstanding and not
    ([(false, false), (true, false), (false, true)].all fun e => [(0 : Addr), 0x3000].all fun c => [[], [(3 : Nat)]].all fun vs =>
      let s := placedW .nop fun w => { (w.flowOf fun f => { f with handler := e.1, contin := e.2 }) with csr := { w.csr with cont := c } }
      let t : State := { s with die := { s.die with faults := vs.map fun v =>
        { token := 9, key := .page v, queued := true, va := 65536 * v, engine := false } } }
      t.w.mem.region.isNone && t.w.flow.hold != .blank && (t.faultKey cPAGE_ABSENT 0x30008 == .page 3) && t.host.faultq.isEmpty &&
        (t.w.flow.handler == e.1) && (t.w.flow.contin == e.2) && (t.w.csr.cont == c) && t.w.id.kind != .kindling) = true ∧
    -- a load whose page's walk has ended absent
    (let s := placedW (.ld maPair 6 0 0 2 false) fun w => w.onMem fun m => { m with walked := [0] }
     s.mayRun (ldUse maPair 6 2) = true ∧ s.w.flow.mask ≠ 0 ∧ ∀ x ∈ s.w.addrs maPair, x.2 % 4 = 0 ∧ x.2 < 2 ^ 48 ∧
       s.tlbHit s.w.id.core (x.2 / 65536) = none ∧ s.w.mem.walked.contains (x.2 / 65536) = true ∧ s.walk (x.2 / 65536 * 65536) = .absent) := by
  decide +kernel

/-- A wave at the header at 0x2000. -/
def atHeader (f : WaveFlow → WaveFlow) : State :=
  clauseState .nop fun w => w.flowOf fun x => f { x with pc := headerPos 0x2000, clause := none }

theorem witness_ClauseEntries :
    (let s := atHeader id
     s.issues = true ∧ s.w.flow.stopReq = false ∧ s.w.flow.rpc.toNat ≠ 0x2000 ∧ s.fetchWord s.w 0x2000 = .words [0xE8000022] ∧
       hdrOk 0xE8000022 = true ∧ s.fetchInstrs s.w 2 0x2004 = .words (encode .nop ++ encode .nop) ∧ s.waitsOk s.w 0xE8000022 = true) ∧
    -- a header that waits for stores, with one to come
    (let s := (atHeader id).onW fun w => w.onMem fun m => { m with sq := [store0 false], seq := 1 }
     s.waitsOk s.w 0xE8000022 = false ∧ hdrOk 0xE8000022 = true ∧ s.issues = true) ∧
    -- a word that is no header
    (let s := (atHeader id).onW fun w => w.flowOf fun f => { f with pc := headerPos 0x2004 }
     s.fetchWord s.w 0x2004 = .words [BitVec.ofNat 32 (bitsOf .nop)] ∧ hdrOk (BitVec.ofNat 32 (bitsOf .nop)) = false ∧ s.issues = true) ∧
    (let s := placedW .nop fun w => w.flowOf fun f => { f with clause := some { hdr := 0xE8000021, words := [0xFF000000] } }
     s.w.atWord 0xFF000000 = true ∧ s.issues = true) := by decide +kernel

theorem witness_DecodeEncode : (Instr.tmm 64 true 63 true 63 true 31 127).isEncoded = true ∧
    (Instr.tmm 64 true 63 true 63 true 31 127).wellFormed = true := by decide +kernel
theorem witness_DecodedWords : decode [0x00068405, 0xFFFFFFFF] = .ok (.iadd { q := false, d := 6, wa := true, a := 4, wb := false, b := 5 }) ∧
    (decode [0x17068485, 0x0000000A]).isOk = true := by decide +kernel
theorem witness_StepKeepsMemoryCanonical : (mapped (placed .nop)).memWf = true ∧
    ∃ t, step (mapped (placed .nop)) = .next t := by
  refine ⟨by decide +kernel, ?_⟩
  have h : (match step (mapped (placed .nop)) with | .next _ => true | _ => false) = true := by decide +kernel
  split at h
  · exact ⟨_, by assumption⟩
  · exact absurd h (by decide)

theorem witness_StepRunsDecoded :
    (let s := placed (.bra 4)
     s.agenda = [.wave 1] ∧ s.w.id.wid = 1 ∧ s.w.flow.hold ≠ .blank ∧
       (s.w.flow.clause.map fun c => (decode (wordsAt (posIndex s.w.flow.pc) c.words)).toOption) = some (some (.bra 4)) ∧
       (s.w.flow.clause.map fun c => decide (hdrNI c.hdr ≤ posIndex s.w.flow.pc + 1)) = some true) ∧
    (let s := placedW .nop fun w => w.flowOf fun f => { f with clause := some { hdr := 0xE8000022, words := [0xFF000000, 0] } }
     s.agenda = [.wave 1] ∧ (decode (wordsAt 0 [0xFF000000, 0])).toOption = none ∧ posIndex s.w.flow.pc + 1 < hdrNI 0xE8000022) ∧
    (atHeader id).agenda = [.wave 1] ∧ (atHeader id).w.flow.clause = none ∧
    ({ placed .nop with agenda := [.event .heartbeatTick] } : State).agenda = [.event .heartbeatTick] := by decide +kernel

theorem witness_NothingWithoutIssue :
    (placedW .nop fun w => w.flowOf fun f => { f with hold := .bkpt }).issues = false ∧ Instr.nop.isEncoded = true ∧
    ({ placed .nop with tabs := { (placed .nop).tabs with halted := true } } : State).issues = false := by decide +kernel

/-! ### Witnesses: links and homes, time, launches, queues -/

def State.withLink (s : State) (md : Nat) (l : Link) : State := { s with pkg := { s.pkg with links := [(md, l)] } }
def State.withVc3 (s : State) (q : Nat) (xs : List Packet) : State := { s with pkg := { s.pkg with vc3 := [(q, xs)] } }
/-- Packet 4 of a direction of link 0, for the block at 64. -/
def packet0 (toCd : Bool) (body : Body) : Packet :=
  { no := 4, link := 0, toCd := toCd, src := .thisDie, pa := 64, fields := 0, home := 0, body := body }
/-- A link that has failed, `n` packets of each direction delivered. -/
def failedLink (n : Nat) : Link :=
  { up := false, toMd := { LinkDir.reset with delivered := n }, toCd := { LinkDir.reset with delivered := n } }
/-- Link 0 has failed, and a packet is at the head of its input queue. -/
def received (toCd : Bool) (body : Body) (n : Nat) : State :=
  ((placed .nop).withLink 0 (failedLink n)).withVc3 (inputQueue 0 toCd) [packet0 toCd body]

/-- Every other link stays up. -/
theorem linkUp_others {p : Pkg} {md : Nat} {l : Link} (h : p.links = [(md, l)]) (hl : l.up = true) (j : Nat) : p.linkUp j = true := by
  simp only [Pkg.linkUp, Pkg.link, look, h, look?]
  split <;> simp_all [Link.reset]

theorem witness_Links_failure :
    (placed .nop).pkg.isUp (.near 3) = true ∧ (placed .nop).pkg.isUp .bridge = true ∧ (placed .nop).pkg.isUp (.side 2) = true ∧
    ((placed .nop).withLink 3 (failedLink 0)).pkg.isUp (.near 3) = false ∧
    -- both buffers of near link 3 hold packets
    (let d : LinkDir := { nextSeq := 6, delivered := 4, retry := [packet0 false .read, packet0 false .ack], waiting := [] }
     let s := (placed .nop).withLink 3 { up := true, toMd := d, toCd := d }
     s.pkg.isUp (.near 3) = true ∧ s.pkg.bridge = true ∧ s.pkg.side = 0xFF ∧ ∀ j, s.pkg.linkUp j = true) := by
  refine ⟨by decide +kernel, by decide +kernel, by decide +kernel, by decide +kernel, by decide +kernel, by decide +kernel,
    by decide +kernel, fun j => linkUp_others rfl rfl j⟩

/-- What the receipt of a new request at its home asks. -/
def homeReceipt (s : State) (x : Packet) : Bool :=
  x.link == s.pkg.homeOf x.pa && x.pa % 8 == 0 && !s.pkg.linkUp x.link && !s.pkg.unreachable s.die.die x.link &&
    !inReserve (s.pkg.stackBlock x.pa) && paOk x.pa && !(s.pkg.readBlock s.die.die (x.pa / 256 * 256) x.fields).1 && !s.tabs.halted &&
    decide ((s.pkg.dir x.link x.toCd).delivered ≤ x.no)

theorem witness_Links_receipt :
    (placed .nop).pkg.vc3At (inputQueue 0 false) = [] ∧
    -- one delivered before, a response, and a read and a write at their home
    (let s := received false .read 5
     s.pkg.vc3At (inputQueue 0 false) = [packet0 false .read] ∧ 4 < (s.pkg.dir 0 false).delivered) ∧
    (let s := received true (.reply false 9) 4
     s.pkg.vc3At (inputQueue 0 true) = [packet0 true (.reply false 9)] ∧ (s.pkg.dir 0 true).delivered ≤ 4) ∧
    ([.read, .write 7].all fun b =>
      (received false b 4).pkg.vc3At (inputQueue 0 false) == [packet0 false b] && homeReceipt (received false b 4) (packet0 false b)) = true := by
  decide +kernel

theorem witness_Links_request :
    -- the hint's die unreachable, its link down, its link up at the home and before a home that it forwards to
    (let s := (placed .nop).withLink 0 (failedLink 0)
     paOk 64 = true ∧ { s with pkg := { s.pkg with bridge := false } }.pkg.unreachable 0 0 = true ∧ s.pkg.unreachable 0 0 = false ∧
       s.pkg.linkUp 0 = false) ∧
    (let s := placed .nop
     s.pkg.unreachable 0 0 = false ∧ s.pkg.linkUp 0 = true ∧ s.pkg.homeOf 64 = 0 ∧ s.homeGood 0 64 = true ∧ s.tabs.halted = false ∧
       ∀ k, s.regionHeld none k = false) ∧
    (let s := placed .nop
     s.pkg.unreachable 0 3 = false ∧ s.pkg.linkUp 3 = true ∧ s.pkg.canForward 0 3 64 = true ∧ s.pkg.forwardTo 3 64 = 0) ∧
    -- a moving frame whose new home holds the block
    (let e : HomeEnt := { valid := true, moving := true, nhome := 4, nframe := 0, home := 0, lframe := 0 }
     let s : State := { placed .nop with pkg := { (placed .nop).pkg with home := [(0, e)], exchanged := [0] } }
     s.pkg.homeOf 64 = 4 ∧ s.pkg.canForward 0 0 64 = true ∧ s.pkg.forwardTo 0 64 = 4 ∧ s.homeGood 0 64 = true) := by
  refine ⟨by decide +kernel, ⟨by decide +kernel, by decide +kernel, by decide +kernel, by decide +kernel, by decide +kernel, regionHeld_none rfl⟩,
    by decide +kernel, by decide +kernel⟩

theorem witness_Blocks :
    ([0, 32].all fun f =>
     let s := (paged (placed .nop)).l2Fill 0 0 f
     let t := s.onL2 0 fun l => { l with dirty := true }
     !t.tabs.halted && ((t.l2? 0).map fun l => (l.dirty, l.poison, fieldsComp l.fields)) == some (true, false, f == 32) && paOk 0 &&
        !inReserve (t.pkg.stackBlock 0)) = true ∧
    (let t := ((paged (placed .nop)).l2Fill 0 0 0).onL2 0 fun l => { l with dirty := true }
     t.Arrives 0 ∧ t.Straight 0 ∧ t.hintOf 0 = t.pkg.homeOf 0) ∧
    (let s := paged (placed .nop)
     s.tlbOf 0 = some { vpn := 0, frame := 0, r := true, w := true, x := true, fields := 0, hint := 0 } ∧ s.keyAbsent 0 = false ∧
       paOk 0xFFFF = true ∧ s.Arrives 0xFF00 ∧ s.Straight 0xFF00 ∧ s.l2? 0xFF = none ∧ s.setSize 0xFF < 16) ∧
    -- a TLB that names another die, which forwards
    (let s := (placed .nop).onCore 0 fun c => { c with tlb := [{ vpn := 0, frame := 0, r := true, w := true, x := true, fields := 0, hint := 1 }] }
     (s.tlbOf 0).isSome = true ∧ s.Arrives 0 ∧ s.Straight 0 ∧ s.hintOf 0 ≠ s.pkg.homeOf 0) := by
  unfold State.Arrives State.Straight; decide +kernel

theorem witness_Migration :
    -- 4096 far writes and 2048 near ones, and one far write too few
    ([(2048, 4096), (0, 4095)].all fun c =>
      let s : State := { placed .nop with pkg := { (placed .nop).pkg with counts := [(32699, c)] } }
      s.pkg.home.isEmpty && s.pkg.links.isEmpty && s.pkg.bridge && s.pkg.counts.length == 1 &&
        decide (s.pkg.windowNo 4 ≤ s.pkg.windowNo 0)) = true ∧
    -- with a partner of 2047 and of 2048 far writes, of the window that runs and of the one that has ended
    ([2047, 2048].all fun n => [true, false].all fun now =>
      let partner := (4 * 2 ^ 15 + 32699, (7, n))
      let p := (placed .nop).pkg
      let q : Pkg := if now then { p with counts := [(32699, (2048, 4096)), partner] }
        else { p with counts := [(32699, (2048, 4096))], ended := [partner], windows := [(4, 1)] }
      q.home.isEmpty && q.links.isEmpty && q.bridge && (decide (q.windowNo 0 < q.windowNo 4) == !now) &&
        (look (0, 0) (if q.windowNo 0 < q.windowNo 4 then q.ended else q.counts) (4 * 2 ^ 15 + 32699) == (7, n)) &&
        (decide (2 * n < 4096) == (n == 2047))) = true ∧
    (let e : HomeEnt := { valid := true, moving := true, nhome := 4, nframe := 5, home := 0, lframe := 5 }
     let s : State := { placed .nop with pkg := { (placed .nop).pkg with home := [(40, e)] } }
     let t : State := { s with pkg := { s.pkg with exchanged := (List.range 255).map (5 * 256 + ·) } }
     s.pkg.frameAt 0 5 = 40 ∧ s.pkg.frameAt 4 5 = 44 ∧ s.pkg.homeEnt 40 = e ∧ s.pkg.exchanged.contains (5 * 256 + 255) = false ∧
       s.pkg.exchanged.contains (5 * 256) = false ∧ t.pkg.exchanged.contains (5 * 256 + 255) = false ∧
       ∀ i < 256, i ≠ 255 → t.pkg.exchanged.contains (5 * 256 + i) = true) := by
  decide +kernel

theorem witness_TimeAndReset : (placed .nop).host.run = true ∧ State.reset.host.run = false ∧ (placed .nop).tabs.power = .active ∧
    ({ State.reset with tabs := { State.reset.tabs with power := .sleep } } : State).tabs.power = .sleep ∧ State.reset.tabs.power ≠ .active := by
  decide +kernel

/-- A card (Table 7.2): entry 0x1000, one wave in a block, one block in a cluster, 8 registers, chunks of 1, no successors; `n` blocks,
with the given bits besides. -/
def card0 (n bits : Nat) : Nat := 0x1000 + 2 ^ 176 + 2 ^ 184 + n * 2 ^ 192 + 8 * 2 ^ 224 + 2 ^ 288 + (2 ^ 176 - 1) * 2 ^ 336 + bits
/-- A card of one block with one successor and a PREDCNT. -/
def cardTo (m p : Nat) : Nat := card0 1 (p * 2 ^ 320) - (0xFFFF - m) * 2 ^ 336
/-- A machine whose graph 0 is `g`. -/
def withGraph (g : List Nat) : State := { mapped (placed .nop) with sched := { (placed .nop).sched with graphs := [(0, g)] } }

/-- The checks of an upload that come before the cycles, on every card. -/
def checked (g : List Nat) : Bool := (List.range g.length).all fun n => cardOk (g.getD n 0) && (cdSuccs (g.getD n 0)).all (· < g.length) &&
  cdPred (g.getD n 0) == ((List.range g.length).filter fun m => (cdSuccs (g.getD m 0)).contains n).length

theorem witness_GraphChecks :
    -- the second card bad; a successor outside; a wrong PREDCNT; a cycle; a gang too large; and a chain
    (cardOk (card0 1 0) = true ∧ cardOk (card0 0 0) = false) ∧
    (cardOk (cardTo 1 0) = true ∧ 1 ∈ cdSuccs (cardTo 1 0)) ∧
    (cardOk (card0 1 (2 ^ 320)) = true ∧ cdSuccs (card0 1 (2 ^ 320)) = [] ∧ cdPred (card0 1 (2 ^ 320)) = 1) ∧
    (checked [cardTo 1 1, cardTo 0 1] = true ∧
      ¬∃ rank : Nat → Nat, ∀ n < 2, ∀ m < 2, m ∈ cdSuccs ([cardTo 1 1, cardTo 0 1].getD n 0) → rank n < rank m) ∧
    (let x := card0 1048576 (2 ^ 248)
     checked [x] = true ∧ (∀ n < 1, ∀ m < 1, m ∈ cdSuccs ([x].getD n 0) → n < m) ∧ cdGridbar x = true ∧ (placed .nop).gmax x < cdBcap x) ∧
    (let g := [cardTo 1 0, card0 1 (2 ^ 320)]
     checked g = true ∧ (∀ n < 2, ∀ m < 2, m ∈ cdSuccs (g.getD n 0) → n < m) ∧ g.all fun x => (placed .nop).unitsPerCore (cardNeed x) != 0) := by
  refine ⟨by decide +kernel, by decide +kernel, by decide +kernel, ⟨by decide +kernel, fun ⟨rank, h⟩ => ?_⟩, by decide +kernel, by decide +kernel⟩
  have a := h 0 (by omega) 1 (by omega) (by decide +kernel)
  have b := h 1 (by omega) 0 (by omega) (by decide +kernel)
  omega

/-- A machine whose memory has a card at 0x1400. -/
def cardAt (x : Nat) : State :=
  let s := mapped (placed .nop)
  { s with pkg := s.pkg.withBytes 0x1400 64 x }
/-- What GUPLOAD of one card at 0x1400 finds: its own registers and the schedule as they were, and the first failure. -/
def cardFault (x : Nat) : Option (Option (Nat × Nat)) := match (cardAt x).engRead 0x1400 64 with
  | .ok u bs => if cardsOf bs 1 = [x] ∧ u.sched = (cardAt x).sched ∧ u.host = (cardAt x).host then some (u.graphFault [x] fun _ => true) else none
  | _ => none
/-- A value for GUPLOAD: a graph's slot, its cards and their address. -/
def gval (g n a : Nat) : BitVec 64 := BitVec.ofNat 64 (g * 2 ^ 59 + (n - 1) * 2 ^ 49 + a)

theorem witness_UploadsAndTriggers :
    -- a good card, one of no blocks, and a page that is not there to be read
    cardFault (card0 1 0) = some none ∧ cardFault (card0 0 0) = some (some (0x80, 0)) ∧
    (∃ a, (cardAt 0).engRead (2 ^ 48) 64 = .prot a) ∧ ((gval 3 1 (2 ^ 48)).extractLsb' 0 49).toNat = 2 ^ 48 ∧
    -- a graph's slot in use, an upload in progress
    ((withGraph [card0 1 0]).sched.running = none ∧ (withGraph [card0 1 0]).sched.waiting = []) ∧
    (cardAt 0).host.upload = none ∧ (cardAt 0).host.patching = false ∧
    ({ (cardAt 0).host with patching := true } : HostRegs).patching = true ∧
    look? (withGraph [card0 1 0]).sched.graphs 0 ≠ none ∧ look? (withGraph []).sched.graphs 1 = none ∧
    (List.replicate 7 ({ num := 0, graph := 0, gtrig := 0, cards := [], readyNo := 0, token := none } : Launch)).length < 8 := by
  refine ⟨by decide +kernel, by decide +kernel, ⟨2 ^ 48, rfl⟩, by decide +kernel⟩

/-- A machine that runs a launch of graph 0, its nodes with the given progress on core 0. -/
def launched (g : List Nat) (cs : List (Nat × Nat × Bool)) : State :=
  let s := withGraph g
  { s with sched := { s.sched with running := some { num := 0, graph := 0, gtrig := 0, readyNo := 1, token := none, cards := cs.zipIdx.map fun e =>
    { node := e.2, counter := 0, ready := some 0, launched := e.1.1, live := e.1.2.1, waves := e.1.2.1, next := 0, cores := [0], done := e.1.2.2 } } } }

/-- Does the card complete now, with all its cores' releases made? -/
def completesNow (s : State) (l : Launch) (c : CardRun) : Bool :=
  let card := (look [] s.sched.graphs l.graph).getD c.node 0
  c.finished card && s.noSpawns (some (l.num, c.node)) && match s.releases 2 c.cores with
    | none => false
    | some u => u.sched == s.sched && ({ u with sched := { u.sched with running := some (l.complete c.node (cdSuccs card)) } }.releases 3
        (l.cards.foldl (fun (cs : List Nat) (x : CardRun) => unionL cs x.cores) [])).isSome

theorem witness_UploadsAndTriggers_halted :
    let s : State := { cardAt (card0 1 0) with tabs := { (cardAt 0).tabs with halted := true } }
    s.tabs.halted = true ∧ s.host.upload = none ∧ s.host.patching = false ∧ (gval 3 1 0x1400).extractLsb' 0 6 = 0 ∧
      (look? s.sched.graphs 3).isSome = false ∧ (cardAt 0).tabs.halted = false := by decide +kernel

/-- A launch of graph 0 with one patch entry, `x`, at 0x1400; its bytes stand in the L2. -/
def patching (x : Nat) : State :=
  let s := withGraph [card0 1 0, card0 2 0]
  let l : Launch := { num := 3, graph := 0, gtrig := BitVec.ofNat 64 (0x1400 + 2 ^ 49), cards := [], readyNo := 0, token := none }
  ({ s with pkg := s.pkg.withBytes 0x1400 16 x, sched := { s.sched with waiting := [l] } }).l2Fill 0x14 0x1400 0

/-- A patch of card 0's 8 bytes at offset 24: its count of blocks and VREGS. -/
def patch0 (v : Nat) : Nat := 24 * 2 ^ 16 + v * 2 ^ 64

theorem testBit_of_lt {a b i : Nat} (ha : a < 2 ^ 256 * 2 ^ 256) (hb : b < 2 ^ 256 * 2 ^ 256) (h : i < 512 → a.testBit i = b.testBit i) : a.testBit i = b.testBit i := by
  by_cases hi : i < 512
  · exact h hi
  · obtain ⟨j, rfl⟩ := Nat.exists_eq_add_of_le (Nat.not_lt.mp hi)
    have : 2 ^ 256 * 2 ^ 256 ≤ 2 ^ (512 + j) := by
      rw [show 512 + j = 256 + (256 + j) by omega, pow_add, pow_add]
      exact Nat.mul_le_mul_left _ (Nat.le_mul_of_pos_right _ (Nat.two_pow_pos j))
    rw [Nat.testBit_lt_two_pow (by omega), Nat.testBit_lt_two_pow (by omega)]

theorem witness_Launches_patches :
    -- an entry of no card; one that leaves card 0 as it was; one that makes it one of no blocks
    (let s := fun (x : Nat) => patching x
     let l := (s 0).sched.waiting.headD { num := 0, graph := 0, gtrig := 0, cards := [], readyNo := 0, token := none }
     let read := fun (x : Nat) => ((s x).l2? 0x14).elim 0 fun l => bytesNat ((l.data.toList.take 16))
     ([9, patch0 (1 + 8 * 2 ^ 32), patch0 0].all fun x => (s x).schedules && (s x).sched.running.isNone && ((s x).sched.waiting == [l]) &&
       !(s x).launchHeld l && (read x == x) && ((l.gtrig.extractLsb' 49 10).toNat == 1) && (16 * (l.gtrig.extractLsb' 4 45).toNat == 0x1400)) = true ∧
     (∀ x ∈ [9, patch0 (1 + 8 * 2 ^ 32), patch0 0], ∀ i < 16 * 1, ((s x).inL2B 0x1400).isSome = true → (s x).InL2 (0x1400 + i) (((s x).inL2B (0x1400 + i)).getD 0)) ∧
     ([9, patch0 (1 + 8 * 2 ^ 32), patch0 0].all fun x => ((s x).inL2B 0x1400).isSome) = true) ∧
    (let g := [card0 1 0, card0 2 0]
     let bare := card0 1 0 - 2 ^ 192 - 8 * 2 ^ 224
     Patched g g 1 (fun _ => patch0 (1 + 8 * 2 ^ 32)) ∧ (patching 0).graphFault g (fun m => m == 0) = none ∧
       Patched g [bare, card0 2 0] 1 (fun _ => patch0 0) ∧ (patching 0).graphFault [bare, card0 2 0] (fun m => m == 0) = some (0x80, 0)) ∧
    -- a list on a page that is absent, and on one out of range
    (let s := withGraph [card0 1 0]
     s.engine (2 ^ 40) true false = .absent ∧ s.engine (2 ^ 48) true false = .prot) := by
  have ho : ∀ x ∈ [9, patch0 (1 + 8 * 2 ^ 32), patch0 0], (patching x).die.objects = [] := by decide +kernel
  refine ⟨⟨by decide +kernel, fun x hx i hi h => inL2_line (noSealed_of (ho x hx)) h (by omega), by decide +kernel⟩,
    ⟨⟨rfl, fun m hm i => ⟨fun _ => rfl, ?_⟩⟩, by decide +kernel, ⟨rfl, fun m hm i => ⟨?_, ?_⟩⟩, by decide +kernel⟩, by decide +kernel⟩
  · intro k hk ⟨h0, h1, h2⟩ _
    obtain rfl : m = 0 := h0.symm.trans (show patch0 (1 + 8 * 2 ^ 32) % 2 ^ 16 = 0 by decide +kernel)
    have h : ∀ i < 256, 192 ≤ i → (card0 1 0).testBit i = (patch0 (1 + 8 * 2 ^ 32) / 2 ^ 64).testBit (i - 192) := by decide +kernel
    have e1 : 8 * (patch0 (1 + 8 * 2 ^ 32) / 2 ^ 16 % 2 ^ 16) = 192 := by decide +kernel
    simp only [e1] at h1 h2 ⊢
    exact h i (by omega) h1
  · intro h0
    match m, hm with
    | 0, _ =>
      refine testBit_of_lt (by decide +kernel) (by decide +kernel) fun hi => ?_
      have h : ∀ i < 512, ¬(192 ≤ i ∧ i < 256) → (card0 1 0 - 2 ^ 192 - 8 * 2 ^ 224).testBit i = (card0 1 0).testBit i := by decide +kernel
      have e1 : 8 * (patch0 0 / 2 ^ 16 % 2 ^ 16) = 192 := by decide +kernel
      have := h0 0 (by omega)
      simp only [e1] at this
      exact h i hi fun hx => this ⟨by decide +kernel, hx.1, hx.2⟩
    | 1, _ => rfl
  · intro k hk ⟨h0, h1, h2⟩ _
    obtain rfl : m = 0 := h0.symm.trans (show patch0 0 % 2 ^ 16 = 0 by decide +kernel)
    have h : ∀ i < 256, 192 ≤ i → (card0 1 0 - 2 ^ 192 - 8 * 2 ^ 224).testBit i = (patch0 0 / 2 ^ 64).testBit (i - 192) := by decide +kernel
    have e1 : 8 * (patch0 0 / 2 ^ 16 % 2 ^ 16) = 192 := by decide +kernel
    simp only [e1] at h1 h2 ⊢
    exact h i (by omega) h1

theorem witness_Launches :
    (let g := [card0 1 0, card0 2 0]
     let s := withGraph g
     let l : Launch := { num := 3, graph := 0, gtrig := 0, cards := [], readyNo := 0, token := none }
     let t : State := { s with sched := { s.sched with waiting := [l] } }
     t.schedules = true ∧ t.sched.running = none ∧ cyclic g g.length (List.range g.length) = [] ∧ t.launchHeld l = false) ∧
    -- a single card, first or after a gang of higher priority that waits no more, and a gang
    (let x := card0 2 0
     let s := launched [x] [(0, 0, false)]
     s.schedules = true ∧ s.openCards.map (fun c => (c.1, c.2.1, c.2.2.1)) = [(0, 0, x)] ∧ s.awaitsVictims 0 0 = false ∧
       s.cardRun? (some (0, 0)) = s.openCards.head?.map (·.2.2.2) ∧ (s.freeFor 0 0).Places x [0] ∧
       ((s.freeFor 0 0).readyCores [0] (cdFuse x)).map (·.sched) = some (s.freeFor 0 0).sched) ∧
    (let x := card0 3 (2 ^ 248)
     let s := launched [x] [(0, 0, false)]
     s.schedules = true ∧ s.openCards.map (fun c => (c.1, c.2.1, c.2.2.1)) = [(0, 0, x)] ∧ cdGridbar x = true ∧
       s.cardRun? (some (0, 0)) = s.openCards.head?.map (·.2.2.2) ∧ (s.launchMany 0 0 x 3).isSome = true) ∧
    -- the last card, and one with another left
    ([[(1, 0, false)], [(1, 0, false), (0, 0, false)]].all fun cs =>
      let s := launched [card0 1 0, card0 1 0] cs
      match s.sched.running with
      | some l => match l.cards with | c :: _ => completesNow s l c | _ => false
      | none => false) = true := by
  refine ⟨by decide +kernel, ⟨by decide +kernel, by decide +kernel, by decide +kernel, by decide +kernel,
    ⟨0, by omega, by decide +kernel, by decide +kernel, by decide +kernel, by decide +kernel, fun c hc _ h d hd => ?_, fun h hh => absurd hh (by omega)⟩,
    by decide +kernel⟩, by decide +kernel, by decide +kernel⟩
  obtain rfl : d = 0 := by simpa using hd
  rcases Nat.eq_zero_or_pos c with rfl | hp
  · simp at h
  · exact hp

def rec0 : SpawnRec := { vals := List.replicate 8 5, card := none, prio := 0, vregs := 8, spwait := 1 }
def queue0 : TaskQueue := { TaskQueue.empty with enable := true, launch := true, vregs := 8, entry := 0x1000, ringbase := 0x4000, log2cap := 1 }
def State.withQueue (s : State) (x : TaskQueue) : State := s.onQueue 5 fun _ => x
/-- Core 1 with a spawn bin 3. -/
def withBin (b : Bin) : State := (placed .nop).onCore 1 fun c => { c with bins := [(3, b)] }
def bin0 : Bin := { key := some 0x1000, recs := [rec0], due := none, expired := false }
/-- May a loose wave of 8 registers launch on core 1, with the queue as it was? -/
def placesOn1 (s : State) : Bool :=
  s.schedules && (s.looseSlot 1 8).isSome && match s.idleCore 1 with
    | some u => u.queue 5 == s.queue 5
    | none => false

theorem witness_CopiesRun_tlf :
    -- a decode of a tile of bytes that are no header, and of one of a row of 8 INT8 elements, locked as far as it goes
    let s := copying [0x3000, 0, 0, 0, 512, 0x00080001, 0, 0x800] 0 0 0 started
    let h : TlfHdr := { TlfHdr.parse [] with rows := 1, e := 8, l := 8 }
    let at' := fun (s : State) => ({ s with pkg := s.pkg.withBytes 0x5000 16 (leN h.bytes), die := { s.die with locks :=
      [{ lo := 0x50, hi := 0x50, dest := false, core := 0, seq := 1 }] } } : State).l2Fill 0x50 0x5000 0
    let t := at' (copying [0x5000, 0, 0, 0, 512, 0x00080001, 0, 0x800] 0 0 0 started)
    let read := fun (s : State) (a : Nat) => TlfHdr.parse ((((s.l2? (a / 256)).elim [] fun l => l.data.toList.take 16)).map (·.toNat))
    copyB s (fun c => c.started && !c.bad && c.toTile && c.lines.isEmpty && c.op == 0 && c.tlf == 2 && (c.pair 0 == 0x3000)) = true ∧
    s.inL2All 0x3000 16 = true ∧ (read s 0x3000).valid = false ∧ s.die.objects = [] ∧
    copyB t (fun c => c.started && !c.bad && c.toTile && c.lines.isEmpty && c.op == 0 && c.tlf == 2 && (c.pair 0 == 0x5000) &&
      c.kind == 0 && c.rows == 1 && c.rowLen == 8) = true ∧
    t.inL2All 0x5000 24 = true ∧ read t 0x5000 = h ∧ h.valid = true ∧ h.dr = 8 ∧ h.extent = 24 ∧ t.die.objects = [] ∧
    t.die.locks.any (fun l => l.core == 0 && l.seq == 1 && decide ((0x5000 + 24 - 1) / 256 ≤ l.hi)) = true := by decide +kernel

theorem witness_QueueAndBinWork_launches :
    -- a bin with a timer; one of 32 records, of 33, and one whose timer has expired; the same of a queue
    ((withBin { bin0 with due := some 1024 }).core 1).bin 3 = { bin0 with due := some 1024 } ∧
    ([{ bin0 with recs := List.replicate 32 rec0 }, { bin0 with recs := List.replicate 33 rec0 }, { bin0 with expired := true }].all fun b =>
      (((withBin b).core 1).bin 3) == b && placesOn1 (withBin b)) = true ∧
    ((placed .nop).withQueue { queue0 with due := some 5 }).queue 5 = { queue0 with due := some 5 } ∧
    ([{ queue0 with chip := List.replicate 32 [1, 2] }, { queue0 with chip := [[1, 2]], expired := true }].all fun x =>
      (((placed .nop).withQueue x).queue 5) == x && placesOn1 ((placed .nop).withQueue x)) = true := by decide +kernel

/-- A wave that waits to pop queue 5. -/
def popping (x : TaskQueue) : State := (placedW (.tqpop 6 true true 7) fun w => w.flowOf fun f => { f with hold := .pop 5 }).withQueue x

theorem witness_QueueAndBinWork_rings :
    -- a refill, a ring write at the ring's second slot, and a wave that waits: for a record, with one, with the queue disabled and
    -- with it in LAUNCH mode
    (let s := (mapped (placed .nop)).withQueue { queue0 with head := 1, tail := 2 }
     s.host.jobDead = false ∧ s.tabs.halted = false ∧ (s.queue 5).refillable = true ∧
       (match s.engRead ((s.queue 5).slotVa 1) 32 with | .ok u _ => u.die.queues == s.die.queues | _ => false) = true) ∧
    (let s := (mapped (placed .nop)).withQueue { queue0 with tail := 2, unwritten := [(1, List.replicate 8 9)] }
     (s.queue 5).wtoken = none ∧ (s.queue 5).slotVa 1 % 32 = 0 ∧ s.engHeld ((s.queue 5).slotVa 1) 32 = false ∧
       s.engine ((s.queue 5).slotVa 1) false true = .ok 0x4020 0 ∧ s.setSize (0x4020 / 256) < 16) ∧
    ([{ queue0 with launch := false, blocked := [1] }, { queue0 with launch := false, chip := [[1]], blocked := [1] },
      { queue0 with enable := false, blocked := [1] }, { queue0 with chip := [[1]], blocked := [1], due := some 7 }].all fun x =>
      let s := popping x
      !s.host.jobDead && !s.tabs.halted && s.queue 5 == x && s.wave? 1 == some s.w && !s.w.lanes.isEmpty && match s.w.flow.clause with
        | some c => (match decode (wordsAt (posIndex s.w.flow.pc) c.words) with | .ok i => i == .tqpop 6 true true 7 | .error _ => false)
        | none => false) = true := by decide +kernel
/-! ### Witnesses: the host's commands, queues and tables -/

/-- A handover entry for the first 2 MiB. -/
def ho0 (st : Nat) : HoEnt := { valid := true, state := st, base := 0 }
def State.withHo (s : State) (e : HoEnt) : State := { s with tabs := { s.tabs with hotab := [(2, e)] } }
def State.withCmds (s : State) (cs : List Cmd) : State := { s with host := { s.host with cmdq := cs } }

/-- A machine with one line of the first 2 MiB in its L2. -/
def withLine : State := (paged (placed .nop)).l2Fill 0 0 0

theorem witness_HostCommands_begin :
    (let s := withLine.withHo (ho0 0)
     s.host.cmdq = [] ∧ s.kickEnt 2 = some (ho0 0) ∧ s.kickEnt 255 = none ∧ s.die.faults = [] ∧ s.tabs.halted = false ∧
       s.die.l2.map (fun l => (inRange 0 l.2.va, l.2.rel)) = [(true, RelRecord.empty)]) ∧
    -- 15 commands wait, or 16
    (let h := fun n => (placed .nop).withCmds (List.replicate n (Cmd.todev 0))
     (h 15).host.cmdq ≠ [] ∧ (h 15).host.cmdq.length < 16 ∧ (h 16).host.cmdq ≠ [] ∧ ¬(h 16).host.cmdq.length < 16) := by decide +kernel

theorem witness_HostCommands_end :
    (let s := (withLine.withHo (ho0 1)).withCmds [.tohost 2]
     let p := inRange 0
     s.host.cmdq = [.tohost 2] ∧ s.kickEnt 2 = some (ho0 1) ∧ s.accessing p = false ∧ s.copying 0 = false ∧ s.regionIn p = false ∧
       s.tabs.halted = false ∧
       (match s.flushRange p with
        | some u => u.host == s.host && u.tabs.hotab == s.tabs.hotab && u.tabs.msix == s.tabs.msix
        | none => false) = true ∧
       (s.cores.all fun e => e.2.l1.isEmpty) = true ∧ s.die.l2.map (fun l => l.2.rel) = [RelRecord.empty] ∧
       s.pkg.home = [] ∧ s.pkg.links = [] ∧ s.pkg.bridge = true ∧ (s.die.l2.map (·.1)).Nodup) ∧
    (((placed .nop).withCmds [.shoot 1]).host.cmdq = [.shoot (1 : BitVec 64).toNat] ∧ (1 : BitVec 64).getLsbD 0 = true ∧
      ∀ p, ((placed .nop).withCmds [.shoot 1]).accessing p = false) := by
  refine ⟨by decide +kernel, by decide +kernel, by decide +kernel, fun p => rfl⟩

theorem witness_Jobs :
    (State.reset.host.run = false ∧ State.reset.tabs.enabled = true ∧ { State.reset.tabs with enabled := false }.enabled = false) ∧
    (placed .nop).host.run = true ∧ (placed .nop).tabs.power = .active ∧
    -- no wave left, and a dirty line in one L1
    (let x : L1Line := { obj := 0, va := 0x80, fields := 0, valid := 3, dirty := 2, data := Vector.replicate 128 7 }
     let s := ({ placed .nop with w := Wave.blank } : State).onCore 3 fun c => { c with l1 := [(1, x)] }
     s.waves = [] ∧ s.host.run = true ∧ s.tabs.halted = false ∧ s.pkg.home = [] ∧ s.pkg.links = [] ∧ s.pkg.bridge = true ∧ s.die.l2 = [] ∧
       (s.core 3).l1 = [(1, x)] ∧ (s.cores.all fun e => (e.1 == 3 || e.2.l1.isEmpty) && e.2.copies.isEmpty) = true ∧
       fieldsComp x.fields = false ∧ s.homeGood x.fields 128 = true) := by decide +kernel

theorem witness_FaultAndBreakQueues :
    State.reset.host.faultq = [] ∧ State.reset.host.bkq = [] ∧ State.reset.host.bkwait = [] ∧ State.reset.host.upload = none ∧
    (let f : OutFault := { token := 9, key := .page 3, queued := true, va := 0x30000, engine := false }
     let w := ((placed .nop).w.flowOf fun f => { f with hold := .fault [9] })
     let s : State := { placed .nop with others := [w], die := { (placed .nop).die with faults := [f] } }
     (∀ f ∈ s.die.faults, f.queued = true) ∧ (s.die.faults.any fun f => f.token == 9) = true ∧ w.flow.hold = .fault [9] ∧ w ∈ s.others ∧
       w.flow.contin = false ∧ w.flow.handler = false) ∧
    (let s := placedW .bkpt fun w => w.flowOf fun f => { f with hold := .bkpt }
     let x := s.w.id.core * 256 + s.w.id.slot
     s.waves.find? (fun w => w.id.core == x / 256 % 256 && w.id.slot == x % 256 && w.flow.hold == .bkpt) = some s.w ∧
       s.wave? s.w.id.wid = some s.w) := by decide +kernel

theorem witness_HostTablesAndRegisters_handover :
    -- an empty entry; one in HOST; one in DEVICE; the base of another entry
    (look HoEnt.none State.reset.tabs.hotab 255).valid = false ∧ (ho0 2).state = 2 ∧
    (look HoEnt.none ((placed .nop).withHo (ho0 1)).tabs.hotab 2).valid = true ∧ (ho0 1).state ≠ 2 ∧
    ∃ x ∈ ((placed .nop).withHo (ho0 0)).tabs.hotab, x.1 ≠ 3 ∧ x.2.valid = true ∧ x.2.base = 0 :=
  ⟨rfl, rfl, rfl, by decide, _, .head _, by decide, rfl, rfl⟩

theorem witness_HostTablesAndRegisters :
    (State.reset.queue 63).ok = true ∧ (State.reset.queue 63).enable = false ∧ { queue0 with log2cap := 21 }.ok = false ∧
    (queue0.enable = true ∧ queue0.blocked = []) ∧ State.reset.host.run = false ∧ (placed .nop).host.run = true := by decide +kernel

theorem witness_HostReads : (look HoEnt.none State.reset.tabs.hotab 0).valid = false ∧ (0x8000000000000000 : BitVec 64).getLsbD 63 = true ∧
    State.reset.tabs.hotab = [] ∧ ({ State.reset.die with die := 1 } : Die).die ≠ 0 := by decide +kernel

theorem witness_MailboxCommands : (0 : Nat) / 8 = State.reset.die.die ∧ (8 : Nat) / 8 ≠ State.reset.die.die ∧
    look? State.reset.pkg.keys 0 = none ∧ State.reset.tabs.erased = false ∧ ({ State.reset.tabs with erased := true } : HostTabs).erased = true ∧
    (look? ({ State.reset.pkg with keys := [(7, 1)] } : Pkg).keys 7).isSome = true := by decide +kernel

/-- The machine with the first 2 MiB in the host's window, memory mapped. -/
def hostWindow : State := (mapped (placed .nop)).withHo (ho0 2)
/-- An export of the first pages with every right, to peer 1 (Table 27.7), of `n` pages from page `vpn`. -/
def exportOf (vpn n : Nat) : Nat := 2 ^ 63 + 2 ^ 62 + 2 ^ 61 + 2 ^ 50 + vpn * 2 ^ 16 + n * 2 ^ 64

theorem witness_OutsideAccesses_host :
    hostWindow.hdmPage (2 * 2 ^ 21 + 0x20C0) false = some (0x20C0, 0) ∧ hostWindow.hdmPage (2 * 2 ^ 21 + 0x20C0) true = some (0x20C0, 0) ∧
    hostWindow.hdmPage 0 false = none ∧ hostWindow.hdmPage 0 true = none ∧ hostWindow.homeGood 0 0x20C0 = true ∧
    hostWindow.kickEnt 0 = none ∧ hostWindow.tabs.halted = false ∧ ∀ k, hostWindow.regionHeld none k = false := by
  refine ⟨by decide +kernel, by decide +kernel, by decide +kernel, by decide +kernel, by decide +kernel, by decide +kernel, by decide +kernel,
    regionHeld_none rfl⟩

theorem witness_OutsideAccesses_peers :
    -- the last element of the exported page; another peer; an empty entry
    ([(PeerOp.read, 1), (.write, 256), (.addI32, 4), (.addF32, 8), (.addBf16, 2)].all fun e =>
      let off := 0x10000 - e.2
      peerFits off e.2 e.1 && exportOk (exportOf 0 1) 1 off e.1 && !exportOk (exportOf 0 1) 2 off e.1 && !exportOk 0 1 off e.1 &&
        (hostWindow.engine off (e.1 != .write) (e.1 != .read) == .ok off 0) && hostWindow.homeGood 0 off) = true ∧
    -- a page that is absent, and one past the tables
    (exportOk (exportOf 1 1) 1 0 .read = true ∧ State.reset.engine 0x10000 true false = .absent) ∧
    (exportOk (exportOf (2 ^ 32) 1) 1 0 .read = true ∧ hostWindow.engine (2 ^ 32 * 65536) true false = .prot) := by decide +kernel

theorem witness_Alarms : -- ALARMCFG after reset gives each action to some source (27 R364)
    [0, 1, 2, 3].map (fun src => (State.reset.tabs.alarmcfg >>> (2 * src)).toNat % 4) = [1, 1, 1, 2] ∧
    (0 : Word).toNat % 4 = 0 ∧ (State.reset.monWord 0).toInt < 8 * 115 := by decide +kernel

/-- Tile 0 of object 1, and a state that has it in a given state with a machine changed besides. -/
def tile0 : TileId := { obj := 1, tile := 0 }
/-- A wave at level `k` of chain 7, which rebuilds the tile. -/
def kindling (k : Nat) (f : WaveFlow → WaveFlow) (st : TileState) : State :=
  (placedW .nop fun w => (({ w with id := { w.id with kind := .kindling, chain := some (7, k), tile := some tile0 } } : Wave)).flowOf f).withObj
    (obj1 true st)
/-- A chain of two levels, whose slots are the first of cores 0 and 1. -/
def chain0 : Chain := { depth := 2, slots := [(0, 0), (1, 0)], waves := [1], first := .prefetch 0, tile := tile0 }

theorem witness_RecipeEvents_posts :
    -- a post that was refused
    (let s := ((placedW .nop fun w => w.flowOf fun f => { f with hold := .miss [tile0] [] }).withObj (obj1 true .dropped)).onCore 0 fun c =>
       { c with retry := [tile0], retryDue := 128 }
     (s.core 0).retry = [tile0] ∧ (s.tile tile0).st = .dropped ∧ (s.awaiting tile0).filter (fun r => r.1 == 0) = [(0, .wave 1)] ∧
       (s.die.recipeQ.any fun e => e.tile == tile0) = false ∧ s.die.recipeQ.length < 64) ∧
    (let e : RecipeEnt := { tile := tile0, reqs := [.wave 1], chain := none }
     let s := (placed .nop).withObj (obj1 true .dropped)
     let t : State := { s with die := { s.die with recipeQ := [e] } }
     t.schedules = true ∧ t.nextEntry = some e ∧ (t.tile tile0).st = .dropped ∧ t.tileDepth tile0 = some 1 ∧ t.reqCore (.wave 1) = 0 ∧
       t.pickSlots 0 1 = some [(0, 0)] ∧ t.pinsFree tile0 = true ∧
       ((t.idleCore 0).map fun u => (u.die.chainNo == t.die.chainNo, u.tileDepth tile0)) = some (true, some 1)) ∧
    -- four slots over the die's cores, the first requester on core 5
    (placed .nop).pickSlots 5 4 = some [(5, 0), (0, 0), (1, 0), (2, 0)] := by decide +kernel

theorem witness_RecipeEvents_waves :
    -- a kindling wave that misses; one whose tile is written
    (let s := kindling 1 (fun f => { f with hold := .miss [tile0] [] }) .dropped
     let t : State := { s with die := { s.die with chains := [(7, chain0)] } }
     t.schedules = true ∧ t.wave? 1 = some t.w ∧ t.lowestDropped [tile0] = some tile0 ∧ look? t.die.chains 7 = some chain0 ∧
       (t.waves.any fun y => y.id.chain == some (7, 2)) = false ∧ chain0.slots[1]? = some (1, 0) ∧
       ((t.idleCore 1).map fun u => (look? u.die.chains 7, u.obj? 1)) = some (some chain0, some (obj1 true .dropped))) ∧
    ([1, 2].all fun k =>
      let s := kindling k (fun f => { f with alive := 0, mask := 0 }) .forming
      s.schedules && s.wave? 1 == some s.w && s.w.flow.alive == 0 && s.quiet s.w && !((s.core 0).copies.any fun y => y.wid == 1) &&
        decide (s.waves.map fun v => v.id.wid).Nodup && match s.rebuilt 0 tile0 with
          | some u => u.obj? 1 == some (obj1 true .forming) && u.waves == s.waves
          | none => false) = true := by decide +kernel

/-- A machine with a block of priority 0 that takes all tile memory on every core, and a card of priority 1 that needs some. -/
def fullMachine : State :=
  let s := launched [card0 1 (2 ^ 240 + 128 * 2 ^ 256)] [(0, 0, false)]
  match s.blk? 1 with
  | none => s
  | some b =>
    { s with
      sched := { s.sched with blocks := (List.range 128).map fun c => (c + 1, { b with core := c, card := some (0, 9), tmem := 524288, waves := [c + 1] }) }
      host := { s.host with savesize := 0x1000000 } }

/-- The unit of block 1 in the save area. -/
def saved0 (ws : List SavedWave) (written : Bool) : SavedUnit :=
  { unit := 2, core := 0, blk := some 1, waves := ws, written := written, bytes := 0, place := [] }
def State.withSaved (s : State) (u : SavedUnit) : State := { s with die := { s.die with saved := [u] }, host := { s.host with savesize := 0x1000000 } }
def savedWave0 (w : Wave) : SavedWave := { wave := w, stop := 0, aborted := false, run := none, totals := [], place := [] }

theorem witness_Evictions_decision :
    let s := fullMachine
    let card := card0 1 (2 ^ 240 + 128 * 2 ^ 256)
    s.schedules = true ∧
    ((s.openCards.filter fun c => !(s.sched.reserved.any fun x => x.isFor c.1 c.2.1) && (s.launchNext c).isNone).map fun c =>
      (c.1, c.2.1, c.2.2.1)) = [(0, 0, card)] ∧
    ((s.victimPlan 0 0 card (clustersOf card)).map fun r => r.1.map Victim.unit) = some [2] := by decide +kernel

theorem witness_Evictions_stop :
    let s := ((atHeader id).onW fun w => w.flowOf fun f => { f with stopReq := true }).withSaved (saved0 [] false)
    s.wave? 1 = some s.w ∧ s.w.flow.stopReq = true ∧ s.w.flow.alive ≠ 0 ∧ s.stopReady s.w = true ∧ s.host.jobDead = false ∧
      s.tabs.halted = false ∧ s.stopPoint s.w = some 0 ∧ (s.waves.map fun v => v.id.wid).Nodup ∧ (saved0 [] false).unit = s.w.unit ∧
      (s.savePlace (waveImage s.w.id.vregs (s.image s.w 0).run.isSome)).isSome = true := by decide +kernel

theorem witness_Evictions_image :
    let u := saved0 [savedWave0 (placed .nop).w] false
    let s : State := { (placed .nop).withSaved u with w := Wave.blank }
    s.die.saved.find? (fun u => u.blk == some 1) = some u ∧ u.written = false ∧ (s.core 0).busyFor 1 = false ∧ s.host.jobDead = false ∧
      s.tabs.halted = false ∧
      (match s.blk? 1 with
       | some b => !b.evicted && b.waves == [1] && b.core == 0 && (s.savePlace (blockImage b.tmem b.wslots)).isSome
       | none => false) = true := by decide +kernel

/-- May a unit be restored: its images ready, and the unit no loss for a card of higher priority? -/
def restores (s : State) (u : SavedUnit) : Bool :=
  s.schedules && s.die.saved.find? (fun x => x.unit == u.unit) == some u && s.imagesReady u && match s.idleCore u.core with
    | some v => match u.blk, u.waves with
      | some k, _ => (match v.blk? k with
        | some b => v.fits u.core { wpb := b.wpb, vregs := b.vregs, tmem := b.tmem, wslots := b.wslots } && v.fuseOk (u.core / 8) b.fuse &&
            (match v.setFuse (u.core / 8) b.fuse with
             | some x => x.blk? k == some b && !s.wanted (x.restoreBlock u k b) u.core b.prio
             | none => false)
        | none => false)
      | none, x :: _ => (match v.looseSlot u.core x.wave.id.vregs with
        | some slot => !s.wanted ((v.unsave u.unit).restoreWave x slot) u.core x.wave.id.prio
        | none => false)
      | _, _ => false
    | none => false

theorem witness_Evictions_restore :
    (let u := saved0 [savedWave0 (placed .nop).w] true
     restores (({ (placed .nop).withSaved u with w := Wave.blank } : State).onBlk 1 fun b => { b with evicted := true }) u = true) ∧
    (let x := savedWave0 { (placed .nop).w with id := { (placed .nop).w.id with blk := none } }
     let u : SavedUnit := { unit := 3, core := 0, blk := none, waves := [x], written := true, bytes := 0, place := [] }
     restores { (placed .nop).withSaved u with w := Wave.blank } u = true) := by decide +kernel


theorem witness_AtomicValues : (4 : Nat) = 4 ∨ (4 : Nat) = 8 := by decide
theorem witness_AtomicValues_range : (0xFFFFFFFFFFFFFFFF : Nat) < 2 ^ (8 * 8) ∧ (0xFFFFFFFF : Nat) < 2 ^ (8 * 4) := by decide

/-! ### Results that the spec works out, by one step of the words it gives -/

/-- The acting wave after one step of an instruction's bits. -/
def ran (nbits bits : Nat) (f : Wave → Wave) : Option Wave := match step ((State.reset.withFetchWord nbits bits).onW f) with
  | .next t => t.wave? 1
  | _ => none
/-- A wave after it meets the check. -/
def gives (nbits bits : Nat) (f : Wave → Wave) (p : Wave → Bool) : Bool := match ran nbits bits f with
  | some w => p w
  | none => false
def Wave.v2 (w : Wave) (r : Nat) (x : Word) : Wave := w.setv r fun _ => x

/-- 12, Saturating forms: IADDS against IADD. -/
theorem test_iadds_saturates : (gives 32 (bitsOf (.iadds f3a)) (fun w => (w.v2 4 0x7FFFFFF0).v2 5 0x20) fun w =>
    w.lane 6 31 == 0x7FFFFFFF && w.csr.arithf == fSAT) = true := by decide +kernel
theorem test_iadd_wraps : (gives 32 0x00068485 (fun w => (w.v2 4 0x7FFFFFF0).v2 5 0x20) fun w =>
    w.lane 6 0 == 0x80000010 && w.csr.arithf == 0) = true := by decide +kernel
/-- 12, Saturating forms: INEG of the most negative number. -/
theorem test_ineg_saturates : (gives 32 (bitsOf (.ineg u3a)) (fun w => w.v2 4 0x80000000) fun w =>
    w.lane 5 7 == 0x7FFFFFFF && w.csr.arithf == fSAT) = true := by decide +kernel
/-- Table 12.1: the halves of −3 times 5. -/
theorem test_imul_low : (gives 32 (bitsOf (.imul f3a)) (fun w => (w.v2 4 0xFFFFFFFD).v2 5 5) fun w => w.lane 6 3 == 0xFFFFFFF1) = true := by
  decide +kernel
theorem test_imulh_high : (gives 32 (bitsOf (.imulh f3a)) (fun w => (w.v2 4 0xFFFFFFFD).v2 5 5) fun w => w.lane 6 3 == 4) = true := by
  decide +kernel
/-- 12, FFMA rounds once, FMUL and FADD round twice. -/
theorem test_ffma_rounds_once : (gives 32 (bitsOf (.ffma f3a)) (fun w => ((w.v2 4 0x3F800800).v2 5 0x3F800800).v2 6 0xBF800000) fun w =>
    w.lane 6 0 == 0x3A000400 && w.csr.arithf == 0) = true := by decide +kernel
theorem test_fmul_ties_to_even : (gives 32 (bitsOf (.fmul f3a)) (fun w => (w.v2 4 0x3F800800).v2 5 0x3F800800) fun w =>
    w.lane 6 0 == 0x3F801000 && w.csr.arithf == fINEXACT) = true := by decide +kernel
/-- Table 12.3: FCVT.f2i of 2.5 and −2.5 with each RM. -/
theorem test_fcvt_modes : [(0x2E038200, 2, -2), (0x2E038250, 2, -2), (0x2E038260, 3, -2), (0x2E038270, 2, -3)].all (fun e =>
    gives 32 e.1 (fun w => w.setv 2 fun l => if l = 0 then 0x40200000 else 0xC0200000) fun w =>
      (w.lane 3 0).toInt == e.2.1 && (w.lane 3 1).toInt == e.2.2 && w.csr.arithf == fINEXACT) = true := by decide +kernel
/-- Table 12.4: NaNs and zeros. -/
theorem test_fmin_nan : [(0x7FC12345, 0x3F800000, 0x3F800000, 0), (0x7F800001, 0x3F800000, 0x3F800000, fINVALID),
    (0x80000000, 0, 0x80000000, 0)].all (fun (e : Word × Word × Word × Flags) =>
    gives 32 (bitsOf (.fmin f3a)) (fun w => (w.v2 4 e.1).v2 5 e.2.1) fun w => w.lane 6 0 == e.2.2.1 && w.csr.arithf == e.2.2.2) = true := by
  decide +kernel
theorem test_fmax_nan : (gives 32 (bitsOf (.fmax f3a)) (fun w => (w.v2 4 0x7FC12345).v2 5 0x7F800001) fun w =>
    w.lane 6 0 == 0x7FC00000 && w.csr.arithf == fINVALID) = true := by decide +kernel
/-- Table 12.5: REDX with lane 5 alone. -/
theorem test_redx_uminx_one_lane : (gives 64 (0x370A8485 + 2 ^ 32 * 0x1A)
    (fun w => ((w.v2 4 0xFFFFFFFF).v2 5 7).flowOf fun f => { f with mask := 0x20 }) fun w =>
    w.rdS 10 == 0xFFFFFFFF && w.rdS 11 == 7) = true := by decide +kernel
theorem test_redx_fadd_one_lane : (gives 64 (0x37098300 + 2 ^ 32 * 0xC)
    (fun w => ((w.v2 3 0x80000000).v2 9 1).flowOf fun f => { f with mask := 0x20 }) fun w =>
    w.lane 9 5 == 0x80000000 && w.lane 9 4 == 1 && w.csr.arithf == 0) = true := by decide +kernel
/-- Table 11.15: the source lanes of SHFL, of 8 lanes, by 3. -/
theorem test_shfl_sources : [(0, [3, 3, 3, 3, 3, 3, 3, 3]), (1, [0, 1, 2, 0, 1, 2, 3, 4]), (2, [3, 4, 5, 6, 7, 5, 6, 7]),
    (3, [3, 2, 1, 0, 7, 6, 5, 4])].all (fun e =>
    gives 64 (bitsOf (.shfl { f3a with b := 0, wb := false } 2 (BitVec.ofNat 2 e.1) false 3)) (fun w => w.setv 4 fun l => BitVec.ofNat 32 l) fun w =>
      (List.range 8).map (fun l => (w.lane 6 l).toNat) == e.2) = true := by decide +kernel
/-- 17 R257: the terms of 0x55013F00. -/
theorem test_tcnt : (gives 32 0x83058400 (fun w => w.v2 4 0x55013F00) fun w => w.lane 5 9 == 0x00000407) = true := by decide +kernel
/-- 17, QBX of the ordinary block of Table 6.1, and DQBX of what it gives. -/
theorem test_qbx : (gives 32 0x86068505
    (fun w => w.setv 5 fun l => [0x40400000, 0xBFA00000, 0, 0, 0x3E99999A, 0xBD800000].getD l 0) fun w =>
    [0, 1, 2, 4, 5, 15].map (w.lane 6) == [0x000E8060, 0x000E80A8, 0x000E8000, 0x000E8013, 0x000E8084, 0x000E8000] &&
      w.csr.arithf == fINEXACT) = true := by decide +kernel
theorem test_dqbx : (gives 32 0x87078605
    (fun w => w.setv 6 fun l => [0x000E8060, 0x000E80A8, 0x000E8000, 0x000E8000, 0x000E8013, 0x000E8084].getD l 0x000E8000) fun w =>
    [0, 1, 4, 5].map (w.lane 7) == [0x40400000, 0xBFA00000, 0x3E980000, 0xBD800000]) = true := by decide +kernel
/-- Table 13.8: SADD s4, s4, 1. -/
theorem test_sadd : (gives 32 0x43104021 (fun w => w.sets [(4, 0xFFFFFFFF)]) fun w => w.rdS 4 == 0) = true := by decide +kernel
/-- R221, R332: TRAP 3 with a handler at 0x2000. -/
theorem test_trap : (gives 32 0xC2000003 (fun w => w.withTvec 0x2000) fun w =>
    w.csr.fcause == 0x83 && posHdr w.flow.pc == 0x2000 && posIndex w.flow.pc == 15 && w.flow.handler && w.csr.xword0 == 0xC2000003) = true := by
  decide +kernel
/-- R53: a word with a reserved opcode. -/
theorem test_reserved_opcode : (gives 32 0xFF000000 (fun w => w.withTvec 0x2000) fun w => w.csr.fcause == BitVec.ofNat 32 cRESERVED_ENCODING) = true := by
  decide +kernel
/-- R26: the first two entries of the capability list. -/
theorem test_capabilities : capList.take 32 =
    [0x01, 0, 1, 16, 0x10, 8, 0, 0, 2, 0, 0, 0, 0, 0, 0, 0, 0x02, 0, 1, 16, 0x20, 8, 0, 0, 0x40, 0, 0, 0, 0, 0, 0, 0] := by decide +kernel

/-- Which words are no instruction: the opcodes that Table 3.12 leaves reserved, and a field that must be 0 (R44, R53). -/
theorem test_rejects : (decode [0xFF000000]).toOption = none ∧ (decode [0x60000000]).toOption = none ∧
    (decode [0x2E038210]).toOption = none := by decide +kernel

end Sys2Proof.Machine
end

/-! PROOFS. Time, reset and sleep (00 R6, 09 R143, 27 R360, R366; 21 R298): one lemma for each event, and O22 from them. -/

namespace Sys2Proof.Machine

/-! ### What passing time leaves -/

@[simp] theorem State.pass_waves (s : State) (d : Nat) : (s.pass d).waves = s.waves := rfl
@[simp] theorem State.pass_die (s : State) (d : Nat) : (s.pass d).die = s.die := rfl
@[simp] theorem State.pass_host (s : State) (d : Nat) : (s.pass d).host = s.host := rfl
@[simp] theorem State.pass_dram (s : State) (d : Nat) : (s.pass d).pkg.dram = s.pkg.dram := rfl
@[simp] theorem State.pass_clock (s : State) (d : Nat) : (s.pass d).pkg.clock = s.pkg.clock + d := rfl

/-- The cores' clock stands still unless the die is ACTIVE (27 R366). -/
theorem State.pass_coreClock_of_gated {s : State} (d : Nat) (h : s.tabs.power ≠ .active) :
    (s.pass d).pkg.coreClock = s.pkg.coreClock := by
  simp [State.pass, h]

/-- The next multiple of 128 after a count is the next quotient, whole. -/
theorem next_multiple_of_128 (c : Nat) : c + (128 - c % 128) = (c / 128 + 1) * 128 := by omega

theorem State.heartbeat_pass_to_multiple (s : State) : (s.pass (128 - s.pkg.clock % 128)).heartbeat = s.heartbeat + 1 := by
  unfold State.heartbeat
  rw [State.pass_clock, next_multiple_of_128, Nat.mul_div_cancel _ (by decide), BitVec.ofNat_add]
  rfl

theorem State.clock_pass_to_multiple (s : State) : (s.pass (128 - s.pkg.clock % 128)).pkg.clock % 128 = 0 := by
  rw [State.pass_clock, next_multiple_of_128, Nat.mul_mod_left]

/-- HEARTBEAT_TICK (09 R143). -/
theorem exec_heartbeatTick (s : State) : exec .heartbeatTick s = .next (s.pass (128 - s.pkg.clock % 128)) := rfl

/-! ### A cold reset -/

/-- COLD_RESET and D3COLD are one boot (27 R360, R366). -/
theorem exec_of_boot {i : Instr} (hi : i ∈ [Instr.coldReset, .d3cold]) (s : State) :
    exec i s = .next (s.foundImage.2.cold s.foundImage.1) := by
  rcases List.mem_pair.mp hi with rfl | rfl <;> rfl

@[simp] theorem State.cold_w (s : State) (i : Image) : (s.cold i).w = State.reset.w := rfl
@[simp] theorem State.cold_others (s : State) (i : Image) : (s.cold i).others = [] := rfl
@[simp] theorem State.cold_cores (s : State) (i : Image) : (s.cold i).cores = [] := rfl
@[simp] theorem State.cold_die (s : State) (i : Image) : (s.cold i).die = { State.reset.die with die := s.die.die } := rfl
@[simp] theorem State.cold_sched (s : State) (i : Image) : (s.cold i).sched = State.reset.sched := rfl
@[simp] theorem State.cold_host (s : State) (i : Image) : (s.cold i).host = State.reset.host := rfl
@[simp] theorem State.cold_pkg (s : State) (i : Image) : (s.cold i).pkg = State.reset.pkg := rfl

theorem bootsImage_iff (i : Image) : bootsImage i = true ↔ i.good = true ∧ Config.rollbackCounter.toNat ≤ i.version.toNat := by
  rw [bootsImage, Bool.and_eq_true, decide_eq_true_iff]

/-- What a boot leaves of the host's tables: as at reset, but for the image, or the dies not enabled where it is refused (27
R360; 21 R298). -/
theorem State.cold_tabs (s : State) (i : Image) :
    (s.cold i).tabs = if i.good = true ∧ Config.rollbackCounter.toNat ≤ i.version.toNat
      then { State.reset.tabs with bootcfg := bootAccept i.bootcfg, firmware := some i, ports := (s.cold i).tabs.ports }
      else { State.reset.tabs with enabled := false, ports := (s.cold i).tabs.ports } := by
  by_cases hi : bootsImage i = true
  · rw [if_pos ((bootsImage_iff i).mp hi)]
    simp [State.cold, hi]
  · rw [if_neg (mt (bootsImage_iff i).mpr hi)]
    simp [State.cold, hi]

/-! ### Sleep -/

/-- SLEEP_ENTRY (27 R366). -/
theorem exec_sleepEntry (s : State) :
    exec .sleepEntry s = if s.host.run then .next s else .next (s.onTabs fun t => { t with power := .sleep }) := rfl

/-- SLEEP_EXIT (27 R366). -/
theorem exec_sleepExit (s : State) :
    exec .sleepExit s = if s.tabs.power = .sleep then .next (s.onTabs fun t => { t with power := .idle }) else .next s := rfl

/-- Settles O22: each event's own lemmas, put together. -/
theorem timeAndReset : Obligations.TimeAndReset := by
  intro s
  refine ⟨?tick, ?boot, ?sleep, ?stay, ?wake⟩
  case tick =>
    exact ⟨_, exec_heartbeatTick s, s.heartbeat_pass_to_multiple, s.clock_pass_to_multiple, s.pass_waves _, s.pass_die _, s.pass_host _,
      s.pass_dram _, State.pass_coreClock_of_gated _⟩
  case boot =>
    intro i hi
    exact ⟨_, exec_of_boot hi s, State.cold_w _ _, State.cold_others _ _, State.cold_cores _ _, State.cold_die _ _,
      State.cold_sched _ _, State.cold_host _ _, State.cold_pkg _ _, State.cold_tabs _ _⟩
  case sleep => exact fun h => ⟨_, (exec_sleepEntry s).trans (if_neg (by simp [h])), rfl⟩
  case stay => exact fun h => (exec_sleepEntry s).trans (if_pos h)
  case wake => exact fun h => ⟨_, (exec_sleepExit s).trans (if_pos h), rfl⟩

end Sys2Proof.Machine

/-! PROOFS. A word read by its fields (03 R36 to R44): the fields of a word, placed where they were read, make the word again. -/

namespace Sys2Proof.Laws

/-! ### Bits of fields -/

theorem getLsbD_fld {w : Word} {lo n k : Nat} : (fld w lo n).getLsbD k = (decide (k < n) && bitOf w (lo + k)) := by
  rw [fld, BitVec.getLsbD_extractLsb', bitOf]

theorem getLsbD_atBit {b : Bool} {j k : Nat} (hk : k < 32) : (atBit b j).getLsbD k = (decide (k = j) && b) := by
  cases b
  · simp [atBit]
  · rw [atBit, if_pos rfl, BitVec.getLsbD_ofNat, decide_eq_true hk, Bool.true_and, Nat.testBit_two_pow, Bool.and_true]
    exact decide_eq_decide.mpr eq_comm

theorem getLsbD_atBits {n : Nat} {x : BitVec n} {lo k : Nat} (hk : k < 32) :
    (atBits x lo).getLsbD k = (decide (lo ≤ k) && x.getLsbD (k - lo)) := by
  simp only [atBits, BitVec.getLsbD_shiftLeft, BitVec.getLsbD_setWidth, hk, show k - lo < 32 by omega, decide_true, Bool.true_and]
  by_cases h : lo ≤ k <;> simp [h]

theorem zeroBits_iff {w : Word} {lo n : Nat} : zeroBits w lo n = true ↔ ∀ k, lo ≤ k → k < lo + n → bitOf w k = false := by
  rw [zeroBits, beq_iff_eq]
  constructor
  · intro h k hl hk
    have hb : (fld w lo n).getLsbD (k - lo) = false := by rw [h]; exact BitVec.getLsbD_zero
    rwa [getLsbD_fld, Nat.add_sub_cancel' hl, decide_eq_true (by omega), Bool.true_and] at hb
  · intro h
    apply BitVec.eq_of_getLsbD_eq
    intro k hk
    rw [getLsbD_fld, h _ (by omega) (by omega), Bool.and_false]
    exact BitVec.getLsbD_zero.symm

section
variable {w : Word} {lo n k m : Nat}

theorem bitOf_of_zeroBits (h : zeroBits w lo n = true) (hl : lo ≤ k := by decide) (hk : k < lo + n := by decide) : bitOf w k = false :=
  zeroBits_iff.mp h k hl hk

theorem zeroBits_part (h : zeroBits w lo n = true) (hl : lo ≤ k := by decide) (hk : k + m ≤ lo + n := by decide) :
    zeroBits w k m = true :=
  zeroBits_iff.mpr fun j h1 h2 => bitOf_of_zeroBits h (by omega) (by omega)

theorem fld_of_zeroBits (h : zeroBits w lo n = true) (hl : lo ≤ k := by decide) (hk : k + m ≤ lo + n := by decide) : fld w k m = 0 :=
  beq_iff_eq.mp (zeroBits_part h hl hk)

theorem zeroBits_one (h : bitOf w k = false) : zeroBits w k 1 = true :=
  zeroBits_iff.mpr fun j h1 h2 => by rwa [show j = k by omega]

theorem zeroBits_none : zeroBits w k 0 = true := zeroBits_iff.mpr fun j h1 h2 => by omega

theorem zeroBits_append (h1 : zeroBits w lo m = true) (h2 : zeroBits w (lo + m) n = true) : zeroBits w lo (m + n) = true :=
  zeroBits_iff.mpr fun j hl hj => by
    by_cases hm : j < lo + m
    · exact bitOf_of_zeroBits h1 hl hm
    · exact bitOf_of_zeroBits h2 (by omega) (by omega)

/-- A field with zeros above it is the wider field at its place. -/
theorem fld_eq_setWidth (h : zeroBits w (lo + m) k = true) (hn : n ≤ m + k := by decide) : fld w lo n = (fld w lo m).setWidth n := by
  apply BitVec.eq_of_getLsbD_eq
  intro j hj
  rw [BitVec.getLsbD_setWidth, getLsbD_fld, getLsbD_fld]
  by_cases hm : j < m
  · simp [hm, hj]
  · simp [hm, bitOf_of_zeroBits h (show lo + m ≤ lo + j by omega) (by omega)]

theorem ofBool_bitOf : BitVec.ofBool (bitOf w lo) = fld w lo 1 := by
  apply BitVec.eq_of_getLsbD_eq
  intro j hj
  rw [getLsbD_fld, BitVec.getLsbD_ofBool, show j = 0 by omega]
  simp

/-- A flag with zeros above it is a field at its place. -/
theorem fld_eq_setWidth_ofBool (h : zeroBits w (lo + 1) k = true) (hn : n ≤ 1 + k := by decide) :
    fld w lo n = (BitVec.ofBool (bitOf w lo)).setWidth n := by
  rw [ofBool_bitOf, fld_eq_setWidth h hn]

/-- A scalar number in its 7-bit field (R44). -/
theorem fld_eq_s7 (h : bitOf w (lo + 6) = false) : fld w lo 7 = s7 (fld w lo 6) :=
  fld_eq_setWidth (zeroBits_one h)

/-- A flag at bit `k` above a field of `n` bits, zeros elsewhere, are the low byte of the word. -/
theorem low_byte_of_flag (hn : n ≤ k) (hz : zeroBits w n (k - n) = true) (ht : zeroBits w (k + 1) (7 - k) = true) :
    fld w 0 8 = (BitVec.ofBool (bitOf w k)).setWidth 8 <<< k ||| (fld w 0 n).setWidth 8 := by
  rw [ofBool_bitOf]
  apply BitVec.eq_of_getLsbD_eq
  intro j hj
  simp only [BitVec.getLsbD_or, BitVec.getLsbD_shiftLeft, BitVec.getLsbD_setWidth, getLsbD_fld, hj, Nat.zero_add, decide_true,
    Bool.true_and]
  rcases lt_trichotomy j k with hlt | rfl | hgt
  · by_cases hjn : j < n
    · simp [hlt, hjn]
    · simp [hlt, hjn, bitOf_of_zeroBits hz (show n ≤ j by omega) (by omega)]
  · simp [Nat.not_lt.mpr hn]
  · simp [show ¬j < k by omega, show ¬j - k < 1 by omega, show ¬j < n by omega,
      bitOf_of_zeroBits ht (show k + 1 ≤ j by omega) (by omega)]

/-- Bit 7 alone in the low byte. -/
theorem low_byte_of_bit7 (hb : bitOf w 7 = true) (hz : zeroBits w 0 7 = true) : fld w 0 8 = 0x80 := by
  rw [low_byte_of_flag (k := 7) (Nat.zero_le 7) hz zeroBits_none, hb, BitVec.of_length_zero (x := fld w 0 0)]
  rfl

end

/-! ### A word put together from the top -/

/-- `y` holds the bits of `w` from bit `lo` up, and zeros below. -/
def Top (w : Word) (lo : Nat) (y : Word) : Prop := ∀ k, k < 32 → y.getLsbD k = (decide (lo ≤ k) && bitOf w k)

namespace Top
variable {w y : Word} {lo n : Nat}

theorem start : Top w 32 0 := by
  intro k hk
  rw [decide_eq_false (by omega)]
  exact BitVec.getLsbD_zero

theorem gap (hz : zeroBits w lo n = true) (h : Top w (lo + n) y) : Top w lo y := by
  intro k hk
  rw [h k hk]
  by_cases h1 : lo ≤ k <;> by_cases h2 : lo + n ≤ k
  · simp [h1, h2]
  · simp [h2, bitOf_of_zeroBits hz h1 (by omega)]
  · omega
  · simp [h1, h2]

theorem field (h : Top w (lo + n) y) : Top w lo (y ||| atBits (fld w lo n) lo) := by
  intro k hk
  rw [BitVec.getLsbD_or, h k hk, getLsbD_atBits hk, getLsbD_fld]
  by_cases h1 : lo ≤ k
  · rw [Nat.add_sub_cancel' h1]
    by_cases h2 : lo + n ≤ k
    · simp [h1, h2]
    · simp [h1, h2, show k - lo < n by omega]
  · simp [h1, show ¬lo + n ≤ k by omega]

theorem bit (h : Top w (lo + 1) y) : Top w lo (y ||| atBit (bitOf w lo) lo) := by
  intro k hk
  rw [BitVec.getLsbD_or, h k hk, getLsbD_atBit hk]
  rcases lt_trichotomy k lo with h1 | rfl | h1
  · simp [show ¬lo + 1 ≤ k by omega, show ¬lo ≤ k by omega, show k ≠ lo by omega]
  · simp
  · simp [show lo + 1 ≤ k by omega, show lo ≤ k by omega, show k ≠ lo by omega]

/-- The highest part is a field. -/
theorem headField (h : Top w (lo + n) 0) : Top w lo (atBits (fld w lo n) lo) := by
  simpa using h.field

/-- The highest part is a bit. -/
theorem headBit (h : Top w (lo + 1) 0) : Top w lo (atBit (bitOf w lo) lo) := by
  simpa using h.bit

/-- The highest part is the opcode (R37 to R42). -/
theorem op {op : Nat} (ho : opcodeOf w = op) : Top w 24 (atOp op) := by
  have h : atBits (fld w 24 8) 24 = atOp op := by
    rw [← ho, opcodeOf]
    apply BitVec.eq_of_toNat_eq
    rw [atBits, atOp, BitVec.toNat_shiftLeft, BitVec.toNat_setWidth, BitVec.toNat_ofNat, Nat.shiftLeft_eq,
      Nat.mod_eq_of_lt (lt_trans (fld w 24 8).isLt (by decide))]
  exact h ▸ headField start

theorem eq (h : Top w 0 y) : y = w := by
  apply BitVec.eq_of_getLsbD_eq
  intro k hk
  exact (h k hk).trans (by simp [bitOf])

end Top

/-! ### The formats (Tables 3.4 to 3.8, 11.11, 13.4, 13.5) -/

section
variable {w x : Word} {op : Nat}

theorem atOp_of_zeroBits (ho : opcodeOf w = op) (hz : zeroBits w 0 24 = true) : atOp op = w := Top.eq (.gap hz (.op ho))

theorem toWord_F3_ofWord (ho : opcodeOf w = op) : (F3.ofWord w).toWord op = w :=
  Top.eq (.field (.bit (.field (.bit (.field (.bit (.op ho)))))))

theorem toWord_FS_ofWord (ho : opcodeOf w = op) : (FS.ofWord w).toWord op = w :=
  Top.eq (.field (.field (.field (.field (.op ho)))))

theorem toWord_TA_ofWord (ho : opcodeOf w = op) : (TA.ofWord w).toWord op = w :=
  Top.eq (.field (.field (.field (.bit (.field (.bit (.op ho)))))))

theorem toWord_FC_ofWord (ho : opcodeOf w = op) (hu : bitOf w 7 = false) : (FC.ofWord w).toWord op = w :=
  Top.eq (.field (.field (.gap (zeroBits_one hu) (.field (.bit (.field (.bit (.op ho))))))))

theorem word0_eq {q wa wb : Bool} {d a b : BitVec 7} (ho : opcodeOf w = op) (hq : bitOf w 23 = q) (hd : fld w 16 7 = d)
    (hwa : bitOf w 15 = wa) (ha : fld w 8 7 = a) (hwb : bitOf w 7 = wb) (hb : fld w 0 7 = b) : word0 op q d wa a wb b = w := by
  subst hq hd hwa ha hwb hb
  exact toWord_F3_ofWord ho

theorem wordFI_eq {q wa : Bool} {d a : BitVec 7} {imm : BitVec 8} (ho : opcodeOf w = op) (hq : bitOf w 23 = q)
    (hd : fld w 16 7 = d) (hwa : bitOf w 15 = wa) (ha : fld w 8 7 = a) (hi : fld w 0 8 = imm) : wordFI op q d wa a imm = w := by
  subst hq hd hwa ha hi
  exact Top.eq (.field (.field (.bit (.field (.bit (.op ho))))))

theorem wordFS_eq {sd sa sb imm : BitVec 6} (ho : opcodeOf w = op) (hd : fld w 18 6 = sd) (ha : fld w 12 6 = sa)
    (hb : fld w 6 6 = sb) (hi : fld w 0 6 = imm) : wordFS op sd sa sb imm = w := by
  subst hd ha hb hi
  exact toWord_FS_ofWord ho

theorem wordFB_eq {neg : Bool} {pidx : BitVec 3} {level : BitVec 4} (ho : opcodeOf w = op) (hn : bitOf w 23 = neg)
    (hp : fld w 20 3 = pidx) (hl : fld w 16 4 = level) (hz : zeroBits w 0 16 = true) : wordFB op neg pidx level = w := by
  subst hn hp hl
  exact Top.eq (.gap hz (.field (.field (.bit (.op ho)))))

/-- A unary word (R156). -/
theorem toWord_U3_ofWord (ho : opcodeOf w = op) (hq : bitOf w 23 = false) (hz : zeroBits w 0 8 = true) :
    (U3.ofWord w).toWord op = w :=
  word0_eq ho hq rfl rfl rfl (bitOf_of_zeroBits hz) (fld_of_zeroBits hz)

/-- A word whose B names a scalar register. -/
theorem word_scalarB {wa : Bool} {d a : BitVec 7} (ho : opcodeOf w = op) (hq : bitOf w 23 = true) (hb : bitOf w 6 = false)
    (hd : fld w 16 7 = d) (hwa : bitOf w 15 = wa) (ha : fld w 8 7 = a) :
    word0 op true d wa a (bitOf w 7) (s7 (fld w 0 6)) = w :=
  word0_eq ho hq hd hwa ha rfl (fld_eq_s7 hb)

/-- A word whose D and B name scalar registers. -/
theorem word_scalarDB {wa : Bool} {a : BitVec 7} (ho : opcodeOf w = op) (hd : bitOf w 22 = false) (hq : bitOf w 23 = true)
    (hb : bitOf w 6 = false) (hwa : bitOf w 15 = wa) (ha : fld w 8 7 = a) :
    word0 op true (s7 (fld w 16 6)) wa a (bitOf w 7) (s7 (fld w 0 6)) = w :=
  word_scalarB ho hq hb (fld_eq_s7 hd) hwa ha

/-- The same with nothing in A's field. -/
theorem word_scalarDB_noA (ho : opcodeOf w = op) (hz : zeroBits w 8 8 = true) (hd : bitOf w 22 = false) (hq : bitOf w 23 = true)
    (hb : bitOf w 6 = false) : word0 op true (s7 (fld w 16 6)) false 0 (bitOf w 7) (s7 (fld w 0 6)) = w :=
  word_scalarDB ho hd hq hb (bitOf_of_zeroBits hz) (fld_of_zeroBits hz)

/-- A word whose D names a scalar register, with a vector source A and a number in B's field. -/
theorem word_scalarD {b : BitVec 7} (ho : opcodeOf w = op) (hq : bitOf w 23 = false) (hd : bitOf w 22 = false)
    (hwb : bitOf w 7 = false) (hb : fld w 0 7 = b) : word0 op false (s7 (fld w 16 6)) (bitOf w 15) (fld w 8 7) false b = w :=
  word0_eq ho hq (fld_eq_s7 hd) rfl rfl hwb hb

/-- The same with nothing in A's field. -/
theorem word_scalarD_noA {b : BitVec 7} (ho : opcodeOf w = op) (hz : zeroBits w 7 9 = true) (hq : bitOf w 23 = false)
    (hd : bitOf w 22 = false) (hb : fld w 0 7 = b) : word0 op false (s7 (fld w 16 6)) false 0 false b = w :=
  word0_eq ho hq (fld_eq_s7 hd) (bitOf_of_zeroBits hz) (fld_of_zeroBits hz)
    (bitOf_of_zeroBits hz) hb

/-- The same with nothing but D. -/
theorem word_scalarD_only (ho : opcodeOf w = op) (hz : zeroBits w 0 16 = true) (hq : bitOf w 23 = false) (hd : bitOf w 22 = false) :
    word0 op false (s7 (fld w 16 6)) false 0 false 0 = w :=
  word_scalarD_noA ho (zeroBits_part hz) hq hd (fld_of_zeroBits hz)

/-- Word 0 of the address forms (R206). -/
theorem toWord_MA_ofWords {n lo : Nat} {d : BitVec 7} (ho : opcodeOf w = op) (hq : bitOf w 23 = bitOf x 0) (hb : bitOf w 6 = false)
    (hd : fld w 16 7 = d) : (MA.ofWords n lo w x).toWord op d = w :=
  word0_eq ho hq hd rfl rfl rfl (fld_eq_s7 hb)

/-- Word 1 of Table 13.4. -/
theorem wordMem_eq {scope : BitVec 2} {wv sx am : Bool} {v : BitVec 7} {ord : BitVec 3} (hs : fld x 16 2 = scope)
    (hwv : bitOf x 15 = wv) (hv : fld x 8 7 = v) (ho : fld x 5 3 = ord) (hsx : bitOf x 1 = sx) (ham : bitOf x 0 = am) :
    wordMem (fld x 18 14) scope wv v ord (fld x 2 3) sx am = x := by
  subst hs hwv hv ho hsx ham
  exact Top.eq (.bit (.bit (.field (.field (.field (.bit (.field (.headField .start))))))))

/-- Word 1 of Table 13.5. -/
theorem wordAtom_eq {aop : BitVec 4} (hu : bitOf x 1 = false) (ha : fld x 18 4 = aop) :
    wordAtom (fld x 22 10) aop (fld x 16 2) (bitOf x 15) (fld x 8 7) (fld x 5 3) (fld x 2 3) (bitOf x 0) = x := by
  subst ha
  exact Top.eq (.bit (.gap (zeroBits_one hu) (.field (.field (.field (.bit (.field (.field (.headField .start)))))))))

/-- Word 1 of a branch (Table 3.8). -/
theorem wordOffs_eq {roff : BitVec 16} (hr : fld x 0 16 = roff) : wordOffs (fld x 16 16) roff = x := by
  subst hr
  exact Top.eq (.field (.headField .start))

/-- A second word with one field at the bottom. -/
theorem atBits_fld_eq {n m : Nat} (h : n + m = 32) (hz : zeroBits x n m = true) : atBits (fld x 0 n) 0 = x :=
  Top.eq (.headField (.gap (lo := 0 + n) (n := m) (by rwa [Nat.zero_add]) (by rw [Nat.zero_add, h]; exact .start)))

end

end Sys2Proof.Laws

/-! PROOFS. What words decode to has those words as its encoding (00 R5; 03 R27, R36 to R44, R53): class by class (R52), a
case for each opcode in the order of Tables 3.11 to 3.17, and O55 from them. -/

namespace Sys2Proof.Laws

/-! ### Rules for what a decoder answers -/

/-- The words that the opcode takes of two (R27). -/
def wordsUsed (w x : Word) : List Word := if opcodeWords (opcodeOf w) = 2 then [w, x] else [w]

/-- An instruction that the decoder answers for two words encodes to those that its opcode takes. -/
def EncodesBack (w x : Word) (d : Decoded) : Prop := ∀ i, d = .ok i → encode i = wordsUsed w x

namespace EncodesBack
variable {w x y z : Word} {d : Decoded} {i : Instr} {e : DecodeError} {op : Nat}

theorem error : EncodesBack w x (.error e) := fun _ h => nomatch h

theorem one (ho : opcodeOf w = op) (hn : opcodeWords op = 1) (he : encode i = [y]) (hy : y = w) : EncodesBack w x (.ok i) := by
  rintro _ ⟨⟩
  rw [he, hy, wordsUsed, ho, hn, if_neg (by decide)]

theorem two (ho : opcodeOf w = op) (hn : opcodeWords op = 2) (he : encode i = [y, z]) (hy : y = w) (hz : z = x) :
    EncodesBack w x (.ok i) := by
  rintro _ ⟨⟩
  rw [he, hy, hz, wordsUsed, ho, if_pos hn]

theorem passed {p : Prop} [Decidable p] (h : p → EncodesBack w x d) : EncodesBack w x (if p then d else .error e) := by
  split
  · exact h ‹_›
  · exact error

theorem barred {b : Bool} (h : b = false → EncodesBack w x d) : EncodesBack w x (if b = true then .error e else d) := by
  cases b
  · exact h rfl
  · exact error

theorem barredNot {b : Bool} (h : b = true → EncodesBack w x d) : EncodesBack w x (if b = false then .error e else d) := by
  cases b
  · exact error
  · exact h rfl

/-- B must name a scalar register, under the condition of its entry on bit 23. -/
theorem namesB {p : Prop} [Decidable p] {e' : DecodeError} (h : p → bitOf w 6 = false → EncodesBack w x d) :
    EncodesBack w x (if p then (if bitOf w 6 = true then .error e' else d) else .error e) :=
  passed fun hp => barred fun hb => h hp hb

/-- D and B must name scalar registers. -/
theorem namesDB {e₁ e₂ : DecodeError} (h : bitOf w 22 = false → bitOf w 23 = true → bitOf w 6 = false → EncodesBack w x d) :
    EncodesBack w x (if bitOf w 22 = true then .error e else
      if bitOf w 23 = true then (if bitOf w 6 = true then .error e₁ else d) else .error e₂) :=
  barred fun hd => namesB fun hq hb => h hd hq hb

theorem f3 (ho : opcodeOf w = op) (hn : opcodeWords op = 1) (he : encode i = [(F3.ofWord w).toWord op]) :
    EncodesBack w x (.ok i) := one ho hn he (toWord_F3_ofWord ho)

theorem fs (ho : opcodeOf w = op) (hn : opcodeWords op = 1) (he : encode i = [(FS.ofWord w).toWord op]) :
    EncodesBack w x (.ok i) := one ho hn he (toWord_FS_ofWord ho)

theorem unary (ho : opcodeOf w = op) (hn : opcodeWords op = 1) (he : encode i = [(U3.ofWord w).toWord op]) :
    EncodesBack w x (if bitOf w 23 = false ∧ zeroBits w 0 8 = true then .ok i else .error e) :=
  passed fun ⟨hq, hz⟩ => one ho hn he (toWord_U3_ofWord ho hq hz)

/-- An instruction without operands. -/
theorem bare (ho : opcodeOf w = op) (hn : opcodeWords op = 1) (he : encode i = [atOp op]) :
    EncodesBack w x (if zeroBits w 0 24 = true then .ok i else .error e) :=
  passed fun hz => one ho hn he (atOp_of_zeroBits ho hz)

/-- An instruction whose D names a scalar register, with nothing else. -/
theorem scalarD (ho : opcodeOf w = op) (hn : opcodeWords op = 1) (he : encode i = [word0 op false (s7 (fld w 16 6)) false 0 false 0])
    {e' : DecodeError} :
    EncodesBack w x (if zeroBits w 0 16 = true ∧ bitOf w 23 = false then
      (if bitOf w 22 = true then .error e' else .ok i) else .error e) :=
  passed fun ⟨hz, hq⟩ => barred fun hd => one ho hn he (word_scalarD_only ho hz hq hd)

/-- The same with a 3-bit selector in B's field. -/
theorem scalarDSel (ho : opcodeOf w = op) (hn : opcodeWords op = 1)
    (he : encode i = [word0 op false (s7 (fld w 16 6)) false 0 false ((fld w 0 3).setWidth 7)]) {e' : DecodeError} :
    EncodesBack w x (if zeroBits w 3 13 = true ∧ bitOf w 23 = false then
      (if bitOf w 22 = true then .error e' else .ok i) else .error e) :=
  passed fun ⟨hz, hq⟩ => barred fun hd => one ho hn he
    (word_scalarD_noA ho (zeroBits_part hz) hq hd (fld_eq_setWidth hz))

/-- A jump with a target and no further operands. -/
theorem jump (ho : opcodeOf w = op) (hn : opcodeWords op = 2) (he : encode i = [wordFB op false 0 0, wordOffs (fld x 16 16) 0])
    (hw : zeroBits w 0 24 = true) (hx : zeroBits x 0 16 = true) : EncodesBack w x (.ok i) :=
  two ho hn he (wordFB_eq ho (bitOf_of_zeroBits hw) (fld_of_zeroBits hw)
    (fld_of_zeroBits hw) (zeroBits_part hw)) (wordOffs_eq (beq_iff_eq.mp hx))

/-- A copy: B names the scalar registers of its descriptor, and nothing else stands in the first word. -/
theorem copy (ho : opcodeOf w = op) (hn : opcodeWords op = 2) (he : encode i = [word0 op true 0 false 0 (bitOf w 7) (s7 (fld w 0 6)), z])
    (hw : zeroBits w 8 15 = true) (hz : z = x) {e' : DecodeError} :
    EncodesBack w x (if bitOf w 23 = true then (if bitOf w 6 = true then .error e' else .ok i) else .error e) :=
  namesB fun hq hb => two ho hn he (word_scalarB ho hq hb (fld_of_zeroBits hw)
    (bitOf_of_zeroBits hw) (fld_of_zeroBits hw)) hz

end EncodesBack

open EncodesBack

/-! ### The classes -/

theorem decodeInt_encodesBack (w x : Word) : EncodesBack w x (decodeInt w x) := by
  simp only [decodeInt, unused, unaryOk, Bool.and_eq_true, Bool.not_eq_true']
  split
  iterate 16 (next ho => exact f3 ho rfl rfl)
  iterate 4 (next ho => exact unary ho rfl rfl)
  case h_21 ho => -- BFE
    exact passed fun ⟨⟨hq, hz⟩, hx⟩ => two ho rfl rfl (toWord_U3_ofWord ho hq hz)
      (Top.eq (.field (.field (.headBit (.gap hx .start)))))
  case h_22 ho => -- BFI
    exact passed fun hx => two ho rfl rfl (toWord_F3_ofWord ho) (Top.eq (.field (.headField (.gap hx .start))))
  case h_23 ho => exact f3 ho rfl rfl
  case h_24 ho => -- SEL
    exact passed fun hx => two ho rfl rfl (toWord_F3_ofWord ho) (Top.eq (.field (.headBit (.gap hx .start))))
  case h_25 ho => exact unary ho rfl rfl
  case h_26 ho => -- MOVI
    exact passed fun ⟨⟨hq, hb⟩, ha⟩ => two ho rfl rfl (word0_eq ho hq rfl (bitOf_of_zeroBits ha)
      (fld_of_zeroBits ha) (bitOf_of_zeroBits hb) (fld_of_zeroBits hb)) rfl
  case h_27 ho => exact one ho rfl rfl (wordFI_eq ho rfl rfl rfl rfl rfl) -- IADDI
  case h_28 ho => -- LEA
    exact passed fun hx => two ho rfl rfl (toWord_F3_ofWord ho) (Top.eq (.field (.bit (.gap hx (.headField .start)))))
  case h_29 ho => exact f3 ho rfl rfl
  iterate 2 (next ho => exact unary ho rfl rfl)
  exact error

theorem decodeFlt_encodesBack (w x : Word) : EncodesBack w x (decodeFlt w x) := by
  simp only [decodeFlt, unused, unaryOk, scalarOr, Bool.and_eq_true, Bool.not_eq_true']
  split
  iterate 4 (next ho => exact f3 ho rfl rfl)
  case h_5 ho => -- FFMA3
    exact passed fun hx => two ho rfl rfl (toWord_F3_ofWord ho) (Top.eq (.field (.headBit (.gap hx .start))))
  iterate 3 (next ho => exact f3 ho rfl rfl)
  iterate 6 (next ho => exact unary ho rfl rfl)
  case h_15 ho => exact passed fun hu => one ho rfl rfl (toWord_FC_ofWord ho hu) -- FCVT
  iterate 5 (next ho => exact f3 ho rfl rfl)
  case h_21 ho => exact passed fun hu => one ho rfl rfl (toWord_FC_ofWord ho hu) -- DCVT
  case h_22 ho => -- VOTE
    exact passed fun ⟨hq, hz⟩ => barred fun hd => one ho rfl rfl
      (word_scalarD ho hq hd (bitOf_of_zeroBits hz) (fld_eq_setWidth hz))
  case h_23 ho => -- SHFL
    exact passed fun ⟨hx, hg⟩ => two ho rfl rfl (toWord_F3_ofWord ho)
      (Top.eq (.field (.bit (.gap hg (.field (.headField (.gap hx .start)))))))
  case h_24 ho => -- REDX
    exact passed fun hx => two ho rfl rfl (toWord_F3_ofWord ho) (Top.eq (.field (.headBit (.gap hx .start))))
  exact error

theorem decodeCtl_encodesBack (w x : Word) : EncodesBack w x (decodeCtl w x) := by
  simp only [decodeCtl, unused, scalarOr, scalarB, Bool.and_eq_true, Bool.not_eq_true']
  split
  case h_1 ho => exact bare ho rfl rfl
  case h_2 ho => -- SMOV
    exact passed fun hz => one ho rfl rfl (wordFS_eq ho rfl rfl (fld_of_zeroBits hz) (fld_of_zeroBits hz))
  case h_3 ho => -- SMOVI
    exact passed fun ⟨hz, hq⟩ => barred fun hd => two ho rfl rfl (word_scalarD_only ho hz hq hd) rfl
  iterate 8 (next ho => exact fs ho rfl rfl)
  case h_12 ho => -- SCMP
    exact passed fun ⟨hd, hr⟩ => one ho rfl rfl (wordFS_eq ho (fld_eq_setWidth hd) rfl rfl (fld_eq_setWidth hr))
  case h_13 ho => -- S2V
    exact passed fun hz => namesB fun hq hb => one ho rfl rfl (word_scalarB ho hq hb rfl
      (bitOf_of_zeroBits hz) (fld_of_zeroBits hz))
  case h_14 ho => -- V2S
    exact passed fun ⟨hq, hz⟩ => barred fun hd => one ho rfl rfl
      (word_scalarD ho hq hd (bitOf_of_zeroBits hz) (fld_eq_setWidth hz))
  case h_15 ho => exact passed fun ⟨hw, hx⟩ => jump ho rfl rfl hw hx -- BRA
  case h_16 ho => -- BRC
    exact passed fun hz => two ho rfl rfl (wordFB_eq ho rfl rfl (fld_of_zeroBits hz) (zeroBits_part hz)) (wordOffs_eq rfl)
  case h_17 ho => -- BRK
    exact passed fun ⟨⟨hz, ht⟩, hx⟩ => two ho rfl rfl (wordFB_eq ho (bitOf_of_zeroBits ht)
      (fld_of_zeroBits ht) rfl hz) (Top.eq (.gap hx .start))
  case h_18 ho => -- JMPI
    exact passed fun ⟨⟨ht, hz⟩, hx⟩ => two ho rfl rfl (word0_eq ho (bitOf_of_zeroBits ht)
      (fld_of_zeroBits ht) rfl rfl (bitOf_of_zeroBits hz)
      (fld_of_zeroBits hz)) (atBits_fld_eq rfl hx)
  case h_19 ho => exact passed fun ⟨hw, hx⟩ => jump ho rfl rfl hw hx -- CALL
  iterate 2 (next ho => exact bare ho rfl rfl)
  case h_22 ho => -- BAR
    exact passed fun ⟨hz, hu⟩ => one ho rfl rfl (Top.eq (.field (.gap (zeroBits_one hu) (.field (.field (.gap hz (.op ho)))))))
  case h_23 ho => -- SPAWN
    exact passed fun hz => namesB fun hq hb => one ho rfl rfl (word_scalarB ho hq hb (fld_of_zeroBits hz) rfl rfl)
  case h_24 ho => -- TQPUSH
    exact namesDB fun hd hq hb => one ho rfl rfl (word_scalarDB ho hd hq hb rfl rfl)
  case h_25 ho => -- TQPOP
    exact passed fun hz => namesDB fun hd hq hb => one ho rfl rfl
      (word_scalarDB ho hd hq hb (bitOf_of_zeroBits hz) (fld_eq_setWidth_ofBool hz))
  case h_26 ho => -- TQSTAT
    exact passed fun hz => namesDB fun hd hq hb => one ho rfl rfl (word_scalarDB_noA ho hz hd hq hb)
  case h_27 ho => exact scalarD ho rfl rfl -- RECGET
  case h_28 ho => exact bare ho rfl rfl
  case h_29 ho => -- WAITC
    exact passed fun hz => one ho rfl rfl (Top.eq (.field (.field (.gap hz (.op ho)))))
  exact error

theorem decodeMem_encodesBack (w x : Word) : EncodesBack w x (decodeMem w x) := by
  simp only [decodeMem, unused, scalarOr, scalarB, memOr, Bool.and_eq_true, Bool.not_eq_true', beq_iff_eq]
  split
  case h_1 ho => -- LD
    exact passed fun hx => namesB fun hq hb => two ho rfl rfl (toWord_MA_ofWords ho hq hb rfl)
      (wordMem_eq rfl (bitOf_of_zeroBits hx) (fld_of_zeroBits hx) rfl rfl rfl)
  case h_2 ho => -- ST
    exact passed fun ⟨hd, hu⟩ => namesB fun hq hb => two ho rfl rfl
      (toWord_MA_ofWords ho hq hb (fld_of_zeroBits hd)) (wordMem_eq rfl rfl rfl rfl hu rfl)
  iterate 2 (next ho => exact one ho rfl rfl (toWord_TA_ofWord ho)) -- LDT, STT
  case h_5 ho => -- SLD
    exact passed fun ⟨⟨hz, hv⟩, hu⟩ => namesDB fun hd hq hb => two ho rfl rfl (word_scalarDB_noA ho hz hd hq hb)
      (wordMem_eq rfl (bitOf_of_zeroBits hv) (fld_of_zeroBits hv) rfl (bitOf_of_zeroBits hu) (bitOf_of_zeroBits hu))
  case h_6 ho => -- ATOM
    exact passed fun hu => namesB fun hq hb => two ho rfl rfl (toWord_MA_ofWords ho hq hb rfl) (wordAtom_eq hu rfl)
  case h_7 ho => -- ATOMC
    exact passed fun ⟨hu, ha⟩ => namesB fun hq hb => two ho rfl rfl (toWord_MA_ofWords ho hq hb rfl)
      (wordAtom_eq hu (fld_of_zeroBits ha))
  case h_8 ho => -- RED
    exact passed fun ⟨hu, hd⟩ => namesB fun hq hb => two ho rfl rfl
      (toWord_MA_ofWords ho hq hb (fld_of_zeroBits hd)) (wordAtom_eq hu rfl)
  case h_9 ho => -- FENCE
    exact passed fun ⟨hz, hg⟩ => one ho rfl rfl (Top.eq (.field (.field (.gap hg (.gap hz (.op ho))))))
  case h_10 ho => -- CCTL
    exact passed fun ⟨⟨hd, hx⟩, hu⟩ => namesB fun hq hb => two ho rfl rfl (toWord_MA_ofWords ho hq hb (fld_of_zeroBits hd))
      (wordMem_eq (fld_of_zeroBits hx) (bitOf_of_zeroBits hx) (fld_of_zeroBits hx) (fld_of_zeroBits hx) hu rfl)
  case h_11 ho => -- RBEGIN
    exact passed fun ⟨⟨hz, hq⟩, hx⟩ => barred fun hd => two ho rfl rfl (word_scalarD_only ho hz hq hd) (atBits_fld_eq rfl hx)
  case h_12 ho => exact bare ho rfl rfl
  case h_13 ho => exact passed fun hz => one ho rfl rfl (Top.eq (.field (.gap hz (.op ho)))) -- RABORT
  case h_14 ho => exact scalarDSel ho rfl rfl -- RSTAT
  case h_15 ho => -- OBIND
    exact passed fun hz => namesDB fun hd hq hb => two ho rfl rfl (word_scalarDB_noA ho hz hd hq hb) rfl
  case h_16 ho => -- OUNBIND
    exact passed fun hz => namesDB fun hd hq hb => one ho rfl rfl (word_scalarDB_noA ho hz hd hq hb)
  case h_17 ho => -- OSEAL
    exact passed fun hz => namesDB fun hd hq hb => one ho rfl rfl
      (word_scalarDB ho hd hq hb (bitOf_of_zeroBits hz) (fld_eq_setWidth hz))
  case h_18 ho => -- ORECIPE
    exact passed fun hz => namesDB fun hd hq hb => two ho rfl rfl (word_scalarDB_noA ho hz hd hq hb) rfl
  case h_19 ho => -- OPRIO
    exact passed fun hz => namesDB fun hd hq hb => one ho rfl rfl
      (word_scalarDB ho hd hq hb (bitOf_of_zeroBits hz) (fld_eq_setWidth hz))
  case h_20 ho => -- OEVICT
    exact passed fun hz => namesDB fun hd hq hb => one ho rfl rfl
      (word_scalarDB ho hd hq hb (bitOf_of_zeroBits hz) (fld_eq_setWidth_ofBool hz))
  case h_21 ho => -- TMTAG
    exact passed fun hz => one ho rfl rfl (wordFI_eq ho rfl rfl rfl rfl (low_byte_of_flag (k := 7) (by decide) hz zeroBits_none))
  exact error

theorem decodeTerm_encodesBack (w x : Word) : EncodesBack w x (decodeTerm w x) := by
  simp only [decodeTerm, unused, scalarOr, scalarB, Bool.and_eq_true, Bool.not_eq_true']
  split
  case h_1 ho => -- TMM
    exact barredNot fun hx => barredNot fun hq => barred fun hb => two ho rfl rfl (word_scalarB ho hq hb rfl rfl rfl)
      (Top.eq (.field (.field (.headBit (.gap hx .start)))))
  case h_2 ho => -- TPROM
    exact passed fun ⟨hz, hq⟩ => one ho rfl rfl (word0_eq ho hq rfl (bitOf_of_zeroBits hz)
      (fld_of_zeroBits hz) (bitOf_of_zeroBits hz) (fld_of_zeroBits hz))
  case h_3 ho => -- TBOUND
    exact passed fun ⟨hq, hu⟩ => barred fun hd => one ho rfl rfl (word_scalarD ho hq hd hu rfl)
  case h_4 ho => -- TCNT
    exact passed fun ⟨hq, hz⟩ => one ho rfl rfl (word0_eq ho hq rfl rfl rfl (bitOf_of_zeroBits hz) (fld_eq_setWidth hz))
  case h_5 ho => -- TLENC
    exact passed fun ⟨hz, hx⟩ => namesDB fun hd hq hb => two ho rfl rfl
      (word_scalarDB_noA ho hz hd hq hb) (atBits_fld_eq rfl hx)
  case h_6 ho => -- TLDEC
    exact passed fun hx => namesB fun hq hb => two ho rfl rfl (word_scalarB ho hq hb rfl rfl rfl) (atBits_fld_eq rfl hx)
  iterate 2 -- QBX, DQBX
    next ho =>
      exact passed fun ⟨hq, hz⟩ => one ho rfl rfl (wordFI_eq ho hq rfl rfl rfl (low_byte_of_flag (k := 3) (by decide) zeroBits_none hz))
  case h_9 ho => -- DECS
    exact passed fun ⟨hz, hx⟩ => namesDB fun hd hq hb => barred fun hl => two ho rfl rfl
      (word_scalarDB_noA ho hz hd hq hb) (Top.eq (.field (.gap (zeroBits_one hl) (.headBit (.gap hx .start)))))
  case h_10 ho => -- XMM
    exact passed fun ⟨hz, hx⟩ => namesB fun hq hb => two ho rfl rfl (word_scalarB ho hq hb rfl
      (bitOf_of_zeroBits hz) (fld_of_zeroBits hz))
      (Top.eq (.field (.bit (.headBit (.gap hx .start)))))
  case h_11 ho => exact scalarDSel ho rfl rfl -- TSTAT
  exact error

theorem decodeCopy_encodesBack (w x : Word) : EncodesBack w x (decodeCopy w x) := by
  simp only [decodeCopy, unused, scalarOr, scalarB, Bool.and_eq_true, Bool.not_eq_true']
  split
  iterate 2 (next ho => exact passed fun hz => copy ho rfl rfl hz rfl) -- CPYT, CPYG
  case h_3 ho => -- CPYW
    exact passed fun hz => namesB fun hq hb => two ho rfl rfl (word_scalarB ho hq hb rfl
      (bitOf_of_zeroBits hz) (fld_of_zeroBits hz)) rfl
  case h_4 ho => exact passed fun ⟨hz, hx⟩ => copy ho rfl rfl hz (atBits_fld_eq rfl hx) -- CPYP
  case h_5 ho => exact passed fun hz => copy ho rfl rfl hz rfl -- CFILL
  case h_6 ho =>
    split
    case isTrue hm => -- CWAIT_SEQ
      exact passed fun ⟨⟨hd, hz⟩, hq⟩ => barred fun ha => one ho rfl rfl (wordFI_eq ho hq (fld_of_zeroBits hd)
        rfl (fld_eq_s7 ha) (low_byte_of_bit7 hm hz))
    case isFalse hm => -- CWAIT_CNT
      exact passed fun ⟨hz, hu⟩ => one ho rfl rfl (wordFI_eq ho (bitOf_of_zeroBits hz)
        (fld_of_zeroBits hz) (bitOf_of_zeroBits hz) (fld_of_zeroBits hz)
        (fld_eq_setWidth (zeroBits_append (zeroBits_one hu) (zeroBits_one (Bool.eq_false_iff.mpr hm)))))
  case h_7 ho => -- CSEQ
    exact passed fun ⟨hz, hq⟩ => barred fun hd => one ho rfl rfl (word_scalarD_noA ho (zeroBits_part hz) hq hd
      (fld_eq_setWidth_ofBool hz))
  exact error

theorem decodeSys_encodesBack (w x : Word) : EncodesBack w x (decodeSys w) := by
  simp only [decodeSys, unused, scalarOr, Bool.and_eq_true, Bool.not_eq_true']
  split
  case h_1 ho => -- CSRR
    exact passed fun hz => one ho rfl rfl (wordFI_eq ho rfl rfl (bitOf_of_zeroBits hz) (fld_of_zeroBits hz) rfl)
  case h_2 ho => -- CSRW
    exact passed fun hz => one ho rfl rfl (wordFI_eq ho rfl (fld_of_zeroBits hz) rfl rfl rfl)
  case h_3 ho => -- TRAP
    exact passed fun hz => one ho rfl rfl (wordFI_eq ho (bitOf_of_zeroBits hz)
      (fld_of_zeroBits hz) (bitOf_of_zeroBits hz) (fld_of_zeroBits hz)
      (fld_eq_setWidth hz))
  iterate 3 (next ho => exact bare ho rfl rfl)
  iterate 2 (next ho => exact scalarD ho rfl rfl) -- HBEAT, CLOCK
  case h_9 ho => -- PERFC
    exact passed fun ⟨hz, hq⟩ => barred fun hd => one ho rfl rfl (wordFI_eq ho hq (fld_eq_s7 hd)
      (bitOf_of_zeroBits hz) (fld_of_zeroBits hz) rfl)
  case h_10 ho => exact bare ho rfl rfl
  exact error

theorem decodeFields_encodesBack (w x : Word) : EncodesBack w x (decodeFields w x) := by
  unfold decodeFields
  split
  · exact decodeInt_encodesBack w x
  · exact decodeFlt_encodesBack w x
  · exact decodeCtl_encodesBack w x
  · exact decodeMem_encodesBack w x
  · exact decodeTerm_encodesBack w x
  · exact decodeCopy_encodesBack w x
  · exact decodeSys_encodesBack w x
  · exact error

/-! ### The whole decoder -/

theorem opcodeWords_cases (op : Nat) : opcodeWords op = 1 ∨ opcodeWords op = 2 := by
  unfold opcodeWords
  split
  · exact .inr rfl
  · exact .inl rfl

theorem length_wordsUsed (w x : Word) : (wordsUsed w x).length = opcodeWords (opcodeOf w) := by
  rcases opcodeWords_cases (opcodeOf w) with h | h <;> simp [wordsUsed, h]

/-- The second word that `decode` reads (R27). -/
def secondWord (w : Word) (rest : List Word) : Word := if opcodeWords (opcodeOf w) == 2 then rest.headD 0 else 0

/-- What a run of words that decodes comes to: the fields of its words are those of an instruction that breaks no rule of its
entry, and no word is missing (R27, R36, R44). -/
theorem decode_cons_ok {w : Word} {rest : List Word} {i : Instr} (h : decode (w :: rest) = .ok i) :
    (opcodeWords (opcodeOf w) = 2 → rest ≠ []) ∧ decodeFields w (secondWord w rest) = .ok i ∧ fieldError i = none := by
  simp only [decode] at h
  split at h
  next => cases h
  next hn =>
    split at h
    next => cases h
    next hf =>
      split at h
      next => cases h
      next he =>
        cases h
        exact ⟨fun h2 h0 => hn (by simp [h2, h0]), hf, he⟩

theorem wordsUsed_secondWord {w : Word} {rest : List Word} (h : opcodeWords (opcodeOf w) = 2 → rest ≠ []) :
    wordsUsed w (secondWord w rest) = (w :: rest).take (opcodeWords (opcodeOf w)) := by
  rcases opcodeWords_cases (opcodeOf w) with h1 | h2
  · simp [wordsUsed, h1]
  · obtain ⟨x, t, rfl⟩ := List.exists_cons_of_ne_nil (h h2)
    simp [wordsUsed, secondWord, h2]

/-- Settles O55: each class encodes back, and the words used are those that the opcode takes. -/
theorem decodedWords : Obligations.DecodedWords := by
  intro ws i h
  cases ws with
  | nil => cases h
  | cons w rest =>
    obtain ⟨hn, hf, hok⟩ := decode_cons_ok h
    have he : encode i = wordsUsed w (secondWord w rest) := decodeFields_encodesBack w _ i hf
    have hwf : i.wellFormed = true := by rw [Instr.wellFormed, hok]; rfl
    exact ⟨hwf, he.trans (wordsUsed_secondWord hn), he ▸ length_wordsUsed w _⟩

end Sys2Proof.Laws

/-! PROOFS. A link that fails (01 R22), and O53: what waits at a link counts as in flight there whatever link it names, while in VC3
a packet counts for the link that it names, so that a packet which names another link drops out of the count as it enters VC3. -/

namespace Sys2Proof.Machine

/-! ### A link failure -/

@[simp] theorem State.raise_pkg (s : State) (v : Nat) : (s.raise v).pkg = s.pkg := rfl

/-- The device once a link has gone down, the packets that no detour can carry are lost, and VC3 has moved (01 R22, R24). -/
def State.afterCut (s : State) (l : FabricLink) : State :=
  (forEach ((List.range 8).filter (s.pkg.cut l).stranded) (s.onPkg fun p => p.cut l) fun md x => x.loseStranded md).onPkg Pkg.vc3Move

theorem exec_linkFailure_of_up {s : State} {l : FabricLink} (hup : s.pkg.isUp l = true) :
    exec (.linkFailure l) s =
      .next (if (s.afterCut l).pkg.linkstat s.die.die = s.pkg.linkstat s.die.die then s.afterCut l else (s.afterCut l).raise 5) :=
  if_pos hup

theorem exec_linkFailure_pkg {s t : State} {l : FabricLink} (hup : s.pkg.isUp l = true) (ht : exec (.linkFailure l) s = .next t) :
    t.pkg = (s.afterCut l).pkg := by
  rw [exec_linkFailure_of_up hup] at ht
  injection ht with ht
  rw [← ht]
  split
  · rfl
  · exact State.raise_pkg _ _

/-- Where no packet is stranded, none is lost. -/
theorem State.afterCut_of_kept {s : State} {l : FabricLink} (h : ∀ md < 8, (s.pkg.cut l).stranded md = false) :
    s.afterCut l = s.onPkg fun p => (p.cut l).vc3Move := by
  have hnone : (List.range 8).filter (s.pkg.cut l).stranded = [] :=
    List.filter_eq_nil_iff.mpr fun md hmd => by simp [h md (List.mem_range.mp hmd)]
  rw [State.afterCut, hnone]
  rfl

/-! ### A packet at a link that it does not name -/

/-- A read that names link 1. -/
def strayPacket : Packet := { no := 0, link := 1, toCd := false, src := .thisDie, pa := 0, fields := 0, home := 0, body := .read }

/-- A reset device, but that the retry buffer of link 0 towards its memory die holds that packet. -/
def strayState : State :=
  let toMd : LinkDir := { nextSeq := 1, delivered := 1, retry := [strayPacket], waiting := [] }
  { State.reset with pkg := { Pkg.reset with links := [(0, { Link.reset with toMd := toMd })] } }

theorem strayState_linkUp (j : Nat) : strayState.pkg.linkUp j = true := by
  simp only [Pkg.linkUp, Pkg.link, look, look?, strayState]
  split <;> rfl

theorem strayState_retry : (strayState.pkg.dir 0 false).retry = [strayPacket] := rfl

theorem strayState_not_stranded : ∀ md < 8, (strayState.pkg.cut (.near 0)).stranded md = false := by decide

/-- Once link 0 has failed the packet is in VC3, where it counts for link 1. -/
theorem strayState_inFlight_after : (strayState.pkg.cut (.near 0)).vc3Move.inFlight 0 false = [] := by decide +kernel

/-- Refutes O53: in `strayState` link 0 fails, and the packet of its retry buffer is then not in flight on it. The statement lacks the
hypothesis that every packet which a link holds names that link and its direction; `Pkg.carry` and `Pkg.divert` file packets so. -/
theorem not_linksAndBlocks : ¬ Obligations.LinksAndBlocks := by
  rintro ⟨hlinks, -⟩
  obtain ⟨-, hfail, -⟩ := hlinks strayState (.near 0) 0 0 .thisDie 0 0 false 0
  obtain ⟨t, ht, -, -, -, -, -, hnear⟩ := hfail (strayState_linkUp 0)
  obtain ⟨-, pre, -, hend⟩ := hnear 0 rfl rfl rfl (fun j _ => strayState_linkUp j) false
  have hafter : t.pkg.inFlight 0 false = pre ++ (strayState.pkg.dir 0 false).retry ++ (strayState.pkg.dir 0 false).waiting := hend
  have hempty : t.pkg.inFlight 0 false = [] := by
    rw [exec_linkFailure_pkg (l := .near 0) (strayState_linkUp 0) ht, State.afterCut_of_kept strayState_not_stranded,
      State.onPkg_pkg, strayState_inFlight_after]
  have hmem : strayPacket ∈ t.pkg.inFlight 0 false := by
    rw [hafter, strayState_retry]
    exact List.mem_append_left _ (List.mem_append_right _ (List.mem_singleton_self _))
  rw [hempty] at hmem
  exact List.not_mem_nil hmem

end Sys2Proof.Machine

/-! PROOFS. Reads of host registers and the capability list (01 R25, R26; 27 R347, R351, R354, R359, R364), and O29 from them. -/

namespace Sys2Proof.Machine

/-! ### The capability list -/

/-- Table 1.7: the entry of feature `k` + 1 by its fields, the last one pointing nowhere (01 R25, R26). -/
theorem capList_entry : ∀ k < 9,
    let field := fun o n => bytesNat ((capList.drop (16 * k + o)).take n)
    field 0 2 = k + 1 ∧ field 2 1 = 1 ∧ field 3 1 = 16 ∧ field 4 4 = (if k = 8 then 0 else 0x800 + 16 * (k + 1)) ∧
      field 8 4 = [2, 64, 64, 64, 8, 16, 4, 128, 16].getD k 0 ∧ field 12 4 = 0 := by
  decide

/-! ### Reads of the registers -/

/-- A read of a whole register, which is aligned to 8 bytes. -/
theorem State.mmioRead_whole (s : State) {off : Nat} (h : off % 8 = 0) : s.mmioRead off 8 = s.mmioWord off % 2 ^ 64 := by
  rw [State.mmioRead, bitsN, show off / 8 * 8 = off by omega, h, Nat.mul_zero, Nat.pow_zero, Nat.div_one]

/-- A read of the low half of a register. -/
theorem State.mmioRead_low (s : State) {off : Nat} (h : off % 8 = 0) : s.mmioRead off 4 = s.mmioWord off % 2 ^ 32 := by
  rw [State.mmioRead, bitsN, show off / 8 * 8 = off by omega, h, Nat.mul_zero, Nat.pow_zero, Nat.div_one]

/-- A read of the high half of a register. -/
theorem State.mmioRead_high (s : State) {off : Nat} (h : off % 8 = 0) :
    s.mmioRead (off + 4) 4 = s.mmioWord off / 2 ^ 32 % 2 ^ 32 := by
  rw [State.mmioRead, bitsN, show (off + 4) / 8 * 8 = off by omega, show (off + 4) % 8 = 4 by omega]

theorem State.mmioWord_peerto (s : State) : s.mmioWord 0x58 = s.host.peerto.toNat := rfl

theorem State.mmioWord_alarmcfg (s : State) : s.mmioWord 0x6000 = if s.die.die = 0 then s.tabs.alarmcfg.toNat else 0 := rfl

/-- The handover entries stand from offset 0x100 on, 8 bytes to each (Table 27.1). -/
theorem State.mmioWord_hotab (s : State) {n : Nat} (h : n < 256) :
    s.mmioWord (0x100 + 8 * n) = (look HoEnt.none s.tabs.hotab n).bits := by
  have below (c : Nat) (hc : c < 0x100) : 0x100 + 8 * n ≠ c := by omega
  unfold State.mmioWord
  simp only [below _, Nat.reduceLT, if_false]
  rw [if_neg (by omega), if_pos (by omega), show (0x100 + 8 * n - 0x100) / 8 = n by omega]

/-! ### Reads after writes -/

/-- A narrow write of PEERTO takes the low 24 bits (27 R359). -/
theorem exec_registerWrite_peerto (s : State) (val : BitVec 64) :
    exec (.registerWrite 0x58 false val) s = .next (s.onHost fun h => { h with peerto := lowHalf val &&& 0xFFFFFF }) := rfl

theorem lowHalf_and_24_ones (val : BitVec 64) : (lowHalf val &&& 0xFFFFFF).toNat = (val.extractLsb' 0 24).toNat := by
  rw [lowHalf, BitVec.toNat_and, BitVec.extractLsb'_toNat, BitVec.extractLsb'_toNat,
    show (0xFFFFFF : Word).toNat = 2 ^ 24 - 1 from rfl, Nat.and_two_pow_sub_one_eq_mod]
  omega

/-- An entry of HOTAB as a write with bit 63 set makes it: in HOST (27 R351). -/
def HoEnt.written (val : BitVec 64) : HoEnt := { valid := true, state := 2, base := (val.extractLsb' 21 28).toNat }

/-- A read of 8 bytes shows all of a written entry. -/
theorem HoEnt.bits_written (val : BitVec 64) :
    (HoEnt.written val).bits % 2 ^ 64 = 2 ^ 63 + 2 * 2 ^ 61 + (val.extractLsb' 21 28).toNat * 2 ^ 21 := by
  have hb : (val.extractLsb' 21 28).toNat < 2 ^ 28 := BitVec.isLt _
  simp only [HoEnt.bits, HoEnt.written, if_true]
  omega

/-- A write that makes an entry valid which was not, and whose range no valid entry has (27 R351). -/
theorem exec_hotabWrite_fresh {s : State} {n : BitVec 8} {val : BitVec 64}
    (hold : (look HoEnt.none s.tabs.hotab n.toNat).valid = false) (hval : val.getLsbD 63 = true)
    (hfree : ∀ x ∈ s.tabs.hotab, x.2.valid = true → x.2.base ≠ (val.extractLsb' 21 28).toNat) :
    exec (.hotabWrite n val) s = .next (s.setHo n.toNat (HoEnt.written val)) := by
  have hbase : bitsN val.toNat 21 28 = (val.extractLsb' 21 28).toNat := by
    rw [bitsN, BitVec.extractLsb'_toNat, Nat.shiftRight_eq_div_pow]
  have hother : (s.tabs.hotab.any fun e => e.1 != n.toNat && e.2.valid && e.2.base == (val.extractLsb' 21 28).toNat) = false := by
    rw [List.any_eq_false]
    intro e he
    cases hv : e.2.valid
    · simp
    · simp [-BitVec.extractLsb'_toNat, hfree e he hv]
  show Host.Outcome.next (s.writeHotab n.toNat val) = _
  simp only [State.writeHotab, hold, hother, hval, hbase, Bool.false_and, Bool.true_and, Bool.false_eq_true, if_false, if_true,
    HoEnt.written]

theorem State.setHo_hotab (s : State) (n : Nat) (e : HoEnt) : look HoEnt.none (s.setHo n e).tabs.hotab n = e := by
  simp [State.setHo]

/-- Settles O29: the capability list by its entries, and each register's read by what its word is. -/
theorem hostReads : Obligations.HostReads := by
  refine ⟨⟨rfl, capList_entry⟩, rfl, fun s n val off => ⟨?halves, ?peerto, ?hotab, ?alarmcfg⟩⟩
  case halves =>
    intro h
    rw [s.mmioRead_low h, s.mmioRead_high h, s.mmioRead_whole h]
    omega
  case peerto =>
    intro t ht
    rw [exec_registerWrite_peerto] at ht
    cases ht
    rw [State.mmioRead_low _ (by rfl), State.mmioWord_peerto, State.onHost_host, lowHalf_and_24_ones]
    exact Nat.mod_eq_of_lt ((BitVec.isLt _).trans (by decide))
  case hotab =>
    intro hold hval hfree
    refine ⟨_, exec_hotabWrite_fresh hold hval hfree, ?_⟩
    rw [State.mmioRead_whole _ (by omega), State.mmioWord_hotab _ n.isLt, State.setHo_hotab, HoEnt.bits_written]
  case alarmcfg =>
    intro h
    rw [s.mmioRead_low (by rfl), s.mmioWord_alarmcfg, if_neg h, Nat.zero_mod]

end Sys2Proof.Machine

/-! PROOFS. What a cold reset leaves (01 R18, R19; 05 R83), and O58: the fields by evaluation, and the memory that physical addresses
reach by where boot puts a frame. -/

namespace Sys2Proof.Machine

/-! ### Homes and blocks as boot leaves them -/

/-- A reset package's entries are those of boot (01 R19). -/
theorem Pkg.reset_homeEnt (f : Nat) : Pkg.reset.homeEnt f = HomeEnt.boot f := rfl

theorem Pkg.reset_stackBlock (pa : Nat) :
    Pkg.reset.stackBlock pa = stackBase (pa / 65536 % 8) (pa / 65536 / 8) + pa % 65536 / 256 * 256 := rfl

/-- A place of a stack is in the reserve if its local frame is. -/
theorem inReserve_local {md lframe off : Nat} (hl : lframe < 2 ^ 20) (ho : off < 65536) :
    inReserve (md * 2 ^ 36 + lframe * 2 ^ 16 + off) = decide (1046400 ≤ lframe) := by
  rw [inReserve]
  congr 2
  omega

/-- The home of an address that DRAM reaches is a memory die, and its block lies below the reserve (01 R18, R19). -/
theorem Pkg.reset_stackBlock_bounds {pa : Nat} (h : paOk pa = true) :
    inReserve (Pkg.reset.stackBlock pa) = false ∧ Pkg.reset.stackBlock pa / 2 ^ 36 < 8 := by
  have hpa : pa < 8371200 * 65536 := of_decide_eq_true h
  have hoff : pa % 65536 / 256 * 256 < 65536 := by omega
  rw [Pkg.reset_stackBlock, stackBase, inReserve_local (by omega) hoff, decide_eq_false_iff_not]
  omega

theorem Pkg.reset_blockMeta (stack : Nat) :
    Pkg.reset.blockMeta stack = { code := if inReserve stack then 0 else 1, fields := 0 } := by
  unfold Pkg.blockMeta
  split <;> rfl

theorem paOk_of_lt {pa : Nat} (h : pa < 8371200 * 65536) : paOk pa = true := decide_eq_true h

/-! ### Reading a block of a reset package -/

/-- With every link up each of the eight memory dies is reached (01 R24). -/
theorem Pkg.reset_unreachable (d md : Nat) : Pkg.reset.unreachable d md = false := by
  have hup (k : Nat) : Pkg.reset.linkUp k = true := rfl
  have hbridge : Pkg.reset.bridge = true := rfl
  simp [Pkg.unreachable, hup, hbridge]

/-- No slot holds a key, so no page selects one. -/
theorem Pkg.reset_keyTag (f : Nat) : Pkg.reset.keyTag f = 0 := by
  unfold Pkg.keyTag
  split <;> rfl

/-- A block of code 1 decodes to 256 bytes 0 (05 R83, R84). -/
theorem Pkg.reset_decoded {pa : Nat} (f : Nat) (h : paOk pa = true) : Pkg.reset.decoded pa f = some (List.replicate 256 0) := by
  rw [Pkg.decoded, Pkg.reset_blockMeta, (Pkg.reset_stackBlock_bounds h).1]
  rfl

theorem Pkg.reset_readPoison {pa : Nat} (d f : Nat) (h : paOk pa = true) : Pkg.reset.readPoison d pa f = false := by
  have hdec : Pkg.reset.undecodable pa f = false := by
    rw [Pkg.undecodable, Pkg.reset_decoded f h, Option.isNone_some, Bool.and_false]
  have hcode : poisonCode (Pkg.reset.blockMeta (Pkg.reset.stackBlock pa)).code = false := by
    rw [Pkg.reset_blockMeta, (Pkg.reset_stackBlock_bounds h).1]
    rfl
  simp only [Pkg.readPoison, Pkg.reset_unreachable, hcode, hdec, Bool.or_self]

/-- Every block that a physical address reaches reads as 0 (05 R83). -/
theorem Pkg.reset_readBlock {pa : Nat} (d f : Nat) (h : paOk pa = true) :
    Pkg.reset.readBlock d pa f = (false, Vector.replicate 256 0) := by
  simp only [Pkg.readBlock, Pkg.reset_readPoison d f h, Pkg.reset_decoded f h, Bool.false_eq_true, if_false]
  refine Prod.ext rfl (Vector.ext fun i hi => ?_)
  rw [Vector.getElem_ofFn, Vector.getElem_replicate, List.length_replicate, if_pos hi, List.getD_replicate _ hi]
  rfl

/-- Settles O58: the fields of reset by evaluation, its memory by the lemmas above. -/
theorem resetState : Obligations.ResetState := by
  refine ⟨State.reset_wf, rfl, rfl, rfl, rfl, rfl, rfl, rfl, rfl, rfl, rfl, rfl, rfl, rfl, rfl, rfl, rfl, rfl, rfl, rfl, rfl, rfl, rfl, rfl,
    fun _ => rfl, fun _ => rfl, fun f _ => Pkg.reset_homeEnt f, ?codes, fun d f pa h => Pkg.reset_readBlock d f (paOk_of_lt h),
    fun _ => rfl⟩
  case codes =>
    intro md _ lframe hl off ho
    show Pkg.reset.blockMeta _ = _
    rw [Pkg.reset_blockMeta, inReserve_local hl ho]
    by_cases h : lframe < 1046400
    · simp [h]
    · simp [h, Nat.le_of_not_lt h]

end Sys2Proof.Machine

/-! PROOFS. The words of an instruction read back (03 R36 to R44): what the encoder has placed in a word, the decoder reads there;
each instruction's fields from that, and O54 from them. -/

namespace Sys2Proof.Laws

/-! ### Fields of a word put together from parts -/

section
variable {n m lo j k : Nat}

theorem bitOf_eq_false_of_le (x : Word) (h : 32 ≤ k) : bitOf x k = false := BitVec.getLsbD_of_ge _ _ h

@[simp] theorem bitOf_or (x y : Word) (k : Nat) : bitOf (x ||| y) k = (bitOf x k || bitOf y k) := BitVec.getLsbD_or

@[simp] theorem fld_of_or (x y : Word) (lo n : Nat) : fld (x ||| y) lo n = fld x lo n ||| fld y lo n := by
  simp only [fld, BitVec.extractLsb'_or]

@[simp] theorem zeroBits_or (x y : Word) (lo n : Nat) : zeroBits (x ||| y) lo n = (zeroBits x lo n && zeroBits y lo n) := by
  rw [Bool.eq_iff_iff, Bool.and_eq_true]
  simp only [zeroBits_iff, bitOf_or, Bool.or_eq_false_iff]
  exact ⟨fun h => ⟨fun k h1 h2 => (h k h1 h2).1, fun k h1 h2 => (h k h1 h2).2⟩, fun h k h1 h2 => ⟨h.1 k h1 h2, h.2 k h1 h2⟩⟩

@[simp] theorem bitOf_zero (k : Nat) : bitOf 0#32 k = false := BitVec.getLsbD_zero

@[simp] theorem fld_zero (lo n : Nat) : fld 0#32 lo n = 0 := by simp [fld]

@[simp] theorem zeroBits_zero (lo n : Nat) : zeroBits 0#32 lo n = true := zeroBits_iff.mpr fun k _ _ => bitOf_zero k

/-! ### Where the parts are 0 -/

@[simp] theorem atBit_false (k : Nat) : atBit false k = 0 := rfl

@[simp] theorem atBits_zero (n j : Nat) : atBits 0#n j = 0 := by simp [atBits]

@[simp] theorem bitOf_atBits_apart (x : BitVec n) (h : k < j ∨ j + n ≤ k) : bitOf (atBits x j) k = false := by
  by_cases hk : k < 32
  · rw [bitOf, getLsbD_atBits hk]
    rcases h with h | h
    · simp [show ¬j ≤ k by omega]
    · rw [BitVec.getLsbD_of_ge _ _ (by omega), Bool.and_false]
  · exact bitOf_eq_false_of_le _ (by omega)

@[simp] theorem bitOf_atBit_apart (b : Bool) (h : k ≠ j) : bitOf (atBit b j) k = false := by
  by_cases hk : k < 32
  · rw [bitOf, getLsbD_atBit hk, decide_eq_false h, Bool.false_and]
  · exact bitOf_eq_false_of_le _ (by omega)

/-- The opcode stands above bit 23. -/
@[simp] theorem bitOf_atOp (op : Nat) (h : k < 24) : bitOf (atOp op) k = false := by
  rw [bitOf, atOp, BitVec.getLsbD_ofNat, Nat.testBit_mul_two_pow, decide_eq_false (show ¬24 ≤ k by omega), Bool.false_and,
    Bool.and_false]

@[simp] theorem zeroBits_atBits_apart (x : BitVec m) (h : lo + n ≤ j ∨ j + m ≤ lo) : zeroBits (atBits x j) lo n = true :=
  zeroBits_iff.mpr fun _ _ _ => bitOf_atBits_apart x (by omega)

@[simp] theorem zeroBits_atBit_apart (b : Bool) (h : lo + n ≤ j ∨ j < lo) : zeroBits (atBit b j) lo n = true :=
  zeroBits_iff.mpr fun _ _ _ => bitOf_atBit_apart b (by omega)

@[simp] theorem zeroBits_atOp (op : Nat) (h : lo + n ≤ 24) : zeroBits (atOp op) lo n = true :=
  zeroBits_iff.mpr fun _ _ _ => bitOf_atOp op (by omega)

@[simp] theorem fld_atBits_apart (x : BitVec m) (h : lo + n ≤ j ∨ j + m ≤ lo) : fld (atBits x j) lo n = 0 :=
  beq_iff_eq.mp (zeroBits_atBits_apart x h)

@[simp] theorem fld_atBit_apart (b : Bool) (h : lo + n ≤ j ∨ j < lo) : fld (atBit b j) lo n = 0 :=
  beq_iff_eq.mp (zeroBits_atBit_apart b h)

@[simp] theorem fld_atOp (op : Nat) (h : lo + n ≤ 24) : fld (atOp op) lo n = 0 := beq_iff_eq.mp (zeroBits_atOp op h)

/-! ### What the parts hold -/

@[simp] theorem fld_atBits_self (x : BitVec n) (h : lo + n ≤ 32) : fld (atBits x lo) lo n = x := by
  apply BitVec.eq_of_getLsbD_eq
  intro k hk
  rw [getLsbD_fld, bitOf, getLsbD_atBits (by omega)]
  simp [hk]

@[simp] theorem bitOf_atBit_self (b : Bool) (h : k < 32) : bitOf (atBit b k) k = b := by
  rw [bitOf, getLsbD_atBit h]
  simp

@[simp] theorem bitOf_atBits_ofBool (b : Bool) (h : k < 32) : bitOf (atBits (BitVec.ofBool b) k) k = b := by
  rw [bitOf, getLsbD_atBits h]
  simp

@[simp] theorem atBits_or (x y : BitVec n) (j : Nat) : atBits (x ||| y) j = atBits x j ||| atBits y j := by
  simp only [atBits, BitVec.setWidth_or, BitVec.shiftLeft_or_distrib]

/-- A field with zeros above it is the field at the same place. -/
@[simp] theorem atBits_setWidth (x : BitVec n) (h : n ≤ m) : atBits (x.setWidth m) j = atBits x j := by
  rw [atBits, atBits, BitVec.setWidth_setWidth]
  omega

@[simp] theorem atBits_s7 (r : BitVec 6) (j : Nat) : atBits (s7 r) j = atBits r j := atBits_setWidth r (by decide)

/-- A flag above a field in the low byte. -/
@[simp] theorem atBits_flag (b : Bool) (h : k < 8) : atBits ((BitVec.ofBool b).setWidth 8 <<< k) 0 = atBits (BitVec.ofBool b) k := by
  apply BitVec.eq_of_getLsbD_eq
  intro i hi
  rw [getLsbD_atBits hi, getLsbD_atBits hi, Nat.sub_zero, BitVec.getLsbD_shiftLeft, BitVec.getLsbD_setWidth]
  by_cases hk : i = k
  · simp [hk, h]
  · by_cases hlt : i < k
    · simp [hlt, show ¬k ≤ i by omega]
    · simp [hlt, show i - k ≠ 0 by omega]

/-- Bit 7 alone in the low byte. -/
theorem atBits_bit7 : atBits 0x80#8 0 = atBit true 7 := by decide

theorem fld_atOp_opcode (op : Nat) : fld (atOp op) 24 8 = BitVec.ofNat 8 op := by
  apply BitVec.eq_of_getLsbD_eq
  intro k hk
  rw [getLsbD_fld, bitOf, atOp, BitVec.getLsbD_ofNat, BitVec.getLsbD_ofNat, Nat.testBit_mul_two_pow]
  simp [hk, show 24 + k < 32 by omega]

end

/-! ### The formats read back (Tables 3.4 to 3.8, 11.11, 13.4, 13.5) -/

section
variable (op : Nat)

@[simp] theorem F3.ofWord_toWord (f : F3) : F3.ofWord (f.toWord op) = f := by simp (disch := decide) [F3.ofWord, F3.toWord]

theorem word0_parts (q : Bool) (d : BitVec 7) (wa : Bool) (a : BitVec 7) (wb : Bool) (b : BitVec 7) : word0 op q d wa a wb b =
    atOp op ||| atBit q 23 ||| atBits d 16 ||| atBit wa 15 ||| atBits a 8 ||| atBit wb 7 ||| atBits b 0 := rfl

@[simp] theorem U3.ofWord_toWord (u : U3) : U3.ofWord (u.toWord op) = u := by simp (disch := decide) [U3.ofWord, U3.toWord, word0_parts]

@[simp] theorem unaryOk_toWord (u : U3) : unaryOk (u.toWord op) = true := by simp (disch := decide) [unaryOk, U3.toWord, word0_parts]

@[simp] theorem FS.ofWord_toWord (f : FS) : FS.ofWord (f.toWord op) = f := by simp (disch := decide) [FS.ofWord, FS.toWord, wordFS]

@[simp] theorem FC.ofWord_toWord (f : FC) : FC.ofWord (f.toWord op) = f := by simp (disch := decide) [FC.ofWord, FC.toWord]

@[simp] theorem bitOf_FC_toWord (f : FC) : bitOf (f.toWord op) 7 = false := by simp (disch := decide) [FC.toWord]

@[simp] theorem TA.ofWord_toWord (t : TA) : TA.ofWord (t.toWord op) = t := by simp (disch := decide) [TA.ofWord, TA.toWord]

section
variable {n : Nat} (m : MA n) (d : BitVec 7) (x : Word)

@[simp] theorem MA.ofWords_toWord (lo : Nat) : MA.ofWords n lo (m.toWord op d) x = { m with am := bitOf x 0, off := fld x lo n } := by
  simp (disch := decide) [MA.ofWords, MA.toWord, word0_parts]

@[simp] theorem fld_MA_toWord : fld (m.toWord op d) 16 7 = d := by simp (disch := decide) [MA.toWord, word0_parts]

@[simp] theorem zeroBits_MA_toWord : zeroBits (m.toWord op 0#7) 16 7 = true := by simp (disch := decide) [MA.toWord, word0_parts]

/-- QB is AM, and B names a scalar register. -/
@[simp] theorem memOr_toWord (i : Decoded) : memOr (m.toWord op d) x i = if m.am == bitOf x 0 then i else .error .unusedField := by
  simp (disch := decide) [memOr, scalarOr, MA.toWord, word0_parts]

end

end

/-! ### The fields of an instruction read back -/

/-- The decoder reads the fields of an instruction from the words of its encoding (R36 to R42), as many as the opcode takes (R27). -/
def ReadsBack (i : Instr) : Prop :=
  ∃ w ws, encode i = w :: ws ∧ ws.length + 1 = opcodeWords (opcodeOf w) ∧ decodeFields w (ws.headD 0) = .ok i

namespace ReadsBack
variable {i : Instr} {w x : Word} {op : Nat}

theorem one (he : encode i = [w]) (ho : opcodeOf w = op) (hn : opcodeWords op = 1) (hf : opcodeOf w = op → decodeFields w 0 = .ok i) :
    ReadsBack i := ⟨w, [], he, ho ▸ hn.symm, hf ho⟩

theorem two (he : encode i = [w, x]) (ho : opcodeOf w = op) (hn : opcodeWords op = 2)
    (hf : opcodeOf w = op → decodeFields w x = .ok i) : ReadsBack i := ⟨w, [x], he, ho ▸ hn.symm, hf ho⟩

theorem f3 {mk : F3 → Instr} {f : F3} (he : encode (mk f) = [f.toWord op]) (hop : op < 256) (hn : opcodeWords op = 1)
    (hf : ∀ w, opcodeOf w = op → decodeFields w 0 = .ok (mk (F3.ofWord w))) : ReadsBack (mk f) :=
  one he (opcode_F3 f hop) hn fun ho => by rw [hf _ ho, F3.ofWord_toWord]

theorem unary {mk : U3 → Instr} {u : U3} (he : encode (mk u) = [u.toWord op]) (hop : op < 256) (hn : opcodeWords op = 1)
    (hf : ∀ w, opcodeOf w = op → decodeFields w 0 = unused (unaryOk w) (mk (U3.ofWord w))) : ReadsBack (mk u) :=
  one he (opcode_U3 u hop) hn fun ho => by rw [hf _ ho, unaryOk_toWord, U3.ofWord_toWord]; rfl

theorem fs {mk : FS → Instr} {f : FS} (he : encode (mk f) = [f.toWord op]) (hop : op < 256) (hn : opcodeWords op = 1)
    (hf : ∀ w, opcodeOf w = op → decodeFields w 0 = .ok (mk (FS.ofWord w))) : ReadsBack (mk f) :=
  one he (opcode_FS f hop) hn fun ho => by rw [hf _ ho, FS.ofWord_toWord]

theorem fc {mk : FC → Instr} {f : FC} (he : encode (mk f) = [f.toWord op]) (hop : op < 256) (hn : opcodeWords op = 1)
    (hf : ∀ w, opcodeOf w = op → decodeFields w 0 = unused (!bitOf w 7) (mk (FC.ofWord w))) : ReadsBack (mk f) :=
  one he (opcode_FC f hop) hn fun ho => by rw [hf _ ho, bitOf_FC_toWord, FC.ofWord_toWord]; rfl

theorem ta {mk : TA → Instr} {t : TA} (he : encode (mk t) = [t.toWord op]) (hop : op < 256) (hn : opcodeWords op = 1)
    (hf : ∀ w, opcodeOf w = op → decodeFields w 0 = .ok (mk (TA.ofWord w))) : ReadsBack (mk t) :=
  one he (opcode_TA t hop) hn fun ho => by rw [hf _ ho, TA.ofWord_toWord]

/-- An instruction without operands. -/
theorem bare (he : encode i = [atOp op]) (hop : op < 256) (hn : opcodeWords op = 1)
    (hf : ∀ w, opcodeOf w = op → decodeFields w 0 = unused (zeroBits w 0 24) i) : ReadsBack i :=
  one he (opcode_none hop) hn fun ho => by rw [hf _ ho, zeroBits, fld_atOp op (by decide)]; rfl

end ReadsBack

open ReadsBack in
/-- Every encoded instruction, class by class in the order of Tables 3.11 to 3.17 (R52), those of one format together. -/
theorem readsBack_of_isEncoded (i : Instr) (h : i.isEncoded = true) : ReadsBack i := by
  cases i with
  -- class 0
  | iadd | isub | imul | imulh | imad | imin | imax | umin | umax | and | or | xor | andn | shl | shr | sar | icmp | iadds =>
    exact f3 rfl (by decide) rfl fun _ ho => by rw [decodeFields, decodeInt, ho]; rfl
  | popc | clz | ctz | brev | mov | iabs | ineg =>
    exact unary rfl (by decide) rfl fun _ ho => by rw [decodeFields, decodeInt, ho]; rfl
  | bfe => exact two rfl (opcode_U3 _ (by decide)) rfl fun ho => by rw [decodeFields, decodeInt, ho]; simp (disch := decide) [unused]
  | bfi | sel | lea =>
    exact two rfl (opcode_F3 _ (by decide)) rfl fun ho => by rw [decodeFields, decodeInt, ho]; simp (disch := decide) [unused]
  | movi =>
    exact two rfl (opcode_word0 _ _ _ _ _ _ (by decide)) rfl fun ho => by
      rw [decodeFields, decodeInt, ho]
      simp (disch := decide) [word0_parts, unused, unaryOk]
  | iaddi =>
    exact one rfl (opcode_FI _ _ _ _ _ (by decide)) rfl fun ho => by rw [decodeFields, decodeInt, ho]; simp (disch := decide) [FI.ofWord, wordFI]
  -- class 1
  | fadd | fsub | fmul | ffma | fmin | fmax | fcmp | hfma2 | bfma2 | dadd | dmul | dfma =>
    exact f3 rfl (by decide) rfl fun _ ho => by rw [decodeFields, decodeFlt, ho]; rfl
  | frcp | frsq | fsqrt | fexp2 | flog2 | ftanh =>
    exact unary rfl (by decide) rfl fun _ ho => by rw [decodeFields, decodeFlt, ho]; rfl
  | fcvt | dcvt => exact fc rfl (by decide) rfl fun _ ho => by rw [decodeFields, decodeFlt, ho]; rfl
  | ffma3 | shfl | redx =>
    exact two rfl (opcode_F3 _ (by decide)) rfl fun ho => by rw [decodeFields, decodeFlt, ho]; simp (disch := decide) [unused]
  | vote =>
    exact one rfl (opcode_word0 _ _ _ _ _ _ (by decide)) rfl fun ho => by
      rw [decodeFields, decodeFlt, ho]
      simp (disch := decide) [scalarOr, word0_parts]
  -- class 2
  | nop | ret | exit | yield => exact bare rfl (by decide) rfl fun _ ho => by rw [decodeFields, decodeCtl, ho]; rfl
  | sadd | ssub | smul | sand | sor | sxor | sshl | sshr =>
    exact fs rfl (by decide) rfl fun _ ho => by rw [decodeFields, decodeCtl, ho]; rfl
  | smov | scmp =>
    exact one rfl (opcode_wordFS _ _ _ _ (by decide)) rfl fun ho => by
      rw [decodeFields, decodeCtl, ho]
      simp (disch := decide) [unused, wordFS]
  | smovi =>
    exact two rfl (opcode_word0 _ _ _ _ _ _ (by decide)) rfl fun ho => by
      rw [decodeFields, decodeCtl, ho]
      simp (disch := decide) [word0_parts, scalarOr]
  | bra | brc | brk | call =>
    exact two rfl (opcode_FB _ _ _ (by decide)) rfl fun ho => by
      rw [decodeFields, decodeCtl, ho]
      simp (disch := decide) [unused, wordFB, wordOffs]
  | jmpi =>
    exact two rfl (opcode_word0 _ _ _ _ _ _ (by decide)) rfl fun ho => by
      rw [decodeFields, decodeCtl, ho]
      simp (disch := decide) [word0_parts, unused]
  | s2v | v2s | spawn | tqpush | tqpop | tqstat | recget =>
    exact one rfl (opcode_word0 _ _ _ _ _ _ (by decide)) rfl fun ho => by
      rw [decodeFields, decodeCtl, ho]
      simp (disch := decide) [word0_parts, scalarOr, scalarB]
  | bar =>
    exact one (op := 0x55) rfl (by simp (disch := decide) [opcodeOf, fld_atOp_opcode]) rfl fun ho => by
      rw [decodeFields, decodeCtl, ho]
      simp (disch := decide) [unused]
  | waitc =>
    exact one rfl (opcode_two (by decide) (by decide) (by decide)) rfl fun ho => by
      rw [decodeFields, decodeCtl, ho]
      simp (disch := decide) [unused]
  -- class 3
  | ldt | stt => exact ta rfl (by decide) rfl fun _ ho => by rw [decodeFields, decodeMem, ho]; rfl
  | ld | st | cctl =>
    exact two rfl (opcode_MA _ _ (by decide)) rfl fun ho => by
      rw [decodeFields, decodeMem, ho]
      simp (disch := decide) [wordMem]
  | atom | atomc | red =>
    exact two rfl (opcode_MA _ _ (by decide)) rfl fun ho => by
      rw [decodeFields, decodeMem, ho]
      simp (disch := decide) [wordAtom]
  | sld =>
    exact two rfl (opcode_word0 _ _ _ _ _ _ (by decide)) rfl fun ho => by
      rw [decodeFields, decodeMem, ho]
      simp (disch := decide) [word0_parts, scalarOr, scalarB, wordMem]
  | rcommit => exact bare rfl (by decide) rfl fun _ ho => by rw [decodeFields, decodeMem, ho]; rfl
  | fence =>
    exact one rfl (opcode_two (by decide) (by decide) (by decide)) rfl fun ho => by
      rw [decodeFields, decodeMem, ho]
      simp (disch := decide) [unused]
  | rabort =>
    exact one rfl (opcode_op (by decide) (low_atBits (by decide))) rfl fun ho => by
      rw [decodeFields, decodeMem, ho]
      simp (disch := decide) [unused]
  | rbegin | obind | orecipe =>
    exact two rfl (opcode_word0 _ _ _ _ _ _ (by decide)) rfl fun ho => by
      rw [decodeFields, decodeMem, ho]
      simp (disch := decide) [word0_parts, scalarOr, scalarB]
  | rstat | ounbind | oseal | oprio | oevict =>
    exact one rfl (opcode_word0 _ _ _ _ _ _ (by decide)) rfl fun ho => by
      rw [decodeFields, decodeMem, ho]
      simp (disch := decide) [scalarOr, scalarB, word0_parts]
  | tmtag =>
    exact one rfl (opcode_FI _ _ _ _ _ (by decide)) rfl fun ho => by
      rw [decodeFields, decodeMem, ho]
      simp (disch := decide) [unused, wordFI]
  -- class 4
  | tmm | tlenc | tldec | decs | xmm =>
    exact two rfl (opcode_word0 _ _ _ _ _ _ (by decide)) rfl fun ho => by
      rw [decodeFields, decodeTerm, ho]
      simp (disch := decide) [word0_parts, scalarOr, scalarB]
  | tprom | tbound | tcnt | tstat =>
    exact one rfl (opcode_word0 _ _ _ _ _ _ (by decide)) rfl fun ho => by
      rw [decodeFields, decodeTerm, ho]
      simp (disch := decide) [unused, scalarOr, U3.ofWord, word0_parts]
  | qbx | dqbx =>
    exact one rfl (opcode_FI _ _ _ _ _ (by decide)) rfl fun ho => by
      rw [decodeFields, decodeTerm, ho]
      simp (disch := decide) [unused, U3.ofWord, wordFI]
  -- class 5
  | cpyt | cpyg | cpyw | cpyp | cfill =>
    exact two rfl (opcode_word0 _ _ _ _ _ _ (by decide)) rfl fun ho => by
      rw [decodeFields, decodeCopy, ho]
      simp (disch := decide) [word0_parts, scalarOr, scalarB]
  | cwaitCnt =>
    exact one rfl (opcode_FI _ _ _ _ _ (by decide)) rfl fun ho => by
      rw [decodeFields, decodeCopy, ho]
      simp (disch := decide) [unused, wordFI]
  | cwaitSeq =>
    exact one rfl (opcode_FI _ _ _ _ _ (by decide)) rfl fun ho => by
      rw [decodeFields, decodeCopy, ho]
      simp (disch := decide) [scalarOr, wordFI, atBits_bit7]
  | cseq =>
    exact one rfl (opcode_word0 _ _ _ _ _ _ (by decide)) rfl fun ho => by
      rw [decodeFields, decodeCopy, ho]
      simp (disch := decide) [scalarOr, word0_parts]
  -- class 6
  | tfence | rft | resumef | bkpt => exact bare rfl (by decide) rfl fun _ ho => by rw [decodeFields, decodeSys, ho]; rfl
  | csrr | csrw | trap | perfc =>
    exact one rfl (opcode_FI _ _ _ _ _ (by decide)) rfl fun ho => by
      rw [decodeFields, decodeSys, ho]
      simp (disch := decide) [unused, scalarOr, wordFI]
  | hbeat | clock =>
    exact one rfl (opcode_word0 _ _ _ _ _ _ (by decide)) rfl fun ho => by
      rw [decodeFields, decodeSys, ho]
      simp (disch := decide) [word0_parts, scalarOr]
  -- the events have no words
  | _ => cases h

/-- Words whose fields make an instruction that breaks no rule of its entry decode to it, whatever words follow. -/
theorem decode_encode {i : Instr} (h : ReadsBack i) (hok : fieldError i = none) (rest : List Word) : decode (encode i ++ rest) = .ok i := by
  obtain ⟨w, ws, he, hl, hf⟩ := h
  rw [he, List.cons_append, decode]
  rcases opcodeWords_cases (opcodeOf w) with h1 | h2
  · obtain rfl : ws = [] := List.length_eq_zero_iff.mp (by omega)
    have hf : decodeFields w 0#32 = .ok i := hf
    simp [h1, hf, hok]
  · obtain ⟨x, rfl⟩ := List.length_eq_one_iff.mp (show ws.length = 1 by omega)
    rw [List.headD_cons] at hf
    simp [h2, hf, hok]

/-- Settles O54: every encoded instruction reads back, and a well-formed one passes the decoder's checks. -/
theorem decodeEncode : Obligations.DecodeEncode := by
  intro i rest hi hwf
  exact decode_encode (readsBack_of_isEncoded i hi) (Option.isNone_iff_eq_none.mp hwf) rest

end Sys2Proof.Laws

/-! PROOFS. Sample words (03 R36 to R44), and what a step runs (03 R27, R34, R35, R53): O56 and O59. -/

namespace Sys2Proof.Machine

/-- Settles O56: the decoder, evaluated. -/
theorem sampleEncodings : Obligations.SampleEncodings := by
  unfold Obligations.SampleEncodings
  decide +kernel

/-! ### The turn at the head of the agenda -/

theorem step_of_agenda {s : State} {t : Turn} {rest : List Turn} (h : s.agenda = t :: rest) : step s = State.turn { s with agenda := rest } t := by
  simp only [step, State.oneTurn, State.runAgenda, h, List.isEmpty_cons, Bool.false_eq_true, if_false]

/-- The acting wave's turn: it runs what it is at. -/
theorem step_of_wave_turn {s : State} {wid : Nat} {rest : List Turn} (h : s.agenda = .wave wid :: rest) (hid : s.w.id.wid = wid)
    (hb : s.w.flow.hold ≠ .blank) : step s = exec s.w.instr { s with agenda := rest } := by
  rw [step_of_agenda h]
  show State.waveTurn _ wid = _
  simp only [State.waveTurn, State.switchTo, hid, hb, ne_eq, not_false_eq_true, and_self, if_true]

/-! ### What a wave is at -/

theorem Wave.instr_of_clause {w : Wave} {c : Clause} (hc : w.flow.clause = some c) (hi : posIndex w.flow.pc ≠ 15) :
    w.instr = instrOf (wordsAt (posIndex w.flow.pc) c.words) := by
  simp only [Wave.instr, hc, hi, if_false]

theorem Wave.instr_of_header {w : Wave} (h : w.flow.clause = none ∨ posIndex w.flow.pc = 15) : w.instr = .clauseEntry := by
  unfold Wave.instr
  rcases h with h | h
  · rw [h]
  · rw [h]; split <;> rfl

theorem instrOf_ok {ws : List Word} {i : Instr} (h : decode ws = .ok i) : instrOf ws = i := by rw [instrOf, h]

theorem instrOf_error {x : Word} {xs : List Word} {e : DecodeError} (h : decode (x :: xs) = .error e) :
    instrOf (x :: xs) = .reservedOpcode x := by
  rw [instrOf, h]; rfl

/-! ### Going on past an instruction -/

theorem Wave.advance_flow_of_next {w : Wave} {c : Clause} (hc : w.flow.clause = some c) (h : posIndex w.flow.pc + 1 < hdrNI c.hdr) :
    w.advance.flow = { w.flow with pc := mkPos (posIndex w.flow.pc + 1) (posHdr w.flow.pc), hold := .run, stalled := false
                                   ready := 0, inBar := w.flow.barLeft } := by
  simp only [Wave.advance, hc, h, if_true]
  rw [← hc]
  rfl

theorem Wave.advance_flow_of_last {w : Wave} {c : Clause} (hc : w.flow.clause = some c) (h : hdrNI c.hdr ≤ posIndex w.flow.pc + 1) :
    w.advance.flow = { w.flow with pc := headerPos (nextHdr c (posHdr w.flow.pc)), clause := none, hold := .run, stalled := false
                                   ready := 0, inBar := w.flow.barLeft, yielded := hdrYld c.hdr || w.flow.yielded } := by
  simp only [Wave.advance, hc, if_neg (Nat.not_lt.mpr h)]
  rfl

/-- Settles O59: whose turn it is, what that wave is at, and where it goes on. -/
theorem stepRunsDecoded : Obligations.StepRunsDecoded := by
  intro s wid rest
  refine ⟨fun h hid hb => ⟨fun c hc hi => ⟨fun i hd => ?decoded, fun e x xs hw hd => ?reserved⟩, fun hh => ?header⟩,
    fun i h => step_of_agenda h, fun c hc _ => ⟨Wave.advance_flow_of_next hc, Wave.advance_flow_of_last hc⟩⟩
  case decoded => rw [step_of_wave_turn h hid hb, Wave.instr_of_clause hc hi, instrOf_ok hd]
  case reserved => rw [step_of_wave_turn h hid hb, Wave.instr_of_clause hc hi, hw, instrOf_error hd]
  case header => rw [step_of_wave_turn h hid hb, Wave.instr_of_header hh]

end Sys2Proof.Machine

/-! PROOFS. CSRR and CSRW (03 R45, R46; 13 R220; Table 3.10): the values of the table, what each instruction does, and O18. -/

namespace Sys2Proof.Machine

/-! ### Registers that an instruction may name -/

/-- An instruction that may run names no register beyond the wave's (R44). -/
theorem State.mayRun_dst {s : State} {u : Use} {x : Dst} (h : s.mayRun u = true) (hx : x ∈ u.dsts) :
    s.w.beyond x.vec x.reg x.n = false := by
  obtain ⟨c, hc⟩ := State.mayRun_clause h
  simp only [State.mayRun, Bool.and_eq_true, Bool.not_eq_true'] at h
  obtain ⟨⟨⟨⟨-, hbad⟩, -⟩, -⟩, -⟩ := h
  simp only [Use.encodingBad, hc, Use.allocBad, Bool.or_eq_false_iff, List.any_eq_false] at hbad
  obtain ⟨⟨-, ⟨-, hd⟩, -⟩, -⟩ := hbad
  exact Bool.eq_false_iff.mpr (hd x hx)

theorem State.mayRun_sdst_lt {s : State} {u : Use} {d n : Nat} (h : s.mayRun u = true) (hx : sdst d n ∈ u.dsts) : d + n ≤ 64 := by
  have hb : decide (64 < d + n) = false := State.mayRun_dst h hx
  exact Nat.not_lt.mp (of_decide_eq_false hb)

/-! ### Table 3.10 -/

theorem shift_and_byte (x : Word) (k : Nat) : x >>> k &&& 0xFF = (x.extractLsb' k 8).setWidth 32 := by
  apply BitVec.eq_of_getLsbD_eq
  intro i hi
  interval_cases i <;> simp

theorem top_byte (x : Word) : x >>> 24 = (x.extractLsb' 24 8).setWidth 32 := by
  apply BitVec.eq_of_getLsbD_eq
  intro i hi
  interval_cases i <;> simp

theorem and_low_byte (x : Word) : x &&& 0xFF = (x.extractLsb' 0 8).setWidth 32 := by
  rw [← shift_and_byte, BitVec.ushiftRight_zero]

/-- The model reads the listed registers as Table 3.10 has them. -/
theorem State.csrVal_of_table (s : State) (l : Nat) : ∀ e ∈ s.csrTable l, s.csrVal s.w e.1 l = e.2 := by
  simp only [State.csrTable, List.forall_mem_cons, List.not_mem_nil, false_implies, implies_true, and_true]
  refine ⟨rfl, rfl, rfl, rfl, rfl, rfl, rfl, rfl, rfl, rfl, rfl, rfl, rfl, rfl, rfl, rfl, rfl, rfl, rfl, rfl, rfl, rfl, rfl, rfl, rfl,
    rfl, rfl, rfl, rfl, top_byte _, shift_and_byte _ _, shift_and_byte _ _, and_low_byte _, rfl, rfl⟩

theorem State.csrRead_of_le (s : State) {n : Nat} (h : n ≤ 0x22) (w : Wave) : s.csrRead n w = w := by
  unfold State.csrRead
  split
  case h_1 => omega
  case h_2 => omega
  case h_3 => rfl

theorem and_word_address (x : Word) : x &&& 0xFFFFFFFC = x.extractLsb' 2 30 ++ (0 : BitVec 2) := by
  apply BitVec.eq_of_getLsbD_eq
  intro i hi
  rw [BitVec.getLsbD_append, BitVec.getLsbD_and, BitVec.getLsbD_extractLsb']
  interval_cases i <;> simp

theorem and_mode (x : Word) : x &&& 3 = (x.extractLsb' 0 2).setWidth 32 := by
  apply BitVec.eq_of_getLsbD_eq
  intro i hi
  interval_cases i <;> simp

theorem and_copyerr (x : Word) : x &&& 0xFFFF003F = x.extractLsb' 16 16 ++ ((0 : BitVec 10) ++ x.extractLsb' 0 6) := by
  apply BitVec.eq_of_getLsbD_eq
  intro i hi
  rw [BitVec.getLsbD_append, BitVec.getLsbD_append, BitVec.getLsbD_and, BitVec.getLsbD_extractLsb', BitVec.getLsbD_extractLsb']
  interval_cases i <;> simp

/-- The model writes the registers with Access RW as Table 3.10 has them. -/
theorem WaveCsr.write_of_table (c : WaveCsr) (x : Word) : ∀ e ∈ csrWrites c x, c.write e.1 x = e.2 := by
  simp only [csrWrites, List.forall_mem_cons, List.not_mem_nil, false_implies, implies_true, and_true]
  refine ⟨?codebase, rfl, ?fpmode, ?arithf, ?arithe, rfl, rfl, rfl, rfl, rfl, rfl, ?copyerr⟩
  case codebase => rw [← and_word_address]; rfl
  case fpmode => rw [← and_mode]; rfl
  case arithf => rw [← and_low_byte]; rfl
  case arithe => rw [← and_low_byte]; rfl
  case copyerr => rw [← and_copyerr]; rfl

/-- No write of a special register touches the PERFC counters. -/
theorem WaveCsr.write_perf (c : WaveCsr) (n : Nat) (x : Word) : (c.write n x).perf = c.perf := by
  unfold WaveCsr.write
  split <;> rfl

theorem WaveCsr.write_withPerf (c : WaveCsr) (n : Nat) (x : Word) (p : Vector Word 8) :
    ({ c with perf := p } : WaveCsr).write n x = { c.write n x with perf := p } := by
  unfold WaveCsr.write
  split <;> rfl

/-! ### The instructions -/

/-- The one register that CSRR writes: the values `x` of the active lanes, or the lowest-numbered one's. -/
def Wave.wrCsr (w : Wave) (q : Bool) (d : BitVec 7) (x : Nat → Word) : Wave :=
  if q then w.wrS d.toNat (x w.firstLane) else w.wrV d.toNat x

section
variable (w : Wave) (q : Bool) (d : BitVec 7) (x : Nat → Word)

@[simp] theorem Wave.wrCsr_id : (w.wrCsr q d x).id = w.id := by cases q <;> rfl
@[simp] theorem Wave.wrCsr_flow : (w.wrCsr q d x).flow = w.flow := by cases q <;> rfl
@[simp] theorem Wave.wrCsr_csr : (w.wrCsr q d x).csr = w.csr := by cases q <;> rfl
@[simp] theorem Wave.wrCsr_mem : (w.wrCsr q d x).mem = w.mem := by cases q <;> rfl

theorem Wave.rdS_wrCsr (hd : d.toNat < 64) : (w.wrCsr true d x).rdS d.toNat = x w.firstLane := by
  show (w.wrS d.toNat _).rdS _ = _
  rw [Wave.rdS_wrS, if_pos ⟨rfl, hd⟩]

theorem Wave.lane_wrCsr {l : Nat} (hl : l ∈ w.lanes) : (w.wrCsr false d x).lane d.toNat l = x l := by
  obtain ⟨h32, ha⟩ := (w.mem_lanes l).mp hl
  show (w.wrV d.toNat x).lane _ _ = _
  rw [Wave.lane_wrV, if_pos ⟨rfl, d.isLt, h32, ha⟩]

/-- Every other register is as it was, and of this one the lanes that are not active (11 R155). -/
theorem Wave.sameRegs_wrCsr : w.SameRegs (w.wrCsr q d x) (if q then [] else [d.toNat]) (if q then [d.toNat] else []) [] := by
  cases q with
  | true => exact ⟨fun _ _ => rfl, fun _ _ _ => rfl, fun r hr => (w.rdS_wrS _ _ r).trans (if_neg fun h => hr (by simp [h.1])),
      fun _ _ => rfl, rfl, rfl⟩
  | false => exact ⟨fun r hr => w.rdV_wrV _ _ r (by simpa using hr), fun r l hl => (w.lane_wrV _ _ r l).trans (if_neg (by simp [hl])),
      fun _ _ => rfl, fun _ _ => rfl, rfl, rfl⟩

end

/-- Registers are read from the registers alone. -/
theorem Wave.SameRegs.of_regs {w v u : Wave} {vs ss ps : List Nat} (h : w.SameRegs v vs ss ps) (hu : u.regs = v.regs) :
    w.SameRegs u vs ss ps := by
  obtain ⟨hvec, hidle, hscal, hpred, hvf, hsf⟩ := h
  simp only [Wave.lane, Wave.rdV, Wave.rdS, Wave.rdP] at *
  constructor <;> simpa only [Wave.lane, Wave.rdV, Wave.rdS, Wave.rdP, hu]

section
variable (s : State) (n : Nat) (w : Wave)

@[simp] theorem State.csrRead_id : (s.csrRead n w).id = w.id := by unfold State.csrRead; split <;> rfl
@[simp] theorem State.csrRead_flow : (s.csrRead n w).flow = w.flow := by unfold State.csrRead; split <;> rfl
@[simp] theorem State.csrRead_regs : (s.csrRead n w).regs = w.regs := by unfold State.csrRead; split <;> rfl
@[simp] theorem State.csrRead_mem : (s.csrRead n w).mem = w.mem := by unfold State.csrRead; split <;> rfl

end

/-- The wave after CSRR. -/
def State.csrrWave (s : State) (q : Bool) (d : BitVec 7) (n : BitVec 8) : Wave :=
  (s.csrRead n.toNat (s.w.wrCsr q d fun l => s.csrVal s.w n.toNat l)).advance

theorem exec_csrr {s : State} {q : Bool} {d : BitVec 7} {n : BitVec 8} (h : s.mayRun (csrrUse q d) = true) :
    exec (.csrr q d n) s = .next (s.onW fun _ => s.csrrWave q d n) := issue_run h

theorem exec_csrw {s : State} {q wa : Bool} {a : BitVec 7} {n : BitVec 8} (h : s.mayRun (useOf 6 [bsrc q a 1 wa] []) = true) :
    exec (.csrw q wa a n) s = .next (s.onW fun w => ({ w with csr := w.csr.write n.toNat (w.csrwVal q a) } : Wave).advance) := issueW_run h

section
variable {s : State} {q : Bool} {d : BitVec 7} {n : BitVec 8}

theorem State.csrrWave_flow : (s.csrrWave q d n).flow = s.w.advance.flow := Wave.advance_flow_congr (by simp)

theorem State.csrrWave_sameRegs :
    s.w.SameRegs (s.csrrWave q d n) (if q then [] else [d.toNat]) (if q then [d.toNat] else []) [] :=
  (s.w.sameRegs_wrCsr q d fun l => s.csrVal s.w n.toNat l).of_regs (by simp [State.csrrWave])

theorem State.csrrWave_scalar (h : s.mayRun (csrrUse true d) = true) :
    (s.csrrWave true d n).rdS d.toNat = s.csrVal s.w n.toNat s.w.firstLane := by
  have hd : d.toNat + 1 ≤ 64 := State.mayRun_sdst_lt h (by simp [csrrUse, useOf])
  have hr : (s.csrrWave true d n).regs = (s.w.wrCsr true d fun l => s.csrVal s.w n.toNat l).regs := by simp [State.csrrWave]
  rw [← s.w.rdS_wrCsr d (fun l => s.csrVal s.w n.toNat l) (by omega), Wave.rdS, hr]
  rfl

theorem State.csrrWave_lane {l : Nat} (hl : l ∈ s.w.lanes) : (s.csrrWave false d n).lane d.toNat l = s.csrVal s.w n.toNat l := by
  have hr : (s.csrrWave false d n).regs = (s.w.wrCsr false d fun l => s.csrVal s.w n.toNat l).regs := by simp [State.csrrWave]
  rw [← s.w.lane_wrCsr d (fun l => s.csrVal s.w n.toNat l) hl, Wave.lane, Wave.rdV, hr]
  rfl

/-- Every register but HBEAT's halves is read without a trace. -/
theorem State.csrrWave_wentOn (hn : n.toNat ≤ 0x22) : s.w.WentOn (s.csrrWave q d n) 0 where
  id := by simp [State.csrrWave]
  flow := csrrWave_flow
  mem := by simp [State.csrrWave]
  csr := by simp [State.csrrWave, Wave.advance_csr, s.csrRead_of_le hn]

/-- HBEAT's low half latches its high half, whose next read takes the latch away (R46). -/
theorem State.csrrWave_latch (hn : n = 0x23 ∨ n = 0x24) : (s.csrrWave q d n).csr =
    { s.w.advance.csr with hbLatch := if n = 0x23 then some (highHalf s.heartbeat) else none } := by
  rcases hn with rfl | rfl <;> simp [State.csrrWave, Wave.advance_csr, State.csrRead]

end

theorem csrw_csr (w : Wave) (n : Nat) (x : Word) :
    ({ w with csr := w.csr.write n x } : Wave).advance.csr = w.advance.csr.write n x := by
  simp only [Wave.advance_csr, Wave.perfAdd_csr, WaveCsr.write_perf, WaveCsr.write_withPerf]

/-- Settles O18: CSRR by the lemmas about the wave after it, CSRW by the table of writes. -/
theorem specialRegisters : Obligations.SpecialRegisters := by
  intro s q wa d a n
  refine ⟨fun hrun => ⟨fun hn => ?listed, fun hn => ?hbeat⟩, fun hrun => ?written⟩
  case listed =>
    refine ⟨_, exec_csrr hrun, ⟨s.sameRest_onW 0 _, State.csrrWave_wentOn hn, State.csrrWave_sameRegs⟩, ?_, ?_⟩
    · rintro rfl e he hen
      exact (State.csrrWave_scalar hrun).trans (hen ▸ s.csrVal_of_table _ e he)
    · rintro rfl l hl e he hen
      exact (State.csrrWave_lane hl).trans (hen ▸ s.csrVal_of_table _ e he)
  case hbeat =>
    intro beat x
    have hx (l : Nat) : s.csrVal s.w n.toNat l = x := by rcases hn with rfl | rfl <;> rfl
    refine ⟨_, exec_csrr hrun, s.sameRest_onW 0 _, State.csrrWave_sameRegs, State.csrrWave_flow, State.csrrWave_latch hn, ?_, ?_⟩
    · rintro rfl
      exact (State.csrrWave_scalar hrun).trans (hx _)
    · rintro rfl l hl
      exact (State.csrrWave_lane hl).trans (hx l)
  case written =>
    intro x e he hen
    refine ⟨_, exec_csrw hrun, s.sameRest_onW 0 _, ?_, Wave.advance_flow_congr rfl, ?_⟩
    · exact (Wave.SameRegs.mk (fun _ _ => rfl) (fun _ _ _ => rfl) (fun _ _ => rfl) (fun _ _ => rfl) rfl rfl).of_regs (by simp)
    · exact (csrw_csr s.w _ _).trans (hen ▸ WaveCsr.write_of_table _ x e he)

end Sys2Proof.Machine

/-! PROOFS. Entering a clause (03 R27, R29, R32, R34), the reserved word (R53), and O20. -/

namespace Sys2Proof.Machine

/-! ### What R29 tests -/

theorem hdrPipe_eq_iff {h : Word} {n : Nat} (hn : n < 8) : hdrPipe h = n ↔ h.extractLsb' 4 3 = BitVec.ofNat 3 n := by
  simp [hdrPipe, ← BitVec.toNat_inj, Nat.mod_eq_of_lt hn]

theorem hdrNI_eq_zero_iff {h : Word} : hdrNI h = 0 ↔ h.extractLsb' 0 4 = 0 := by simp [hdrNI, ← BitVec.toNat_inj]

theorem hdrOk_iff {h : Word} :
    hdrOk h = true ↔ h.extractLsb' 24 8 = 0xE8 ∧ h.extractLsb' 18 6 = 0 ∧ h.extractLsb' 4 3 ≠ 1 ∧ h.extractLsb' 4 3 ≠ 7 ∧
      h.extractLsb' 0 4 ≠ 0 := by
  simp only [hdrOk, Bool.and_eq_true, beq_iff_eq, bne_iff_ne, ne_eq, hdrPipe_eq_iff (show 1 < 8 by decide),
    hdrPipe_eq_iff (show 7 < 8 by decide), hdrNI_eq_zero_iff, and_assoc]
  rfl

/-! ### Fetching the clause at a header -/

theorem State.fetchClause_of_words {s : State} {w : Wave} {hdr : Nat} {h : Word} {ws : List Word} (ha : hdr % 4 = 0)
    (hw : s.fetchWord w hdr = .words [h]) (hok : hdrOk h = true) (hi : s.fetchInstrs w (hdrNI h) (hdr + 4) = .words ws) :
    s.fetchClause w hdr = .clause { hdr := h, words := ws } := by
  simp only [State.fetchClause, ha, hw, hok, hi, ne_eq, not_true, if_false, Bool.true_eq_false]

theorem State.fetchClause_of_badHeader {s : State} {w : Wave} {hdr : Nat} {h : Word} (ha : hdr % 4 = 0)
    (hw : s.fetchWord w hdr = .words [h]) (hok : hdrOk h = false) : s.fetchClause w hdr = .badHeader := by
  simp only [State.fetchClause, ha, hw, hok, ne_eq, not_true, if_false, if_true]

/-! ### Entering it -/

/-- Nothing pops where the header is not RPC (R111). -/
theorem Wave.popAt_of_rpc_ne {w : Wave} {d : Option Nat} {n : Nat} (h : w.flow.rpc.toNat ≠ posHdr w.flow.pc) : w.popAt d n = .run w := by
  cases n with
  | zero => rfl
  | succ n => simp only [Wave.popAt, h, false_and, if_false]

/-- CLAUSE_ENTRY at a header where nothing pops is the fetch there. -/
theorem execClauseEntry_of_header {s : State} (hi : s.issues = true) (hx : posIndex s.w.flow.pc = 15) (hc : s.w.flow.clause = none)
    (hs : s.w.flow.stopReq = false) (hr : s.w.flow.rpc.toNat ≠ posHdr s.w.flow.pc) :
    exec .clauseEntry s = .next ((fetchAct s).settle s) := by
  have henter : s.enterClause = (fetchAct s).settle s := by simp only [State.enterClause, Wave.popAt_of_rpc_ne hr, if_true]
  show execClauseEntry s = _
  simp only [execClauseEntry, hi, hc, hx, hs, henter, if_true, Bool.false_eq_true, if_false]

theorem fetchAct_of_clause {s : State} {c : Clause} (hx : posIndex s.w.flow.pc = 15)
    (h : s.fetchClause s.w (posHdr s.w.flow.pc) = .clause c) : fetchAct s = (s.onW fun w => w.withClause c).waitAct c := by
  simp only [fetchAct, h, State.fetched, hx, if_true]

theorem fetchAct_of_badHeader {s : State} (h : s.fetchClause s.w (posHdr s.w.flow.pc) = .badHeader) :
    fetchAct s = .left (s.badHeader (posHdr s.w.flow.pc)) := by
  simp only [fetchAct, h]

/-- The wait fields (R32) look at nothing that holding the clause changes. -/
theorem State.waitsOk_withClause (s : State) (c : Clause) (h : Word) :
    (s.onW fun w => w.withClause c).waitsOk (s.w.withClause c) h = s.waitsOk s.w h := rfl

/-- Waits satisfied, the wave goes to instruction 0. -/
theorem waitAct_withClause_of_ok {s : State} {c : Clause} (h : s.waitsOk s.w c.hdr = true) :
    (s.onW fun w => w.withClause c).waitAct c = .left (s.onW fun w =>
      { w.withClause c with flow := { (w.withClause c).flow with pc := mkPos 0 (posHdr w.flow.pc), stalled := false } }) :=
  if_pos h

/-- Else it waits with the clause that it has fetched. -/
theorem waitAct_withClause_of_not {s : State} {c : Clause} (h : s.waitsOk s.w c.hdr = false) :
    (s.onW fun w => w.withClause c).waitAct c = .wait (s.onW fun w => w.withClause c) :=
  if_neg (Bool.eq_false_iff.mp h)

theorem execReservedOpcode_of_atWord {s : State} {x : Word} (hi : s.issues = true) (hx : s.w.atWord x = true) :
    exec (.reservedOpcode x) s = .next (s.takeTrap cRESERVED_ENCODING 0 s.w.flow.mask) := by
  show execReservedOpcode x s = _
  unfold Wave.atWord at hx
  unfold execReservedOpcode
  cases hc : s.w.flow.clause with
  | none => simp only [hc, Bool.and_false, Bool.false_eq_true] at hx
  | some c =>
    simp only [hc] at hx
    simp only [hi, hx, Bool.true_and, if_true, Act.settle, Wave.trapAct]

/-- Settles O20: the header is fetched where nothing pops, and each outcome of the fetch is taken as R29, R32 and R34 say. -/
theorem clauseEntries : Obligations.ClauseEntries := by
  intro s h x ws hi
  refine ⟨fun hx hc hs hr ha hw => ?_, execReservedOpcode_of_atWord hi, hdrOk_iff⟩
  have hentry := execClauseEntry_of_header hi hx hc hs hr
  refine ⟨fun hok hws hwait => ?enters, fun hok hws hwait => ?waits, fun hbad => ?bad⟩
  case enters =>
    rw [fetchAct_of_clause hx (State.fetchClause_of_words ha hw hok hws), waitAct_withClause_of_ok (c := { hdr := h, words := ws }) hwait] at hentry
    exact ⟨_, hentry, rfl, rfl, rfl, rfl, rfl⟩
  case waits =>
    rw [fetchAct_of_clause hx (State.fetchClause_of_words ha hw hok hws), waitAct_withClause_of_not (c := { hdr := h, words := ws }) hwait] at hentry
    exact ⟨_, hentry, rfl, rfl, rfl, rfl⟩
  case bad =>
    rw [hentry, fetchAct_of_badHeader (State.fetchClause_of_badHeader ha hw hbad)]
    rfl

end Sys2Proof.Machine

/-! PROOFS. Stopping the job changes no host register but the mark that it is stopped (25 R337); the words of a trap (03 R54); O19. -/

namespace Sys2Proof.Machine

/-! ### What leaves the host's registers as they are -/

theorem forEach_host {α : Type} {f : α → State → State} (hf : ∀ x s, (f x s).host = s.host) (xs : List α) (s : State) :
    (forEach xs s f).host = s.host := by
  induction xs generalizing s with
  | nil => rfl
  | cons x xs ih => exact (ih (f x s)).trans (hf x s)

@[simp] theorem forEach_onCore_host (xs : List Nat) (s : State) (f : Nat → Core → Core) :
    (forEach xs s fun k t => t.onCore k (f k)).host = s.host :=
  forEach_host (fun k t => t.onCore_host k (f k)) xs s

theorem foldlM_host {α : Type} {f : State → α → Option State} (hf : ∀ s x t, f s x = some t → t.host = s.host) (xs : List α) {s t : State}
    (h : xs.foldlM f s = some t) : t.host = s.host := by
  induction xs generalizing s with
  | nil =>
    rw [List.foldlM_nil, Option.pure_def, Option.some.injEq] at h
    rw [h]
  | cons x xs ih =>
    rw [List.foldlM_cons, Option.bind_eq_bind, Option.bind_eq_some_iff] at h
    obtain ⟨u, hu, ht⟩ := h
    exact (ih ht).trans (hf s x u hu)

@[simp] theorem State.raise_host (s : State) (v : Nat) : (s.raise v).host = s.host := rfl
@[simp] theorem State.draw_host (s : State) : s.draw.2.host = s.host := rfl
@[simp] theorem State.drawBytes_host (s : State) (n : Nat) : (s.drawBytes n).2.host = s.host := rfl
@[simp] theorem State.answer_host (s : State) (p : Bool) (x : Nat) : (s.answer p x).host = s.host := rfl

/-! ### The fabric -/

@[simp] theorem State.takeHint_host (s : State) (frame h : Nat) : (s.takeHint frame h).host = s.host := by
  simp only [State.takeHint, State.onDie_host, forEach_onCore_host]

@[simp] theorem State.carry_host (s : State) (x : Packet) : (s.carry x).host = s.host := rfl

@[simp] theorem State.respond_host (s : State) (x : Packet) : (s.respond x).host = s.host := by
  unfold State.respond
  split <;> split <;> simp

@[simp] theorem State.serveCd_host (s : State) (cd : Nat) : (s.serveCd cd).host = s.host := by
  unfold State.serveCd
  split
  · rfl
  · simp only [State.onPkg_host]
    refine (forEach_host (fun x t => ?_) _ _).trans rfl
    split <;> simp

@[simp] theorem State.sendReply_host (s : State) (x : Packet) (home : Nat) (r : Body) : (s.sendReply x home r).host = s.host := by
  unfold State.sendReply
  split <;> simp

@[simp] theorem State.lost_host (s : State) (x : Packet) : (s.lost x).host = s.host := by
  unfold State.lost
  split <;> simp

@[simp] theorem State.serve_host (s : State) (x : Packet) (home : Nat) : (s.serve x home).host = s.host := by
  unfold State.serve
  split
  · rw [State.sendReply_host]
    split <;> rfl
  · simp
  · rfl

@[simp] theorem State.route_host (s : State) (n md : Nat) (x : Packet) : (s.route n md x).1.host = s.host := by
  induction n generalizing s md x with
  | zero => rfl
  | succ n ih =>
    unfold State.route
    dsimp only
    split
    · rfl
    · split
      · simp
      · split
        · simp [ih]
        · simp

@[simp] theorem State.landOwn_host (s : State) (x : Packet) : (s.landOwn x).host = s.host := by
  have hroute := s.route_host 3 x.link x
  unfold State.landOwn
  split
  · rfl
  · split
    · simp
    · split <;> simp_all

@[simp] theorem State.detourFirst_host (s : State) (md : Nat) : (s.detourFirst md).host = s.host := by
  unfold State.detourFirst
  split
  · rfl
  · rw [forEach_host fun x t => t.landOwn_host x, State.onPkg_host]

@[simp] theorem State.travelFrom_host (s : State) (pa md n : Nat) : (s.travelFrom pa md n).1.host = s.host := by
  induction n generalizing s md with
  | zero => rfl
  | succ n ih =>
    unfold State.travelFrom
    dsimp only
    split
    · simp
    · split
      · simp
      · split <;> simp [ih]

@[simp] theorem State.travel_host (s : State) (pa : Nat) : (s.travel pa).1.host = s.host := by
  have h := s.travelFrom_host pa (s.hintOf pa) 4
  unfold State.travel
  split
  · simp_all
  · dsimp only
    split <;> simp_all

/-! ### Bytes of memory -/

theorem State.walked_host (s : State) (va : Nat) : (s.walked va).host = s.host := by
  unfold State.walked
  generalize s.walkReads va = xs
  induction xs generalizing s with
  | nil => rfl
  | cons a xs ih =>
    rw [List.foldl_cons, ih]
    split <;> rfl

@[simp] theorem State.recodeAt_host (s : State) (va : Nat) : (s.recodeAt va).host = s.host := by
  unfold State.recodeAt
  dsimp only
  split
  · split
    · exact s.walked_host va
    · exact s.walked_host va
  · exact s.walked_host va

@[simp] theorem State.loseLine_host (s : State) (line : Nat) : (s.loseLine line).host = s.host := by
  unfold State.loseLine
  dsimp only
  split
  · split <;> rfl
  · rfl

@[simp] theorem State.storeImage_host (s : State) (place : List Nat) (bs : List Byte) : (s.storeImage place bs).host = s.host := by
  unfold State.storeImage
  split
  · rfl
  · exact forEach_host (fun x t => by simp) _ _

@[simp] theorem State.onSaved_host (s : State) (f : SavedWave → SavedWave) : (s.onSaved f).host = s.host := by
  refine (forEach_host (fun x t => ?_) _ _).trans rfl
  split <;> simp

@[simp] theorem State.mapWaves_host (s : State) (f : Wave → Wave) : (s.mapWaves f).host = s.host := by simp [State.mapWaves]

@[simp] theorem State.onTile_host (s : State) (t : TileId) (f : Tile → Tile) : (s.onTile t f).host = s.host := by
  unfold State.onTile State.onObj
  split <;> rfl

@[simp] theorem State.onL2_host (s : State) (line : Nat) (f : L2Line → L2Line) : (s.onL2 line f).host = s.host := by
  unfold State.onL2
  split <;> rfl

@[simp] theorem State.afterBlock_host (s : State) (line fields : Nat) : (s.afterBlock line fields).host = s.host := by
  unfold State.afterBlock
  simp only
  split <;> simp

@[simp] theorem State.l2Fill_host (s : State) (line va fields : Nat) : (s.l2Fill line va fields).host = s.host := by
  unfold State.l2Fill
  split <;> simp

@[simp] theorem State.l2Merge_host (s : State) (pa fields : Nat) (bs : List Byte) (mask : Nat → Bool) :
    (s.l2Merge pa fields bs mask).host = s.host := s.onL2_host _ _

@[simp] theorem State.l2WriteBack_host (s : State) (line : Nat) : (s.l2WriteBack line).host = s.host := by
  unfold State.l2WriteBack
  split
  · rfl
  · split
    · simp only [State.onL2_host]
      split <;> simp
    · rfl

@[simp] theorem State.dropTile_host (s : State) (t : TileId) : (s.dropTile t).host = s.host := by
  rw [State.dropTile, State.onTile_host, forEach_onCore_host, State.onDie_host, forEach_host fun l x => x.loseLine_host l]

@[simp] theorem State.unform_host (s : State) (t : TileId) : (s.unform t).host = s.host := by
  unfold State.unform
  split <;> simp

/-! ### Evictions -/

@[simp] theorem State.clearSum_host (s : State) (k : Nat) (p : Nat → Bool) : (s.clearSum k p).host = s.host :=
  forEach_onCore_host _ _ _

@[simp] theorem State.discardClean_host (s : State) (c : Nat) (p : L1Line → Bool) : (s.discardClean c p).host = s.host :=
  forEach_onCore_host _ _ _

section Evict
variable {ev : State → Nat → Option State} (hev : ∀ s line t, ev s line = some t → t.host = s.host)
include hev

theorem fitWith_host (line n : Nat) {s t : State} (h : fitWith ev line n s = some t) : t.host = s.host := by
  induction n generalizing s with
  | zero =>
    unfold fitWith at h
    split at h
    · cases h; rfl
    · cases h
  | succ n ih =>
    unfold fitWith at h
    split at h
    · cases h; rfl
    · split at h
      · cases h
      · obtain ⟨u, hu, ht⟩ := Option.bind_eq_some_iff.mp h
        exact (ih ht).trans (hev _ _ _ hu)

theorem fitBy_host (s : State) (line : Nat) (t : State) (h : fitBy ev s line = some t) : t.host = s.host := fitWith_host hev line _ h

theorem wb1With_host (own : Option Nat) (s : State) (x : Nat × Nat) (t : State) (h : wb1With ev own s x.1 x.2 = some t) : t.host = s.host := by
  unfold wb1With at h
  split at h
  · cases h; rfl
  · split at h
    · cases h; rfl
    · split at h
      · cases h
      · exact (hev _ _ _ h).trans (by simp)

theorem drainWith_host {k : Nat} {p : Nat → Bool} {s t : State} (h : drainWith ev k p s = some t) : t.host = s.host := by
  obtain ⟨u, hu, rfl⟩ := Option.map_eq_some_iff.mp h
  exact (u.clearSum_host k p).trans (foldlM_host (wb1With_host hev none) _ hu)

theorem recordLeavesWith_host (s : State) (line : Nat) (t : State) (h : recordLeavesWith ev s line = some t) : t.host = s.host := by
  unfold recordLeavesWith at h
  split at h
  · cases h; rfl
  · split at h
    · cases h; rfl
    · obtain ⟨u, hu, rfl⟩ := Option.map_eq_some_iff.mp h
      refine (forEach_host (fun k x => x.discardClean_host k _) _ _).trans ?_
      exact (foldlM_host (fun s x t h => drainWith_host (fitBy_host hev) h) _ hu).trans (s.onL2_host line _)

theorem leaveWith_host {s : State} {line : Nat} {t : State} (h : leaveWith ev s line = some t) : t.host = s.host := by
  have hplain : ∀ u, ((recordLeavesWith ev s line).map fun t => (t.l2WriteBack line).l2Drop line) = some u → u.host = s.host := by
    intro u hu
    obtain ⟨v, hv, rfl⟩ := Option.map_eq_some_iff.mp hu
    exact (v.l2WriteBack_host line).trans (recordLeavesWith_host hev s line v hv)
  unfold leaveWith at h
  split at h
  · cases h; rfl
  · simp only at h
    split at h
    · exact hplain t h
    · split at h
      · exact hplain t h
      · split at h
        · cases h
        · obtain ⟨v, hv, rfl⟩ := Option.map_eq_some_iff.mp h
          exact (v.dropTile_host _).trans (foldlM_host (recordLeavesWith_host hev) _ hv)

end Evict

theorem State.leaveN_host (n : Nat) (s : State) (line : Nat) (t : State) (h : s.leaveN n line = some t) : t.host = s.host := by
  induction n generalizing s line t with
  | zero => cases h
  | succ n ih => exact leaveWith_host ih h

theorem State.fit_host {s t : State} {line : Nat} (h : s.fit line = some t) : t.host = s.host :=
  fitBy_host (fun u l v hv => u.leaveN_host _ l v hv) s line t h

/-! ### Engine writes that release nothing -/

@[simp] theorem State.l2Store_host (s : State) (scope pa va fields : Nat) (bs : List Byte) : (s.l2Store scope pa va fields bs).host = s.host := by
  unfold State.l2Store
  simp only
  split <;> simp

theorem State.l2Put_host {s t : State} {scope pa va fields : Nat} {bs : List Byte} (h : s.l2Put none scope pa va fields bs = some t) :
    t.host = s.host := by
  obtain ⟨u, hu, ht⟩ := Option.bind_eq_some_iff.mp h
  cases hu
  exact (State.fit_host ht).trans (s.l2Store_host scope pa va fields bs)

theorem State.engWriteP_host {s t : State} {scope : Nat} {bs : List Byte} {ps : List (Nat × Nat)} {x : Unit}
    (h : s.engWriteP none scope bs ps = .ok t x) : t.host = s.host := by
  induction ps generalizing s bs with
  | nil => cases h; rfl
  | cons p ps ih =>
    obtain ⟨a, n⟩ := p
    unfold State.engWriteP at h
    split at h
    case h_5 =>
      split at h
      · cases h
      · next hput => exact (ih h).trans (State.l2Put_host hput)
    all_goals cases h

/-! ### Stopping the job (R337) -/

@[simp] theorem State.scramble_host (s : State) (r : Nat × Nat) : (s.scramble r).host = s.host := by
  unfold State.scramble
  simp only
  split
  · rfl
  · refine forEach_host (fun p t => ?_) _ _
    split
    · next h => exact (State.engWriteP_host h).trans (t.drawBytes_host p.2)
    · exact t.drawBytes_host p.2

@[simp] theorem State.abandon_host (s : State) (p : Copy → Bool) : (s.abandon p).host = s.host := by
  unfold State.abandon
  refine (forEach_host (fun e x => forEach_host (fun r y => y.scramble_host r) _ _) _ _).trans ?_
  exact forEach_onCore_host _ _ _

@[simp] theorem State.endKindling_host (s : State) (wid : Nat) : (s.endKindling wid).host = s.host := by
  unfold State.endKindling State.dropWave
  split
  · rfl
  · simp only
    split <;> split <;> rfl

theorem State.stopJob_host (s : State) : s.stopJob.host = { s.host with jobDead := true } := by
  simp only [State.stopJob, State.abandon_host, State.onDie_host]
  rw [forEach_onCore_host, State.mapWaves_host, forEach_host fun i y => y.endKindling_host i, forEach_host fun x y => y.unform_host x]
  rfl

/-! ### Supervisor faults (R337, R353) -/

/-- A supervisor fault of a job that still runs: the report is in SUPF, the job is dead, and vector 2 is raised. -/
theorem State.supervisor_reports {s : State} (h : s.host.jobDead = false) (code : Nat) (pos : Addr) (fva : Nat) (lanes : Word) (core slot : Nat) :
    let t := s.supervisor code pos fva lanes core slot
    t.host.jobDead = true ∧ 2 ∈ t.tabs.msix ∧
      t.host.supf = [BitVec.ofNat 64 code, pos, BitVec.ofNat 64 fva, BitVec.ofNat 64 lanes.toNat, BitVec.ofNat 64 core,
        BitVec.ofNat 64 slot, BitVec.ofNat 64 s.host.jobid.toNat, 0] := by
  simp only [State.supervisor, h, Bool.false_eq_true, if_false, State.raise_host, State.onHost_host, State.stopJob_host, and_true, true_and]
  simp [State.raise]

theorem State.issues_of_jobDead {s : State} (h : s.host.jobDead = true) : s.issues = false := by
  simp only [State.issues, h, Bool.not_true, Bool.false_and]

theorem State.afterPoison_host (s : State) (code fva : Nat) : (s.afterPoison code fva).host = s.host := by
  unfold State.afterPoison
  split <;> simp

/-! ### Taking a trap (R331, R332) -/

section Trap
variable {s : State} {code fva : Nat} {lanes : Word} (hc : s.w.id.chain = none)
include hc

/-- A trap that the wave handles itself. -/
theorem State.takeTrap_handled (hr : s.w.mem.region = none) (hs : supervisorCode code = false) (hh : s.w.flow.handler = false)
    (hn : s.w.flow.contin = false) (ht : s.w.csr.tvec ≠ 0) : s.takeTrap code fva lanes = { s with w := s.trapEntry s.w code fva lanes } := by
  simp only [State.takeTrap, hc, hs, hr, State.plainTrap, hh, hn, beq_eq_false_iff_ne.mpr ht, Bool.or_false, Bool.false_eq_true, if_false]

/-- One that nothing but the supervisor takes. -/
theorem State.takeTrap_supervisor (hr : s.w.mem.region = none)
    (h : supervisorCode code = true ∨ s.w.flow.handler = true ∨ s.w.flow.contin = true ∨ s.w.csr.tvec = 0) :
    ∃ u : State, u.host = s.host ∧ s.takeTrap code fva lanes = u.supervisorW s.w code fva lanes := by
  by_cases hs : supervisorCode code = true
  · exact ⟨s.afterPoison code fva, s.afterPoison_host code fva, by simp only [State.takeTrap, hc, hs, if_true]⟩
  · refine ⟨s, rfl, ?_⟩
    have hsup : (s.w.flow.handler || s.w.flow.contin || s.w.csr.tvec == 0) = true := by simpa [hs, or_assoc] using h
    simp only [State.takeTrap, hc, hs, hr, State.plainTrap, hsup, if_true, Bool.false_eq_true, if_false]

end Trap

/-! ### The words of a trapping instruction (03 R54) -/

theorem State.xwords_of_clause {s : State} {w : Wave} {c : Clause} {a : Word} {t : List Word} (hi : posIndex w.flow.pc ≠ 15)
    (hc : w.flow.clause = some c) (hw : wordsAt (posIndex w.flow.pc) c.words = a :: t) :
    s.xwords w = (a, if opcodeOf a = 0xC2 then 0 else t.headD 0,
      if opcodeWords (opcodeOf a) = 2 then (if opcodeOf a = 0xC2 then 0 else t.headD 0) else 0) := by
  simp only [State.xwords, hc, hw, if_neg hi]

/-- Settles O19: the wave's own handler, the words it is given, and the supervisor. -/
theorem trapsTaken : Obligations.TrapsTaken := by
  intro s code fva lanes hc hr _
  refine ⟨fun hs hh hn ht => ?handled, fun c a b rest hi hcl => ⟨fun hw hop => ?twoWords, fun hw => ?oneWord⟩, fun hj h => ?supervisor⟩
  case handled =>
    rw [State.takeTrap_handled hc hr hs hh hn ht]
    exact ⟨rfl, rfl, rfl, rfl, rfl⟩
  case twoWords => rw [State.xwords_of_clause hi hcl hw, if_neg hop, List.headD_cons]
  case oneWord =>
    rcases hw with hw | ⟨hop, hw⟩
    · simp only [State.xwords_of_clause hi hcl hw, List.headD_nil, ite_self]
    · simp only [State.xwords_of_clause hi hcl hw, hop, if_true, ite_self]
  case supervisor =>
    obtain ⟨u, hu, ht⟩ := State.takeTrap_supervisor (lanes := lanes) (fva := fva) hc hr h
    obtain ⟨hdead, hmsix, hsupf⟩ := State.supervisor_reports (hu ▸ hj) code s.w.flow.pc fva lanes s.w.id.core s.w.id.slot
    rw [ht, State.supervisorW]
    exact ⟨hdead, State.issues_of_jobDead hdead, hmsix, hu ▸ hsupf⟩

end Sys2Proof.Machine

/-! PROOFS. Returns from traps (03 R35, R54; 13 R221 to R226), taking a restartable fault (25 R333 to R336), and O41. -/

namespace Sys2Proof.Machine

/-! ### The acting wave -/

/-- A wave that may issue is on the die. -/
theorem State.hold_ne_blank_of_issues {s : State} (h : s.issues = true) : s.w.flow.hold ≠ .blank := by
  intro hb
  simp only [State.issues, hb, Hold.tries, State.missOver, Bool.or_false, Bool.and_false, Bool.false_and, Bool.false_eq_true] at h

theorem State.onAny_self {s : State} (h : s.w.flow.hold ≠ .blank) (f : Wave → Wave) : s.onAny s.w.id.wid f = s.onW f := by
  have hfound : (s.wave? s.w.id.wid).isSome = true := by
    simp only [State.wave?, State.waves, if_neg h, List.find?_cons, beq_self_eq_true, Option.isSome_some]
  simp only [State.onAny, hfound, if_true, State.onWave, ne_eq, h, not_false_eq_true, and_self]

/-- How a wave `v` goes on behind the control transfer of `w`, which it was. -/
def Wave.gone (v w : Wave) : Wave :=
  let u := (v.perfAdd 0 1).finish w.flow.pc
  { u with flow := { u.flow with yielded := u.flow.yielded || w.yields } }

/-- A control transfer of the acting wave. -/
theorem State.went_onW {s : State} {f : Wave → Wave} (hid : (f s.w).id = s.w.id) (hb : (f s.w).flow.hold ≠ .blank) :
    (s.onW f).went s.w = s.onW fun w => (f w).gone s.w := by
  have h := State.onAny_self (s := s.onW f) hb fun v => v.gone s.w
  rw [State.onW_w, hid] at h
  exact h

theorem State.passedOn_advance (s : State) : s.PassedOn (s.onW Wave.advance) where
  state := rfl
  wave := { id := Wave.advance_id _, regs := Wave.advance_regs _, csr := rfl, flow := rfl, mem := Wave.advance_mem _ }
  bytes := fun _ _ _ => rfl

theorem State.parkedOnWalk_settle (s : State) (p : Nat) : s.ParkedOnWalk ((Act.walk [p]).settle s) p :=
  ⟨rfl, rfl, rfl, rfl, rfl, rfl⟩

/-- An instruction of the system class that names no register. -/
theorem issue_bare {f : State → Act} {s : State} (h : s.mayRun (useOf 6 [] []) = true) :
    issue (useOf 6 [] []) f s = .next ((f s).settle s) := issue_run h

/-! ### Resuming at a position (R35, R54) -/

section Resume
variable {s : State} {pc : Addr} {after : Bool} {go : Addr → Bool → Act}

theorem State.resumeAct_of_bad (h : posOk pc = false) : s.resumeAct pc after go = s.w.trapAct cRESERVED_ENCODING := by
  simp only [State.resumeAct, h, if_true]

theorem State.resumeAct_of_header (h : posOk pc = true) (hi : posIndex pc = 15) : s.resumeAct pc after go = go pc false := by
  simp only [State.resumeAct, h, hi, if_true, Bool.true_eq_false, if_false]

theorem State.resumeAct_of_clause {c : Clause} (h : posOk pc = true) (hi : posIndex pc ≠ 15)
    (hc : s.fetchClause s.w (posHdr pc) = .clause c) (hn : posIndex pc < hdrNI c.hdr) :
    s.resumeAct pc after go = go (if after then afterIn c (posIndex pc) (posHdr pc) else pc) false := by
  simp only [State.resumeAct, h, hi, hc, if_neg (Nat.not_le.mpr hn), Bool.true_eq_false, if_false]

theorem State.resumeAct_of_beyond {c : Clause} (h : posOk pc = true) (hi : posIndex pc ≠ 15)
    (hc : s.fetchClause s.w (posHdr pc) = .clause c) (hn : hdrNI c.hdr ≤ posIndex pc) :
    s.resumeAct pc after go = s.w.trapAct cRESERVED_ENCODING := by
  simp only [State.resumeAct, h, hi, hc, if_pos hn, Bool.true_eq_false, if_false]

theorem State.resumeAct_of_walk {p : Nat} (h : posOk pc = true) (hi : posIndex pc ≠ 15)
    (hc : s.fetchClause s.w (posHdr pc) = .walk p) : s.resumeAct pc after go = .walk [p] := by
  simp only [State.resumeAct, h, hi, hc, Bool.true_eq_false, if_false]

theorem State.resumeAct_of_failed (h : posOk pc = true) (hi : posIndex pc ≠ 15)
    (hc : s.fetchClause s.w (posHdr pc) = .badHeader ∨ ∃ code va, s.fetchClause s.w (posHdr pc) = .fault code va) :
    s.resumeAct pc after go = go pc after := by
  rcases hc with hc | ⟨code, va, hc⟩ <;> simp only [State.resumeAct, h, hi, hc, Bool.true_eq_false, if_false]

/-- The two ways in which a return traps. -/
theorem State.resumeAct_of_reserved (h : posOk pc = false ∨
      (posIndex pc ≠ 15 ∧ ∃ c, s.fetchClause s.w (posHdr pc) = .clause c ∧ hdrNI c.hdr ≤ posIndex pc)) :
    s.resumeAct pc after go = s.w.trapAct cRESERVED_ENCODING := by
  by_cases hp : posOk pc = false
  · exact State.resumeAct_of_bad hp
  · obtain ⟨hi, c, hc, hn⟩ := h.resolve_left hp
    exact State.resumeAct_of_beyond (Bool.eq_true_of_not_eq_false hp) hi hc hn

end Resume

/-! ### RFT and RESUMEF (R223, R333) -/

/-- The wave of an RFT that goes on at `pc`, with the mark of a resume behind it or without. -/
def Wave.rft (pc : Addr) (skip : Bool) (w : Wave) : Wave :=
  let v := { w with flow := { w.flow with handler := false } }.jump pc
  { v with flow := { v.flow with skip := skip } }

theorem rftAct_eq (s : State) : rftAct s = s.resumeAct s.w.csr.epc true fun pc skip => .goto (s.onW (Wave.rft pc skip)) := rfl

/-- An RFT that reaches its return jumps. -/
theorem rft_jumps {s : State} {pc : Addr} {skip : Bool} (h : s.mayRun (useOf 6 [] []) = true)
    (ha : rftAct s = .goto (s.onW (Wave.rft pc skip))) :
    ∃ t, exec .rft s = .next t ∧
      s.Jumped t { s.w.flowAt pc s.w.flow.mask s.w.flow.rpc s.w.flow.stack with handler := false, skip := skip } := by
  have hb := State.hold_ne_blank_of_issues (Use.act_run (f := rftAct) h).1
  have hx : exec .rft s = .next (s.onW fun w => (Wave.rft pc skip w).gone s.w) := by
    rw [show exec .rft s = _ from issue_bare h, ha, ← State.went_onW (f := Wave.rft pc skip) rfl hb, Act.settle]
  exact ⟨_, hx, rfl, ⟨rfl, rfl, by rw [Wave.advance_csr]; rfl, rfl, rfl⟩, fun _ _ _ => rfl⟩

/-- A RESUMEF that reaches its return takes it. -/
theorem resumef_returns {s : State} (h : s.mayRun (useOf 6 [] []) = true) (ha : resumefAct s = .goto (s.onW Wave.resumef)) :
    ∃ t, exec .resumef s = .next t ∧ t = { s with w := t.w } ∧ t.w.id = s.w.id ∧ t.w.regs = s.w.regs ∧
      t.w.csr = { s.w.advance.csr with ftoken := 0 } ∧
      t.w.flow = { s.w.flowAt s.w.csr.fpc (s.w.flow.retMask &&& s.w.flow.alive) s.w.flow.retRpc (s.w.flow.stack.take s.w.flow.retDepth) with
                   contin := false, hold := .run } := by
  have hx : exec .resumef s = .next (s.onW fun w => w.resumef.gone s.w) := by
    rw [show exec .resumef s = _ from issue_bare h, ha, ← State.went_onW (f := Wave.resumef) rfl (by simp [Wave.resumef]), Act.settle]
  exact ⟨_, hx, rfl, rfl, rfl, by rw [Wave.advance_csr]; rfl, rfl⟩

theorem resumefAct_of_none {s : State} (h : s.w.csr.ftoken = 0) : resumefAct s = .done s := by
  simp only [resumefAct, h, if_true]

theorem resumefAct_of_outstanding {s : State} (h : s.w.csr.ftoken ≠ 0)
    (ho : (s.die.faults.any fun f => f.token == s.w.csr.ftoken.toNat) = true) :
    resumefAct s = .wait (s.onW fun w => w.withHold (.fault [s.w.csr.ftoken.toNat])) := by
  simp only [resumefAct, h, ho, if_true, if_false]

theorem resumefAct_of_serviced {s : State} (h : s.w.csr.ftoken ≠ 0)
    (ho : (s.die.faults.any fun f => f.token == s.w.csr.ftoken.toNat) = false) :
    resumefAct s = s.resumeAct s.w.csr.fpc false fun _ _ => .goto (s.onW Wave.resumef) := by
  simp only [resumefAct, h, ho, if_false, Bool.false_eq_true]

/-! ### BKPT (R226, R353) -/

theorem State.enterBkq_eq (s : State) (e : Nat × Addr × Nat) :
    ∃ tabs host, s.enterBkq e = { s with tabs := tabs, host := host } ∧
      (s.host.bkq.length < 64 → host = { s.host with bkq := s.host.bkq ++ [e] }) ∧
      (64 ≤ s.host.bkq.length → host = { s.host with bkwait := s.host.bkwait ++ [e] }) := by
  unfold State.enterBkq
  by_cases h : s.host.bkq.length < 64
  · simp only [h, if_true]
    split <;> exact ⟨_, _, rfl, fun _ => rfl, fun h' => absurd h (Nat.not_lt.mpr h')⟩
  · simp only [h, if_false]
    exact ⟨_, _, rfl, False.elim, fun _ => rfl⟩

theorem bkpt_stops {s : State} (h : s.mayRun (useOf 6 [] []) = true) (he : s.host.bkpten = true) :
    ∃ t, exec .bkpt s = .next t ∧ t.w.flow = { s.w.flow with hold := .bkpt, stalled := false } ∧ t.w.regs = s.w.regs ∧ t.w.csr = s.w.csr ∧
      t.others = s.others ∧ t.cores = s.cores ∧ t.die = s.die ∧ t.sched = s.sched ∧ t.pkg = s.pkg ∧
      (s.host.bkq.length < 64 → t.host = { s.host with bkq := s.host.bkq ++ [(s.w.id.core, s.w.flow.pc, s.w.id.slot)] }) ∧
      (64 ≤ s.host.bkq.length → t.host = { s.host with bkwait := s.host.bkwait ++ [(s.w.id.core, s.w.flow.pc, s.w.id.slot)] }) := by
  obtain ⟨tabs, host, heq, hroom, hfull⟩ := s.enterBkq_eq (s.w.id.core, s.w.flow.pc, s.w.id.slot)
  have hx := show exec .bkpt s = .next ((bkptAct s).settle s) from issue_bare h
  simp only [bkptAct, he, if_true, heq, Act.settle] at hx
  exact ⟨_, hx, rfl, rfl, rfl, rfl, rfl, rfl, rfl, rfl, hroom, hfull⟩

/-- TRAP, TFENCE, RFT, RESUMEF and BKPT. -/
theorem trapInstructions : Statements.TrapInstructions := by
  intro s code hm
  have htfence : exec .tfence s = .next ((tfenceAct s).settle s) := issue_bare hm
  have hrft : exec .rft s = .next ((rftAct s).settle s) := issue_bare hm
  have hresumef : exec .resumef s = .next ((resumefAct s).settle s) := issue_bare hm
  have hbkpt : exec .bkpt s = .next ((bkptAct s).settle s) := issue_bare hm
  refine ⟨issue_bare hm, fun hp => ?tfenceWaits, fun hp hz => ⟨_, ?tfencePasses, s.passedOn_advance⟩, fun hp hz => ?tfenceTraps,
    ⟨fun pc hok hpc => ?rftGoes, fun hok hi hc => ?rftFailed, fun hok hi p hc => ⟨_, ?rftWalks, s.parkedOnWalk_settle p⟩, fun hbad => ?rftTraps⟩,
    fun hz => ⟨_, ?resumefPasses, s.passedOn_advance⟩,
    fun hz ho => ⟨fun hbad => ?resumefTraps, fun hok hi p hc => ⟨_, ?resumefWalks, s.parkedOnWalk_settle p⟩, fun hok hc => ?resumefGoes⟩,
    fun hz ho => ?resumefWaits, fun he => ⟨_, ?bkptPasses, s.passedOn_advance⟩, bkpt_stops hm⟩
  case tfenceWaits =>
    rw [htfence, tfenceAct, if_pos hp]
    rfl
  case tfencePasses => rw [htfence, tfenceAct, if_neg (Bool.eq_false_iff.mp hp), if_neg (not_not.mpr hz), Act.settle]
  case tfenceTraps =>
    rw [htfence, tfenceAct, if_neg (Bool.eq_false_iff.mp hp), if_pos hz]
    rfl
  case rftGoes =>
    rcases hpc with ⟨hi, rfl⟩ | ⟨hi, c, hc, hpos⟩
    · exact rft_jumps hm (State.resumeAct_of_header hok hi)
    · have hgo := State.resumeAct_of_clause (after := true) (go := fun pc skip => .goto (s.onW (Wave.rft pc skip))) hok hi hc
      rcases hpos with ⟨hn, rfl⟩ | ⟨hn, rfl⟩
      · exact rft_jumps (skip := false) hm (by rw [rftAct_eq, hgo (by omega), if_pos rfl, afterIn, if_pos hn])
      · exact rft_jumps (skip := false) hm (by rw [rftAct_eq, hgo (by omega), if_pos rfl, afterIn, if_neg (by omega)])
  case rftFailed => exact rft_jumps hm (State.resumeAct_of_failed hok hi hc)
  case rftWalks => rw [hrft, rftAct_eq, State.resumeAct_of_walk hok hi hc]
  case rftTraps =>
    rw [hrft, rftAct_eq, State.resumeAct_of_reserved hbad]
    rfl
  case resumefPasses => rw [hresumef, resumefAct_of_none hz, Act.settle]
  case resumefTraps =>
    rw [hresumef, resumefAct_of_serviced hz ho, State.resumeAct_of_reserved hbad]
    rfl
  case resumefWalks => rw [hresumef, resumefAct_of_serviced hz ho, State.resumeAct_of_walk hok hi hc]
  case resumefGoes =>
    refine resumef_returns hm ?_
    rw [resumefAct_of_serviced hz ho]
    by_cases hi : posIndex s.w.csr.fpc = 15
    · exact State.resumeAct_of_header hok hi
    · rcases hc.resolve_left hi with hc | hc | ⟨c, hc, hn⟩
      · exact State.resumeAct_of_failed hok hi (.inl hc)
      · exact State.resumeAct_of_failed hok hi (.inr hc)
      · exact State.resumeAct_of_clause hok hi hc hn
  case resumefWaits =>
    rw [hresumef, resumefAct_of_outstanding hz ho]
    rfl
  case bkptPasses => rw [hbkpt, bkptAct, if_neg (Bool.eq_false_iff.mp he), Act.settle]

/-! ### Outstanding faults (R336) -/

theorem State.joinFault_of_find {s : State} {key : FaultKey} {va : Nat} {engine : Bool} {f : OutFault}
    (h : s.die.faults.find? (fun f => f.key == key) = some f) : s.joinFault key va engine = (s, f.token) := by
  simp only [State.joinFault, h]

/-- What a wave's fault that is not outstanding creates. -/
theorem State.joinFault_of_new {s : State} {key : FaultKey} {va : Nat} (h : ∀ f ∈ s.die.faults, f.key ≠ key) :
    ∃ f tabs host, s.joinFault key va false =
        ({ s with die := { s.die with tokens := s.die.tokens + 1, faults := s.die.faults ++ [f] }, tabs := tabs, host := host }, s.die.tokens + 1) ∧
      f.token = s.die.tokens + 1 ∧ f.key = key ∧
      (∀ p, key = .page p → s.host.faultq.length < 256 →
        host.faultq = s.host.faultq ++ [(s.die.tokens + 1, BitVec.ofNat 64 (va % 2 ^ 49))]) ∧
      (∀ n, key = .range n → host = s.host) := by
  have hnone : s.die.faults.find? (fun f => f.key == key) = none := by
    rw [List.find?_eq_none]
    exact fun f hf => by simpa using h f hf
  simp only [State.joinFault, hnone]
  cases key with
  | range n => exact ⟨_, _, _, rfl, rfl, rfl, nofun, fun _ _ => rfl⟩
  | page p =>
    by_cases hroom : s.host.faultq.length < 256
    · simp only [hroom, decide_true, Bool.true_and, if_true]
      split <;> exact ⟨_, _, _, rfl, rfl, rfl, fun _ _ _ => rfl, nofun⟩
    · simp only [hroom, decide_false, Bool.and_false, Bool.false_eq_true, if_false]
      exact ⟨_, _, _, rfl, rfl, rfl, fun _ _ h => h.elim, nofun⟩

/-- The state and the token of a fault that a wave takes: the one outstanding, or a new one. -/
theorem State.joinFault_cases (s : State) (key : FaultKey) (va : Nat) :
    (∃ f, s.die.faults.find? (fun f => f.key == key) = some f ∧ f ∈ s.die.faults ∧ f.key = key ∧ s.joinFault key va false = (s, f.token)) ∨
    (∀ f ∈ s.die.faults, f.key ≠ key) := by
  cases h : s.die.faults.find? (fun f => f.key == key) with
  | none => exact .inr fun f hf => by simpa using List.find?_eq_none.mp h f hf
  | some f =>
    have hk : f.key = key := by simpa using List.find?_some h
    exact .inl ⟨f, rfl, List.mem_of_find?_eq_some h, hk, State.joinFault_of_find h⟩

/-- A fault of the acting wave at one address, outside a region: `j` is the state with the fault, `tok` its token. -/
theorem State.takeFault_of_one {s : State} {code va : Nat} {lanes : Word} {j : State} {tok : Nat}
    (hr : s.w.mem.region = none) (hj : s.joinFault (s.faultKey code va) va false = (j, tok)) :
    s.takeFault code [va] va lanes =
      if s.w.flow.handler || s.w.flow.contin then
        j.onW fun w => { (w.cause code va lanes).withHold (.fault [tok]) with mem := { w.mem with walked := [], owed := put w.mem.owed w.flow.pc.toNat [tok] } }
      else j.onW fun w => w.faultEntry code va lanes tok [tok] := by
  simp only [State.takeFault, State.joinAll, hj, hr]
  rfl

/-- What becomes of the wave that takes a fault with the token `tok` (R333, R334). -/
structure Wave.TookFault (w v : Wave) (code va : Nat) (lanes : Word) (tok : Nat) : Prop where
  id : v.id = w.id
  regs : v.regs = w.regs
  first : w.flow.handler = false → w.flow.contin = false →
    v.csr = { w.csr with fcause := BitVec.ofNat 32 code, fva := BitVec.ofNat 64 va, flanes := lanes, fpc := w.flow.pc, ftoken := BitVec.ofNat 64 tok } ∧
    v.flow.retMask = w.flow.mask ∧ v.flow.retRpc = w.flow.rpc ∧ v.flow.retDepth = w.flow.stack.length ∧
    v.flow.mask = w.flow.mask ∧ v.flow.stack = w.flow.stack ∧ v.flow.handler = false ∧
    (w.csr.cont ≠ 0 → w.id.kind ≠ .kindling →
      v.flow.contin = true ∧ v.flow.pc = headerPos w.csr.cont.toNat ∧ v.flow.clause = none ∧ v.flow.hold = w.flow.hold) ∧
    (w.csr.cont = 0 ∨ w.id.kind = .kindling → v.flow.contin = false ∧ v.flow.pc = w.flow.pc ∧ v.flow.hold = .fault [tok])
  nested : w.flow.handler = true ∨ w.flow.contin = true →
    v.csr = { w.csr with fcause := BitVec.ofNat 32 code, fva := BitVec.ofNat 64 va, flanes := lanes } ∧
    v.flow = { w.flow with hold := .fault [tok] }

theorem Wave.tookFault_faultEntry {w : Wave} (code va : Nat) (lanes : Word) (tok : Nat) (hh : w.flow.handler = false) (hc : w.flow.contin = false) :
    w.TookFault (w.faultEntry code va lanes tok [tok]) code va lanes tok := by
  have hnot : ¬(w.flow.handler = true ∨ w.flow.contin = true) := by simp [hh, hc]
  by_cases hgo : w.csr.cont ≠ 0 ∧ w.id.kind ≠ .kindling
  · simp only [Wave.faultEntry, if_pos hgo]
    exact ⟨rfl, rfl, fun _ _ => ⟨rfl, rfl, rfl, rfl, rfl, rfl, hh, fun _ _ => ⟨rfl, rfl, rfl, rfl⟩,
      fun h => h.elim (absurd · hgo.1) (absurd · hgo.2)⟩, fun h => absurd h hnot⟩
  · simp only [Wave.faultEntry, if_neg hgo]
    exact ⟨rfl, rfl, fun _ _ => ⟨rfl, rfl, rfl, rfl, rfl, rfl, hh, fun h1 h2 => absurd ⟨h1, h2⟩ hgo, fun _ => ⟨hc, rfl, rfl⟩⟩,
      fun h => absurd h hnot⟩

/-- A wave takes a fault at one address outside a region. -/
theorem State.tookFault {s : State} {code va : Nat} {lanes : Word} {j : State} {tok : Nat} (hr : s.w.mem.region = none)
    (hj : s.joinFault (s.faultKey code va) va false = (j, tok)) (hw : j.w = s.w) :
    s.takeFault code [va] va lanes = { j with w := (s.takeFault code [va] va lanes).w } ∧
    s.w.TookFault (s.takeFault code [va] va lanes).w code va lanes tok := by
  rw [State.takeFault_of_one hr hj]
  by_cases hn : s.w.flow.handler = true ∨ s.w.flow.contin = true
  · simp only [Bool.or_eq_true, if_pos hn, State.onW_w, hw]
    refine ⟨by simp only [State.onW, hw], rfl, rfl, fun h1 h2 => ?_, fun _ => ⟨rfl, rfl⟩⟩
    simp [h1, h2] at hn
  · simp only [Bool.or_eq_true, if_neg hn, State.onW_w, hw]
    rw [not_or, Bool.not_eq_true, Bool.not_eq_true] at hn
    exact ⟨by simp only [State.onW, hw], Wave.tookFault_faultEntry code va lanes tok hn.1 hn.2⟩

/-! ### A load of absent pages (09 R153) -/

/-- The model's address of a lane is that of R206. -/
theorem eaOf_eq {n : Nat} (m : MA n) (w : Wave) (l : Nat) : eaOf m w l = ea m w l := by
  unfold eaOf ea
  split
  · simp
  · rw [show m.off.signExtend 64 = BitVec.ofInt 64 m.off.toInt from rfl, BitVec.toNat_add, BitVec.toNat_ofInt]
    generalize m.off.toInt = k
    omega

theorem eas_eq {n : Nat} (m : MA n) (w : Wave) : eas m w = w.addrs m := by simp only [eas, Wave.addrs, eaOf_eq]

theorem Wave.lanes_ne_nil {w : Wave} (h : w.flow.mask ≠ 0) : w.lanes ≠ [] := by
  intro hnil
  refine h (BitVec.eq_of_getLsbD_eq fun l hl => ?_)
  have : l ∉ w.lanes := by simp [hnil]
  simpa [Wave.mem_lanes, hl, Wave.active] using this

theorem State.pageOf_of_walked {s : State} {w : Wave} {vpn : Nat} (ht : s.tlbHit w.id.core vpn = none)
    (hw : w.mem.walked.contains vpn = true) (ha : s.walk (vpn * 65536) = .absent) : s.pageOf w vpn = some .absent := by
  simp only [State.pageOf, ht, hw, ha, if_true, ite_self]

theorem State.laneCode_of_absent {s : State} {w : Wave} {k : Rights} {va : Nat} (hva : va < 2 ^ 48)
    (h : s.pageOf w (va / 65536) = some .absent) : s.laneCode w k va = some cPAGE_ABSENT := by
  simp only [State.laneCode, h, if_neg (show ¬2 ^ 49 ≤ va by omega), if_neg (show ¬2 ^ 48 ≤ va by omega)]

/-- Lanes whose pages' walks have all ended absent raise PAGE_ABSENT together. -/
theorem State.check_of_absent {s : State} {w : Wave} {k : Rights} {size : Nat} {ls : List (Nat × Nat)} (hne : ls ≠ [])
    (h : ∀ e ∈ ls, e.2 % size = 0 ∧ e.2 < 2 ^ 48 ∧ s.pageOf w (e.2 / 65536) = some .absent) :
    s.check w k size ls = .fault cPAGE_ABSENT ls (ls.headD (0, 0)).2 := by
  have halign : ls.filter (fun e => e.2 % size != 0) = [] :=
    List.filter_eq_nil_iff.mpr fun e he => by simp [(h e he).1]
  have hwalked : s.unwalked w (ls.map (·.2)) = [] := by
    refine List.filter_eq_nil_iff.mpr fun p hp => ?_
    simp only [List.mem_eraseDups, List.mem_map, List.mem_filter] at hp
    obtain ⟨_, ⟨⟨e, he, rfl⟩, -⟩, rfl⟩ := hp
    simp [(h e he).2.2]
  have hcodes : (ls.map fun e => (e, s.laneCode w k e.2)) = ls.map fun e => (e, some cPAGE_ABSENT) :=
    List.map_congr_left fun e he => by rw [State.laneCode_of_absent (h e he).2.1 (h e he).2.2]
  have hfind : (codeOrder.find? fun c => (ls.map fun e => (e, some cPAGE_ABSENT)).any fun x => x.2 == some c) = some cPAGE_ABSENT := by
    obtain ⟨e, t, rfl⟩ := List.exists_cons_of_ne_nil hne
    simp [codeOrder, cPEER_DIRECT, cPROTECTION, cPAGE_ABSENT]
  have hall : (ls.map fun e => (e, some cPAGE_ABSENT)).filter (fun x => x.2 == some cPAGE_ABSENT) = ls.map fun e => (e, some cPAGE_ABSENT) :=
    List.filter_eq_self.mpr fun x hx => by
      obtain ⟨e, -, rfl⟩ := List.mem_map.mp hx
      simp
  simp only [State.check, halign, hwalked, hcodes, hfind, hall, List.map_map]
  congr 1
  · exact List.map_id _
  · cases ls <;> rfl

theorem exec_ld_of_absent {s : State} {m : MA 14} {d : BitVec 7} {scope : BitVec 2} {ord size : BitVec 3} {sx : Bool}
    (hm : s.mayRun (ldUse m d size) = true) (hmask : s.w.flow.mask ≠ 0)
    (h : ∀ x ∈ s.w.addrs m, x.2 % bytesOf size = 0 ∧ x.2 < 2 ^ 48 ∧ s.tlbHit s.w.id.core (x.2 / 65536) = none ∧
        s.w.mem.walked.contains (x.2 / 65536) = true ∧ s.walk (x.2 / 65536 * 65536) = .absent) :
    exec (.ld m d scope ord size sx) s = .next (s.takeFault cPAGE_ABSENT ((s.w.addrs m).map (·.2)) ((s.w.addrs m).headD (0, 0)).2
      (maskOf ((s.w.addrs m).map (·.1)))) := by
  have hne : s.w.addrs m ≠ [] := by simpa [Wave.addrs] using Wave.lanes_ne_nil hmask
  have hcheck := State.check_of_absent (s := s) (w := s.w) (k := { rd := true, wr := false }) (size := bytesOf size) hne fun x hx =>
    have ⟨ha, hva, ht, hw, habs⟩ := h x hx
    ⟨ha, hva, State.pageOf_of_walked ht hw habs⟩
  have hact : ldAct m d scope ord size sx s = .fault cPAGE_ABSENT ((s.w.addrs m).map (·.2)) ((s.w.addrs m).headD (0, 0)).2
      (maskOf ((s.w.addrs m).map (·.1))) := by
    rw [ldAct, eas_eq, show sizeOf' size = bytesOf size from rfl, hcheck]
    rfl
  rw [show exec (.ld m d scope ord size sx) s = .next ((ldAct m d scope ord size sx s).settle s) from issue_run hm, hact, Act.settle]

theorem State.faultKey_pageAbsent (s : State) (va : Nat) : s.faultKey cPAGE_ABSENT va = .page (va / 65536) := rfl

theorem State.faultKey_other {s : State} {code va : Nat} (h : code ≠ cPAGE_ABSENT) : ∃ n, s.faultKey code va = .range n := by
  simp only [State.faultKey, if_neg h]
  split <;> exact ⟨_, rfl⟩

/-- Taking a PAGE_ABSENT or a HANDOVER. -/
theorem faultsTaken : Statements.FaultsTaken := by
  intro s code va lanes hr hb
  refine ⟨fun h => h ▸ s.faultKey_pageAbsent va, ?_, fun m d scope ord size sx hm hmask h => exec_ld_of_absent hm hmask h⟩
  rcases s.joinFault_cases (s.faultKey code va) va with ⟨f, hf, hmem, hkey, hj⟩ | hnew
  · obtain ⟨ht, hw⟩ := State.tookFault (lanes := lanes) hr hj rfl
    rw [ht]
    exact ⟨f.token, ⟨fun g hg => by rw [hf, Option.some.injEq] at hg; exact ⟨hg ▸ rfl, rfl, rfl⟩, fun h => absurd hkey (h f hmem)⟩,
      rfl, rfl, rfl, rfl, hw.id, hw.regs, hw.first, hw.nested⟩
  · obtain ⟨f, tabs, host, hj, htok, hkey, hpage, hrange⟩ := State.joinFault_of_new (va := va) hnew
    obtain ⟨ht, hw⟩ := State.tookFault (lanes := lanes) hr hj rfl
    rw [ht]
    refine ⟨s.die.tokens + 1, ⟨fun g hg => ?_, fun _ => ⟨rfl, rfl, ⟨f, rfl, htok, hkey⟩, fun h => ?_, fun h => ?_⟩⟩,
      rfl, rfl, rfl, rfl, hw.id, hw.regs, hw.first, hw.nested⟩
    · exact absurd (by simpa using List.find?_some hg) (hnew g (List.mem_of_find?_eq_some hg))
    · exact hpage _ (h ▸ s.faultKey_pageAbsent va)
    · obtain ⟨n, hn⟩ := s.faultKey_other (va := va) h
      exact hrange n hn

/-- Settles O41: the returns of R223 and the delivery of R333. -/
theorem trapsAndReturns : Obligations.TrapsAndReturns := ⟨trapInstructions, faultsTaken⟩

end Sys2Proof.Machine

/-! PROOFS. LOAD_REPLY of an atomic (09 R136; 13 R211), and O12: at 16 bytes the bits of a lane's value from 64 on are the atomic's
flags to the model and data to the statement. -/

namespace Sys2Proof.Machine

/-- LOAD_REPLY of an atomic that acquires nothing, once every lane has performed. -/
theorem exec_loadReply_atomic {s : State} {wid k : Nat} {w : Wave} {e : LoadEnt} (hj : s.host.jobDead = false) (hh : s.tabs.halted = false)
    (hw : s.wave? wid = some w) (he : w.mem.loads[k]? = some e) (hk : e.kind = .atomic) (ha : e.acq = false)
    (hg : e.got.length = e.lanes.length) :
    exec (.loadReply wid k) s = .next (s.onAny wid fun v => v.reply e e.got) := by
  have hany : s.any? wid = some w := by simp only [State.any?, hw]
  have hbind : s.bindLoad w e = .ok s e.got := by simp only [State.bindLoad, hk, hg, ha, if_true, Bool.false_eq_true, if_false]
  have hfits (t : State) : t.loadFits e = some t := by simp only [State.loadFits, hk, reduceCtorEq, if_false]
  show execLoadReply wid k s = _
  simp only [execLoadReply, hj, hh, hany, he, hbind, hfits, Bool.or_self, Bool.false_eq_true, if_false]

/-- An atomic of 16 bytes whose one lane has brought back 2^64. R210 has atomics of 4 and 8 bytes only; the statement
does not ask for one of those. -/
def wideAtomic : LoadEnt :=
  { seq := 0, kind := .atomic, scalar := false, dst := 0, size := 16, sx := false, scope := 0, acq := false
    lanes := [{ lane := 0, va := 0, pa := 0, fields := 0, data := 0, cmp := 0 }], got := [(0, 2 ^ 64)], pc := 0, objs := [], all := false
    flags := false }

/-- A wave, number 0, that has issued it and nothing else. -/
def wideAtomicWave : Wave :=
  { Wave.blank with flow := { Wave.blank.flow with hold := .run }, mem := { Wave.blank.mem with loads := [wideAtomic] } }

/-- That wave alone on the die. -/
def wideAtomicState : State := { State.reset with w := wideAtomicWave }

/-- The reply ORs bit 64 of the value into ARITHF. -/
theorem reply_wideAtomic_csr : (wideAtomicWave.reply wideAtomic wideAtomic.got).csr ≠ wideAtomicWave.csr := by decide +kernel

theorem wave?_reply_wideAtomic :
    (wideAtomicState.onAny 0 fun v => v.reply wideAtomic wideAtomic.got).wave? 0 = some (wideAtomicWave.reply wideAtomic wideAtomic.got) := by
  have honAny := State.onAny_self (s := wideAtomicState) (by decide) fun v => v.reply wideAtomic wideAtomic.got
  exact congrArg (State.wave? · 0) honAny

/-- Refutes O12: `wideAtomicState` meets every hypothesis with the values 2^64, and LOAD_REPLY there changes the wave's ARITHF. -/
theorem not_loadsReturn : ¬ Obligations.LoadsReturn := by
  unfold Obligations.LoadsReturn
  intro h
  obtain ⟨hfound, -⟩ := h wideAtomicState 0 0 wideAtomicWave wideAtomic rfl rfl rfl rfl (by decide) (by decide) (by decide) rfl
    (fun _ hk => absurd rfl hk) (by decide) (by decide)
  obtain ⟨t, v, hx, hv, -, -, -, -, -, -, -, hcsr, -⟩ := hfound (fun _ => 2 ^ 64) (fun l _ => ⟨by decide, rfl⟩) (fun _ => rfl) nofun nofun
  rw [exec_loadReply_atomic (s := wideAtomicState) rfl rfl rfl rfl rfl rfl rfl, Host.Outcome.next.injEq] at hx
  rw [← hx, wave?_reply_wideAtomic, Option.some.injEq] at hv
  exact reply_wideAtomic_csr (hv ▸ hcsr)

end Sys2Proof.Machine

/-! PROOFS. Every step keeps the canonical form of DRAM (05 R83), and O57. A write to DRAM keeps the form
(`Pkg.writeBlock_wf`, `Pkg.mergeBlock_wf`, `Pkg.writeSave_wf`, `Pkg.exchange_wf`), so each operation of the model has one
lemma, `f_canon`: from a canonical state it answers canonical states alone. They stand in the order of the model,
and each follows from the lemmas of the operations that it calls. -/

namespace Sys2Proof.Machine

-- One lemma after another: hundreds of proofs checked at a time would pass the sandbox's memory limit.
set_option Elab.async false

/-- DRAM is in its canonical form (05 R83). -/
def State.Canon (s : State) : Prop := Memory.wf s.pkg.dram = true

/-- So is that of the state that an operation answers, if it answers one. -/
def OptCanon : Option State → Prop
  | none => True
  | some t => t.Canon

/-- The same of an operation that answers a value beside the state. -/
def PairCanon {α : Type} : Option (State × α) → Prop
  | none => True
  | some x => x.1.Canon

def SndCanon {α : Type} : Option (α × State) → Prop
  | none => True
  | some x => x.2.Canon

def EngRes.Canon {α : Type} : EngRes α → Prop
  | .ok t _ => t.Canon
  | _ => True

def Bound.Canon : Bound → Prop
  | .ok t _ => t.Canon
  | _ => True

def Performed.Canon : Performed → Prop
  | .ok t => t.Canon
  | _ => True

def RegionTry.Canon : RegionTry → Prop
  | .ok t _ | .stall t | .wait t | .aborted t | .poison t _ _ => t.Canon

def Move.Canon {α : Type} : Move α → Prop
  | .ok t _ => t.Canon
  | _ => True

def Act.Canon : Act → Prop
  | .done t | .goto t | .left t | .wait t | .pipe t => t.Canon
  | _ => True

def OutCanon : Out → Prop
  | .next t => t.Canon
  | _ => True

variable {α : Type}

theorem forEach_canon {s : State} (hs : s.Canon) (xs : List α) {f : α → State → State} (hf : ∀ x t, t.Canon → (f x t).Canon) :
    (forEach xs s f).Canon := by
  induction xs generalizing s with
  | nil => exact hs
  | cons x xs ih => exact ih (hf x s hs)

theorem foldl_canon {s : State} (hs : s.Canon) (xs : List α) {f : State → α → State} (hf : ∀ x t, t.Canon → (f t x).Canon) :
    (xs.foldl f s).Canon := forEach_canon hs xs (f := fun x t => f t x) hf

theorem foldlM_canon {s : State} (hs : s.Canon) (xs : List α) {f : State → α → Option State} (hf : ∀ x t, t.Canon → OptCanon (f t x)) :
    OptCanon (xs.foldlM f s) := by
  induction xs generalizing s with
  | nil => exact hs
  | cons x xs ih =>
    rw [List.foldlM_cons]
    have hx := hf x s hs
    cases h : f s x with
    | none => trivial
    | some t => exact ih (h ▸ hx : OptCanon (some t))

theorem bind_canon {o : Option State} (ho : OptCanon o) {f : State → Option State} (hf : ∀ t, t.Canon → OptCanon (f t)) : OptCanon (o.bind f) := by
  cases o with
  | none => trivial
  | some t => exact hf t ho

theorem map_canon {o : Option State} (ho : OptCanon o) {f : State → State} (hf : ∀ t, t.Canon → (f t).Canon) : OptCanon (o.map f) := by
  cases o with
  | none => trivial
  | some t => exact hf t ho

theorem map_pairCanon {o : Option State} (ho : OptCanon o) {f : State → State × α} (hf : ∀ t, t.Canon → (f t).1.Canon) : PairCanon (o.map f) := by
  cases o with
  | none => trivial
  | some t => exact hf t ho

theorem map_sndCanon {o : Option State} (ho : OptCanon o) {f : State → α × State} (hf : ∀ t, t.Canon → (f t).2.Canon) : SndCanon (o.map f) := by
  cases o with
  | none => trivial
  | some t => exact hf t ho

theorem mapPair_canon {o : Option (State × α)} (ho : PairCanon o) {f : State × α → State} (hf : ∀ x, x.1.Canon → (f x).Canon) : OptCanon (o.map f) := by
  cases o with
  | none => trivial
  | some t => exact hf t ho

theorem mapPair_pairCanon {β : Type} {o : Option (State × α)} (ho : PairCanon o) {f : State × α → State × β} (hf : ∀ x, x.1.Canon → (f x).1.Canon) :
    PairCanon (o.map f) := by
  cases o with
  | none => trivial
  | some t => exact hf t ho

theorem bindPair_canon {o : Option (State × α)} (ho : PairCanon o) {f : State × α → Option State} (hf : ∀ x, x.1.Canon → OptCanon (f x)) :
    OptCanon (o.bind f) := by
  cases o with
  | none => trivial
  | some t => exact hf t ho

theorem bind_pairCanon {o : Option State} (ho : OptCanon o) {f : State → Option (State × α)} (hf : ∀ t, t.Canon → PairCanon (f t)) :
    PairCanon (o.bind f) := by
  cases o with
  | none => trivial
  | some t => exact hf t ho

theorem mapOther_canon {o : Option α} {f : α → State} (hf : ∀ x, (f x).Canon) : OptCanon (o.map f) := by
  cases o with
  | none => trivial
  | some x => exact hf x

theorem bind_sndCanon {o : Option State} (ho : OptCanon o) {f : State → Option (α × State)} (hf : ∀ t, t.Canon → SndCanon (f t)) :
    SndCanon (o.bind f) := by
  cases o with
  | none => trivial
  | some t => exact hf t ho

theorem mapOther_sndCanon {β : Type} {o : Option α} {f : α → β × State} (hf : ∀ x, (f x).2.Canon) : SndCanon (o.map f) := by
  cases o with
  | none => trivial
  | some x => exact hf x

theorem bindOther_canon {o : Option α} {f : α → Option State} (hf : ∀ x, OptCanon (f x)) : OptCanon (o.bind f) := by
  cases o with
  | none => trivial
  | some x => exact hf x

theorem ite_canon {p : Prop} [Decidable p] {s t : State} (hs : s.Canon) (ht : t.Canon) : (if p then s else t).Canon := by
  split
  · exact hs
  · exact ht

theorem ite_outCanon {p : Prop} [Decidable p] {x y : Out} (hx : OutCanon x) (hy : OutCanon y) : OutCanon (if p then x else y) := by
  split
  · exact hx
  · exact hy

theorem iteNone_canon {p : Prop} [Decidable p] {o : Option State} (ho : OptCanon o) : OptCanon (if p then o else none) := by
  split
  · exact ho
  · trivial

theorem getD_canon {o : Option State} (ho : OptCanon o) {s : State} (hs : s.Canon) : (o.getD s).Canon := by
  cases o with
  | none => exact hs
  | some t => exact ho

/-- An update of the package keeps the canonical form when the DRAM that it gives has it. -/
theorem State.onPkg_canon {s : State} {f : Pkg → Pkg} (hf : Memory.wf (f s.pkg).dram = true) : (s.onPkg f).Canon := hf

@[simp] theorem Pkg.onDir_dram (p : Pkg) (md : Nat) (b : Bool) (f : LinkDir → LinkDir) : (p.onDir md b f).dram = p.dram := rfl
@[simp] theorem Pkg.onVc3_dram (p : Pkg) (h : Nat) (f : List Packet → List Packet) : (p.onVc3 h f).dram = p.dram := rfl
@[simp] theorem Pkg.carry_dram (p : Pkg) (x : Packet) (n : Nat) : (p.carry x n).dram = p.dram := rfl
@[simp] theorem Pkg.divert_dram (p : Pkg) (x : Packet) : (p.divert x).dram = p.dram := rfl
@[simp] theorem Pkg.failNear_dram (p : Pkg) (md : Nat) : (p.failNear md).dram = p.dram := rfl
@[simp] theorem Pkg.countWrite_dram (p : Pkg) (d st : Nat) : (p.countWrite d st).dram = p.dram := rfl

theorem Pkg.foldl_dram (xs : List α) {f : Pkg → α → Pkg} (hf : ∀ p x, (f p x).dram = p.dram) (p : Pkg) : (xs.foldl f p).dram = p.dram := by
  induction xs generalizing p with
  | nil => rfl
  | cons x xs ih => exact (ih _).trans (hf p x)

@[simp] theorem Pkg.hop_dram (p : Pkg) (h : Nat) : (p.hop h).dram = p.dram := by
  unfold Pkg.hop
  split
  · rfl
  · split
    · rfl
    · split <;> rfl

@[simp] theorem Pkg.reinject_dram (p : Pkg) (md : Nat) (b : Bool) : (p.reinject md b).dram = p.dram := by
  unfold Pkg.reinject
  split
  · rfl
  · split
    · split <;> rfl
    · rfl

@[simp] theorem Pkg.vc3Move_dram (p : Pkg) : p.vc3Move.dram = p.dram :=
  (Pkg.foldl_dram _ (fun p md => by simp) _).trans (Pkg.foldl_dram _ Pkg.hop_dram p)

@[simp] theorem Pkg.withdraw_dram (p : Pkg) (md : Nat) (b : Bool) (f : Packet → Bool) : (p.withdraw md b f).dram = p.dram := by
  unfold Pkg.withdraw
  simp only
  split
  · exact Pkg.foldl_dram _ (fun q h => by split <;> rfl) p
  · exact Pkg.foldl_dram _ (fun q h => by split <;> rfl) p

@[simp] theorem Pkg.cut_dram (p : Pkg) (l : FabricLink) : (p.cut l).dram = p.dram := by cases l <;> rfl

@[simp] theorem Pkg.startMove_dram (p : Pkg) (m lf : Nat) : (p.startMove m lf).dram = p.dram := rfl

@[simp] theorem Pkg.startSwap_dram (p : Pkg) (m g : Nat) : (p.startSwap m g).dram = p.dram := by
  unfold Pkg.startSwap
  dsimp only
  exact Pkg.foldl_dram _ (fun q i => by simp only [Pkg.startMove_dram]) p

@[simp] theorem Pkg.windowEnd_dram (p : Pkg) (m : Nat) : (p.windowEnd m).dram = p.dram :=
  Pkg.foldl_dram _ (fun q g => by split <;> simp) p

@[simp] theorem Pkg.switch_dram (p : Pkg) (md lf : Nat) : (p.switch md lf).dram = p.dram := by
  unfold Pkg.switch
  simp only
  split <;> rfl

section
variable {s : State} (hs : s.Canon)
include hs

/-! ### Waves, cores, blocks, time and small edits -/

theorem State.onW_canon (f : Wave → Wave) : (s.onW f).Canon := hs

theorem State.onWave_canon (wid : Nat) (f : Wave → Wave) : (s.onWave wid f).Canon := by
  grind [State.onWave, State.Canon, State.onW_canon]

theorem State.switchTo_canon (wid : Nat) : (s.switchTo wid).Canon := by
  grind [State.switchTo, State.Canon]

theorem State.dropWave_canon (wid : Nat) : (s.dropWave wid).Canon := by
  grind [State.dropWave, State.Canon]

theorem State.onCore_canon (c : Nat) (f : Core → Core) : (s.onCore c f).Canon := hs

theorem State.onBlk_canon (k : Nat) (f : Block → Block) : (s.onBlk k f).Canon := by
  grind [State.onBlk, State.Canon]

theorem State.draw_canon : s.draw.2.Canon := hs

theorem State.drawBytes_canon (n : Nat) : (s.drawBytes n).2.Canon := hs

theorem State.pass_canon (d : Nat) : (s.pass d).Canon := hs

theorem State.passTo_canon (t : Nat) : (s.passTo t).Canon := hs

theorem State.onDie_canon (f : Die → Die) : (s.onDie f).Canon := hs

theorem State.onSched_canon (f : Sched → Sched) : (s.onSched f).Canon := hs

theorem State.onHost_canon (f : HostRegs → HostRegs) : (s.onHost f).Canon := hs

theorem State.onTabs_canon (f : HostTabs → HostTabs) : (s.onTabs f).Canon := hs

theorem State.raise_canon (v : Nat) : (s.raise v).Canon := hs

/-! ### Objects and tiles -/

theorem State.onObj_canon (id : Nat) (f : Obj → Obj) : (s.onObj id f).Canon := by
  grind [State.onObj, State.onDie_canon]

theorem State.onTile_canon (t : TileId) (f : Tile → Tile) : (s.onTile t f).Canon := by
  grind [State.onTile, State.onObj_canon]

/-! ### The page-table walk, and lines that are lost -/

theorem State.walked_canon (va : Nat) : (s.walked va).Canon := by
  grind [State.walked, State.Canon, foldl_canon, State.onPkg_canon, Pkg.recode_dram]

theorem State.recodeAt_canon (va : Nat) : (s.recodeAt va).Canon := by
  grind [State.recodeAt, State.Canon, State.walked_canon, State.onPkg_canon, Pkg.recode_dram]

theorem State.loseLine_canon (line : Nat) : (s.loseLine line).Canon := State.loseLine_wf hs line

/-! ### Requests on the fabric -/

theorem State.answer_canon (poison : Bool) (x : Nat) : (s.answer poison x).Canon := hs

theorem State.takeHint_canon (frame h : Nat) : (s.takeHint frame h).Canon := by
  grind [State.takeHint, forEach_canon, State.onCore_canon, State.onDie_canon]

theorem State.carry_canon (x : Packet) : (s.carry x).Canon := hs

theorem State.respond_canon (x : Packet) : (s.respond x).Canon := by
  grind [State.respond, State.takeHint_canon, State.answer_canon]

theorem State.serveCd_canon (cd : Nat) : (s.serveCd cd).Canon := by
  grind [State.serveCd, State.Canon, forEach_canon, State.respond_canon, State.onPkg_canon, Pkg.onDir_dram, Pkg.onVc3_dram, Pkg.vc3Move_dram]

theorem State.sendReply_canon (x : Packet) (home : Nat) (r : Body) : (s.sendReply x home r).Canon := by
  grind [State.sendReply, State.Canon, State.respond_canon, State.carry_canon, State.serveCd_canon, State.onPkg_canon, Pkg.divert_dram]

theorem State.lost_canon (x : Packet) : (s.lost x).Canon := by
  grind [State.lost, State.answer_canon]

theorem State.serve_canon (x : Packet) (home : Nat) : (s.serve x home).Canon := by
  grind [State.serve, State.Canon, State.onPkg_canon, Pkg.mergeBlock_wf, State.sendReply_canon, Pkg.recode_dram]

theorem State.route_canon (n md : Nat) (x : Packet) : (s.route n md x).1.Canon := by
  induction n generalizing s md x with
  | zero => exact hs
  | succ n ih => grind [State.route, State.Canon, State.onPkg_canon, Pkg.divert_dram, State.carry_canon, State.lost_canon]

theorem State.sendTo_canon (md : Nat) (x : Packet) : (s.sendTo md x).1.Canon := by
  grind [State.sendTo, State.Canon, State.lost_canon, State.route_canon, State.carry_canon, State.onPkg_canon, Pkg.divert_dram]

theorem State.landOwn_canon (x : Packet) : (s.landOwn x).Canon := by
  grind [State.landOwn, State.respond_canon, State.route_canon, State.serve_canon]

theorem State.detourFirst_canon (md : Nat) : (s.detourFirst md).Canon := by
  grind [State.detourFirst, State.Canon, forEach_canon, State.onPkg_canon, Pkg.withdraw_dram, State.landOwn_canon]

theorem State.travelFrom_canon (pa md n : Nat) : (s.travelFrom pa md n).1.Canon := by
  induction n generalizing s md with
  | zero => exact hs
  | succ n ih => grind [State.travelFrom, State.detourFirst_canon]

theorem State.travel_canon (pa : Nat) : (s.travel pa).1.Canon := by
  grind [State.travel, State.travelFrom_canon, State.serveCd_canon, State.takeHint_canon]

/-! ### Save images -/

theorem State.storeImage_canon (place : List Nat) (bs : List Byte) : (s.storeImage place bs).Canon := by
  grind [State.storeImage, State.Canon, forEach_canon, getD_canon, State.onPkg_canon, State.detourFirst_canon, Pkg.writeSave_wf]

theorem State.onSaved_canon (f : SavedWave → SavedWave) : (s.onSaved f).Canon := by
  grind [State.onSaved, forEach_canon, State.onDie_canon, State.storeImage_canon]

/-! ### The L2, the L1s, the summary and release records -/

theorem State.onL2_canon (line : Nat) (f : L2Line → L2Line) : (s.onL2 line f).Canon := by
  grind [State.onL2, State.onDie_canon]

theorem State.settled_canon (line : Nat) : (s.settled line).Canon := by
  grind [State.settled, State.detourFirst_canon]

theorem State.afterBlock_canon (line fields : Nat) : (s.afterBlock line fields).Canon := by
  grind [State.afterBlock, State.Canon, State.travel_canon, State.onPkg_canon, Pkg.recode_dram]

theorem State.l2Fill_canon (line va fields : Nat) : (s.l2Fill line va fields).Canon := by
  grind [State.l2Fill, State.onDie_canon, State.onL2_canon, State.afterBlock_canon]

theorem State.l2Merge_canon (pa fields : Nat) (bs : List Byte) (mask : Nat → Bool) : (s.l2Merge pa fields bs mask).Canon := by
  grind [State.l2Merge, State.onL2_canon]

theorem State.l2WriteBack_canon (line : Nat) : (s.l2WriteBack line).Canon := by
  grind [State.l2WriteBack, State.Canon, State.travel_canon, State.onL2_canon, State.onPkg_canon, Pkg.writeBlock_wf]

theorem State.l2Drop_canon (line : Nat) : (s.l2Drop line).Canon := hs

theorem State.l1Fill_canon (c pa va fields : Nat) : (s.l1Fill c pa va fields).Canon := hs

theorem State.l1Write_canon (c pa va fields : Nat) (bs : List Byte) : (s.l1Write c pa va fields bs).Canon := hs

theorem State.dropTile_canon (t : TileId) : (s.dropTile t).Canon := by
  grind [State.dropTile, forEach_canon, State.loseLine_canon, State.loseLine_wf, State.onDie_canon, State.onCore_canon, State.onTile_canon]

theorem State.clearSum_canon (k : Nat) (p : Nat → Bool) : (s.clearSum k p).Canon := by
  grind [State.clearSum, forEach_canon, State.onCore_canon]

theorem State.discardClean_canon (c : Nat) (p : L1Line → Bool) : (s.discardClean c p).Canon := by
  grind [State.discardClean, map_canon, forEach_canon, State.onCore_canon]

theorem State.dropClean_canon (c pa : Nat) : (s.dropClean c pa).Canon := hs

theorem State.l1Discard_canon (c : Nat) (p : L1Line → Bool) : (s.l1Discard c p).Canon := by
  grind [State.l1Discard, forEach_canon, State.onCore_canon]

theorem fitWith_canon {ev : State → Nat → Option State} (hev : ∀ t y, t.Canon → OptCanon (ev t y)) (line n : Nat) :
    OptCanon (fitWith ev line n s) := by
  induction n generalizing s with
  | zero => grind [fitWith, OptCanon]
  | succ n ih => grind [fitWith, OptCanon, bind_canon]

theorem fitBy_canon {ev : State → Nat → Option State} (hev : ∀ t y, t.Canon → OptCanon (ev t y)) (line : Nat) : OptCanon (fitBy ev s line) := by
  grind [fitBy, OptCanon, fitWith_canon]

theorem fitLater_canon (n : Nat) : OptCanon (fitLater s n) := hs

theorem wb1With_canon {fit : State → Nat → Option State} (hfit : ∀ t y, t.Canon → OptCanon (fit t y)) (own : Option Nat) (k line : Nat) :
    OptCanon (wb1With fit own s k line) := by
  grind [wb1With, OptCanon, State.l2Merge_canon, State.l2Fill_canon, State.onCore_canon]

theorem wbAllWith_canon {fit : State → Nat → Option State} (hfit : ∀ t y, t.Canon → OptCanon (fit t y)) (own : Option Nat) (c : Nat)
    (p : L1Line → Bool) : OptCanon (wbAllWith fit own c p s) := by
  grind [wbAllWith, OptCanon, foldlM_canon, wb1With_canon]

theorem drainWith_canon {fit : State → Nat → Option State} (hfit : ∀ t y, t.Canon → OptCanon (fit t y)) (k : Nat) (p : Nat → Bool) :
    OptCanon (drainWith fit k p s) := by
  grind [drainWith, OptCanon, map_canon, State.clearSum_canon, wbAllWith_canon]

theorem recordLeavesWith_canon {ev : State → Nat → Option State} (hev : ∀ t y, t.Canon → OptCanon (ev t y)) (line : Nat) :
    OptCanon (recordLeavesWith ev s line) := by
  grind [recordLeavesWith, OptCanon, map_canon, forEach_canon, foldlM_canon, State.onL2_canon, State.discardClean_canon, drainWith_canon,
    fitBy_canon]

theorem leaveWith_canon {ev : State → Nat → Option State} (hev : ∀ t y, t.Canon → OptCanon (ev t y)) (line : Nat) :
    OptCanon (leaveWith ev s line) := by
  unfold leaveWith
  grind [State.Canon, OptCanon, map_canon, foldlM_canon, State.l2Drop_canon, State.l2WriteBack_canon, recordLeavesWith_canon, State.dropTile_canon]

theorem State.leaveN_canon (n line : Nat) : OptCanon (s.leaveN n line) := by
  induction n generalizing s line with
  | zero => trivial
  | succ n ih => exact leaveWith_canon hs (fun t y ht => ih ht y) line

theorem State.leave_canon (line : Nat) : OptCanon (s.leave line) := by
  grind [State.leave, OptCanon, State.leaveN_canon]

theorem State.fit_canon (line : Nat) : OptCanon (s.fit line) := by
  grind [State.fit, OptCanon, fitBy_canon, State.leave_canon]

theorem State.fitAll_canon (lines : List Nat) : OptCanon (s.fitAll lines) := by
  grind [State.fitAll, OptCanon, foldlM_canon, State.fit_canon]

theorem State.fitEvery_canon : OptCanon s.fitEvery := by
  grind [State.fitEvery, OptCanon, State.fitAll_canon]

theorem State.wb1_canon (own : Option Nat) (k line : Nat) : OptCanon (s.wb1 own k line) := by
  grind [State.wb1, OptCanon, wb1With_canon, State.fit_canon]

theorem State.wbTry_canon (own : Option Nat) (c : Nat) (p : L1Line → Bool) : OptCanon (s.wbTry own c p) := by
  grind [State.wbTry, OptCanon, wbAllWith_canon, State.fit_canon]

theorem State.drain_canon (k : Nat) (p : Nat → Bool) : OptCanon (s.drain k p) := by
  grind [State.drain, OptCanon, drainWith_canon, State.fit_canon]

theorem State.recordLeaves_canon (line : Nat) : OptCanon (s.recordLeaves line) := by
  grind [State.recordLeaves, OptCanon, recordLeavesWith_canon, State.leave_canon]

theorem State.l2Ensure_canon (pa va fields : Nat) : OptCanon (s.l2Ensure pa va fields) := by
  grind [State.l2Ensure, OptCanon, State.fit_canon, State.l2Fill_canon]

theorem State.l2Leaves_canon (line : Nat) : OptCanon (s.l2Leaves line) := by
  grind [State.l2Leaves, OptCanon, map_canon, State.l2Drop_canon, State.l2WriteBack_canon, State.recordLeaves_canon]

theorem State.l2Flush_canon (p : L2Line → Bool) : OptCanon (s.l2Flush p) := by
  grind [State.l2Flush, OptCanon, foldlM_canon, State.leave_canon]

theorem State.l2Store_canon (scope pa va fields : Nat) (bs : List Byte) : (s.l2Store scope pa va fields bs).Canon := by
  grind [State.l2Store, State.l2Merge_canon, State.l2Fill_canon, State.l2WriteBack_canon]

theorem State.l1Evict_canon (k line : Nat) : OptCanon (s.l1Evict k line) := by
  grind [State.l1Evict, OptCanon, map_canon, State.onCore_canon, State.wb1_canon]

theorem State.l1Room_canon (c pa : Nat) : OptCanon (s.l1Room c pa) := by
  grind [State.l1Room, OptCanon, State.draw_canon, State.l1Evict_canon]

theorem State.witness_canon (k obj : Nat) : (s.witness k obj).Canon := by
  grind [State.witness, State.onCore_canon]

theorem State.summarize_canon (k obj : Nat) (d c : Bool) : OptCanon (s.summarize k obj d c) := by
  grind [State.summarize, OptCanon, map_canon, State.onCore_canon, State.drain_canon]

theorem State.idleCore_canon (k : Nat) : OptCanon (s.idleCore k) := by
  grind [State.idleCore, OptCanon, map_canon, State.onCore_canon, State.wbTry_canon]

theorem State.setFuse_canon (hc : Nat) (on : Bool) : OptCanon (s.setFuse hc on) := by
  grind [State.setFuse, OptCanon, map_canon, forEach_canon, foldlM_canon, State.onDie_canon, State.onCore_canon, State.wbTry_canon]

theorem State.relDrain_canon (line : Nat) (e : Option (RecEntry × Bool)) (whole : Bool) : OptCanon (s.relDrain line e whole) := by
  unfold State.relDrain
  grind [State.Canon, OptCanon, State.drain_canon]

theorem State.relApply_canon (line : Nat) (e : Option (RecEntry × Bool)) (whole : Bool) : (s.relApply line e whole).Canon := by
  unfold State.relApply
  grind [State.Canon, State.onL2_canon]

theorem State.l2Put_canon (rel : Option (RecEntry × Bool)) (scope pa va fields : Nat) (bs : List Byte) :
    OptCanon (s.l2Put rel scope pa va fields bs) := by
  grind [State.l2Put, OptCanon, bind_canon, State.relDrain_canon, State.fit_canon, State.relApply_canon, State.l2Store_canon]

theorem State.recordDrainBy_canon {fit : State → Nat → Option State} (hfit : ∀ t y, t.Canon → OptCanon (fit t y)) (reader line : Nat) :
    OptCanon (State.recordDrainBy fit s reader line) := by
  grind [State.recordDrainBy, OptCanon, map_canon, foldlM_canon, State.onL2_canon, drainWith_canon]

theorem State.recordDrainOver_canon (reader line : Nat) : OptCanon (s.recordDrainOver reader line) := by
  grind [State.recordDrainOver, OptCanon, State.recordDrainBy_canon, fitLater_canon]

theorem State.acquireNamed_canon (k : Nat) (ids : List Nat) (all : Bool) : OptCanon (s.acquireNamed k ids all) := by
  grind [State.acquireNamed, OptCanon, map_canon, foldlM_canon, State.discardClean_canon, State.onCore_canon, State.summarize_canon]

theorem State.releaseAll_canon (k : Nat) : OptCanon (s.releaseAll k) := by
  grind [State.releaseAll, OptCanon, State.drain_canon]

theorem State.acquireAll_canon (k : Nat) : (s.acquireAll k).Canon := by
  grind [State.acquireAll, State.onCore_canon, State.discardClean_canon]

theorem State.acquireSys_canon (k : Nat) : (s.acquireSys k).Canon := by
  grind [State.acquireSys, State.discardClean_canon]

theorem State.plainRelease_canon (k scope : Nat) : OptCanon (s.plainRelease k scope) := by
  grind [State.plainRelease, OptCanon, map_canon, State.releaseAll_canon, State.clearSum_canon, State.wbTry_canon]

theorem State.plainAcquire_canon (k scope : Nat) : (s.plainAcquire k scope).Canon := by
  grind [State.plainAcquire, State.acquireSys_canon, State.acquireAll_canon]

/-! ### TLBs -/

theorem State.tlbFill_canon (c : Nat) (e : TlbEnt) : (s.tlbFill c e).Canon := hs

theorem State.tlbDrop_canon (p : TlbEnt → Bool) : (s.tlbDrop p).Canon := by
  grind [State.tlbDrop, forEach_canon, State.onCore_canon, State.onDie_canon]

/-! ### Memory accesses -/

theorem State.onAny_canon (wid : Nat) (f : Wave → Wave) : (s.onAny wid f).Canon := by
  grind [State.onAny, State.onWave_canon, State.onSaved_canon]

theorem State.toPoint_canon (own : Option Nat) (c pa : Nat) : OptCanon (s.toPoint own c pa) := by
  grind [State.toPoint, OptCanon, map_canon, State.onCore_canon, State.wb1_canon]

theorem State.toPointOver_canon (own : Option Nat) (c pa : Nat) : OptCanon (s.toPointOver own c pa) := by
  grind [State.toPointOver, OptCanon, map_canon, State.onCore_canon, wb1With_canon, fitLater_canon]

theorem State.reachL2_canon (c : Nat) (l : LaneAcc) : OptCanon (s.reachL2 c l) := by
  grind [State.reachL2, OptCanon, map_canon, State.witness_canon, State.l2Fill_canon, State.toPointOver_canon]

theorem State.l1Load_canon (c pa va fields n : Nat) : PairCanon (s.l1Load c pa va fields n) := by
  grind [State.l1Load, PairCanon, OptCanon, State.l2Fill_canon, State.dropClean_canon, State.l1Room_canon, State.l1Fill_canon]

theorem State.l1LoadW_canon (w : Wave) (pa va fields n : Nat) : PairCanon (s.l1LoadW w pa va fields n) := by
  grind [State.l1LoadW, PairCanon, mapPair_pairCanon, State.witness_canon, State.l1Load_canon, State.onAny_canon]

theorem State.weakLane_canon (w : Wave) (seq size : Nat) (l : LaneAcc) : (s.weakLane w seq size l).Canon := by
  grind [State.weakLane, Bound.Canon, PairCanon, State.l1LoadW_canon]

theorem State.tileLane_canon (w : Wave) (seq size : Nat) (l : LaneAcc) : (s.tileLane w seq size l).Canon := by
  grind [State.tileLane, Bound.Canon]

theorem State.strongLane_canon (w : Wave) (e : LoadEnt) (l : LaneAcc) : (s.strongLane w e l).Canon := by
  grind [State.strongLane, Bound.Canon, PairCanon, OptCanon, State.onAny_canon, State.l1LoadW_canon, State.reachL2_canon,
    State.recordDrainOver_canon]

theorem boundAll_canon {f : State → LaneAcc → Bound} (hf : ∀ t y, t.Canon → (f t y).Canon) (ls : List LaneAcc) : (boundAll f ls s).Canon := by
  induction ls generalizing s with
  | nil => exact hs
  | cons l ls ih => grind [boundAll, Bound.Canon]

theorem State.acquireDone_canon (c scope : Nat) (ids : List Nat) (all : Bool) : OptCanon (s.acquireDone c scope ids all) := by
  grind [State.acquireDone, OptCanon, State.acquireSys_canon, State.acquireNamed_canon]

theorem State.acquireLines_canon (c scope : Nat) (lines : List Nat) : OptCanon (s.acquireLines c scope lines) := by
  grind [State.acquireLines, OptCanon, foldl_canon, State.acquireDone_canon]

omit hs in
theorem Bound.after_canon (vs : Map Nat) {o : Option State} (ho : OptCanon o) : (Bound.after vs o).Canon := by
  unfold Bound.after
  grind [State.Canon, OptCanon, Bound.Canon]

theorem State.loadDone_canon (wid seq : Nat) : (s.loadDone wid seq).Canon := by
  grind [State.loadDone, State.onAny_canon]

theorem State.bindLoad_canon (w : Wave) (e : LoadEnt) : (s.bindLoad w e).Canon := by
  grind [State.bindLoad, Bound.Canon, OptCanon, Bound.after_canon, State.acquireDone_canon, boundAll_canon, State.weakLane_canon,
    State.tileLane_canon, State.strongLane_canon, State.acquireLines_canon, State.loadDone_canon]

theorem State.loadFits_canon (e : LoadEnt) : OptCanon (s.loadFits e) := by
  grind [State.loadFits, OptCanon, State.fitAll_canon, State.fitEvery_canon]

theorem State.l1Store_canon (c size : Nat) (l : LaneAcc) : OptCanon (s.l1Store c size l) := by
  grind [State.l1Store, OptCanon, bind_canon, State.l1Room_canon, State.l1Write_canon, State.summarize_canon]

theorem State.drainEntry_canon (w : Wave) (e : StoreEnt) : OptCanon (s.drainEntry w e) := by
  grind [State.drainEntry, OptCanon, forEach_canon, foldlM_canon, State.onBlk_canon, State.l1Store_canon]

theorem State.drainOldest_canon (wid : Nat) : OptCanon (s.drainOldest wid) := by
  grind [State.drainOldest, OptCanon, map_canon, State.onWave_canon, State.drainEntry_canon]

theorem State.releaseSteps_canon (c scope : Nat) : PairCanon (s.releaseSteps c scope) := by
  grind [State.releaseSteps, PairCanon, map_pairCanon, State.releaseAll_canon, State.wbTry_canon]

theorem State.enterOldest_canon (wid : Nat) : OptCanon (s.enterOldest wid) := by
  grind [State.enterOldest, OptCanon, mapPair_canon, PairCanon, State.onCore_canon, State.onDie_canon, State.onWave_canon, State.releaseSteps_canon]

theorem State.feed_canon (c : Nat) : (s.feed c).Canon := by
  grind [State.feed, forEach_canon, getD_canon, OptCanon, State.enterOldest_canon]

omit hs in
theorem Performed.of_canon {o : Option State} (ho : OptCanon o) : (Performed.of o).Canon := by
  unfold Performed.of
  grind [State.Canon, OptCanon, Performed.Canon]

theorem State.performStore_canon (c : Nat) (e : WbEnt) : (s.performStore c e).Canon := by
  unfold State.performStore
  simp only
  split
  · trivial
  · split
    · exact Performed.of_canon (State.l1Store_canon hs _ _ _)
    · refine Performed.of_canon (bind_canon (bind_canon (State.reachL2_canon hs _ _) fun t ht => State.relDrain_canon ht _ _ _) fun t ht => ?_)
      exact State.fit_canon (State.relApply_canon (State.l2Store_canon ht _ _ _ _ _) _ _ _) _

theorem State.atomBack_canon (e : WbEnt) (x : Nat) (ns : List Nat × Bool) : (s.atomBack e x ns).Canon := by
  grind [State.atomBack, State.onAny_canon]

theorem State.performAtomic_canon (c : Nat) (e : WbEnt) (aop : Nat) (acq : Bool) : (s.performAtomic c e aop acq).Canon := by
  grind [State.performAtomic, Performed.Canon, bind_canon, OptCanon, State.reachL2_canon, Performed.of_canon, State.recordDrainOver_canon,
    State.relDrain_canon, State.l2Fill_canon, State.relApply_canon, State.l2Store_canon, State.atomBack_canon, State.fitEvery_canon,
    State.fit_canon]

theorem State.performHead_canon (c buf : Nat) : (s.performHead c buf).Canon := by
  grind [State.performHead, Performed.Canon, State.performStore_canon, State.performAtomic_canon, State.onCore_canon]

/-! ### Divergence, barriers and the end of a wave -/

theorem State.setBar_canon (k : Nat) (b : Block) (level num : Nat) (x : Barrier) : (s.setBar k b level num x).Canon := by
  grind [State.setBar, State.onBlk_canon, State.onDie_canon]

theorem State.barSettle_canon (k : Nat) (b : Block) (level num : Nat) : (s.barSettle k b level num).Canon := by
  grind [State.barSettle, State.setBar_canon]

theorem State.freeBlocks_canon : s.freeBlocks.Canon := hs

theorem State.onCard_canon (card : Option (Nat × Nat)) (f : CardRun → CardRun) : (s.onCard card f).Canon := by
  unfold State.onCard
  grind [State.Canon, State.onSched_canon]

theorem State.reap_canon : s.reap.Canon := by
  grind [State.reap, State.Canon, forEach_canon, State.onCard_canon, State.freeBlocks_canon]

theorem State.retire_canon (wid : Nat) : (s.retire wid).Canon := by
  have ht : (s.onWave wid Wave.exited).Canon := State.onWave_canon hs wid Wave.exited
  have hsettle {t : State} (ht : t.Canon) (k : Nat) (b : Block) :
      (forEach [1, 2, 3] t fun l t => forEach (List.range 8) t fun n t => t.barSettle k b l n).Canon :=
    forEach_canon ht _ fun l _ ht => forEach_canon ht _ fun n _ ht => State.barSettle_canon ht k b l n
  unfold State.retire
  dsimp only
  split
  · exact hs
  · refine State.reap_canon ?_
    have hleave {u : State} (hu : u.Canon) : State.Canon (if u.w.id.wid = wid ∧ u.w.flow.hold ≠ .blank then
        { u with w := Wave.blank, others := insertWave u.w u.others } else u) := ite_canon hu hu
    refine hleave ?_
    split
    · exact ht
    · split
      · exact ht
      · exact ite_canon (State.onCard_canon (hsettle (State.onBlk_canon ht _ _) _ _) _ _) (hsettle (State.onBlk_canon ht _ _) _ _)

/-! ### Forwarding regions -/

theorem State.onRegion_canon (r : Nat) (f : Region → Region) : (s.onRegion r f).Canon := by
  grind [State.onRegion, State.onDie_canon]

theorem State.addEdge_canon (u v : Nat) : (s.addEdge u v).Canon := by
  grind [State.addEdge, State.onRegion_canon]

theorem State.regionBytes_canon (v : Nat) (l : LaneAcc) : (s.regionBytes v l).1.Canon := by
  grind [State.regionBytes, bind_canon, State.addEdge_canon, State.l2Fill_canon]

theorem State.regionWrite_canon (v size : Nat) (l : LaneAcc) (x : Nat) : (s.regionWrite v size l x).Canon := by
  grind [State.regionWrite, forEach_canon, bind_canon, State.addEdge_canon, State.regionBytes_canon, State.onDie_canon, State.onRegion_canon]

theorem State.regionLane_canon (v size : Nat) (rd wr : Bool) (f : LaneAcc → Nat → Nat × Flags) (l : LaneAcc) :
    (s.regionLane v size rd wr f l).1.Canon := by
  grind [State.regionLane, State.regionBytes_canon, State.onRegion_canon, State.regionWrite_canon]

theorem State.regionLanes_canon (v size : Nat) (rd wr : Bool) (f : LaneAcc → Nat → Nat × Flags) (ls : List LaneAcc) :
    (s.regionLanes v size rd wr f ls).1.Canon := by
  induction ls generalizing s with
  | nil => exact hs
  | cons l ls ih => exact ih (State.regionLane_canon hs v size rd wr f l)

theorem State.undefReplies_canon (wid : Nat) : (s.undefReplies wid).Canon := by
  grind [State.undefReplies, State.Canon, forEach_canon, foldl_canon, State.onAny_canon]

theorem State.freeRegion_canon (r : Nat) : (s.freeRegion r).Canon := hs

theorem State.markAborted_canon (wid : Nat) : (s.markAborted wid).Canon := by
  grind [State.markAborted, State.onSaved_canon]

theorem State.unrequest_canon (wid core : Nat) : (s.unrequest wid core).Canon := hs

theorem State.abortOne_canon (r : Nat) (status : Word) : (s.abortOne r status).Canon := by
  grind [State.abortOne, State.freeRegion_canon, State.unrequest_canon, State.undefReplies_canon, State.markAborted_canon, State.onAny_canon,
    State.retire_canon]

theorem State.abortRegions_canon (rs : List Nat) (status : Word) : (s.abortRegions rs status).Canon := by
  grind [State.abortRegions, forEach_canon, State.abortOne_canon]

theorem State.abortRegion_canon (r other code cause : Nat) : (s.abortRegion r other code cause).Canon := by
  grind [State.abortRegion, State.abortRegions_canon]

theorem State.regionReach_canon (v c : Nat) (l : LaneAcc) : OptCanon (s.regionReach v c l) := by
  grind [State.regionReach, OptCanon, map_canon, State.witness_canon, State.l2Fill_canon, State.toPointOver_canon]

theorem State.regionAccess_canon (c v size : Nat) (rd wr : Bool) (f : LaneAcc → Nat → Nat × Flags) (ls : List LaneAcc)
    (n : Nat) : (s.regionAccess c v size rd wr f ls n).Canon := by
  induction n generalizing s with
  | zero => exact hs
  | succ n ih =>
    unfold State.regionAccess
    split
    · exact hs
    · next r _ =>
      dsimp only
      have h0 := State.onRegion_canon hs v fun r => { r with pend := [], waiting := false }
      split
      · split
        · exact State.abortRegion_canon h0 _ _ _ _
        · exact ih (State.abortRegions_canon h0 _ _)
      · split
        · exact State.onRegion_canon h0 _ _
        · split
          · exact State.abortRegion_canon h0 _ _ _ _
          · have hreach := foldlM_canon h0 ls (f := fun t l => t.regionReach v c l) fun l t ht => State.regionReach_canon ht v c l
            split
            · exact h0
            · next t e =>
              have ht : t.Canon := (e ▸ hreach : OptCanon (some t))
              split
              · exact h0
              · have hfit := State.fitAll_canon (State.regionLanes_canon ht v size rd wr f ls) (ls.map fun l => l.pa / 256)
                split
                · exact h0
                · next u e => exact (e ▸ hfit : OptCanon (some u))

theorem State.tryRegion_canon (w : Wave) (v size : Nat) (rd wr : Bool) (f : LaneAcc → Nat → Nat × Flags) (ls : List LaneAcc) :
    (s.tryRegion w v size rd wr f ls).Canon := by
  grind [State.tryRegion, RegionTry.Canon, State.regionAccess_canon]

theorem State.commitLine_canon (x : Region) (e : RecEntry × Bool) (line : Nat) : (s.commitLine x e line).Canon := by
  grind [State.commitLine, getD_canon, State.relApply_canon, State.l2Merge_canon, State.l2Fill_canon]

theorem State.discardLine_canon (line : Nat) : (s.discardLine line).Canon := by
  grind [State.discardLine, forEach_canon, State.onCore_canon]

theorem State.commitRegion_canon (w : Wave) (r : Nat) (x : Region) : OptCanon (s.commitRegion w r x) := by
  grind [State.commitRegion, OptCanon, bind_canon, foldlM_canon, forEach_canon, State.freeRegion_canon, State.wbTry_canon, State.relDrain_canon,
    State.witness_canon, State.discardLine_canon, State.fitAll_canon, State.commitLine_canon]

/-! ### Recipes -/

theorem State.request_canon (t : TileId) (r : TileReq) : (s.request t r).Canon := by
  grind [State.request, State.onTile_canon]

theorem State.post_canon (t : TileId) (r : TileReq) : (s.post t r).1.Canon := by
  grind [State.post, State.onDie_canon, State.request_canon]

theorem State.postFor_canon (c : Nat) (t : TileId) (r : TileReq) : (s.postFor c t r).Canon := by
  grind [State.postFor, State.post_canon, State.onCore_canon]

theorem State.postMiss_canon (w : Wave) (ts : List TileId) : (s.postMiss w ts).Canon := by
  grind [State.postMiss, forEach_canon, State.request_canon, State.postFor_canon]

theorem State.pin_canon (wid : Nat) (t : TileId) : (s.pin wid t).Canon := by
  grind [State.pin, forEach_canon, State.onL2_canon]

theorem State.unpin_canon (wid : Nat) : (s.unpin wid).Canon := hs

theorem State.kindle_canon (chain level : Nat) (t : TileId) : (s.kindle chain level t).Canon := by
  grind [State.kindle, State.Canon, foldl_canon, State.onSched_canon, State.onDie_canon, State.pin_canon, State.onTile_canon]

theorem State.endKindling_canon (wid : Nat) : (s.endKindling wid).Canon := by
  grind [State.endKindling, State.dropWave_canon, State.unpin_canon, State.onCore_canon, State.onSched_canon]

theorem State.endChain_canon (n : Nat) : (s.endChain n).Canon := by
  grind [State.endChain, forEach_canon, State.onCore_canon, State.onDie_canon]

theorem State.unform_canon (t : TileId) : (s.unform t).Canon := by
  grind [State.unform, State.dropTile_canon]

/-! ### Engine accesses, faults, traps and chains that fail -/

theorem State.l2Read_canon (pa va fields n : Nat) : PairCanon (s.l2Read pa va fields n) := by
  grind [State.l2Read, map_pairCanon, State.l2Fill_canon, State.fit_canon]

theorem State.engReadP_canon (ps : List (Nat × Nat)) : (s.engReadP ps).Canon := by
  induction ps generalizing s with
  | nil => exact hs
  | cons p ps ih => grind [State.engReadP, EngRes.Canon, PairCanon, State.l2Read_canon]

theorem State.engRead_canon (a n : Nat) : (s.engRead a n).Canon := by
  grind [State.engRead, EngRes.Canon, State.engReadP_canon]

theorem State.engWriteP_canon (rel : Option (RecEntry × Bool)) (scope : Nat) (bs : List Byte) (ps : List (Nat × Nat)) :
    (s.engWriteP rel scope bs ps).Canon := by
  induction ps generalizing s bs with
  | nil => exact hs
  | cons p ps ih => grind [State.engWriteP, EngRes.Canon, OptCanon, State.l2Put_canon]

theorem State.engWrite_canon (rel : Option (RecEntry × Bool)) (scope a : Nat) (bs : List Byte) : (s.engWrite rel scope a bs).Canon := by
  grind [State.engWrite, EngRes.Canon, State.engWriteP_canon]

theorem State.joinFault_canon (key : FaultKey) (va : Nat) (engine : Bool) : (s.joinFault key va engine).1.Canon := by
  unfold State.joinFault
  grind [State.Canon, State.onDie_canon, State.onHost_canon, State.raise_canon]

theorem State.fillFaultq_canon : s.fillFaultq.Canon := by
  grind [State.fillFaultq, State.onDie_canon, State.onHost_canon, State.raise_canon]

theorem State.mapWaves_canon (f : Wave → Wave) : (s.mapWaves f).Canon := by
  grind [State.mapWaves, State.Canon, State.onSaved_canon]

theorem State.service_canon (tok : Nat) : (s.service tok).Canon := by
  grind [State.service, forEach_canon, State.mapWaves_canon, State.onCore_canon, State.onDie_canon]

theorem State.scramble_canon (r : Nat × Nat) : (s.scramble r).Canon := by
  grind [State.scramble, forEach_canon, EngRes.Canon, State.drawBytes_canon, State.engWriteP_canon]

theorem State.abandon_canon (p : Copy → Bool) : (s.abandon p).Canon := by
  grind [State.abandon, forEach_canon, State.onCore_canon, State.onDie_canon, State.scramble_canon]

theorem State.stopJob_canon : s.stopJob.Canon := by
  grind [State.stopJob, forEach_canon, State.onHost_canon, State.unform_canon, State.endKindling_canon, State.mapWaves_canon, State.onCore_canon,
    State.abandon_canon, State.onDie_canon]

theorem State.supervisor_canon (code : Nat) (pos : Addr) (fva : Nat) (lanes : Word) (core slot : Nat) :
    (s.supervisor code pos fva lanes core slot).Canon := by
  grind [State.supervisor, State.onHost_canon, State.raise_canon, State.stopJob_canon]

theorem State.supervisorW_canon (w : Wave) (code fva : Nat) (lanes : Word) : (s.supervisorW w code fva lanes).Canon := by
  grind [State.supervisorW, State.supervisor_canon]

theorem State.plainTrap_canon (code fva : Nat) (lanes : Word) : (s.plainTrap code fva lanes).Canon := by
  grind [State.plainTrap, State.Canon, State.supervisorW_canon]

theorem State.regionFault_canon (r code fva : Nat) (lanes : Word) : (s.regionFault r code fva lanes).Canon := by
  grind [State.regionFault, State.abortRegion_canon, State.onW_canon]

theorem State.recipeDepth_canon (wid : Nat) (tiles : List TileId) : (s.recipeDepth wid tiles).Canon := by
  grind [State.recipeDepth, State.switchTo_canon, State.unrequest_canon, State.regionFault_canon, State.supervisorW_canon, State.onDie_canon,
    State.onW_canon, State.plainTrap_canon]

theorem State.failRequester_canon (tiles : List TileId) (c : Chain) : (s.failRequester tiles c).Canon := by
  grind [State.failRequester, State.recipeDepth_canon, State.supervisor_canon]

theorem State.failOne_canon (n : Nat) : (s.failOne n).Canon := by
  grind [State.failOne, forEach_canon, State.abandon_canon, State.endKindling_canon, State.endChain_canon, State.onTile_canon, State.unform_canon,
    State.failRequester_canon, State.request_canon, State.postFor_canon]

theorem State.failMore_canon (n : Nat) : (State.failMore n s).Canon := by
  induction n generalizing s with
  | zero => exact hs
  | succ n ih => grind [State.failMore, State.failOne_canon]

theorem State.failChain_canon (n : Nat) : (s.failChain n).Canon := by
  grind [State.failChain, State.failMore_canon, State.failOne_canon, State.switchTo_canon]

theorem State.afterPoison_canon (code fva : Nat) : (s.afterPoison code fva).Canon := by
  grind [State.afterPoison, State.recodeAt_canon]

theorem State.takeTrap_canon (code fva : Nat) (lanes : Word) : (s.takeTrap code fva lanes).Canon := by
  grind [State.takeTrap, State.supervisorW_canon, State.failChain_canon, State.afterPoison_canon, State.regionFault_canon, State.plainTrap_canon]

theorem State.joinAll_canon (code : Nat) (vas : List Nat) : (s.joinAll code vas).1.Canon := by
  induction vas generalizing s with
  | nil => exact hs
  | cons va vas ih => exact ih (State.joinFault_canon hs _ _ _)

theorem State.takeFault_canon (code : Nat) (vas : List Nat) (fva : Nat) (lanes : Word) : (s.takeFault code vas fva lanes).Canon := by
  grind [State.takeFault, State.joinAll_canon, State.regionFault_canon, State.onW_canon]

theorem State.takePop_canon : s.takePop.Canon := by
  grind [State.takePop, State.abortRegion_canon, State.takeTrap_canon]

/-! ### Issue -/

theorem State.askPromotion_canon (w : Wave) : (s.askPromotion w).Canon := by
  grind [State.askPromotion, State.onCore_canon]

theorem State.waitRegs_canon (w : Wave) (source : Bool) (rs : List (Bool × Nat × Nat)) : (s.waitRegs w source rs).Canon := by
  grind [State.waitRegs, State.onW_canon, State.askPromotion_canon]

theorem State.went_canon (w : Wave) : (s.went w).Canon := by
  grind [State.went, State.onAny_canon]

theorem State.takeMiss_canon (tiles : List TileId) (lanes : List (Nat × Nat)) : (s.takeMiss tiles lanes).Canon := by
  grind [State.takeMiss, State.onW_canon, State.postMiss_canon, State.failChain_canon]

theorem Act.settle_canon {a : Act} (ha : a.Canon) : (Act.settle s a).Canon := by
  unfold Act.settle
  grind [State.Canon, Act.Canon, State.onW_canon, State.went_canon, State.takeTrap_canon, State.takeFault_canon, State.takePop_canon,
    State.takeMiss_canon]

omit hs in
theorem Wave.trapAct_canon (w : Wave) (code : Nat) : (w.trapAct code).Canon := by
  grind [Wave.trapAct, Act.Canon]

omit hs in
theorem Checked.act_canon (w : Wave) (whole : Bool) {go : List LaneAcc → Act} (hgo : ∀ x, (go x).Canon) (c : Checked) :
    (Checked.act w whole go c).Canon := by
  unfold Checked.act
  grind [State.Canon, Act.Canon]

theorem State.holdAlu_canon (w : Wave) (n : Nat) : (s.holdAlu w n).Canon := by
  grind [State.holdAlu, State.onCore_canon]

theorem Use.act_canon (u : Use) {f : State → Act} (hf : ∀ t, t.Canon → (f t).Canon) : (u.act f s).Canon := by
  grind [Use.act, Act.Canon, Wave.trapAct_canon, State.waitRegs_canon, State.holdAlu_canon]

theorem issue_canon (u : Use) {f : State → Act} (hf : ∀ t, t.Canon → (f t).Canon) : OutCanon (issue u f s) := by
  grind [issue, Act.Canon, OutCanon, Act.settle_canon, Use.act_canon]

theorem issueW_canon (u : Use) (f : Wave → Wave) : OutCanon (issueW u f s) := by
  unfold issueW
  refine issue_canon hs _ (fun _ ht => ?_)
  exact State.onW_canon ht _

theorem notInRegion_canon {f : State → Act} (hf : ∀ t, t.Canon → (f t).Canon) : (notInRegion f s).Canon := by
  grind [notInRegion, Act.Canon, Wave.trapAct_canon]

theorem notKindling_canon {f : State → Act} (hf : ∀ t, t.Canon → (f t).Canon) : (notKindling f s).Canon := by
  grind [notKindling, Act.Canon, Wave.trapAct_canon]

/-! ### Cards, spawn bins and task queues -/

theorem State.onQueue_canon (q : Nat) (f : TaskQueue → TaskQueue) : (s.onQueue q f).Canon := hs

theorem State.ringFault_canon (q : Nat) (write : Bool) {α : Type} {r : EngRes α} : (s.ringFault q write r).Canon := by
  unfold State.ringFault
  grind [State.Canon, EngRes.Canon, State.joinFault_canon, State.onQueue_canon, State.supervisor_canon, State.recodeAt_canon]

theorem State.ringWrite_canon (q : Nat) : (s.ringWrite q).Canon := by
  grind [State.ringWrite, EngRes.Canon, State.engWrite_canon, State.onQueue_canon, State.ringFault_canon]

theorem State.refill_canon (q : Nat) : (s.refill q).Canon := by
  grind [State.refill, EngRes.Canon, State.engRead_canon, State.onQueue_canon, State.ringFault_canon]

theorem State.tidyQueue_canon (q n : Nat) : (s.tidyQueue q n).Canon := by
  induction n generalizing s with
  | zero => exact hs
  | succ n ih => grind [State.tidyQueue, State.ringWrite_canon, State.refill_canon]

theorem State.servePop_canon (q d : Nat) : (s.servePop q d).Canon := by
  grind [State.servePop, State.onQueue_canon, State.onW_canon, State.plainAcquire_canon]

theorem State.wakePop_canon (q : Nat) : (s.wakePop q).Canon := by
  unfold State.wakePop
  dsimp only
  split
  · exact hs
  · split
    · exact State.onQueue_canon hs q _
    · refine ite_canon hs ?_
      split
      · exact hs
      · split
        · exact ite_canon (State.onW_canon (State.servePop_canon (State.switchTo_canon hs _) q _) _)
            (State.switchTo_canon (State.onW_canon (State.servePop_canon (State.switchTo_canon hs _) q _) _) _)
        · exact hs

theorem State.wakePops_canon (q n : Nat) : (s.wakePops q n).Canon := by
  induction n generalizing s with
  | zero => exact hs
  | succ n ih => exact ih (State.wakePop_canon hs q)

/-! ### Class 2 -/

theorem salu_canon (f : FS) (b : Wave → FS → Word) (g : Word → Word → Word) : OutCanon (salu f b g s) := by
  grind [salu, OutCanon, issueW_canon]

theorem execSadd_canon (f : FS) : OutCanon (execSadd f s) := by
  grind [execSadd, OutCanon, salu_canon]

theorem execSsub_canon (f : FS) : OutCanon (execSsub f s) := by
  grind [execSsub, OutCanon, salu_canon]

theorem execSmul_canon (f : FS) : OutCanon (execSmul f s) := by
  grind [execSmul, OutCanon, salu_canon]

theorem execSand_canon (f : FS) : OutCanon (execSand f s) := by
  grind [execSand, OutCanon, salu_canon]

theorem execSor_canon (f : FS) : OutCanon (execSor f s) := by
  grind [execSor, OutCanon, salu_canon]

theorem execSxor_canon (f : FS) : OutCanon (execSxor f s) := by
  grind [execSxor, OutCanon, salu_canon]

theorem execSshl_canon (f : FS) : OutCanon (execSshl f s) := by
  grind [execSshl, OutCanon, salu_canon]

theorem execSshr_canon (f : FS) : OutCanon (execSshr f s) := by
  grind [execSshr, OutCanon, salu_canon]

theorem execSmov_canon (sd sa : BitVec 6) : OutCanon (execSmov sd sa s) := by
  grind [execSmov, OutCanon, issueW_canon]

theorem execSmovi_canon (d : BitVec 6) (imm : BitVec 32) : OutCanon (execSmovi d imm s) := by
  grind [execSmovi, OutCanon, issueW_canon]

theorem execScmp_canon (pd : BitVec 3) (sa sb : BitVec 6) (rel : BitVec 3) : OutCanon (execScmp pd sa sb rel s) := by
  grind [execScmp, OutCanon, issueW_canon]

theorem execS2v_canon (d : BitVec 7) (wb : Bool) (b : BitVec 6) : OutCanon (execS2v d wb b s) := by
  grind [execS2v, OutCanon, issueW_canon]

theorem v2sAct_canon (d : BitVec 6) (a : BitVec 7) (k : BitVec 5) : (v2sAct d a k s).Canon := by
  grind [v2sAct, Act.Canon, State.onW_canon, State.waitRegs_canon]

theorem execV2s_canon (d : BitVec 6) (wa : Bool) (a : BitVec 7) (k : BitVec 5) : OutCanon (execV2s d wa a k s) := by
  grind [execV2s, OutCanon, Act.Canon, issue_canon, v2sAct_canon]

theorem State.popped_canon (p : Popped) : (s.popped p).Canon := by
  unfold State.popped
  grind [State.Canon, Act.Canon, State.retire_canon, State.takeTrap_canon]

theorem execBra_canon (toff : BitVec 16) : OutCanon (execBra toff s) := by
  unfold execBra
  refine issue_canon hs _ (fun _ ht => ?_)
  exact State.onW_canon ht _

theorem brcAct_canon (neg : Bool) (pidx : BitVec 3) (toff roff : BitVec 16) : (brcAct neg pidx toff roff s).Canon := by
  grind [brcAct, Act.Canon, State.onW_canon, Wave.trapAct_canon]

theorem execBrc_canon (neg : Bool) (pidx : BitVec 3) (toff roff : BitVec 16) : OutCanon (execBrc neg pidx toff roff s) := by
  grind [execBrc, OutCanon, Act.Canon, issue_canon, brcAct_canon]

theorem brkAct_canon (level : BitVec 4) : (brkAct level s).Canon := by
  grind [brkAct, Act.Canon, Wave.trapAct_canon, State.popped_canon]

theorem execBrk_canon (level : BitVec 4) : OutCanon (execBrk level s) := by
  grind [execBrk, OutCanon, Act.Canon, issue_canon, brkAct_canon]

theorem jmpiAct_canon (a : BitVec 7) (roff : BitVec 16) : (jmpiAct a roff s).Canon := by
  grind [jmpiAct, Act.Canon, foldl_canon, State.onW_canon, Wave.trapAct_canon, State.popped_canon]

theorem execJmpi_canon (wa : Bool) (a : BitVec 7) (roff : BitVec 16) : OutCanon (execJmpi wa a roff s) := by
  grind [execJmpi, OutCanon, Act.Canon, issue_canon, jmpiAct_canon]

theorem callAct_canon (toff : BitVec 16) : (callAct toff s).Canon := by
  grind [callAct, Act.Canon, Wave.trapAct_canon, State.onW_canon]

theorem execCall_canon (toff : BitVec 16) : OutCanon (execCall toff s) := by
  grind [execCall, OutCanon, Act.Canon, issue_canon, callAct_canon]

theorem retAct_canon : (retAct s).Canon := by
  grind [retAct, Act.Canon, Wave.trapAct_canon, State.popped_canon]

theorem execRet_canon : OutCanon (execRet s) := by
  grind [execRet, OutCanon, Act.Canon, issue_canon, retAct_canon]

theorem exitAct_canon : (exitAct s).Canon := by
  grind [exitAct, Act.Canon, State.askPromotion_canon, State.popped_canon]

theorem execExit_canon : OutCanon (execExit s) := by
  grind [execExit, OutCanon, Act.Canon, issue_canon, exitAct_canon]

theorem execNop_canon : OutCanon (execNop s) := by
  grind [execNop, OutCanon, issueW_canon]

theorem execYield_canon : OutCanon (execYield s) := by
  grind [execYield, OutCanon, issueW_canon]

theorem State.parkPath_canon (w : Wave) (es : List StackEntry) : (s.parkPath w es).Canon := by
  grind [State.parkPath, State.Canon, Act.Canon, Wave.trapAct_canon]

theorem waveBarAct_canon (mode : Nat) : (waveBarAct mode s).Canon := by
  grind [waveBarAct, State.Canon, Act.Canon, State.onW_canon, State.parkPath_canon, Wave.trapAct_canon]

theorem State.barAcquire_canon (level : Nat) : (s.barAcquire level).Canon := by
  grind [State.barAcquire, State.plainAcquire_canon]

theorem blockBarAct_canon (k : Nat) (b : Block) (level mode num : Nat) : (blockBarAct k b level mode num s).Canon := by
  grind [blockBarAct, Act.Canon, OptCanon, State.onW_canon, State.barAcquire_canon, State.askPromotion_canon, State.plainRelease_canon,
    State.barSettle_canon, State.setBar_canon]

theorem barAct_canon (level mode num : Nat) : (barAct level mode num s).Canon := by
  grind [barAct, Act.Canon, waveBarAct_canon, notInRegion_canon, Wave.trapAct_canon, blockBarAct_canon]

theorem execBar_canon (level mode : BitVec 2) (num : BitVec 3) : OutCanon (execBar level mode num s) := by
  grind [execBar, OutCanon, Act.Canon, issue_canon, barAct_canon]

theorem execWaitc_canon (kind : BitVec 2) (n : BitVec 6) : OutCanon (execWaitc kind n s) := by
  unfold execWaitc
  refine issue_canon hs _ (fun t ht => ?_)
  grind [Act.Canon]

theorem spawnAct_canon (a : BitVec 7) (b : BitVec 6) : (spawnAct a b s).Canon := by
  grind [spawnAct, Act.Canon, Wave.trapAct_canon, State.onCore_canon]

theorem execSpawn_canon (wa : Bool) (a : BitVec 7) (wb : Bool) (b : BitVec 6) : OutCanon (execSpawn wa a wb b s) := by
  grind [execSpawn, OutCanon, Act.Canon, issue_canon, notInRegion_canon, notKindling_canon, spawnAct_canon]

theorem tqpushAct_canon (d : BitVec 6) (a : BitVec 7) (b : BitVec 6) : (tqpushAct d a b s).Canon := by
  grind [tqpushAct, Act.Canon, foldl_canon, OptCanon, State.tidyQueue_canon, State.plainRelease_canon, State.onQueue_canon, State.onW_canon]

theorem execTqpush_canon (d : BitVec 6) (wa : Bool) (a : BitVec 7) (wb : Bool) (b : BitVec 6) : OutCanon (execTqpush d wa a wb b s) := by
  grind [execTqpush, OutCanon, Act.Canon, issue_canon, notInRegion_canon, notKindling_canon, tqpushAct_canon]

theorem tqpopAct_canon (d : BitVec 6) (nb : Bool) (b : BitVec 6) : (tqpopAct d nb b s).Canon := by
  grind [tqpopAct, Act.Canon, State.wakePops_canon, State.tidyQueue_canon, State.servePop_canon, State.askPromotion_canon, State.onW_canon,
    State.onQueue_canon]

theorem execTqpop_canon (d : BitVec 6) (nb wb : Bool) (b : BitVec 6) : OutCanon (execTqpop d nb wb b s) := by
  grind [execTqpop, OutCanon, Act.Canon, issue_canon, notInRegion_canon, notKindling_canon, tqpopAct_canon]

theorem execTqstat_canon (d : BitVec 6) (wb : Bool) (b : BitVec 6) : OutCanon (execTqstat d wb b s) := by
  unfold execTqstat
  refine issue_canon hs _ (fun _ ht => ?_)
  exact State.onW_canon ht _

theorem recgetAct_canon (d : BitVec 6) : (recgetAct d s).Canon := by
  grind [recgetAct, Act.Canon, State.onW_canon, State.onCard_canon]

theorem execRecget_canon (d : BitVec 6) : OutCanon (execRecget d s) := by
  grind [execRecget, OutCanon, Act.Canon, issue_canon, notInRegion_canon, recgetAct_canon]

/-! ### Class 3 -/

theorem State.regionAct_canon (r size : Nat) (rd wr : Bool) (f : LaneAcc → Nat → Nat × Flags) (as : List LaneAcc) {go : State → Map Nat → Act}
    (hgo : ∀ t y, t.Canon → (go t y).Canon) : (s.regionAct r size rd wr f as go).Canon := by
  grind [State.regionAct, Act.Canon, RegionTry.Canon, State.tryRegion_canon, State.onW_canon, State.takeTrap_canon]

theorem State.load_canon (scalar : Bool) (d size : Nat) (sx : Bool) (scope ord : Nat) (acq : Bool) (ds : List Dst) (as : List LaneAcc) :
    (s.load scalar d size sx scope ord acq ds as).Canon := by
  grind [State.load, Act.Canon, State.regionAct_canon, State.onW_canon]

theorem ldAct_canon (m : MA 14) (d : BitVec 7) (scope : BitVec 2) (ord size : BitVec 3) (sx : Bool) : (ldAct m d scope ord size sx s).Canon := by
  grind [ldAct, Act.Canon, Checked.act_canon, State.load_canon]

theorem execLd_canon (m : MA 14) (d : BitVec 7) (scope : BitVec 2) (ord size : BitVec 3) (sx : Bool) :
    OutCanon (execLd m d scope ord size sx s) := by
  grind [execLd, OutCanon, Act.Canon, issue_canon, ldAct_canon]

theorem sldAct_canon (d b : BitVec 6) (off : BitVec 14) (scope : BitVec 2) (ord size : BitVec 3) : (sldAct d b off scope ord size s).Canon := by
  grind [sldAct, Act.Canon, Checked.act_canon, State.load_canon]

theorem execSld_canon (d : BitVec 6) (wb : Bool) (b : BitVec 6) (off : BitVec 14) (scope : BitVec 2) (ord size : BitVec 3) :
    OutCanon (execSld d wb b off scope ord size s) := by
  grind [execSld, OutCanon, Act.Canon, issue_canon, sldAct_canon]

theorem stAct_canon (m : MA 14) (v : BitVec 7) (scope : BitVec 2) (ord size : BitVec 3) : (stAct m v scope ord size s).Canon := by
  grind [stAct, Act.Canon, Checked.act_canon, State.regionAct_canon, State.onW_canon]

theorem execSt_canon (m : MA 14) (wv : Bool) (v : BitVec 7) (scope : BitVec 2) (ord size : BitVec 3) :
    OutCanon (execSt m wv v scope ord size s) := by
  grind [execSt, OutCanon, Act.Canon, issue_canon, stAct_canon]

theorem State.atomic_canon (size aop scope : Nat) (ord : BitVec 3) (d : Option Nat) (ds : List Dst) (as : List LaneAcc) :
    (s.atomic size aop scope ord d ds as).Canon := by
  grind [State.atomic, Act.Canon, State.regionAct_canon, State.onW_canon]

theorem atomAct_canon (m : MA 10) (aop : Nat) (v : BitVec 7) (d : Option (BitVec 7)) (cmp : Bool) (scope : BitVec 2) (ord size : BitVec 3) :
    (atomAct m aop v d cmp scope ord size s).Canon := by
  unfold atomAct
  grind [State.Canon, Act.Canon, map_canon, Checked.act_canon, State.atomic_canon]

theorem execAtom_canon (m : MA 10) (d : BitVec 7) (aop : BitVec 4) (wv : Bool) (v : BitVec 7) (scope : BitVec 2) (ord size : BitVec 3) :
    OutCanon (execAtom m d aop wv v scope ord size s) := by
  grind [execAtom, OutCanon, Act.Canon, issue_canon, atomAct_canon]

theorem execAtomc_canon (m : MA 10) (d : BitVec 7) (wv : Bool) (v : BitVec 7) (scope : BitVec 2) (ord size : BitVec 3) :
    OutCanon (execAtomc m d wv v scope ord size s) := by
  grind [execAtomc, OutCanon, Act.Canon, issue_canon, atomAct_canon]

theorem execRed_canon (m : MA 10) (aop : BitVec 4) (wv : Bool) (v : BitVec 7) (scope : BitVec 2) (ord size : BitVec 3) :
    OutCanon (execRed m aop wv v scope ord size s) := by
  grind [execRed, OutCanon, Act.Canon, issue_canon, atomAct_canon]

omit hs in
theorem tileTrap_canon (code : Nat) (whole : Bool) (w : Wave) (bad : List (Nat × Nat)) : (tileTrap code whole w bad).Canon := by
  grind [tileTrap, Act.Canon]

omit hs in
theorem State.tileCheck_canon (whole : Bool) (size : Nat) (ls : List (Nat × Nat)) {go : Act} (hgo : go.Canon) :
    (s.tileCheck whole size ls go).Canon := by
  grind [State.tileCheck, Act.Canon, tileTrap_canon]

theorem ldtAct_canon (t : TA) : (ldtAct t s).Canon := by
  grind [ldtAct, Act.Canon, State.tileCheck_canon, State.onW_canon]

theorem execLdt_canon (t : TA) : OutCanon (execLdt t s) := by
  grind [execLdt, OutCanon, Act.Canon, issue_canon, ldtAct_canon]

theorem sttAct_canon (t : TA) : (sttAct t s).Canon := by
  grind [sttAct, Act.Canon, State.tileCheck_canon, State.onW_canon, tileTrap_canon]

theorem execStt_canon (t : TA) : OutCanon (execStt t s) := by
  grind [execStt, OutCanon, Act.Canon, issue_canon, sttAct_canon]

theorem tmtagAct_canon (q : Bool) (d a : BitVec 7) (set : Bool) (tag : BitVec 2) : (tmtagAct q d a set tag s).Canon := by
  grind [tmtagAct, Act.Canon, tileTrap_canon, State.onW_canon, State.onBlk_canon, Wave.trapAct_canon]

theorem execTmtag_canon (q : Bool) (d : BitVec 7) (wa : Bool) (a : BitVec 7) (set : Bool) (tag : BitVec 2) :
    OutCanon (execTmtag q d wa a set tag s) := by
  grind [execTmtag, OutCanon, Act.Canon, issue_canon, notInRegion_canon, tmtagAct_canon]

theorem State.fenceParts_canon (rel acq : Bool) (scope : Nat) : OptCanon (s.fenceParts rel acq scope) := by
  grind [State.fenceParts, OptCanon, map_canon, State.acquireAll_canon, State.releaseAll_canon]

theorem State.fenceDone_canon (rel acq : Bool) (scope : Nat) : OptCanon (s.fenceDone rel acq scope) := by
  grind [State.fenceDone, OptCanon, State.fenceParts_canon]

theorem fenceAct_canon (kind scope : Nat) : (fenceAct kind scope s).Canon := by
  grind [fenceAct, Act.Canon, OptCanon, State.fenceParts_canon, State.fenceDone_canon, State.onW_canon]

theorem execFence_canon (kind : BitVec 3) (scope : BitVec 2) : OutCanon (execFence kind scope s) := by
  grind [execFence, OutCanon, Act.Canon, issue_canon, fenceAct_canon]

theorem State.prefetch_canon (l1 : Bool) (a : LaneAcc) : (s.prefetch l1 a).Canon := by
  grind [State.prefetch, getD_canon, OptCanon, State.post_canon, State.l2Fill_canon, State.l1Room_canon, State.witness_canon, State.l1Fill_canon,
    State.fit_canon]

theorem State.cctlLine_canon (cop : Nat) (a : LaneAcc) : OptCanon (s.cctlLine cop a) := by
  unfold State.cctlLine
  grind [State.Canon, OptCanon, State.wb1_canon, State.dropClean_canon, State.toPoint_canon]

theorem cctlAct_canon (m : MA 14) (cop : Nat) : (cctlAct m cop s).Canon := by
  grind [cctlAct, Act.Canon, forEach_canon, foldlM_canon, OptCanon, State.prefetch_canon, State.cctlLine_canon]

theorem execCctl_canon (m : MA 14) (cop : BitVec 3) : OutCanon (execCctl m cop s) := by
  grind [execCctl, OutCanon, Act.Canon, issue_canon, notInRegion_canon, cctlAct_canon]

theorem State.takeRegion_canon (r : Nat) (d : BitVec 6) (aoff : BitVec 16) : (s.takeRegion r d aoff).Canon := hs

theorem rbeginAct_canon (d : BitVec 6) (aoff : BitVec 16) : (rbeginAct d aoff s).Canon := by
  grind [rbeginAct, Act.Canon, OptCanon, Wave.trapAct_canon, State.fenceDone_canon, State.takeRegion_canon, State.onW_canon, State.onDie_canon]

theorem execRbegin_canon (d : BitVec 6) (aoff : BitVec 16) : OutCanon (execRbegin d aoff s) := by
  grind [execRbegin, OutCanon, Act.Canon, issue_canon, rbeginAct_canon]

theorem rcommitAct_canon : (rcommitAct s).Canon := by
  grind [rcommitAct, Act.Canon, OptCanon, State.commitRegion_canon, State.onW_canon]

theorem execRcommit_canon : OutCanon (execRcommit s) := by
  grind [execRcommit, OutCanon, Act.Canon, issue_canon, rcommitAct_canon]

theorem rabortAct_canon (code : BitVec 7) : (rabortAct code s).Canon := by
  grind [rabortAct, Act.Canon, State.abortRegion_canon]

theorem execRabort_canon (code : BitVec 7) : OutCanon (execRabort code s) := by
  grind [execRabort, OutCanon, Act.Canon, issue_canon, rabortAct_canon]

theorem execRstat_canon (d : BitVec 6) (sel : BitVec 3) : OutCanon (execRstat d sel s) := by
  unfold execRstat
  refine issue_canon hs _ (fun _ ht => ?_)
  exact State.onW_canon ht _

theorem State.record_canon (va : Nat) {go : State → Nat → Act} (hgo : ∀ t y, t.Canon → (go t y).Canon) :
    (s.record va go).Canon := by
  unfold State.record
  refine Checked.act_canon _ _ (fun as => ?_) _
  split
  · exact hs
  · next a _ =>
    dsimp only
    split
    · exact hs
    · have hr := State.reachL2_canon hs s.w.id.core a
      split
      · exact hs
      · next t e =>
        split
        · trivial
        · have hd := State.recordDrainOver_canon (e ▸ hr : OptCanon (some t)) s.w.id.core (a.pa / 256)
          split
          · exact hs
          · next u e =>
            have hf := State.fitEvery_canon (e ▸ hd : OptCanon (some u))
            split
            · exact hs
            · next v e => exact hgo v _ (e ▸ hf : OptCanon (some v))

theorem State.allWriteBack_canon (p : L1Line → Bool) (q : Nat → Bool) : OptCanon (s.allWriteBack p q) := by
  grind [State.allWriteBack, OptCanon, foldlM_canon, map_canon, State.clearSum_canon, State.wbTry_canon]

theorem State.allDiscard_canon (p : L1Line → Bool) : (s.allDiscard p).Canon := by
  grind [State.allDiscard, forEach_canon, State.l1Discard_canon]

theorem State.relabel_canon (p : Nat → Bool) (id : Nat) : (s.relabel p id).Canon := by
  grind [State.relabel, forEach_canon, State.onDie_canon, State.onCore_canon]

theorem bindRecord_canon (d : BitVec 6) (r : Nat) : (bindRecord d s r).Canon := by
  grind [bindRecord, Act.Canon, OptCanon, State.onW_canon, State.allWriteBack_canon, State.onDie_canon, State.allDiscard_canon, State.relabel_canon]

theorem execObind_canon (d : BitVec 6) (wb : Bool) (b : BitVec 6) (off : BitVec 32) : OutCanon (execObind d wb b off s) := by
  grind [execObind, OutCanon, Act.Canon, issue_canon, notInRegion_canon, notKindling_canon, State.record_canon, bindRecord_canon]

theorem State.status_canon (d : BitVec 6) (x : Nat) : (s.status d x).Canon := hs

theorem ounbindAct_canon (d b : BitVec 6) : (ounbindAct d b s).Canon := by
  grind [ounbindAct, Act.Canon, OptCanon, State.status_canon, State.allWriteBack_canon, State.onDie_canon, State.relabel_canon]

theorem execOunbind_canon (d : BitVec 6) (wb : Bool) (b : BitVec 6) : OutCanon (execOunbind d wb b s) := by
  grind [execOunbind, OutCanon, Act.Canon, issue_canon, notInRegion_canon, notKindling_canon, ounbindAct_canon]

theorem oprioAct_canon (d : BitVec 6) (prio : BitVec 3) (b : BitVec 6) : (oprioAct d prio b s).Canon := by
  grind [oprioAct, Act.Canon, State.status_canon, State.onObj_canon]

theorem execOprio_canon (d : BitVec 6) (prio : BitVec 3) (wb : Bool) (b : BitVec 6) : OutCanon (execOprio d prio wb b s) := by
  grind [execOprio, OutCanon, Act.Canon, issue_canon, notInRegion_canon, oprioAct_canon]

theorem State.tileLeaves_canon (t : TileId) : OptCanon (s.tileLeaves t) := by
  grind [State.tileLeaves, OptCanon, map_canon, foldlM_canon, State.dropTile_canon, State.recordLeaves_canon]

theorem State.evictObj_canon (id : Nat) (o : Obj) : OptCanon (s.evictObj id o) := by
  unfold State.evictObj
  dsimp only
  split
  · trivial
  · refine bind_canon (bind_canon (State.allWriteBack_canon hs _ _) fun t ht => ?_) fun t ht => ?_
    · exact foldlM_canon ht _ fun y x hx => State.tileLeaves_canon hx y
    · exact map_canon (State.l2Flush_canon ht _) fun u hu => State.allDiscard_canon hu _

theorem oevictAct_canon (d : BitVec 6) (demote : Bool) (b : BitVec 6) : (oevictAct d demote b s).Canon := by
  grind [oevictAct, Act.Canon, OptCanon, State.status_canon, State.onObj_canon, State.evictObj_canon]

theorem execOevict_canon (d : BitVec 6) (demote wb : Bool) (b : BitVec 6) : OutCanon (execOevict d demote wb b s) := by
  grind [execOevict, OutCanon, Act.Canon, issue_canon, notInRegion_canon, notKindling_canon, oevictAct_canon]

theorem osealAct_canon (d : BitVec 6) (op : BitVec 2) (b : BitVec 6) : (osealAct d op b s).Canon := by
  grind [osealAct, Act.Canon, OptCanon, State.status_canon, State.allWriteBack_canon, State.onObj_canon]

theorem execOseal_canon (d : BitVec 6) (op : BitVec 2) (wb : Bool) (b : BitVec 6) : OutCanon (execOseal d op wb b s) := by
  grind [execOseal, OutCanon, Act.Canon, issue_canon, notInRegion_canon, notKindling_canon, osealAct_canon]

theorem recipeRecord_canon (d : BitVec 6) (r : Nat) : (recipeRecord d s r).Canon := by
  grind [recipeRecord, Act.Canon, State.status_canon, State.onObj_canon]

theorem execOrecipe_canon (d : BitVec 6) (wb : Bool) (b : BitVec 6) (off : BitVec 32) : OutCanon (execOrecipe d wb b off s) := by
  grind [execOrecipe, OutCanon, Act.Canon, issue_canon, notInRegion_canon, notKindling_canon, State.record_canon, recipeRecord_canon]

/-! ### Class 4 -/

theorem fullMask_canon {f : State → Act} (hf : ∀ t, t.Canon → (f t).Canon) : (fullMask f s).Canon := by
  grind [fullMask, Act.Canon, Wave.trapAct_canon]

omit hs in
theorem tileTrap1_canon (code off : Nat) (w : Wave) : (tileTrap1 code off w).Canon := by
  grind [tileTrap1, Act.Canon]

theorem State.enqueueTerm_canon (k : Nat) (o : TermOp) : (s.enqueueTerm k o).Canon := hs

theorem State.acceptTmm_canon (k : Nat) (o : TermOp) : (s.acceptTmm k o).Canon := hs

theorem acceptAct_canon (o : TermOp) : (acceptAct o s).Canon := by
  grind [acceptAct, Act.Canon, State.askPromotion_canon, State.acceptTmm_canon]

omit hs in
theorem tmmAct_canon (vacc a : BitVec 7) (b : BitVec 6) (consume : Bool) (pm1 : BitVec 5) (slot : BitVec 7) {t : State} (ht : t.Canon) :
    (tmmAct vacc a b consume pm1 slot t).Canon := by
  unfold tmmAct
  grind [State.Canon, Act.Canon, notInRegion_canon, fullMask_canon, Wave.trapAct_canon, tileTrap1_canon, acceptAct_canon]

theorem execTmm_canon (vacc : BitVec 7) (wa : Bool) (a : BitVec 7) (wb : Bool) (b : BitVec 6) (consume : Bool) (pm1 : BitVec 5) (slot : BitVec 7) :
    OutCanon (execTmm vacc wa a wb b consume pm1 slot s) := by
  grind [execTmm, OutCanon, Act.Canon, issue_canon, tmmAct_canon]

omit hs in
theorem tpromAct_canon (d : BitVec 7) {t : State} (ht : t.Canon) : (tpromAct d t).Canon := by
  unfold tpromAct
  grind [State.Canon, Act.Canon, notInRegion_canon, State.onW_canon, State.enqueueTerm_canon]

theorem execTprom_canon (d : BitVec 7) : OutCanon (execTprom d s) := by
  grind [execTprom, OutCanon, Act.Canon, issue_canon, tpromAct_canon]

omit hs in
theorem tboundAct_canon (d : BitVec 6) (a slot : BitVec 7) {t : State} (ht : t.Canon) : (tboundAct d a slot t).Canon := by
  unfold tboundAct
  grind [State.Canon, Act.Canon, notInRegion_canon, State.onW_canon, Wave.trapAct_canon]

theorem execTbound_canon (d : BitVec 6) (wa : Bool) (a slot : BitVec 7) : OutCanon (execTbound d wa a slot s) := by
  grind [execTbound, OutCanon, Act.Canon, issue_canon, tboundAct_canon]

omit hs in
theorem tstatAct_canon (d : BitVec 6) (sel : BitVec 3) {t : State} (ht : t.Canon) : (tstatAct d sel t).Canon := by
  unfold tstatAct
  grind [State.Canon, Act.Canon, notInRegion_canon, State.onW_canon]

theorem execTstat_canon (d : BitVec 6) (sel : BitVec 3) : OutCanon (execTstat d sel s) := by
  grind [execTstat, OutCanon, Act.Canon, issue_canon, tstatAct_canon]

theorem execTcnt_canon (u : U3) (kind : BitVec 4) : OutCanon (execTcnt u kind s) := by
  grind [execTcnt, OutCanon, Act.Canon, issue_canon, notInRegion_canon, State.onW_canon]

theorem execQbx_canon (u : U3) (bf : Bool) (kind : BitVec 3) : OutCanon (execQbx u bf kind s) := by
  grind [execQbx, OutCanon, Act.Canon, issue_canon, notInRegion_canon, State.onW_canon]

theorem execDqbx_canon (u : U3) (bf : Bool) (kind : BitVec 3) : OutCanon (execDqbx u bf kind s) := by
  grind [execDqbx, OutCanon, Act.Canon, issue_canon, notInRegion_canon, State.onW_canon]

omit hs in
theorem tlencAct_canon (d b : BitVec 6) (pitch : BitVec 16) {t : State} (ht : t.Canon) : (tlencAct d b pitch t).Canon := by
  unfold tlencAct
  grind [State.Canon, Act.Canon, notInRegion_canon, tileTrap1_canon, State.onCore_canon, State.onW_canon]

theorem execTlenc_canon (d : BitVec 6) (wb : Bool) (b : BitVec 6) (pitch : BitVec 16) : OutCanon (execTlenc d wb b pitch s) := by
  grind [execTlenc, OutCanon, Act.Canon, issue_canon, tlencAct_canon]

omit hs in
theorem tldecAct_canon (d a : BitVec 7) (b : BitVec 6) (hoff : BitVec 16) {t : State} (ht : t.Canon) : (tldecAct d a b hoff t).Canon := by
  unfold tldecAct
  grind [State.Canon, Act.Canon, notInRegion_canon, tileTrap1_canon, State.onCore_canon, State.onW_canon]

theorem execTldec_canon (d : BitVec 7) (wa : Bool) (a : BitVec 7) (wb : Bool) (b : BitVec 6) (hoff : BitVec 16) :
    OutCanon (execTldec d wa a wb b hoff s) := by
  grind [execTldec, OutCanon, Act.Canon, issue_canon, tldecAct_canon]

omit hs in
theorem decsAct_canon (d b l : BitVec 6) {t : State} (ht : t.Canon) : (decsAct d b l t).Canon := by
  unfold decsAct
  grind [State.Canon, Act.Canon, notInRegion_canon, State.onCore_canon, State.onW_canon]

theorem execDecs_canon (d : BitVec 6) (wb : Bool) (b : BitVec 6) (wl : Bool) (l : BitVec 6) : OutCanon (execDecs d wb b wl l s) := by
  grind [execDecs, OutCanon, Act.Canon, issue_canon, decsAct_canon]

omit hs in
theorem xmmAct_canon (d : BitVec 7) (b : BitVec 6) (zc conjb : Bool) (form : BitVec 2) {t : State} (ht : t.Canon) :
    (xmmAct d b zc conjb form t).Canon := by
  unfold xmmAct
  grind [State.Canon, Act.Canon, notInRegion_canon, fullMask_canon, tileTrap1_canon, State.onCore_canon, State.onW_canon]

theorem execXmm_canon (d : BitVec 7) (wb : Bool) (b : BitVec 6) (zc conjb : Bool) (form : BitVec 2) :
    OutCanon (execXmm d wb b zc conjb form s) := by
  grind [execXmm, OutCanon, Act.Canon, issue_canon, xmmAct_canon]

/-! ### The term units -/

theorem quietly_canon : OutCanon (quietly s) := hs

theorem execTmmStart_canon (core : BitVec 7) (ta : Bool) : OutCanon (execTmmStart core ta s) := by
  grind [execTmmStart, OutCanon, State.onCore_canon, quietly_canon]

theorem execTmmComplete_canon (core : BitVec 7) (ta : Bool) : OutCanon (execTmmComplete core ta s) := by
  grind [execTmmComplete, OutCanon, bind_canon, map_canon, State.onCore_canon, State.onAny_canon, State.passTo_canon, State.onBlk_canon,
    quietly_canon]

theorem execPromotion_canon (core : BitVec 7) (ta : Bool) : OutCanon (execPromotion core ta s) := by
  grind [execPromotion, OutCanon, quietly_canon, State.onAny_canon, State.pass_canon, State.pass_dram, State.onCore_canon]

theorem execXmmStart_canon (core : BitVec 7) : OutCanon (execXmmStart core s) := by
  grind [execXmmStart, OutCanon, bind_canon, quietly_canon, State.onCore_canon]

theorem execXmmComplete_canon (core : BitVec 7) : OutCanon (execXmmComplete core s) := by
  grind [execXmmComplete, OutCanon, bind_canon, quietly_canon, State.onCore_canon, State.passTo_canon, State.onAny_canon]

theorem execTlencComplete_canon (core : BitVec 7) : OutCanon (execTlencComplete core s) := by
  grind [execTlencComplete, OutCanon, bind_canon, map_canon, quietly_canon, State.onCore_canon, State.onBlk_canon, State.passTo_canon,
    State.onAny_canon]

theorem execTldecComplete_canon (core : BitVec 7) : OutCanon (execTldecComplete core s) := by
  grind [execTldecComplete, OutCanon, bind_canon, quietly_canon, State.onCore_canon, State.passTo_canon, State.onAny_canon]

theorem execDecsComplete_canon (core : BitVec 7) : OutCanon (execDecsComplete core s) := by
  grind [execDecsComplete, OutCanon, bind_canon, map_canon, quietly_canon, State.passTo_canon, State.onCore_canon, State.onAny_canon,
    State.onBlk_canon]

/-! ### Class 5 and the copy engines -/

theorem State.acceptCopy_canon (c : Copy) : (s.acceptCopy c).Canon := by
  grind [State.acceptCopy, State.onCore_canon, State.onBlk_canon, State.onW_canon]

theorem releaseThenCopy_canon (c : Copy) : (releaseThenCopy c s).Canon := by
  grind [releaseThenCopy, Act.Canon, PairCanon, State.releaseSteps_canon, State.acceptCopy_canon]

theorem copyAct_canon (op : Nat) (b : BitVec 6) (word1 slot redop : Nat) : (copyAct op b word1 slot redop s).Canon := by
  grind [copyAct, Act.Canon, getD_canon, notInRegion_canon, State.acceptCopy_canon, Wave.trapAct_canon, releaseThenCopy_canon]

theorem execCpyt_canon (wb : Bool) (b : BitVec 6) (tadd : BitVec 32) : OutCanon (execCpyt wb b tadd s) := by
  grind [execCpyt, OutCanon, Act.Canon, issue_canon, copyAct_canon]

theorem execCpyg_canon (wb : Bool) (b : BitVec 6) (tstride : BitVec 32) : OutCanon (execCpyg wb b tstride s) := by
  grind [execCpyg, OutCanon, Act.Canon, issue_canon, copyAct_canon]

theorem execCpyw_canon (slot : BitVec 7) (wb : Bool) (b : BitVec 6) (sig : BitVec 32) : OutCanon (execCpyw slot wb b sig s) := by
  grind [execCpyw, OutCanon, Act.Canon, issue_canon, copyAct_canon]

theorem execCpyp_canon (wb : Bool) (b : BitVec 6) (redop : BitVec 3) : OutCanon (execCpyp wb b redop s) := by
  grind [execCpyp, OutCanon, Act.Canon, issue_canon, copyAct_canon]

theorem execCfill_canon (wb : Bool) (b : BitVec 6) (tadd : BitVec 32) : OutCanon (execCfill wb b tadd s) := by
  grind [execCfill, OutCanon, Act.Canon, issue_canon, copyAct_canon]

theorem State.onCopy_canon (core seq : Nat) (f : Copy → Copy) : (s.onCopy core seq f).Canon := hs

theorem State.copyErr_canon (core seq e : Nat) : (s.copyErr core seq e).Canon := hs

theorem State.copyCaches_canon (core : Nat) (p q : Nat → Bool) : OptCanon (s.copyCaches core p q) := by
  grind [State.copyCaches, OptCanon, map_canon, State.discardClean_canon, State.wbTry_canon]

theorem State.startCopy_canon (core : Nat) (c : Copy) : OptCanon (s.startCopy core c) := by
  grind [State.startCopy, OptCanon, foldl_canon, map_canon, State.onCopy_canon, State.onDie_canon, State.onBlk_canon, State.copyCaches_canon]

theorem execCopyStart_canon (core : BitVec 7) (seq : BitVec 32) : OutCanon (execCopyStart core seq s) := by
  grind [execCopyStart, OutCanon, getD_canon, OptCanon, quietly_canon, State.startCopy_canon]

omit hs in
theorem Move.bind_canon {α : Type} {β : Type} {m : Move α} (hm : m.Canon) {f : State → α → Move β} (hf : ∀ t y, t.Canon → (f t y).Canon) :
    (m.bind f).Canon := by
  unfold Move.bind
  grind [State.Canon, Move.Canon]

theorem Move.each_canon {α β : Type} {f : State → α → Move β} (hf : ∀ t y, t.Canon → (f t y).Canon) (xs : List α) : (Move.each f xs s).Canon := by
  induction xs generalizing s with
  | nil => exact hs
  | cons x xs ih => exact Move.bind_canon (hf s x hs) fun t y ht => Move.bind_canon (ih ht) fun u ys hu => hu

theorem State.peerAsk_canon (core seq va : Nat) (op : PeerOp) (n : Nat) (data : List Byte) : (s.peerAsk core seq va op n data).1.Canon := by
  grind [State.peerAsk, State.Canon, State.draw_canon, State.drawBytes_canon, State.copyErr_canon]

theorem State.peerRow_canon (core seq : Nat) (op : PeerOp) (ps : List (Nat × List Byte)) (n : Nat) : (s.peerRow core seq op ps n).1.Canon := by
  induction ps generalizing s n with
  | nil => exact hs
  | cons p ps ih => exact ih (State.peerAsk_canon hs core seq p.1 op _ p.2) _

theorem State.copyTake_canon (core : Nat) (c : Copy) (pa va fields n : Nat) : PairCanon (s.copyTake core c pa va fields n) := by
  grind [State.copyTake, bind_pairCanon, map_pairCanon, State.witness_canon, State.l2Fill_canon, State.recordDrainOver_canon, State.fitEvery_canon,
    State.fit_canon, State.onCopy_canon, State.l2Read_canon]

theorem State.copyPiece_canon (core : Nat) (c : Copy) (p : Nat × Nat) : (s.copyPiece core c p).Canon := by
  grind [State.copyPiece, Move.Canon, PairCanon, State.copyTake_canon]

theorem State.copyRead_canon (core : Nat) (c : Copy) (va n : Nat) : (s.copyRead core c va n).Canon := by
  grind [State.copyRead, Move.Canon, State.peerRow_canon, Move.bind_canon, Move.each_canon, State.copyPiece_canon]

theorem State.copyPut_canon (core : Nat) (c : Copy) (p : Nat × List Byte) : (s.copyPut core c p).Canon := by
  grind [State.copyPut, Move.Canon, OptCanon, PairCanon, mapPair_pairCanon, State.copyErr_canon, State.l2Read_canon, State.l2Put_canon]

theorem State.copyWrite_canon (core : Nat) (c : Copy) (w : Nat × List Byte) : (s.copyWrite core c w).Canon := by
  grind [State.copyWrite, Move.Canon, State.peerRow_canon, Move.bind_canon, Move.each_canon, State.copyPut_canon]

theorem State.growLock_canon (core : Nat) (c : Copy) (h : TlfHdr) : (s.growLock core c h).Canon := by
  grind [State.growLock, Move.Canon, OptCanon, State.onDie_canon, State.copyCaches_canon]

theorem State.tlfGlobalRow_canon (core : Nat) (c : Copy) (h : TlfHdr) (i : Nat) : (s.tlfGlobalRow core c h i).Canon := by
  grind [State.tlfGlobalRow, Move.Canon, map_canon, Move.bind_canon, State.copyRead_canon]

theorem State.tlfHeader_canon (core : Nat) (c : Copy) : (s.tlfHeader core c).Canon := by
  grind [State.tlfHeader, Move.Canon, Move.bind_canon, State.copyRead_canon, State.growLock_canon]

theorem State.decodeRow_canon (core : Nat) (c : Copy) (r : Nat) : (s.decodeRow core c r).Canon := by
  grind [State.decodeRow, Move.Canon, State.copyErr_canon, Move.bind_canon, State.tlfHeader_canon, State.tlfGlobalRow_canon]

theorem State.decodeWhole_canon (core : Nat) (c : Copy) : (s.decodeWhole core c).Canon := by
  grind [State.decodeWhole, Move.Canon, Move.bind_canon, State.tlfHeader_canon, State.copyRead_canon]

theorem State.copyIdx_canon (core : Nat) (c : Copy) (r n : Nat) : (State.copyIdx core c r n s).Canon := by
  induction n generalizing s with
  | zero => trivial
  | succ n ih => grind [State.copyIdx, Move.Canon, Move.bind_canon, State.copyRead_canon, State.onCopy_canon]

theorem State.copyRow_canon (core : Nat) (c : Copy) (r : Nat) : (s.copyRow core c r).Canon := by
  grind [State.copyRow, Move.Canon, State.decodeRow_canon, Move.bind_canon, Move.each_canon, State.copyRead_canon, State.copyIdx_canon,
    State.copyErr_canon]

theorem State.copyToTile_canon (core : Nat) (c : Copy) (ls : List Nat) : (s.copyToTile core c ls).Canon := by
  grind [State.copyToTile, Move.Canon, foldl_canon, Move.bind_canon, Move.each_canon, State.copyRow_canon, State.onBlk_canon]

theorem State.copyOut_canon (core : Nat) (c : Copy) : (s.copyOut core c).Canon := by
  grind [State.copyOut, Move.Canon, bind_canon, Move.bind_canon, Move.each_canon, State.copyRead_canon]

theorem State.copySlot_canon (core : Nat) (c : Copy) : (s.copySlot core c).Canon := by
  grind [State.copySlot, Move.Canon, bind_canon, map_canon, Move.bind_canon, State.copyRead_canon, State.onBlk_canon, State.onCore_canon,
    State.copyErr_canon]

theorem State.copyMiss_canon (core : Nat) (c : Copy) (t : TileId) : (s.copyMiss core c t).Canon := by
  grind [State.copyMiss, bind_canon, State.onCopy_canon, State.failChain_canon, State.postFor_canon]

theorem State.copyBlocked_canon (core : Nat) (c : Copy) {α : Type} {m : Move α} : (s.copyBlocked core c m).Canon := by
  unfold State.copyBlocked
  grind [State.Canon, Move.Canon, State.joinFault_canon, State.onCopy_canon, State.copyMiss_canon, State.supervisor_canon, State.afterPoison_canon]

theorem State.arrived_canon (core : Nat) (c : Copy) (ls : List Nat) : (s.arrived core c ls).Canon := by
  grind [State.arrived, foldl_canon, State.onBlk_canon, State.onCopy_canon]

theorem execCopyLineArrival_canon (core : BitVec 7) (seq : BitVec 32) (line : BitVec 12) : OutCanon (execCopyLineArrival core seq line s) := by
  grind [execCopyLineArrival, OutCanon, Move.Canon, quietly_canon, State.copyToTile_canon, State.arrived_canon, State.copyBlocked_canon]

theorem State.copyRest_canon (core : Nat) (c : Copy) : (s.copyRest core c).Canon := by
  grind [State.copyRest, Move.Canon, State.copySlot_canon, Move.bind_canon, State.decodeWhole_canon, State.copyToTile_canon, State.arrived_canon,
    State.copyOut_canon, Move.each_canon, State.copyWrite_canon]

theorem State.finishCopy_canon (core seq : Nat) : OptCanon (s.finishCopy core seq) := by
  grind [State.finishCopy, OptCanon, forEach_canon, map_canon, foldlM_canon, State.scramble_canon, State.onAny_canon, State.onDie_canon,
    State.onCore_canon, State.summarize_canon]

theorem execCopyComplete_canon (core : BitVec 7) (seq : BitVec 32) : OutCanon (execCopyComplete core seq s) := by
  grind [execCopyComplete, OutCanon, getD_canon, Move.Canon, OptCanon, quietly_canon, State.copyRest_canon, State.finishCopy_canon,
    State.copyBlocked_canon]

theorem State.cwaitAcquire_canon : OptCanon s.cwaitAcquire := by
  grind [State.cwaitAcquire, OptCanon, map_canon, foldlM_canon, State.onW_canon, State.acquireDone_canon]

omit hs in
theorem cwaitAct_canon (ok : State → Bool) {t : State} (ht : t.Canon) : (cwaitAct ok t).Canon := by
  unfold cwaitAct
  grind [State.Canon, Act.Canon, OptCanon, notInRegion_canon, State.cwaitAcquire_canon]

theorem execCwaitCnt_canon (n : BitVec 6) : OutCanon (execCwaitCnt n s) := by
  grind [execCwaitCnt, OutCanon, Act.Canon, issue_canon, cwaitAct_canon]

theorem execCwaitSeq_canon (wa : Bool) (a : BitVec 6) : OutCanon (execCwaitSeq wa a s) := by
  grind [execCwaitSeq, OutCanon, Act.Canon, issue_canon, cwaitAct_canon]

theorem execCwaitSatisfied_canon (wid : Nat) : OutCanon (execCwaitSatisfied wid s) := by
  grind [execCwaitSatisfied, OutCanon, quietly_canon, execCwaitCnt_canon, State.switchTo_canon, execCwaitSeq_canon]

theorem execCseq_canon (d : BitVec 6) (wm : Bool) : OutCanon (execCseq d wm s) := by
  grind [execCseq, OutCanon, Act.Canon, issue_canon, notInRegion_canon, State.onW_canon]

theorem execPeerTimeout_canon (core : BitVec 7) (seq : BitVec 32) : OutCanon (execPeerTimeout core seq s) := by
  grind [execPeerTimeout, OutCanon, getD_canon, OptCanon, quietly_canon, State.copyErr_canon, State.passTo_canon, State.finishCopy_canon]

/-! ### Resuming at a position -/

omit hs in
theorem fetchFaultAct_canon (w : Wave) (code va : Nat) : (fetchFaultAct w code va).Canon := by
  grind [fetchFaultAct, Act.Canon]

omit hs in
theorem State.resumeAct_canon (pc : Addr) (after : Bool) {go : Addr → Bool → Act} (hgo : ∀ x y, (go x y).Canon) :
    (s.resumeAct pc after go).Canon := by
  grind [State.resumeAct, Act.Canon, Wave.trapAct_canon]

/-! ### CLAUSE_ENTRY and RESERVED_OPCODE -/

theorem State.waitAct_canon (c : Clause) : (s.waitAct c).Canon := by
  grind [State.waitAct, Act.Canon, State.onW_canon]

theorem State.fetched_canon (c : Clause) : (s.fetched c).Canon := by
  grind [State.fetched, Act.Canon, State.waitAct_canon, State.onW_canon, Wave.trapAct_canon]

theorem State.badHeader_canon (hdr : Nat) : (s.badHeader hdr).Canon := by
  grind [State.badHeader, State.takeTrap_canon, State.onW_canon]

theorem State.fetchFault_canon {a : Act} (ha : a.Canon) : (s.fetchFault a).Canon := by
  grind [State.fetchFault, Act.Canon, Act.settle_canon, State.onW_canon]

theorem fetchAct_canon : (fetchAct s).Canon := by
  grind [fetchAct, Act.Canon, State.fetched_canon, State.badHeader_canon, State.fetchFault_canon, fetchFaultAct_canon]

theorem State.enterClause_canon : s.enterClause.Canon := by
  grind [State.enterClause, State.Canon, Act.Canon, Act.settle_canon, fetchAct_canon, State.onW_canon, State.retire_canon, State.takePop_canon,
    State.takeTrap_canon]

theorem execClauseEntry_canon : OutCanon (execClauseEntry s) := by
  grind [execClauseEntry, OutCanon, Act.Canon, Act.settle_canon, State.waitAct_canon, State.enterClause_canon, fetchAct_canon]

theorem execReservedOpcode_canon (word : BitVec 32) : OutCanon (execReservedOpcode word s) := by
  grind [execReservedOpcode, OutCanon, Act.Canon, Act.settle_canon, Wave.trapAct_canon, quietly_canon]

/-! ### Events of the package -/

theorem State.homeRead_canon (pa n fields : Nat) : (s.homeRead pa n fields).Canon := by
  grind [State.homeRead, State.Canon, State.settled_canon, State.l2WriteBack_canon, State.answer_canon, State.onPkg_canon, Pkg.recode_dram]

theorem State.homeYields_canon (pa n : Nat) : OptCanon (s.homeYields pa n) := by
  grind [State.homeYields, OptCanon, State.l2Leaves_canon]

theorem State.homeWrite_canon (pa fields : Nat) (bs : List Byte) : OptCanon (s.homeWrite pa fields bs) := by
  grind [State.homeWrite, State.Canon, OptCanon, map_canon, State.onPkg_canon, State.settled_canon, Pkg.mergeBlock_wf, State.homeYields_canon]

theorem State.serveAt_canon (x : Packet) (home : Nat) : OptCanon (s.serveAt x home) := by
  grind [State.serveAt, OptCanon, map_canon, State.serve_canon, State.homeYields_canon, State.l2WriteBack_canon]

omit hs in
theorem serveRouted_canon (x : Packet) {y : State × Option Nat} (hy : y.1.Canon) : OptCanon (serveRouted x y) := by
  unfold serveRouted
  grind [State.Canon, OptCanon, State.serveAt_canon]

theorem execHomeRequest_canon (src : Requester) (hint : BitVec 3) (pa : PagedAddr) (wr : Bool) (data : BitVec 64) :
    OutCanon (execHomeRequest src hint pa wr data s) := by
  grind [execHomeRequest, State.Canon, OutCanon, OptCanon, serveRouted_canon, State.sendTo_canon, quietly_canon, State.onPkg_canon,
    Pkg.vc3Move_dram]

theorem State.loseStranded_canon (md : Nat) : (s.loseStranded md).Canon := by
  grind [State.loseStranded, State.Canon, forEach_canon, State.onPkg_canon, Pkg.withdraw_dram, State.answer_canon]

theorem execLinkFailure_canon (l : FabricLink) : OutCanon (execLinkFailure l s) := by
  grind [execLinkFailure, State.Canon, OutCanon, quietly_canon, forEach_canon, State.onPkg_canon, Pkg.cut_dram, Pkg.vc3Move_dram,
    State.loseStranded_canon, State.raise_canon]

theorem execReroutedPacketReceipt_canon (k : BitVec 4) : OutCanon (execReroutedPacketReceipt k s) := by
  grind [execReroutedPacketReceipt, State.Canon, OutCanon, OptCanon, State.onPkg_canon, Pkg.vc3Move_dram, Pkg.onVc3_dram, Pkg.onDir_dram,
    State.respond_canon, serveRouted_canon, State.route_canon, quietly_canon]

theorem execBlockWriteBack_canon (pa : BitVec 46) : OutCanon (execBlockWriteBack pa s) := by
  grind [execBlockWriteBack, OutCanon, quietly_canon, State.l2WriteBack_canon]

theorem execBlockRead_canon (pa : BitVec 46) : OutCanon (execBlockRead pa s) := by
  grind [execBlockRead, OutCanon, getD_canon, OptCanon, quietly_canon, State.l2Ensure_canon]

theorem execMigrationWindowEnd_canon (md : BitVec 3) : OutCanon (execMigrationWindowEnd md s) :=
  State.onPkg_canon ((s.pkg.windowEnd_dram md.toNat).symm ▸ hs)

theorem execHomeBlockExchange_canon (md : BitVec 3) (lframe : BitVec 20) (blk : BitVec 8) : OutCanon (execHomeBlockExchange md lframe blk s) := by
  grind [execHomeBlockExchange, State.Canon, OutCanon, quietly_canon, State.onPkg_canon, Pkg.switch_dram, Pkg.exchange_wf]

theorem execHeartbeatTick_canon : OutCanon (execHeartbeatTick s) := hs

omit hs in
theorem State.cold_canon (s : State) (i : Image) : (s.cold i).Canon := State.reset_wf

omit hs in
theorem execColdReset_canon (s : State) : OutCanon (execColdReset s) := State.cold_canon _ _

theorem execSleepEntry_canon : OutCanon (execSleepEntry s) := by
  grind [execSleepEntry, OutCanon, quietly_canon, State.onTabs_canon]

theorem execSleepExit_canon : OutCanon (execSleepExit s) := by
  grind [execSleepExit, OutCanon, State.onTabs_canon, quietly_canon]

omit hs in
theorem execD3cold_canon (s : State) : OutCanon (execD3cold s) := State.cold_canon _ _

/-! ### Events of the memory system -/

theorem State.asWave_canon (wid : Nat) {f : State → State} (hf : ∀ t, t.Canon → (f t).Canon) : (s.asWave wid f).Canon := by
  grind [State.asWave, State.switchTo_canon]

theorem State.poisoned_canon (wid : Nat) (pc : Addr) (lanes : Word) (va : Nat) : (s.poisoned wid pc lanes va).Canon := by
  unfold State.poisoned
  grind [State.Canon, State.recodeAt_canon, State.supervisor_canon, State.supervisorW_canon, State.failChain_canon]

theorem execLoadReply_canon (wid k : Nat) : OutCanon (execLoadReply wid k s) := by
  unfold execLoadReply
  split
  · exact hs
  · split
    · exact hs
    · next w _ =>
      split
      · exact hs
      · next e _ =>
        have hb := State.bindLoad_canon hs w e
        split
        · next t vals h =>
          have hf := State.loadFits_canon (State.onAny_canon (h ▸ hb : (Bound.ok t vals).Canon) wid fun v => v.reply e vals) e
          split
          · next u h => exact (h ▸ hf : OptCanon (some u))
          · exact hs
        · exact hs
        · exact State.poisoned_canon hs _ _ _ _

theorem execStoreQueueDrain_canon (wid : Nat) : OutCanon (execStoreQueueDrain wid s) := by
  grind [execStoreQueueDrain, OutCanon, OptCanon, quietly_canon, State.drainOldest_canon, State.reap_canon]

theorem execWriteBufferPerform_canon (core : BitVec 7) (buf : BitVec 3) : OutCanon (execWriteBufferPerform core buf s) := by
  grind [execWriteBufferPerform, OutCanon, Performed.Canon, quietly_canon, State.feed_canon, State.performHead_canon, State.reap_canon,
    State.poisoned_canon]

theorem State.sliceAccess_canon (c pa va fields : Nat) (op : L2Req) (data : Nat) :
    OptCanon (s.sliceAccess c pa va fields op data) := by
  cases op with
  | read =>
    exact bind_canon (State.recordDrainOver_canon (State.l2Fill_canon hs _ _ _) _ _) fun t ht =>
      map_canon (State.fitEvery_canon ht) fun u hu => State.answer_canon hu _ _
  | write => exact bind_canon (State.toPoint_canon hs _ _ _) fun t ht => State.l2Put_canon ht _ _ _ _ _ _
  | writeBack => exact State.wb1_canon hs _ _ _
  | release =>
    exact bindPair_canon (State.releaseSteps_canon hs _ _) fun r hr => bind_canon (State.toPoint_canon hr _ _ _) fun t ht =>
      State.l2Put_canon ht _ _ _ _ _ _

theorem execL2SliceAccess_canon (core : BitVec 7) (pa : BitVec 46) (op : L2Req) (data : BitVec 64) :
    OutCanon (execL2SliceAccess core pa op data s) := by
  grind [execL2SliceAccess, OutCanon, getD_canon, OptCanon, quietly_canon, State.sliceAccess_canon]

theorem execPageWalkComplete_canon (wid : Nat) : OutCanon (execPageWalkComplete wid s) := by
  unfold execPageWalkComplete
  split
  · exact hs
  · split
    · next p rest _ =>
      have hw := State.walked_canon hs (p * 65536)
      generalize s.rootOk = root
      refine ite_outCanon hs (ite_outCanon ?_ trivial)
      split
      · exact State.onWave_canon (State.tlbFill_canon hw _ _) _ _
      · exact State.onWave_canon hw _ _
    · exact hs

theorem execRegionCommit_canon (rid : BitVec 6) : OutCanon (execRegionCommit rid s) := by
  grind [execRegionCommit, OutCanon, Act.Canon, quietly_canon, State.asWave_canon, Act.settle_canon, rcommitAct_canon]

/-! ### Graphs and launches -/

theorem State.report_canon (graph node code : Nat) : (s.report graph node code).Canon := hs

theorem State.uploadGraph_canon (val : BitVec 64) : (s.uploadGraph val).Canon := by
  grind [State.uploadGraph, EngRes.Canon, State.onHost_canon, State.engRead_canon, State.joinFault_canon, State.report_canon, State.onSched_canon,
    State.recodeAt_canon]

theorem State.writeGupload_canon (val : BitVec 64) : (s.writeGupload val).Canon := by
  grind [State.writeGupload, State.report_canon, State.uploadGraph_canon]

theorem execGuploadW_canon (val : BitVec 64) : OutCanon (execGuploadW val s) := by
  grind [execGuploadW, OutCanon, State.writeGupload_canon]

theorem State.resumeUpload_canon : s.resumeUpload.Canon := by
  grind [State.resumeUpload, State.uploadGraph_canon]

theorem State.writeGtrig_canon (val : BitVec 64) : (s.writeGtrig val).Canon := by
  grind [State.writeGtrig, State.report_canon, State.onSched_canon]

theorem execGtrigW_canon (val : BitVec 64) : OutCanon (execGtrigW val s) := by
  grind [execGtrigW, OutCanon, State.writeGtrig_canon]

theorem State.readPatches_canon (n va : Nat) : (s.readPatches n va).1.Canon := by
  induction n generalizing s va with
  | zero => exact hs
  | succ n ih => grind [State.readPatches, EngRes.Canon, State.engRead_canon]

theorem State.discardAll_canon : s.discardAll.Canon := by
  grind [State.discardAll, forEach_canon, State.discardClean_canon]

theorem State.abandonLaunch_canon (l : Launch) (node code : Nat) : (s.abandonLaunch l node code).Canon := hs

theorem State.patchLater_canon : s.patchLater.Canon := hs

theorem State.launchWaits_canon (tok : Nat) : (s.launchWaits tok).Canon := hs

theorem State.startLaunch_canon (l : Launch) : (s.startLaunch l).Canon := by
  grind [State.startLaunch, State.readPatches_canon, State.discardAll_canon, State.onSched_canon, State.abandonLaunch_canon, State.report_canon,
    State.onHost_canon, State.joinFault_canon, State.patchLater_canon, State.launchWaits_canon, State.recodeAt_canon]

theorem execLaunchStart_canon : OutCanon (execLaunchStart s) := by
  grind [execLaunchStart, OutCanon, State.startLaunch_canon, quietly_canon]

theorem State.addWave_canon (w : Wave) : (s.addWave w).Canon := hs

theorem State.placeWave_canon (blk : Nat) (b : Block) (entry spwait w : Nat) : (s.placeWave blk b entry spwait w).Canon := by
  grind [State.placeWave, State.addWave_canon, State.onBlk_canon, State.onSched_canon]

theorem State.placeBlock_canon (launch node card index core : Nat) : (s.placeBlock launch node card index core).Canon := by
  grind [State.placeBlock, getD_canon, forEach_canon, State.plainAcquire_canon, State.onSched_canon, State.placeWave_canon]

theorem State.freeFor_canon (launch node : Nat) : (s.freeFor launch node).Canon := hs

theorem State.takeCores_canon (cs : List Nat) : OptCanon (s.takeCores cs) := by
  grind [State.takeCores, OptCanon, foldlM_canon, State.idleCore_canon]

theorem State.readyCores_canon (cs : List Nat) (fuse : Bool) : OptCanon (s.readyCores cs fuse) := by
  grind [State.readyCores, OptCanon, bind_canon, State.takeCores_canon, State.setFuse_canon]

theorem State.launchCluster_canon (launch node card : Nat) : OptCanon (s.launchCluster launch node card) := by
  grind [State.launchCluster, OptCanon, map_canon, forEach_canon, State.freeFor_canon, State.placeBlock_canon, State.onCard_canon,
    State.readyCores_canon]

theorem State.launchMany_canon (launch node card n : Nat) : OptCanon (s.launchMany launch node card n) := by
  induction n generalizing s with
  | zero => exact hs
  | succ n ih => grind [State.launchMany, OptCanon, State.launchCluster_canon]

theorem State.launchNext_canon (c : Nat × Nat × Nat × CardRun) : OptCanon (s.launchNext c) := by
  grind [State.launchNext, OptCanon, State.launchMany_canon]

theorem State.placeNext_canon : SndCanon s.placeNext := by
  unfold State.placeNext
  split
  · generalize s.openCards = cs
    induction cs with
    | nil => trivial
    | cons c cs ih =>
      have hc := map_sndCanon (State.launchNext_canon hs c) (f := fun t => (cdGridbar c.2.2.1, t)) fun t ht => ht
      rw [List.findSome?_cons]
      split
      · next x h => exact (h ▸ hc : SndCanon (some x))
      · exact ih
  · trivial

theorem execClusterLaunch_canon : OutCanon (execClusterLaunch s) := by
  grind [execClusterLaunch, OutCanon, SndCanon, quietly_canon, State.placeNext_canon]

theorem execGangLaunch_canon : OutCanon (execGangLaunch s) := by
  grind [execGangLaunch, OutCanon, SndCanon, quietly_canon, State.placeNext_canon]

theorem State.releases_canon (scope : Nat) (cs : List Nat) : OptCanon (s.releases scope cs) := by
  grind [State.releases, OptCanon, foldlM_canon, State.plainRelease_canon]

theorem State.endLaunch_canon : OptCanon s.endLaunch := by
  grind [State.endLaunch, OptCanon, map_canon, foldl_canon, State.raise_canon, State.onHost_canon, State.onSched_canon, State.releases_canon]

theorem execCardComplete_canon (node : BitVec 10) : OutCanon (execCardComplete node s) := by
  grind [execCardComplete, OutCanon, bind_canon, OptCanon, quietly_canon, State.releases_canon, State.endLaunch_canon, State.onSched_canon]

theorem State.unfuse_canon : s.unfuse.Canon := by
  grind [State.unfuse, forEach_canon, getD_canon, OptCanon, State.setFuse_canon]

theorem State.placeLoose_canon (kind : WaveKind) (core slot entry : Nat) (card : Option (Nat × Nat)) (prio vregs spwait : Nat)
    (recs : List (List Word)) : (s.placeLoose kind core slot entry card prio vregs spwait recs).Canon := by
  grind [State.placeLoose, State.onCard_canon, State.onSched_canon, State.addWave_canon]

theorem execSpawnBinTimerExpiry_canon (core : BitVec 7) (bin : BitVec 2) : OutCanon (execSpawnBinTimerExpiry core bin s) := by
  grind [execSpawnBinTimerExpiry, OutCanon, quietly_canon, State.onCore_canon, State.passTo_canon]

theorem execSpawnBinLaunch_canon (core : BitVec 7) (bin : BitVec 2) : OutCanon (execSpawnBinLaunch core bin s) := by
  grind [execSpawnBinLaunch, OutCanon, OptCanon, State.idleCore_canon, State.placeLoose_canon, State.onCore_canon, quietly_canon]

theorem execTqTimerExpiry_canon (q : BitVec 6) : OutCanon (execTqTimerExpiry q s) := by
  grind [execTqTimerExpiry, OutCanon, quietly_canon, State.onQueue_canon, State.passTo_canon]

theorem execTqLaunch_canon (q : BitVec 6) (core : BitVec 7) : OutCanon (execTqLaunch q core s) := by
  grind [execTqLaunch, OutCanon, OptCanon, State.tidyQueue_canon, State.idleCore_canon, State.plainAcquire_canon, State.placeLoose_canon,
    State.onQueue_canon, quietly_canon]

theorem execTqRefill_canon (q : BitVec 6) : OutCanon (execTqRefill q s) := by
  grind [execTqRefill, OutCanon, quietly_canon, State.refill_canon]

theorem execTqRingWrite_canon (q : BitVec 6) : OutCanon (execTqRingWrite q s) := by
  grind [execTqRingWrite, OutCanon, quietly_canon, State.ringWrite_canon]

theorem execTqpopWake_canon (q : BitVec 6) : OutCanon (execTqpopWake q s) := by
  grind [execTqpopWake, OutCanon, quietly_canon, State.wakePop_canon]

/-! ### Class 6 -/

theorem csrrAct_canon (q : Bool) (d : BitVec 7) (n : BitVec 8) : (csrrAct q d n s).Canon := hs

theorem execCsrr_canon (q : Bool) (d : BitVec 7) (n : BitVec 8) : OutCanon (execCsrr q d n s) := by
  grind [execCsrr, OutCanon, Act.Canon, issue_canon, csrrAct_canon]

theorem execCsrw_canon (q wa : Bool) (a : BitVec 7) (n : BitVec 8) : OutCanon (execCsrw q wa a n s) := by
  grind [execCsrw, OutCanon, issueW_canon]

theorem execTrap_canon (code : BitVec 7) : OutCanon (execTrap code s) := by
  unfold execTrap
  refine issue_canon hs _ (fun _ _ => ?_)
  trivial

theorem tfenceAct_canon : (tfenceAct s).Canon := by
  grind [tfenceAct, Act.Canon, Wave.trapAct_canon]

theorem execTfence_canon : OutCanon (execTfence s) := by
  grind [execTfence, OutCanon, Act.Canon, issue_canon, tfenceAct_canon]

theorem rftAct_canon : (rftAct s).Canon := by
  grind [rftAct, Act.Canon, State.resumeAct_canon, State.onW_canon]

theorem execRft_canon : OutCanon (execRft s) := by
  grind [execRft, OutCanon, Act.Canon, issue_canon, rftAct_canon]

theorem resumefAct_canon : (resumefAct s).Canon := by
  grind [resumefAct, Act.Canon, State.onW_canon, State.resumeAct_canon]

theorem execResumef_canon : OutCanon (execResumef s) := by
  grind [execResumef, OutCanon, Act.Canon, issue_canon, resumefAct_canon]

theorem execHbeat_canon (d : BitVec 6) : OutCanon (execHbeat d s) := by
  unfold execHbeat
  refine issue_canon hs _ (fun _ ht => ?_)
  exact State.onW_canon ht _

theorem execClock_canon (d : BitVec 6) : OutCanon (execClock d s) := by
  unfold execClock
  refine issue_canon hs _ (fun _ ht => ?_)
  exact State.onW_canon ht _

theorem execPerfc_canon (d : BitVec 6) (n : BitVec 8) : OutCanon (execPerfc d n s) := by
  grind [execPerfc, OutCanon, issueW_canon]

theorem State.enterBkq_canon (e : Nat × Addr × Nat) : (s.enterBkq e).Canon := by
  grind [State.enterBkq, State.onHost_canon, State.raise_canon]

theorem bkptAct_canon : (bkptAct s).Canon := by
  grind [bkptAct, Act.Canon, State.onW_canon, State.enterBkq_canon]

theorem execBkpt_canon : OutCanon (execBkpt s) := by
  grind [execBkpt, OutCanon, Act.Canon, issue_canon, bkptAct_canon]

/-! ### The host interface -/

theorem State.setHo_canon (n : Nat) (e : HoEnt) : (s.setHo n e).Canon := hs

theorem State.cmdOver_canon (err : Bool) : (s.cmdOver err).Canon := hs

theorem State.serviceRange_canon (n : Nat) : (s.serviceRange n).Canon := by
  grind [State.serviceRange, State.service_canon]

theorem State.toDevice_canon (n : Nat) (e : HoEnt) : OptCanon (s.toDevice n e) := by
  grind [State.toDevice, OptCanon, forEach_canon, map_canon, foldlM_canon, State.onCore_canon, State.serviceRange_canon, State.setHo_canon,
    State.l2Drop_canon, State.recordLeaves_canon]

theorem State.flushRange_canon (p : Nat → Bool) : OptCanon (s.flushRange p) := by
  grind [State.flushRange, OptCanon, bind_canon, foldlM_canon, map_canon, State.l1Discard_canon, State.wbTry_canon, State.l2Leaves_canon]

theorem State.shootDown_canon (val : Nat) : (s.shootDown val).Canon := by
  grind [State.shootDown, State.tlbDrop_canon]

theorem State.serveCmds_canon (n : Nat) : (s.serveCmds n).Canon := by
  induction n generalizing s with
  | zero => exact hs
  | succ n ih => grind [State.serveCmds, OptCanon, State.cmdOver_canon, State.toDevice_canon, State.setHo_canon, State.shootDown_canon]

theorem State.retryCmd_canon : s.retryCmd.Canon := by
  grind [State.retryCmd, State.serveCmds_canon]

theorem State.command_canon (c : Cmd) : (s.command c).Canon := by
  grind [State.command, State.onHost_canon, State.serveCmds_canon]

theorem execKickTodev_canon (n : BitVec 8) : OutCanon (execKickTodev n s) := by
  grind [execKickTodev, OutCanon, State.command_canon]

theorem execKickTohost_canon (n : BitVec 8) : OutCanon (execKickTohost n s) := by
  grind [execKickTohost, OutCanon, State.command_canon]

theorem execShoot_canon (val : BitVec 64) : OutCanon (execShoot val s) := by
  grind [execShoot, OutCanon, State.command_canon]

theorem execKickTohostComplete_canon : OutCanon (execKickTohostComplete s) := by
  grind [execKickTohostComplete, OutCanon, OptCanon, quietly_canon, State.flushRange_canon, State.serveCmds_canon, State.cmdOver_canon,
    State.setHo_canon]

theorem execShootdownComplete_canon : OutCanon (execShootdownComplete s) := by
  grind [execShootdownComplete, OutCanon, quietly_canon, State.serveCmds_canon, State.cmdOver_canon, State.shootDown_canon]

theorem execCmdstatRead_canon : OutCanon (execCmdstatRead s) := hs

theorem State.jobBits_canon (val : BitVec 64) : (s.jobBits val).Canon := hs

theorem State.startJob_canon (val : BitVec 64) : (s.startJob val).Canon := by
  grind [State.startJob, State.Canon, State.jobBits_canon, State.onHost_canon, State.onPkg_canon, State.onTabs_canon]

theorem execJobRun_canon (val : BitVec 64) : OutCanon (execJobRun val s) := by
  grind [execJobRun, OutCanon, State.startJob_canon]

theorem State.writeBackAll_canon : s.writeBackAll.Canon := by
  grind [State.writeBackAll, forEach_canon, getD_canon, OptCanon, State.wbTry_canon, State.l2WriteBack_canon]

theorem State.clearJob_canon : s.clearJob.Canon := hs

theorem State.endJob_canon (val : BitVec 64) : (s.endJob val).Canon := by
  grind [State.endJob, State.clearJob_canon, State.writeBackAll_canon, State.stopJob_canon, State.jobBits_canon]

theorem execJobStop_canon (val : BitVec 64) : OutCanon (execJobStop val s) := by
  grind [execJobStop, OutCanon, State.endJob_canon]

theorem execFaultqPop_canon (wide : Bool) : OutCanon (execFaultqPop wide s) := by
  grind [execFaultqPop, OutCanon, State.onHost_canon, State.answer_canon, State.fillFaultq_canon]

theorem State.fillBkq_canon : s.fillBkq.Canon := by
  grind [State.fillBkq, State.enterBkq_canon, State.onHost_canon]

theorem execBkqPop_canon (wide : Bool) : OutCanon (execBkqPop wide s) := by
  grind [execBkqPop, OutCanon, State.onHost_canon, State.answer_canon, State.fillBkq_canon]

theorem execBkrel_canon (val : BitVec 32) : OutCanon (execBkrel val s) := by
  grind [execBkrel, OutCanon, quietly_canon, State.onHost_canon, State.onWave_canon]

theorem State.hdmWalked_canon (hdm : Nat) : (s.hdmWalked hdm).Canon := by
  grind [State.hdmWalked, State.walked_canon]

theorem execHostMemRead_canon (hdm : BitVec 29) (n : BitVec 7) : OutCanon (execHostMemRead hdm n s) := by
  grind [execHostMemRead, OutCanon, State.answer_canon, State.hdmWalked_canon, State.homeRead_canon]

theorem execHostMemWrite_canon (hdm : BitVec 29) (n : BitVec 4) (data : BitVec 64) : OutCanon (execHostMemWrite hdm n data s) := by
  grind [execHostMemWrite, OutCanon, OptCanon, State.hdmWalked_canon, State.homeWrite_canon, quietly_canon]

theorem State.peerServe_canon (pa fields : Nat) (op : PeerOp) (n data : Nat) : OptCanon (s.peerServe pa fields op n data) := by
  unfold State.peerServe
  grind [State.Canon, OptCanon, State.homeRead_canon, State.homeWrite_canon]

theorem State.peerTry_canon (r : PeerReq) : OptCanon (s.peerTry r) := by
  grind [State.peerTry, OptCanon, State.joinFault_canon, State.onTabs_canon, State.peerServe_canon, State.answer_canon, State.recodeAt_canon]

theorem execPeerRequest_canon (idx : BitVec 8) (peer : BitVec 10) (off : BitVec 48) (op : PeerOp) (data : PeerData) :
    OutCanon (execPeerRequest idx peer off op data s) := by
  grind [execPeerRequest, OutCanon, OptCanon, State.peerTry_canon, quietly_canon, State.answer_canon]

theorem State.servePeers_canon : s.servePeers.Canon := by
  grind [State.servePeers, forEach_canon, getD_canon, OptCanon, State.peerTry_canon, State.onTabs_canon]

theorem State.faultDone_canon (tok : BitVec 64) : (s.faultDone tok).Canon := by
  grind [State.faultDone, State.servePeers_canon, State.resumeUpload_canon, State.service_canon]

theorem execFaultdone_canon (token : BitVec 64) : OutCanon (execFaultdone token s) := by
  grind [execFaultdone, OutCanon, State.faultDone_canon]

theorem State.writeHotab_canon (n : Nat) (val : BitVec 64) : (s.writeHotab n val).Canon := by
  grind [State.writeHotab, State.setHo_canon]

theorem execHotabWrite_canon (n : BitVec 8) (val : BitVec 64) : OutCanon (execHotabWrite n val s) := by
  grind [execHotabWrite, OutCanon, State.writeHotab_canon]

theorem State.enableQueue_canon (q : Nat) : (s.enableQueue q).Canon := by
  grind [State.enableQueue, State.onQueue_canon]

theorem State.disableQueue_canon (q : Nat) : (s.disableQueue q).Canon := by
  grind [State.disableQueue, State.wakePops_canon, State.onQueue_canon]

theorem execTqcfgEnable_canon (q : BitVec 6) : OutCanon (execTqcfgEnable q s) := by
  grind [execTqcfgEnable, OutCanon, State.enableQueue_canon]

theorem execTqcfgDisable_canon (q : BitVec 6) : OutCanon (execTqcfgDisable q s) := by
  grind [execTqcfgDisable, OutCanon, State.disableQueue_canon]

theorem State.writeTqcfg_canon (q o n v : Nat) : (s.writeTqcfg q o n v).Canon := by
  unfold State.writeTqcfg
  simp only
  repeat' split
  all_goals grind [State.disableQueue_canon, State.enableQueue_canon, State.onQueue_canon]

theorem State.highWrite_canon (off : Nat) (val : BitVec 64) : (s.highWrite off val).Canon := by
  grind [State.highWrite, State.writeGtrig_canon, State.writeGupload_canon, State.command_canon, State.faultDone_canon]

theorem State.writeJobctl_canon (val : BitVec 64) : (s.writeJobctl val).Canon := by
  grind [State.writeJobctl, State.endJob_canon, State.startJob_canon, State.jobBits_canon]

theorem State.writeIdle_canon (off n : Nat) (val : BitVec 64) : (s.writeIdle off n val).Canon := by
  grind [State.writeIdle, State.onHost_canon]

theorem State.hotabBytes_canon (off n v : Nat) : (s.hotabBytes off n v).Canon := by
  grind [State.hotabBytes, State.writeHotab_canon]

theorem State.mmioWrite_canon (off n : Nat) (val : BitVec 64) : (s.mmioWrite off n val).Canon := by
  unfold State.mmioWrite
  refine ite_canon hs (ite_canon ?_ (ite_canon ?_ ?_))
  · exact ite_canon (State.highWrite_canon hs _ _) (ite_canon (State.highWrite_canon hs _ _) hs)
  · exact ite_canon (State.writeJobctl_canon hs _) (ite_canon (State.writeJobctl_canon hs _) (State.onHost_canon hs _))
  · refine ite_canon (State.writeIdle_canon hs _ _ _) (ite_canon (State.onHost_canon hs _) (ite_canon (State.hotabBytes_canon hs _ _ _) ?_))
    refine ite_canon (State.writeTqcfg_canon hs _ _ _ _) (ite_canon (State.onTabs_canon hs _) (ite_canon (State.onTabs_canon hs _) ?_))
    exact ite_canon (State.onTabs_canon hs _) (ite_canon (State.onTabs_canon hs _) hs)

theorem execRegisterWrite_canon (off : BitVec 16) (wide : Bool) (val : BitVec 64) : OutCanon (execRegisterWrite off wide val s) := by
  grind [execRegisterWrite, OutCanon, State.mmioWrite_canon]

theorem execLowHalfWrite_canon (off : BitVec 16) (val : BitVec 32) : OutCanon (execLowHalfWrite off val s) := hs

theorem State.mboxDone_canon (cmd slot status : Nat) (buf : List Byte) : (s.mboxDone cmd slot status buf).Canon := hs

theorem execGetcert_canon : OutCanon (execGetcert s) := hs

theorem execAttest_canon : OutCanon (execAttest s) := by
  grind [execAttest, OutCanon, State.drawBytes_canon, State.mboxDone_canon]

theorem execKeyload_canon (slot : BitVec 8) : OutCanon (execKeyload slot s) := by
  grind [execKeyload, State.Canon, OutCanon, State.mboxDone_canon, State.onPkg_canon]

theorem execKeyerase_canon (slot : BitVec 8) : OutCanon (execKeyerase slot s) := by
  grind [execKeyerase, State.Canon, OutCanon, State.mboxDone_canon, State.onPkg_canon]

theorem execUnknownCommand_canon (cmd : BitVec 16) : OutCanon (execUnknownCommand cmd s) := by
  grind [execUnknownCommand, OutCanon, quietly_canon, State.mboxDone_canon]

theorem State.setMon_canon (k : Nat) (x : Word) : (s.setMon k x).Canon := hs

theorem State.alarmLog_canon (src : BitVec 2) : (s.alarmLog src).Canon := hs

theorem State.alarmHalt_canon (src : BitVec 2) : (s.alarmHalt src).Canon := by
  grind [State.alarmHalt, State.onTabs_canon, State.abandon_canon, State.alarmLog_canon]

theorem State.alarmErase_canon (src : BitVec 2) : (s.alarmErase src).Canon := by
  grind [State.alarmErase, State.Canon, State.onPkg_canon, State.onTabs_canon, State.alarmHalt_canon]

theorem State.alarm_canon (src : BitVec 2) : (s.alarm src).Canon := by
  grind [State.alarm, State.alarmLog_canon, State.alarmHalt_canon, State.alarmErase_canon]

theorem execAlarmLog_canon (src : BitVec 2) : OutCanon (execAlarmLog src s) := by
  grind [execAlarmLog, OutCanon, State.alarmLog_canon, quietly_canon]

theorem execAlarmHalt_canon (src : BitVec 2) : OutCanon (execAlarmHalt src s) := by
  grind [execAlarmHalt, OutCanon, State.alarmHalt_canon, quietly_canon]

theorem execAlarmErase_canon (src : BitVec 2) : OutCanon (execAlarmErase src s) := by
  grind [execAlarmErase, OutCanon, State.alarmErase_canon, quietly_canon]

theorem execTemperatureThreshold_canon (word : BitVec 6) (val : BitVec 32) : OutCanon (execTemperatureThreshold word val s) := by
  grind [execTemperatureThreshold, OutCanon, State.setMon_canon, State.raise_canon, State.alarm_canon, quietly_canon]

theorem execMonAlarmRead_canon : OutCanon (execMonAlarmRead s) := hs

/-! ### Events of the recipe unit -/

theorem State.postAgain_canon (core : Nat) (t : TileId) : (s.postAgain core t).Canon := by
  grind [State.postAgain, forEach_canon, State.postFor_canon]

theorem execRecipePostRetry_canon (core : BitVec 7) : OutCanon (execRecipePostRetry core s) := by
  grind [execRecipePostRetry, OutCanon, forEach_canon, quietly_canon, State.onCore_canon, State.passTo_canon, State.postAgain_canon]

theorem State.beginChain_canon (e : RecipeEnt) (depth : Nat) (slots : List (Nat × Nat)) : (s.beginChain e depth slots).Canon := by
  grind [State.beginChain, forEach_canon, State.onDie_canon, State.onCore_canon, State.kindle_canon]

theorem execChainBegin_canon : OutCanon (execChainBegin s) := by
  unfold execChainBegin
  refine ite_outCanon ?_ hs
  split
  · exact hs
  · next e _ =>
    refine ite_outCanon (State.onDie_canon hs _) ?_
    split
    · exact State.onDie_canon hs _
    · next depth _ =>
      split
      · exact hs
      · next slots _ =>
        have hi := iteNone_canon (p := s.pinsFree e.tile = true) (State.idleCore_canon hs (slots.headD (0, 0)).1)
        split
        · next t h => exact State.beginChain_canon (h ▸ hi : OptCanon (some t)) _ _ _
        · exact hs

theorem State.nest_canon (wid n k : Nat) (t : TileId) : (s.nest wid n k t).Canon := by
  grind [State.nest, State.failMore_canon, State.onWave_canon, State.kindle_canon]

theorem execNestedRecipeStart_canon (wid : Nat) : OutCanon (execNestedRecipeStart wid s) := by
  unfold execNestedRecipeStart
  split
  · exact hs
  · split
    · next n k ts _ _ _ =>
      dsimp only
      split
      · next c _ _ =>
        have hi (p : Prop) [Decidable p] := iteNone_canon (p := p) (State.idleCore_canon hs (c.slots.getD k (0, 0)).1)
        split
        · next u h => exact State.nest_canon (h ▸ hi _ : OptCanon (some u)) _ _ _ _
        · exact hs
      · exact hs
    · exact hs

theorem State.acquireWaiters_canon (t : TileId) : (s.acquireWaiters t).Canon := by
  grind [State.acquireWaiters, forEach_canon, State.plainAcquire_canon]

theorem State.rebuilt_canon (c : Nat) (t : TileId) : OptCanon (s.rebuilt c t) := by
  grind [State.rebuilt, OptCanon, bind_canon, State.wbTry_canon, State.plainRelease_canon]

theorem execTileRebuildComplete_canon (wid : Nat) : OutCanon (execTileRebuildComplete wid s) := by
  grind [execTileRebuildComplete, OutCanon, OptCanon, quietly_canon, State.rebuilt_canon, State.acquireWaiters_canon, State.onTile_canon,
    State.endKindling_canon, State.endChain_canon, State.onDie_canon]

/-! ### Preemption -/

theorem State.stopWave_canon (wid : Nat) : (s.stopWave wid).Canon := by
  grind [State.stopWave, State.onQueue_canon, State.onWave_canon]

theorem State.beginEvict_canon (v : Victim) : (s.beginEvict v).Canon := by
  unfold State.beginEvict
  grind [State.Canon, forEach_canon, State.onDie_canon, State.stopWave_canon]

theorem execEvictionDecision_canon : OutCanon (execEvictionDecision s) := by
  grind [execEvictionDecision, OutCanon, map_canon, forEach_canon, OptCanon, State.launchNext_canon, quietly_canon, State.onSched_canon,
    State.beginEvict_canon]

theorem State.saveWave_canon (w : Wave) (stop : Nat) : OptCanon (s.saveWave w stop) :=
  mapOther_canon fun place => State.storeImage_canon
    (State.onCore_canon (State.onDie_canon (State.dropWave_canon (State.unrequest_canon hs _ _) _) _) _ _) place _

theorem State.unsave_canon (unit : Nat) : (s.unsave unit).Canon := hs

theorem execWaveStop_canon (wid : Nat) : OutCanon (execWaveStop wid s) := by
  unfold execWaveStop
  split
  · exact ite_outCanon (State.unsave_canon hs _) hs
  · next w _ =>
    refine ite_outCanon ?_ hs
    have hsave := bindOther_canon (o := s.stopPoint w) (f := fun n => s.saveWave w n) fun n => State.saveWave_canon hs w n
    split
    · next t h => exact (h ▸ hsave : OptCanon (some t))
    · exact hs

theorem State.saveBlock_canon (k : Nat) (b : Block) (u : SavedUnit) : OptCanon (s.saveBlock k b u) :=
  mapOther_canon fun place => State.storeImage_canon (State.onDie_canon (State.onBlk_canon hs _ _) _) place _

theorem execBlockImageWrite_canon (blk : Nat) : OutCanon (execBlockImageWrite blk s) := by
  grind [execBlockImageWrite, OutCanon, OptCanon, quietly_canon, State.unsave_canon, State.saveBlock_canon]

theorem State.restoreWave_canon (x : SavedWave) (slot : Nat) : (s.restoreWave x slot).Canon := by
  grind [State.restoreWave, State.onCore_canon, State.addWave_canon]

theorem State.restoreBlock_canon (u : SavedUnit) (k : Nat) (b : Block) : (s.restoreBlock u k b).Canon := by
  grind [State.restoreBlock, getD_canon, forEach_canon, State.onBlk_canon, State.unsave_canon, State.restoreWave_canon]

theorem State.restored_canon (u : SavedUnit) : SndCanon (s.restored u) := by
  unfold State.restored
  split
  · next k _ =>
    split
    · trivial
    · next b _ =>
      dsimp only
      split
      · exact map_sndCanon (State.setFuse_canon hs _ _) fun t ht => State.restoreBlock_canon ht u k b
      · trivial
  · exact mapOther_sndCanon fun slot => State.restoreWave_canon (State.unsave_canon hs _) _ slot
  · trivial

theorem execWaveRestore_canon (unit : Nat) : OutCanon (execWaveRestore unit s) := by
  unfold execWaveRestore
  split
  · exact hs
  · next u _ =>
    have hu := bind_sndCanon (State.idleCore_canon hs u.core) (f := fun t => t.restored u) fun t ht => State.restored_canon ht u
    split
    · exact hs
    · next e =>
      split
      · exact hs
      · exact (e ▸ hu :)

/-! ### Class 0 -/

theorem alu2_canon (occ : Nat) (f : F3) (g : Word → Word → Word) : OutCanon (alu2 occ f g s) := by
  grind [alu2, OutCanon, issueW_canon]

theorem alu1_canon (u : U3) (g : Word → Word) : OutCanon (alu1 u g s) := by
  grind [alu1, OutCanon, issueW_canon]

theorem alu1Sat_canon (u : U3) (g : Int → Int) : OutCanon (alu1Sat u g s) := by
  grind [alu1Sat, OutCanon, issueW_canon]

theorem execIadd_canon (f : F3) : OutCanon (execIadd f s) := by
  grind [execIadd, OutCanon, alu2_canon]

theorem execIsub_canon (f : F3) : OutCanon (execIsub f s) := by
  grind [execIsub, OutCanon, alu2_canon]

theorem execImul_canon (f : F3) : OutCanon (execImul f s) := by
  grind [execImul, OutCanon, alu2_canon]

theorem execImulh_canon (f : F3) : OutCanon (execImulh f s) := by
  grind [execImulh, OutCanon, alu2_canon]

theorem execImad_canon (f : F3) : OutCanon (execImad f s) := by
  grind [execImad, OutCanon, issueW_canon]

theorem execImin_canon (f : F3) : OutCanon (execImin f s) := by
  grind [execImin, OutCanon, alu2_canon]

theorem execImax_canon (f : F3) : OutCanon (execImax f s) := by
  grind [execImax, OutCanon, alu2_canon]

theorem execUmin_canon (f : F3) : OutCanon (execUmin f s) := by
  grind [execUmin, OutCanon, alu2_canon]

theorem execUmax_canon (f : F3) : OutCanon (execUmax f s) := by
  grind [execUmax, OutCanon, alu2_canon]

theorem execAnd_canon (f : F3) : OutCanon (execAnd f s) := by
  grind [execAnd, OutCanon, alu2_canon]

theorem execOr_canon (f : F3) : OutCanon (execOr f s) := by
  grind [execOr, OutCanon, alu2_canon]

theorem execXor_canon (f : F3) : OutCanon (execXor f s) := by
  grind [execXor, OutCanon, alu2_canon]

theorem execAndn_canon (f : F3) : OutCanon (execAndn f s) := by
  grind [execAndn, OutCanon, alu2_canon]

theorem execShl_canon (f : F3) : OutCanon (execShl f s) := by
  grind [execShl, OutCanon, alu2_canon]

theorem execShr_canon (f : F3) : OutCanon (execShr f s) := by
  grind [execShr, OutCanon, alu2_canon]

theorem execSar_canon (f : F3) : OutCanon (execSar f s) := by
  grind [execSar, OutCanon, alu2_canon]

theorem execIadds_canon (f : F3) : OutCanon (execIadds f s) := by
  grind [execIadds, OutCanon, issueW_canon]

theorem execPopc_canon (u : U3) : OutCanon (execPopc u s) := by
  grind [execPopc, OutCanon, alu1_canon]

theorem execClz_canon (u : U3) : OutCanon (execClz u s) := by
  grind [execClz, OutCanon, alu1_canon]

theorem execCtz_canon (u : U3) : OutCanon (execCtz u s) := by
  grind [execCtz, OutCanon, alu1_canon]

theorem execBrev_canon (u : U3) : OutCanon (execBrev u s) := by
  grind [execBrev, OutCanon, alu1_canon]

theorem execMov_canon (u : U3) : OutCanon (execMov u s) := by
  grind [execMov, OutCanon, alu1_canon]

theorem execIabs_canon (u : U3) : OutCanon (execIabs u s) := by
  grind [execIabs, OutCanon, alu1Sat_canon]

theorem execIneg_canon (u : U3) : OutCanon (execIneg u s) := by
  grind [execIneg, OutCanon, alu1Sat_canon]

theorem execIaddi_canon (f : FI) : OutCanon (execIaddi f s) := by
  grind [execIaddi, OutCanon, issueW_canon]

theorem execMovi_canon (d : BitVec 7) (imm : BitVec 32) : OutCanon (execMovi d imm s) := by
  grind [execMovi, OutCanon, issueW_canon]

theorem execBfe_canon (u : U3) (sx : Bool) (lenm1 pos : BitVec 5) : OutCanon (execBfe u sx lenm1 pos s) := by
  grind [execBfe, OutCanon, alu1_canon]

theorem execBfi_canon (f : F3) (lenm1 pos : BitVec 5) : OutCanon (execBfi f lenm1 pos s) := by
  grind [execBfi, OutCanon, alu2_canon]

theorem execLea_canon (f : F3) (off : BitVec 16) (sx : Bool) (sh : BitVec 3) : OutCanon (execLea f off sx sh s) := by
  grind [execLea, OutCanon, issueW_canon]

theorem execIcmp_canon (f : F3) : OutCanon (execIcmp f s) := by
  grind [execIcmp, OutCanon, issueW_canon]

theorem execSel_canon (f : F3) (neg : Bool) (pidx : BitVec 3) : OutCanon (execSel f neg pidx s) := by
  grind [execSel, OutCanon, issueW_canon]

/-! ### Class 1 -/

theorem flt2_canon (f : F3) (g : RMode → Word → Word → Nat × Flags) : OutCanon (flt2 f g s) := by
  grind [flt2, OutCanon, issueW_canon]

theorem execFadd_canon (f : F3) : OutCanon (execFadd f s) := by
  grind [execFadd, OutCanon, flt2_canon]

theorem execFsub_canon (f : F3) : OutCanon (execFsub f s) := by
  grind [execFsub, OutCanon, flt2_canon]

theorem execFmul_canon (f : F3) : OutCanon (execFmul f s) := by
  grind [execFmul, OutCanon, flt2_canon]

theorem execFmin_canon (f : F3) : OutCanon (execFmin f s) := by
  grind [execFmin, OutCanon, flt2_canon]

theorem execFmax_canon (f : F3) : OutCanon (execFmax f s) := by
  grind [execFmax, OutCanon, flt2_canon]

theorem execFfma_canon (f : F3) : OutCanon (execFfma f s) := by
  grind [execFfma, OutCanon, issueW_canon]

theorem execFfma3_canon (f : F3) (wc : Bool) (c : BitVec 7) : OutCanon (execFfma3 f wc c s) := by
  grind [execFfma3, OutCanon, issueW_canon]

theorem execFcmp_canon (f : F3) : OutCanon (execFcmp f s) := by
  grind [execFcmp, OutCanon, issueW_canon]

theorem fltFun_canon (fn : FFun) (u : U3) : OutCanon (fltFun fn u s) := by
  grind [fltFun, OutCanon, issueW_canon]

theorem execFrcp_canon (u : U3) : OutCanon (execFrcp u s) := by
  grind [execFrcp, OutCanon, fltFun_canon]

theorem execFrsq_canon (u : U3) : OutCanon (execFrsq u s) := by
  grind [execFrsq, OutCanon, fltFun_canon]

theorem execFsqrt_canon (u : U3) : OutCanon (execFsqrt u s) := by
  grind [execFsqrt, OutCanon, fltFun_canon]

theorem execFexp2_canon (u : U3) : OutCanon (execFexp2 u s) := by
  grind [execFexp2, OutCanon, fltFun_canon]

theorem execFlog2_canon (u : U3) : OutCanon (execFlog2 u s) := by
  grind [execFlog2, OutCanon, fltFun_canon]

theorem execFtanh_canon (u : U3) : OutCanon (execFtanh u s) := by
  grind [execFtanh, OutCanon, fltFun_canon]

theorem execFcvt_canon (f : FC) : OutCanon (execFcvt f s) := by
  grind [execFcvt, OutCanon, issueW_canon]

theorem execDcvt_canon (f : FC) : OutCanon (execDcvt f s) := by
  grind [execDcvt, OutCanon, issueW_canon]

theorem packed_canon (fm : FFmt) (f : F3) : OutCanon (packed fm f s) := by
  grind [packed, OutCanon, issueW_canon]

theorem execHfma2_canon (f : F3) : OutCanon (execHfma2 f s) := by
  grind [execHfma2, OutCanon, packed_canon]

theorem execBfma2_canon (f : F3) : OutCanon (execBfma2 f s) := by
  grind [execBfma2, OutCanon, packed_canon]

theorem dbl_canon (f : F3) (g : RMode → FVal → FVal → FVal → Nat × Flags) : OutCanon (dbl f g s) := by
  grind [dbl, OutCanon, issueW_canon]

theorem execDadd_canon (f : F3) : OutCanon (execDadd f s) := by
  grind [execDadd, OutCanon, dbl_canon]

theorem execDmul_canon (f : F3) : OutCanon (execDmul f s) := by
  grind [execDmul, OutCanon, dbl_canon]

theorem execDfma_canon (f : F3) : OutCanon (execDfma f s) := by
  grind [execDfma, OutCanon, dbl_canon]

theorem execVote_canon (d : BitVec 6) (wa : Bool) (a : BitVec 7) (mode : BitVec 2) : OutCanon (execVote d wa a mode s) := by
  grind [execVote, OutCanon, issueW_canon]

theorem execShfl_canon (f : F3) (wcode : BitVec 3) (mode : BitVec 2) (useb : Bool) (imm : BitVec 5) :
    OutCanon (execShfl f wcode mode useb imm s) := by
  grind [execShfl, OutCanon, issueW_canon]

theorem execRedx_canon (f : F3) (sdst : Bool) (rop : BitVec 4) : OutCanon (execRedx f sdst rop s) := by
  grind [execRedx, OutCanon, issueW_canon]

/-! ### Every instruction and event -/

theorem exec_canon (i : Instr) : OutCanon (exec i s) := by
  cases i with
  | iadd f => exact execIadd_canon hs f
  | isub f => exact execIsub_canon hs f
  | imul f => exact execImul_canon hs f
  | imulh f => exact execImulh_canon hs f
  | imad f => exact execImad_canon hs f
  | imin f => exact execImin_canon hs f
  | imax f => exact execImax_canon hs f
  | umin f => exact execUmin_canon hs f
  | umax f => exact execUmax_canon hs f
  | and f => exact execAnd_canon hs f
  | or f => exact execOr_canon hs f
  | xor f => exact execXor_canon hs f
  | andn f => exact execAndn_canon hs f
  | shl f => exact execShl_canon hs f
  | shr f => exact execShr_canon hs f
  | sar f => exact execSar_canon hs f
  | popc u => exact execPopc_canon hs u
  | clz u => exact execClz_canon hs u
  | ctz u => exact execCtz_canon hs u
  | brev u => exact execBrev_canon hs u
  | bfe u sx lenm1 pos => exact execBfe_canon hs u sx lenm1 pos
  | bfi f lenm1 pos => exact execBfi_canon hs f lenm1 pos
  | icmp f => exact execIcmp_canon hs f
  | sel f neg pidx => exact execSel_canon hs f neg pidx
  | mov u => exact execMov_canon hs u
  | movi d imm => exact execMovi_canon hs d imm
  | iaddi f => exact execIaddi_canon hs f
  | lea f off sx sh => exact execLea_canon hs f off sx sh
  | iadds f => exact execIadds_canon hs f
  | iabs u => exact execIabs_canon hs u
  | ineg u => exact execIneg_canon hs u
  | fadd f => exact execFadd_canon hs f
  | fsub f => exact execFsub_canon hs f
  | fmul f => exact execFmul_canon hs f
  | ffma f => exact execFfma_canon hs f
  | ffma3 f wc c => exact execFfma3_canon hs f wc c
  | fmin f => exact execFmin_canon hs f
  | fmax f => exact execFmax_canon hs f
  | fcmp f => exact execFcmp_canon hs f
  | frcp u => exact execFrcp_canon hs u
  | frsq u => exact execFrsq_canon hs u
  | fsqrt u => exact execFsqrt_canon hs u
  | fexp2 u => exact execFexp2_canon hs u
  | flog2 u => exact execFlog2_canon hs u
  | ftanh u => exact execFtanh_canon hs u
  | fcvt f => exact execFcvt_canon hs f
  | hfma2 f => exact execHfma2_canon hs f
  | bfma2 f => exact execBfma2_canon hs f
  | dadd f => exact execDadd_canon hs f
  | dmul f => exact execDmul_canon hs f
  | dfma f => exact execDfma_canon hs f
  | dcvt f => exact execDcvt_canon hs f
  | vote d wa a mode => exact execVote_canon hs d wa a mode
  | shfl f wcode mode useb imm => exact execShfl_canon hs f wcode mode useb imm
  | redx f sdst rop => exact execRedx_canon hs f sdst rop
  | nop => exact execNop_canon hs
  | smov sd sa => exact execSmov_canon hs sd sa
  | smovi d imm => exact execSmovi_canon hs d imm
  | sadd f => exact execSadd_canon hs f
  | ssub f => exact execSsub_canon hs f
  | smul f => exact execSmul_canon hs f
  | sand f => exact execSand_canon hs f
  | sor f => exact execSor_canon hs f
  | sxor f => exact execSxor_canon hs f
  | sshl f => exact execSshl_canon hs f
  | sshr f => exact execSshr_canon hs f
  | scmp pd sa sb rel => exact execScmp_canon hs pd sa sb rel
  | s2v d wb b => exact execS2v_canon hs d wb b
  | v2s d wa a k => exact execV2s_canon hs d wa a k
  | bra toff => exact execBra_canon hs toff
  | brc neg pidx toff roff => exact execBrc_canon hs neg pidx toff roff
  | brk level => exact execBrk_canon hs level
  | jmpi wa a roff => exact execJmpi_canon hs wa a roff
  | call toff => exact execCall_canon hs toff
  | ret => exact execRet_canon hs
  | exit => exact execExit_canon hs
  | bar level mode num => exact execBar_canon hs level mode num
  | spawn wa a wb b => exact execSpawn_canon hs wa a wb b
  | tqpush d wa a wb b => exact execTqpush_canon hs d wa a wb b
  | tqpop d nb wb b => exact execTqpop_canon hs d nb wb b
  | tqstat d wb b => exact execTqstat_canon hs d wb b
  | recget d => exact execRecget_canon hs d
  | yield => exact execYield_canon hs
  | waitc kind n => exact execWaitc_canon hs kind n
  | ld m d scope ord size sx => exact execLd_canon hs m d scope ord size sx
  | st m wv v scope ord size => exact execSt_canon hs m wv v scope ord size
  | ldt t => exact execLdt_canon hs t
  | stt t => exact execStt_canon hs t
  | sld d wb b off scope ord size => exact execSld_canon hs d wb b off scope ord size
  | atom m d aop wv v scope ord size => exact execAtom_canon hs m d aop wv v scope ord size
  | atomc m d wv v scope ord size => exact execAtomc_canon hs m d wv v scope ord size
  | red m aop wv v scope ord size => exact execRed_canon hs m aop wv v scope ord size
  | fence kind scope => exact execFence_canon hs kind scope
  | cctl m cop => exact execCctl_canon hs m cop
  | rbegin d aoff => exact execRbegin_canon hs d aoff
  | rcommit => exact execRcommit_canon hs
  | rabort code => exact execRabort_canon hs code
  | rstat d sel => exact execRstat_canon hs d sel
  | obind d wb b off => exact execObind_canon hs d wb b off
  | ounbind d wb b => exact execOunbind_canon hs d wb b
  | oseal d op wb b => exact execOseal_canon hs d op wb b
  | orecipe d wb b off => exact execOrecipe_canon hs d wb b off
  | oprio d prio wb b => exact execOprio_canon hs d prio wb b
  | oevict d demote wb b => exact execOevict_canon hs d demote wb b
  | tmtag q d wa a set tag => exact execTmtag_canon hs q d wa a set tag
  | tmm vacc wa a wb b consume pm1 slot => exact execTmm_canon hs vacc wa a wb b consume pm1 slot
  | tprom d => exact execTprom_canon hs d
  | tbound d wa a slot => exact execTbound_canon hs d wa a slot
  | tcnt u kind => exact execTcnt_canon hs u kind
  | tlenc d wb b pitch => exact execTlenc_canon hs d wb b pitch
  | tldec d wa a wb b hoff => exact execTldec_canon hs d wa a wb b hoff
  | qbx u bf kind => exact execQbx_canon hs u bf kind
  | dqbx u bf kind => exact execDqbx_canon hs u bf kind
  | decs d wb b wl l => exact execDecs_canon hs d wb b wl l
  | xmm d wb b zc conjb form => exact execXmm_canon hs d wb b zc conjb form
  | tstat d sel => exact execTstat_canon hs d sel
  | cpyt wb b tadd => exact execCpyt_canon hs wb b tadd
  | cpyg wb b tstride => exact execCpyg_canon hs wb b tstride
  | cpyw slot wb b sig => exact execCpyw_canon hs slot wb b sig
  | cpyp wb b redop => exact execCpyp_canon hs wb b redop
  | cfill wb b tadd => exact execCfill_canon hs wb b tadd
  | cwaitCnt n => exact execCwaitCnt_canon hs n
  | cwaitSeq wa a => exact execCwaitSeq_canon hs wa a
  | cseq d wm => exact execCseq_canon hs d wm
  | csrr q d n => exact execCsrr_canon hs q d n
  | csrw q wa a n => exact execCsrw_canon hs q wa a n
  | trap code => exact execTrap_canon hs code
  | tfence => exact execTfence_canon hs
  | rft => exact execRft_canon hs
  | resumef => exact execResumef_canon hs
  | hbeat d => exact execHbeat_canon hs d
  | clock d => exact execClock_canon hs d
  | perfc d n => exact execPerfc_canon hs d n
  | bkpt => exact execBkpt_canon hs
  | clauseEntry => exact execClauseEntry_canon hs
  | linkFailure l => exact execLinkFailure_canon hs l
  | reroutedPacketReceipt k => exact execReroutedPacketReceipt_canon hs k
  | homeRequest src hint pa wr data => exact execHomeRequest_canon hs src hint pa wr data
  | blockWriteBack pa => exact execBlockWriteBack_canon hs pa
  | blockRead pa => exact execBlockRead_canon hs pa
  | migrationWindowEnd md => exact execMigrationWindowEnd_canon hs md
  | homeBlockExchange md lframe blk => exact execHomeBlockExchange_canon hs md lframe blk
  | heartbeatTick => exact execHeartbeatTick_canon hs
  | coldReset => exact execColdReset_canon s
  | sleepEntry => exact execSleepEntry_canon hs
  | sleepExit => exact execSleepExit_canon hs
  | d3cold => exact execD3cold_canon s
  | guploadW val => exact execGuploadW_canon hs val
  | gtrigW val => exact execGtrigW_canon hs val
  | lowHalfWrite off val => exact execLowHalfWrite_canon hs off val
  | launchStart => exact execLaunchStart_canon hs
  | clusterLaunch => exact execClusterLaunch_canon hs
  | gangLaunch => exact execGangLaunch_canon hs
  | cardComplete node => exact execCardComplete_canon hs node
  | spawnBinTimerExpiry core bin => exact execSpawnBinTimerExpiry_canon hs core bin
  | spawnBinLaunch core bin => exact execSpawnBinLaunch_canon hs core bin
  | tqTimerExpiry q => exact execTqTimerExpiry_canon hs q
  | tqLaunch q core => exact execTqLaunch_canon hs q core
  | tqRefill q => exact execTqRefill_canon hs q
  | tqRingWrite q => exact execTqRingWrite_canon hs q
  | tqpopWake q => exact execTqpopWake_canon hs q
  | loadReply wid k => exact execLoadReply_canon hs wid k
  | storeQueueDrain wid => exact execStoreQueueDrain_canon hs wid
  | writeBufferPerform core buf => exact execWriteBufferPerform_canon hs core buf
  | l2SliceAccess core pa op data => exact execL2SliceAccess_canon hs core pa op data
  | pageWalkComplete wid => exact execPageWalkComplete_canon hs wid
  | kickTodev n => exact execKickTodev_canon hs n
  | kickTohost n => exact execKickTohost_canon hs n
  | kickTohostComplete => exact execKickTohostComplete_canon hs
  | shoot val => exact execShoot_canon hs val
  | shootdownComplete => exact execShootdownComplete_canon hs
  | cmdstatRead => exact execCmdstatRead_canon hs
  | jobRun val => exact execJobRun_canon hs val
  | jobStop val => exact execJobStop_canon hs val
  | faultqPop wide => exact execFaultqPop_canon hs wide
  | faultdone token => exact execFaultdone_canon hs token
  | bkqPop wide => exact execBkqPop_canon hs wide
  | bkrel val => exact execBkrel_canon hs val
  | monAlarmRead => exact execMonAlarmRead_canon hs
  | hotabWrite n val => exact execHotabWrite_canon hs n val
  | tqcfgEnable q => exact execTqcfgEnable_canon hs q
  | tqcfgDisable q => exact execTqcfgDisable_canon hs q
  | registerWrite off wide val => exact execRegisterWrite_canon hs off wide val
  | getcert => exact execGetcert_canon hs
  | attest => exact execAttest_canon hs
  | keyload slot => exact execKeyload_canon hs slot
  | keyerase slot => exact execKeyerase_canon hs slot
  | unknownCommand cmd => exact execUnknownCommand_canon hs cmd
  | hostMemRead hdm n => exact execHostMemRead_canon hs hdm n
  | hostMemWrite hdm n data => exact execHostMemWrite_canon hs hdm n data
  | peerRequest idx peer off op data => exact execPeerRequest_canon hs idx peer off op data
  | peerTimeout core seq => exact execPeerTimeout_canon hs core seq
  | alarmLog src => exact execAlarmLog_canon hs src
  | alarmHalt src => exact execAlarmHalt_canon hs src
  | alarmErase src => exact execAlarmErase_canon hs src
  | temperatureThreshold word val => exact execTemperatureThreshold_canon hs word val
  | copyStart core seq => exact execCopyStart_canon hs core seq
  | copyLineArrival core seq line => exact execCopyLineArrival_canon hs core seq line
  | copyComplete core seq => exact execCopyComplete_canon hs core seq
  | cwaitSatisfied wid => exact execCwaitSatisfied_canon hs wid
  | tmmStart core ta => exact execTmmStart_canon hs core ta
  | tmmComplete core ta => exact execTmmComplete_canon hs core ta
  | promotion core ta => exact execPromotion_canon hs core ta
  | xmmStart core => exact execXmmStart_canon hs core
  | xmmComplete core => exact execXmmComplete_canon hs core
  | tlencComplete core => exact execTlencComplete_canon hs core
  | tldecComplete core => exact execTldecComplete_canon hs core
  | decsComplete core => exact execDecsComplete_canon hs core
  | recipePostRetry core => exact execRecipePostRetry_canon hs core
  | chainBegin => exact execChainBegin_canon hs
  | nestedRecipeStart wid => exact execNestedRecipeStart_canon hs wid
  | tileRebuildComplete wid => exact execTileRebuildComplete_canon hs wid
  | regionCommit rid => exact execRegionCommit_canon hs rid
  | evictionDecision => exact execEvictionDecision_canon hs
  | waveStop wid => exact execWaveStop_canon hs wid
  | blockImageWrite blk => exact execBlockImageWrite_canon hs blk
  | waveRestore unit => exact execWaveRestore_canon hs unit
  | reservedOpcode word => exact execReservedOpcode_canon hs word

/-! ### Turns and the plan of a cycle -/

theorem State.waveTurn_canon (wid : Nat) : OutCanon (s.waveTurn wid) := by
  grind [State.waveTurn, OutCanon, State.switchTo_canon, exec_canon]

theorem State.waitTurn_canon (wid : Nat) : OutCanon (s.waitTurn wid) := by
  grind [State.waitTurn, OutCanon, State.waveTurn_canon]

theorem State.evictL1_canon (core line : Nat) : (s.evictL1 core line).Canon := by
  grind [State.evictL1, getD_canon, OptCanon, State.l1Evict_canon]

theorem State.turn_canon (x : Turn) : OutCanon (s.turn x) := by
  unfold State.turn
  grind [State.Canon, OutCanon, State.waveTurn_canon, State.waitTurn_canon, exec_canon, State.evictL1_canon]

theorem State.serveQuarter_canon (k : Nat) : (s.serveQuarter k).Canon := by
  grind [State.serveQuarter, State.Canon, forEach_canon, map_canon, State.onWave_canon]

theorem State.idleCores_canon : s.idleCores.Canon := by
  grind [State.idleCores, forEach_canon, getD_canon, OptCanon, State.idleCore_canon]

theorem State.endCycle_canon : s.endCycle.Canon := by
  grind [State.endCycle, State.Canon, State.reap_canon, State.fillFaultq_canon, State.pass_canon, State.pass_dram, State.servePeers_canon,
    State.retryCmd_canon, State.resumeUpload_canon, State.unfuse_canon, State.idleCores_canon]

theorem State.plan_canon : s.plan.Canon := by
  grind [State.plan, State.endCycle_canon, State.serveQuarter_canon]

theorem State.runAgenda_canon : OutCanon s.runAgenda := by
  grind [State.runAgenda, State.Canon, OutCanon, State.turn_canon]

theorem State.oneTurn_canon : OutCanon s.oneTurn := by
  grind [State.oneTurn, OutCanon, State.runAgenda_canon, State.plan_canon]

/-! ### The step -/

theorem step_canon : OutCanon (step s) := by
  grind [step, OutCanon, State.oneTurn_canon]

end

/-- Settles O57, by `exec_canon` for each instruction and event, and `oneTurn_canon` for the turns of a cycle. -/
theorem stepKeepsMemoryCanonical : Obligations.StepKeepsMemoryCanonical :=
  fun _ t hs ht => (ht ▸ step_canon hs : OutCanon (.next t))

end Sys2Proof.Machine

/-! PROOFS. Accesses from outside the die (05 R84; 27 R348, R349, R356, R358; 19 R284), and O31: bytes and numbers, a block read
after a write of it, accesses at a home that holds good data, and the codes of blocks that do not decode. -/

namespace Sys2Proof.Machine

/-! ### Numbers and their bytes (00 R5) -/

theorem leBytes_length (n x : Nat) : (leBytes n x).length = n := by
  induction n generalizing x with
  | zero => rfl
  | succ n ih => simp [leBytes, ih]

theorem leBytes_getD (n x i : Nat) : (leBytes n x).getD i 0 = if i < n then x / 256 ^ i % 256 else 0 := by
  induction n generalizing x i with
  | zero => simp [leBytes]
  | succ n ih =>
    cases i with
    | zero => simp [leBytes]
    | succ i => simp only [leBytes, List.getD_cons_succ, ih, Nat.pow_succ', Nat.div_div_eq_div_mul, Nat.add_lt_add_iff_right]

theorem leN_leBytes (n x : Nat) : leN (leBytes n x) = x % 256 ^ n := by
  induction n generalizing x with
  | zero => simp [leBytes, leN, Nat.mod_one]
  | succ n ih => rw [leBytes, leN, ih, Nat.pow_succ', Nat.mod_mul]

@[simp] theorem natBytes_length (n x : Nat) : (natBytes n x).length = n := by rw [natBytes, List.length_map, leBytes_length]

theorem natBytes_getD {n i : Nat} (h : i < n) (x : Nat) : (natBytes n x).getD i 0 = BitVec.ofNat 8 (x / 2 ^ (8 * i)) := by
  have hl : i < (leBytes n x).length := by rwa [leBytes_length]
  have hx := leBytes_getD n x i
  rw [if_pos h, List.getD_eq_getElem _ _ hl] at hx
  rw [natBytes, List.getD_eq_getElem _ _ (by simpa using hl), List.getElem_map, hx, Nat.pow_mul]
  exact BitVec.eq_of_toNat_eq (by simp)

theorem bytesNat_natBytes (n x : Nat) : bytesNat (natBytes n x) = x % 256 ^ n := by
  have hbyte : ∀ y ∈ leBytes n x, y % 2 ^ 8 = y := by
    intro y hy
    obtain ⟨i, hi, rfl⟩ := List.mem_iff_getElem.mp hy
    have hg := leBytes_getD n x i
    rw [List.getD_eq_getElem _ _ hi, if_pos (by rwa [leBytes_length] at hi)] at hg
    omega
  have hback : ((leBytes n x).map (BitVec.ofNat 8)).map (·.toNat) = leBytes n x := by
    rw [List.map_map]
    exact (List.map_congr_left fun y hy => (BitVec.toNat_ofNat y 8).trans (hbyte y hy)).trans (List.map_id' _)
  rw [bytesNat, natBytes, hback, leN_leBytes]

/-- A list of bytes by its elements. -/
theorem ext_getD {as bs : List Byte} (hl : as.length = bs.length) (h : ∀ i < as.length, as.getD i 0 = bs.getD i 0) : as = bs := by
  refine List.ext_getElem hl fun i h1 h2 => ?_
  have := h i h1
  rwa [List.getD_eq_getElem _ _ h1, List.getD_eq_getElem _ _ h2] at this

theorem bytesNat_lt (bs : List Byte) : bytesNat bs < 256 ^ bs.length := by
  induction bs with
  | nil => simp [bytesNat, leN]
  | cons b bs ih =>
    have hb := b.isLt
    simp only [bytesNat, List.map_cons, leN, List.length_cons, Nat.pow_succ] at ih ⊢
    omega

theorem natBytes_bytesNat (bs : List Byte) : natBytes bs.length (bytesNat bs) = bs := by
  induction bs with
  | nil => rfl
  | cons b bs ih =>
    have hb := b.isLt
    have h1 : (b.toNat + 256 * leN (bs.map (·.toNat))) % 256 = b.toNat := by omega
    have h2 : (b.toNat + 256 * leN (bs.map (·.toNat))) / 256 = leN (bs.map (·.toNat)) := by omega
    simp only [natBytes, bytesNat, List.map_cons, leN, List.length_cons, leBytes, h1, h2] at ih ⊢
    rw [ih, BitVec.ofNat_toNat, BitVec.setWidth_eq]

/-- Some bytes of a number, from byte `k` on. -/
theorem natBytes_part {n k m : Nat} (h : k + m ≤ n) (x : Nat) : ((natBytes n x).drop k).take m = natBytes m (x / 2 ^ (8 * k)) := by
  have hlen : (((natBytes n x).drop k).take m).length = m := by simp; omega
  refine ext_getD (by rw [hlen, natBytes_length]) fun i hi => ?_
  rw [hlen] at hi
  rw [List.getD_eq_getElem?_getD, List.getElem?_take_of_lt hi, List.getElem?_drop, ← List.getD_eq_getElem?_getD,
    natBytes_getD (by omega), natBytes_getD hi, Nat.div_div_eq_div_mul, ← Nat.pow_add, Nat.mul_add]

/-! ### A block read after a write of it (05 R84) -/

theorem Pkg.stackBlock_congr (p : Pkg) {a b : Nat} (h : a / 256 = b / 256) : p.stackBlock a = p.stackBlock b := by
  have hf : a / 65536 = b / 65536 := by omega
  have ho : a % 65536 / 256 = b % 65536 / 256 := by omega
  simp only [Pkg.stackBlock, hf, ho]

theorem Pkg.stackBlock_base (p : Pkg) (a : Nat) : p.stackBlock (a / 256 * 256) = p.stackBlock a := p.stackBlock_congr (by omega)

theorem Pkg.homeOf_base (p : Pkg) (a : Nat) : p.homeOf (a / 256 * 256) = p.homeOf a := by
  simp only [Pkg.homeOf, Pkg.stackBlock_base]

/-- A block of code 0 that was written under the key of the page fields reads as its stored bytes. -/
theorem Pkg.readBlock_raw {p : Pkg} {d pa f : Nat} (hr : p.unreachable d (p.stackBlock pa / 2 ^ 36) = false)
    (hc : (p.blockMeta (p.stackBlock pa)).code = 0) (hk : (p.blockMeta (p.stackBlock pa)).fields / 64 = p.keyTag f) :
    p.readBlock d pa f = (false, Vector.ofFn fun i => look 0 p.dram (p.stackBlock pa + i.val)) := by
  have hdec : p.decoded pa f = some ((List.range 256).map fun i => (look 0 p.dram (p.stackBlock pa + i)).toNat) := by
    simp only [Pkg.decoded, Pkg.sectors, hc, hk, if_true, loadedBytes, sectorBytes, List.map_map]
    rfl
  have hgood : p.readPoison d pa f = false := by
    simp only [Pkg.readPoison, hr, hc, poisonCode, Pkg.undecodable, hdec, Option.isNone_some, Bool.and_false, Bool.or_false]
    rfl
  simp only [Pkg.readBlock, hgood, hdec, Bool.false_eq_true, if_false]
  refine Prod.ext rfl (Vector.ext fun i hi => ?_)
  simp [List.getD_eq_getElem?_getD]

/-- A block that a page with no COMP writes reads as the bytes that were written. -/
theorem Pkg.readBlock_writeBlock {p : Pkg} {d pa f : Nat} (x : Vector Byte 256) (hr : p.unreachable d (p.stackBlock pa / 2 ^ 36) = false)
    (hres : inReserve (p.stackBlock pa) = false) (hf : f < 64) (hc : fieldsComp f = false) :
    (p.writeBlock d pa f x).readBlock d pa f = (false, x) := by
  have hbytes : (storedBytes 0 (x.toList.map (·.toNat))).map (BitVec.ofNat 8) = x.toList := by
    simp only [storedBytes, if_true, List.map_map]
    exact (List.map_congr_left fun y _ => by simp).trans (List.map_id' _)
  have hw : ∃ c, p.writeBlock d pa f x = { p with
      dram := putBytes p.dram (p.stackBlock pa) x.toList, counts := c
      blkMeta := put p.blkMeta (p.stackBlock pa / 256) { code := 0, fields := f % 64 + 64 * p.keyTag f } } := by
    simp only [Pkg.writeBlock, hr, hc, Bool.false_eq_true, if_false, hbytes]
    exact ⟨_, rfl⟩
  obtain ⟨c, hw⟩ := hw
  rw [hw]
  generalize hq : ({ p with
      dram := putBytes p.dram (p.stackBlock pa) x.toList, counts := c
      blkMeta := put p.blkMeta (p.stackBlock pa / 256) { code := 0, fields := f % 64 + 64 * p.keyTag f } } : Pkg) = q
  have hst : q.stackBlock pa = p.stackBlock pa := by rw [← hq]; rfl
  have hmeta : q.blockMeta (q.stackBlock pa) = { code := 0, fields := f % 64 + 64 * p.keyTag f } := by
    rw [hst, ← hq]
    simp [Pkg.blockMeta, hres]
  have hkey : q.keyTag f = p.keyTag f := by rw [← hq]; rfl
  have hreach : q.unreachable d (q.stackBlock pa / 2 ^ 36) = false := by rw [hst, ← hq]; exact hr
  rw [Pkg.readBlock_raw hreach (by rw [hmeta]) (by rw [hmeta, hkey]; simp only; omega), hst, ← hq]
  refine Prod.ext rfl (Vector.ext fun i hi => ?_)
  rw [Vector.getElem_ofFn, look_putBytes, if_pos (by simpa using hi)]
  simp [hi, List.getD_eq_getElem?_getD]

/-- Bytes merged into a block that reads good: they take their places, and the rest of the block is as it was. -/
theorem Pkg.readBlock_mergeBlock {p : Pkg} {d pa f : Nat} (bs : List Byte) (hr : p.unreachable d (p.homeOf pa) = false)
    (hres : inReserve (p.stackBlock pa) = false) (hp : (p.readBlock d (pa / 256 * 256) f).1 = false) (hf : f < 64) (hc : fieldsComp f = false)
    (hfit : pa % 256 + bs.length ≤ 256) (i : Nat) :
    ((p.mergeBlock d pa f bs).readBlock d (pa / 256 * 256) f).2.toList.getD i 0 =
      if pa % 256 ≤ i ∧ i < pa % 256 + bs.length then bs.getD (i - pa % 256) 0
      else (p.readBlock d (pa / 256 * 256) f).2.toList.getD i 0 := by
  have hw (x : Vector Byte 256) := Pkg.readBlock_writeBlock (p := p) (d := d) (pa := pa / 256 * 256) (f := f) x hr
    (by rw [Pkg.stackBlock_base]; exact hres) hf hc
  by_cases hi : i < 256
  · by_cases hl : bs.length = 256
    · have h0 : pa % 256 = 0 := by omega
      simp only [Pkg.mergeBlock, if_pos hl, hw]
      simp [hi, h0, hl, List.getD_eq_getElem?_getD]
    · simp only [Pkg.mergeBlock, if_neg hl, hp, Bool.false_eq_true, if_false, hw]
      simp [hi, overlay, List.getD_eq_getElem?_getD]
  · rw [if_neg (by omega), List.getD_eq_default _ _ (by simpa using hi), List.getD_eq_default _ _ (by simpa using hi)]

/-! ### Accesses at a good home (R127, R349) -/

theorem State.homeGood_iff {s : State} {f pa : Nat} : s.homeGood f pa = true ↔
    paOk pa = true ∧ inReserve (s.pkg.stackBlock pa) = false ∧ s.pkg.linkUp (s.pkg.homeOf pa) = true ∧
      s.pkg.unreachable s.die.die (s.pkg.homeOf pa) = false ∧ (s.pkg.readBlock s.die.die (pa / 256 * 256) f).1 = false ∧
      s.l2? (pa / 256) = none := by
  simp [State.homeGood, and_assoc]

theorem State.settled_of_linkUp {s : State} {line : Nat} (h : s.pkg.linkUp (s.pkg.homeOf (line * 256)) = true) : s.settled line = s := by
  rw [State.settled, State.detourFirst, if_pos h]

theorem Pkg.recode_of_good {p : Pkg} {d pa f : Nat} (h : (p.readBlock d pa f).1 = false) : p.recode d pa f = p := by
  have hp : p.readPoison d pa f = false := by
    by_contra hp
    rw [Bool.not_eq_false] at hp
    simp [Pkg.readBlock, hp] at h
  simp only [Pkg.readPoison, Bool.or_eq_false_iff] at hp
  simp [Pkg.recode, hp]

/-- The bytes at the home from an address on. -/
def State.homeBytes (s : State) (f pa n : Nat) : List Byte := (List.range n).map fun i => s.homeByte f (pa + i)

theorem State.homeByte_eq (s : State) (f pa i : Nat) (h : pa % 256 + i < 256) :
    s.homeByte f (pa + i) = (s.pkg.readBlock s.die.die (pa / 256 * 256) f).2.toList.getD (pa % 256 + i) 0 := by
  have h1 : (pa + i) / 256 = pa / 256 := by omega
  have h2 : (pa + i) % 256 = pa % 256 + i := by omega
  rw [State.homeByte, h1, h2]

/-- A read of bytes of one good block answers them. -/
theorem State.homeRead_of_good {s : State} {f pa n : Nat} (h : s.homeGood f pa = true) (hfit : pa % 256 + n ≤ 256) :
    s.homeRead pa n f = s.answer false (bytesNat (s.homeBytes f pa n)) := by
  obtain ⟨-, -, hup, -, hgood, hl2⟩ := State.homeGood_iff.mp h
  have hwb : s.l2WriteBack (pa / 256) = s := by simp only [State.l2WriteBack, hl2]
  have hset : s.settled (pa / 256) = s := State.settled_of_linkUp (by rw [Pkg.homeOf_base]; exact hup)
  have hbytes : ((s.pkg.readBlock s.die.die (pa / 256 * 256) f).2.toList.drop (pa % 256)).take n = s.homeBytes f pa n := by
    have hl : (((s.pkg.readBlock s.die.die (pa / 256 * 256) f).2.toList.drop (pa % 256)).take n).length = n := by simp; omega
    refine ext_getD (by rw [hl, State.homeBytes, List.length_map, List.length_range]) fun i hi => ?_
    rw [hl] at hi
    rw [List.getD_eq_getElem?_getD, List.getElem?_take_of_lt hi, List.getElem?_drop, ← List.getD_eq_getElem?_getD, ← s.homeByte_eq f pa i (by omega)]
    simp [State.homeBytes, hi]
  simp only [State.homeRead, hwb, hset, hbytes, hgood, State.l2Poison, hl2, Bool.or_self, State.onPkg, Pkg.recode_of_good hgood]

/-- A write of bytes of one good block, where no region holds a line. -/
theorem State.homeWrite_of_good {s : State} {f pa : Nat} {bs : List Byte} (h : s.homeGood f pa = true) (hf : f < 64)
    (hreg : ∀ k, s.regionHeld none k = false) (hfit : pa % 256 + bs.length ≤ 256) :
    ∃ t, s.homeWrite pa f bs = some t ∧ t.waves = s.waves ∧ (fieldsComp f = false → ∀ a, a / 256 = pa / 256 → t.homeByte f a =
      if pa ≤ a ∧ a < pa + bs.length then bs.getD (a - pa) 0 else s.homeByte f a) := by
  obtain ⟨-, hres, hup, hreach, hgood, hl2⟩ := State.homeGood_iff.mp h
  have hyield : s.homeYields pa bs.length = some (s.l2Drop (pa / 256)) := by
    simp [State.homeYields, hreg, State.l2Leaves, State.recordLeaves, recordLeavesWith, hl2, State.l2WriteBack]
  have hset : (s.l2Drop (pa / 256)).settled (pa / 256) = s.l2Drop (pa / 256) :=
    State.settled_of_linkUp (by rw [Pkg.homeOf_base]; exact hup)
  refine ⟨(s.l2Drop (pa / 256)).onPkg fun p => p.mergeBlock s.die.die pa f bs, by rw [State.homeWrite, hyield, Option.map_some, hset]; rfl, rfl, fun hc a ha => ?_⟩
  have hb : a % 256 = pa % 256 + (a - pa) ∨ a < pa := by omega
  have hm := Pkg.readBlock_mergeBlock (p := s.pkg) (d := s.die.die) bs hreach hres hgood hf hc hfit (a % 256)
  show ((s.pkg.mergeBlock s.die.die pa f bs).readBlock s.die.die (a / 256 * 256) f).2.toList.getD (a % 256) 0 = _
  rw [ha, hm, State.homeByte, ha]
  by_cases hin : pa ≤ a ∧ a < pa + bs.length
  · rw [if_pos hin, if_pos (by omega), show a % 256 - pa % 256 = a - pa by omega]
  · rw [if_neg hin, if_neg (by omega)]

/-! ### Codes of blocks that do not decode (05 R84) -/

/-- A block's metadata after reads: as it was, or with the code of a chunk that does not decode. -/
def Pkg.Recoded (p q : Pkg) : Prop :=
  q = { p with blkMeta := q.blkMeta } ∧ ∀ st, q.blockMeta st = p.blockMeta st ∨ q.blockMeta st = { p.blockMeta st with code := 15 }

theorem Pkg.Recoded.refl (p : Pkg) : p.Recoded p := ⟨rfl, fun _ => .inl rfl⟩

theorem Pkg.Recoded.trans {p q r : Pkg} (h : p.Recoded q) (h' : q.Recoded r) : p.Recoded r := by
  refine ⟨by rw [h'.1, h.1], fun st => ?_⟩
  rcases h.2 st with e | e <;> rcases h'.2 st with e' | e' <;> simp [e, e']

/-- The metadata of a block depends on its number and on whether it lies in the reserve, as its stack address says. -/
theorem inReserve_congr {a b : Nat} (h : a / 256 = b / 256) : inReserve a = inReserve b := by
  refine decide_eq_decide.mpr ?_
  omega

theorem Pkg.blockMeta_congr (p : Pkg) {a b : Nat} (h : a / 256 = b / 256) : p.blockMeta a = p.blockMeta b := by
  simp only [Pkg.blockMeta, inReserve_congr h, h]

theorem Pkg.recoded_recode (p : Pkg) (d pa f : Nat) : p.Recoded (p.recode d pa f) := by
  unfold Pkg.recode
  dsimp only
  split
  · refine ⟨rfl, fun st => ?_⟩
    by_cases hst : st / 256 = p.stackBlock pa / 256
    · rw [← p.blockMeta_congr hst]
      by_cases hres : inReserve st = true
      · left; simp [Pkg.blockMeta, hres]
      · right; simp [Pkg.blockMeta, hres, hst]
    · left; simp [Pkg.blockMeta, hst]
  · exact .refl p

/-- Only the package has changed, and of it only codes. -/
def State.Recoded (s t : State) : Prop := t = { s with pkg := t.pkg } ∧ s.pkg.Recoded t.pkg

theorem State.Recoded.refl (s : State) : s.Recoded s := ⟨rfl, .refl _⟩

theorem State.Recoded.trans {s t u : State} (h : s.Recoded t) (h' : t.Recoded u) : s.Recoded u :=
  ⟨by rw [h'.1, h.1], h.2.trans h'.2⟩

theorem State.recoded_onPkg (s : State) (d pa f : Nat) : s.Recoded (s.onPkg fun p => p.recode d pa f) := ⟨rfl, s.pkg.recoded_recode d pa f⟩

theorem State.recoded_walked (s : State) (va : Nat) : s.Recoded (s.walked va) := by
  unfold State.walked
  generalize s.walkReads va = as
  induction as generalizing s with
  | nil => exact .refl s
  | cons a as ih =>
    refine State.Recoded.trans ?_ (ih _)
    dsimp only
    split
    · exact .refl s
    · exact s.recoded_onPkg _ _ _

theorem State.recoded_recodeAt (s : State) (va : Nat) : s.Recoded (s.recodeAt va) := by
  unfold State.recodeAt
  dsimp only
  split
  · split
    · exact s.recoded_walked va
    · exact (s.recoded_walked va).trans (State.recoded_onPkg _ _ _ _)
  · exact s.recoded_walked va

theorem State.Recoded.codesOnly {s t : State} (h : s.Recoded t) : s.CodesOnly t := by
  obtain ⟨ht, hp, hm⟩ := h
  refine ⟨?_, by rw [ht], hm⟩
  rw [← hp]
  exact ht.trans (by rw [ht])

theorem State.Recoded.codesOnly_answer {s t : State} (h : s.Recoded t) (p : Bool) (x : Nat) : s.CodesOnly (t.answer p x) := by
  obtain ⟨ht, hp, hm⟩ := h
  refine ⟨?_, by rw [ht]; rfl, hm⟩
  show _ = { s with tabs := _, pkg := { s.pkg with blkMeta := t.pkg.blkMeta } }
  rw [← hp, ht]
  rfl

/-- An answer changes the last response alone. -/
theorem State.answer_eq (s : State) (p : Bool) (x : Nat) : s.answer p x = { s with tabs := (s.answer p x).tabs } := rfl

/-! ### A walk that meets no poison (R152) -/

theorem State.walkFrom_poison {s : State} {va tab i lvl : Nat} (h : s.peekPoison (tab + 8 * i) 0 = true) :
    s.walkFrom va tab i lvl = .poison := by
  simp only [State.walkFrom, h, if_true]

theorem State.walked_poison_l2 {s : State} {a : Nat} (h : s.peekPoison a 0 = false) :
    (if (s.l2? (a / 256)).isSome then s else s.onPkg fun p => p.recode s.die.die (a / 256 * 256) 0) = s := by
  split
  · rfl
  · rename_i hl2
    have hnone : s.l2? (a / 256) = none := by simpa using hl2
    simp only [State.peekPoison, hnone] at h
    simp only [State.onPkg, Pkg.recode_of_good h]

theorem State.pointerAt_not_poison {s : State} {a : Nat} (h : s.pointerAt a = true) : s.peekPoison a 0 = false := by
  simp only [State.pointerAt, Bool.and_eq_true, Bool.not_eq_true'] at h
  exact h.1.1

/-- No entry that a walk reads is poison, unless the walk says so. -/
theorem State.not_poison_of_walk {s : State} {va : Nat} (h : s.walk va ≠ .poison) : ∀ a ∈ s.walkReads va, s.peekPoison a 0 = false := by
  have hlast {tab i lvl a : Nat} (ha : a = tab + 8 * i) (hw : s.walkFrom va tab i lvl ≠ .poison) : s.peekPoison a 0 = false := by
    rw [ha]
    by_contra hp
    exact hw (State.walkFrom_poison (Bool.not_eq_false _ ▸ hp))
  unfold State.walk at h
  unfold State.walkReads
  dsimp only at h ⊢
  split at h
  · rename_i h1
    simpa [h1] using hlast (by simp [entryAt]) h
  · rename_i h1
    have g1 := State.pointerAt_not_poison (by simpa using h1)
    rw [if_neg h1]
    split at h
    · rename_i h2
      simpa [h2] using g1
    · rename_i t2 h2
      split at h
      · rename_i h3
        simpa [h2, h3, g1] using hlast (by simp [entryAt]) h
      · rename_i h3
        have g2 := State.pointerAt_not_poison (by simpa using h3)
        split at h
        · rename_i h4
          simp [h3, g1, g2]
        · rename_i t3 h4
          simpa [h2, h3, h4, g1, g2] using hlast (by simp [entryAt]) h

/-- So such a walk leaves the state as it was. -/
theorem State.walked_of_walk {s : State} {va : Nat} (h : s.walk va ≠ .poison) : s.walked va = s := by
  have hreads := State.not_poison_of_walk h
  unfold State.walked
  generalize s.walkReads va = as at hreads ⊢
  induction as with
  | nil => rfl
  | cons a as ih =>
    rw [List.foldl_cons, State.walked_poison_l2 (hreads a List.mem_cons_self)]
    exact ih fun b hb => hreads b (List.mem_cons_of_mem _ hb)

/-! ### Host accesses (R348, R349) -/

theorem State.recoded_hdmWalked (s : State) (hdm : Nat) : s.Recoded (s.hdmWalked hdm) := by
  unfold State.hdmWalked
  split
  · exact .refl s
  · exact s.recoded_walked _

theorem State.hdmWalked_of_walk {s : State} {hdm : Nat}
    (h : ∀ e, s.kickEnt (hdm / 2 ^ 21) = some e → s.walk (e.base * 2 ^ 21 + hdm % 2 ^ 21) ≠ .poison) : s.hdmWalked hdm = s := by
  unfold State.hdmWalked
  split
  · rfl
  · exact State.walked_of_walk (h _ ‹_›)

/-- An HDM byte keeps its place in its line. -/
theorem State.hdmPage_mod {s : State} {hdm pa f : Nat} {wr : Bool} (h : s.hdmPage hdm wr = some (pa, f)) : pa % 64 = hdm % 64 := by
  unfold State.hdmPage at h
  split at h
  · cases h
  · split at h
    · obtain ⟨-, h⟩ := Option.ite_none_right_eq_some.mp h
      cases h
      omega
    · cases h

theorem exec_hostMemRead_refused {s : State} {hdm : BitVec 29} {n : BitVec 7} (h : s.hdmPage hdm.toNat false = none) :
    exec (.hostMemRead hdm n) s = .next ((s.hdmWalked hdm.toNat).answer true 0) := by
  show execHostMemRead hdm n s = _
  rw [execHostMemRead, h]

theorem exec_hostMemRead_good {s : State} {hdm : BitVec 29} {n : BitVec 7} {pa f : Nat} (h : s.hdmPage hdm.toNat false = some (pa, f))
    (hgood : s.homeGood f pa = true) :
    exec (.hostMemRead hdm n) s = .next (s.answer false (bytesNat (s.homeBytes f pa (min n.toNat (64 - hdm.toNat % 64))))) := by
  have hmod := State.hdmPage_mod h
  show execHostMemRead hdm n s = _
  simp only [execHostMemRead, h]
  rw [State.homeRead_of_good hgood (by omega)]

theorem exec_hostMemWrite_refused {s : State} {hdm : BitVec 29} {n : BitVec 4} {data : BitVec 64} (h : s.hdmPage hdm.toNat true = none) :
    exec (.hostMemWrite hdm n data) s = .next (s.hdmWalked hdm.toNat) := by
  show execHostMemWrite hdm n data s = _
  rw [execHostMemWrite, h]

/-- A write of a number's bytes to one good block. -/
theorem State.written_of_good {s : State} {f pa n x : Nat} (h : s.homeGood f pa = true) (hf : f < 64)
    (hreg : ∀ k, s.regionHeld none k = false) (hfit : pa % 256 + n ≤ 256) :
    ∃ t, s.homeWrite pa f (natBytes n x) = some t ∧ t.waves = s.waves ∧ (fieldsComp f = false → s.Written t f pa n x) := by
  obtain ⟨t, ht, hw, hb⟩ := State.homeWrite_of_good (bs := natBytes n x) h hf hreg (by rwa [natBytes_length])
  refine ⟨t, ht, hw, fun hc a ha => (hb hc a ha).trans ?_⟩
  rw [natBytes_length]
  split
  · rw [natBytes_getD (by omega)]
  · rfl

theorem exec_hostMemWrite_good {s : State} {hdm : BitVec 29} {n : BitVec 4} {data : BitVec 64} {pa f : Nat}
    (h : s.hdmPage hdm.toNat true = some (pa, f)) (hf : f < 64) (hc : fieldsComp f = false) (hgood : s.homeGood f pa = true)
    (hhalt : s.tabs.halted = false) (hreg : ∀ k, s.regionHeld none k = false) :
    ∃ t, exec (.hostMemWrite hdm n data) s = .next t ∧
      s.Written t f pa (min (min n.toNat 8) (64 - hdm.toNat % 64)) data.toNat ∧ t.waves = s.waves := by
  have hmod := State.hdmPage_mod h
  obtain ⟨t, ht, hw, hb⟩ := State.written_of_good (n := min (min n.toNat 8) (64 - hdm.toNat % 64)) (x := data.toNat) hgood hf hreg (by omega)
  refine ⟨t, ?_, hb hc, hw⟩
  show execHostMemWrite hdm n data s = _
  simp only [execHostMemWrite, h, hhalt, ht, Bool.false_eq_true, if_false]

/-! ### Peers (R356, R358) -/

theorem exportOk_iff (e peer off : Nat) (op : PeerOp) : exportOk e peer off op = true ↔
    e / 2 ^ 63 % 2 = 1 ∧ (e / 2 ^ 49 % 2 = 1 ∨ e / 2 ^ 50 % 2 ^ 10 = peer) ∧ off / 65536 < e / 2 ^ 64 % 2 ^ 32 ∧
      (op = .write → e / 2 ^ 62 % 2 = 1) ∧ (op ≠ .read → op ≠ .write → e / 2 ^ 61 % 2 = 1) := by
  simp only [exportOk, Bool.and_eq_true, Bool.or_eq_true, decide_eq_true_eq, beq_iff_eq, Nat.testBit_eq_decide_div_mod_eq, and_assoc]
  simp only [bitsN]
  cases op <;> simp

/-- A page fault of an engine: the fault is outstanding under its token, and the rest that is said of the state is as it was. -/
theorem State.joinFault_page (s : State) (p va : Nat) : ∃ tok, (s.joinFault (.page p) va true).2 = tok ∧
    (∃ x ∈ (s.joinFault (.page p) va true).1.die.faults, x.token = tok ∧ x.key = .page p) ∧
    (s.joinFault (.page p) va true).1.waves = s.waves ∧ (s.joinFault (.page p) va true).1.pkg = s.pkg ∧
    (s.joinFault (.page p) va true).1.tabs.peerWait = s.tabs.peerWait := by
  refine ⟨_, rfl, ?_⟩
  unfold State.joinFault
  split
  · rename_i f hf
    exact ⟨⟨f, List.mem_of_find?_eq_some hf, rfl, by simpa using List.find?_some hf⟩, rfl, rfl, rfl⟩
  · dsimp only
    split
    · split <;> exact ⟨⟨_, List.mem_append_right _ List.mem_cons_self, rfl, rfl⟩, rfl, rfl, rfl⟩
    · exact ⟨⟨_, List.mem_append_right _ List.mem_cons_self, rfl, rfl⟩, rfl, rfl, rfl⟩


theorem State.engine_ok_mod {s : State} {va pa f : Nat} {rd wr : Bool} (h : s.engine va rd wr = .ok pa f) : pa % 65536 = va % 65536 := by
  unfold State.engine at h
  split at h
  · cases h
  · split at h
    · cases h
    · cases h
    · cases h
    · split at h
      · cases h
      · split at h
        · cases h
        · cases h
          omega

section Peer
variable {s : State} {idx : BitVec 8} {peer : BitVec 10} {off : BitVec 48} {op : PeerOp} {data : PeerData}

/-- What the checks of a peer's request answer (R358): an error where its export entry refuses it, and the request itself where that
permits it, for the address `va` that the entry gives. -/
theorem exec_peerRequest_refused (hfit : peerFits off.toNat data.len.toNat op = true)
    (hx : exportOk (look 0 s.tabs.exports idx.toNat) peer.toNat off.toNat op = false) :
    exec (.peerRequest idx peer off op data) s = .next (s.answer true 0) := by
  show execPeerRequest idx peer off op data s = _
  simp only [execPeerRequest, hfit, hx, if_true, Bool.false_eq_true, if_false]

variable {va : Nat} (hva : va = look 0 s.tabs.exports idx.toNat / 2 ^ 16 % 2 ^ 33 * 65536 + off.toNat)
  (hfit : peerFits off.toNat data.len.toNat op = true) (hx : exportOk (look 0 s.tabs.exports idx.toNat) peer.toNat off.toNat op = true)
include hva hfit hx

theorem exec_peerRequest_some {t : State}
    (ht : s.peerTry { va := va, op := op, n := data.len.toNat, data := data.bytes.toNat, token := 0 } = some t) :
    exec (.peerRequest idx peer off op data) s = .next t := by
  show execPeerRequest idx peer off op data s = _
  rw [execPeerRequest, if_pos hfit, if_pos hx]
  have hb : bitsN (look 0 s.tabs.exports idx.toNat) 16 33 * 65536 + off.toNat = va := hva.symm
  simp only [hb, ht]

theorem exec_peerRequest_error (he : s.engine va (op != .write) (op != .read) = .prot ∨ s.engine va (op != .write) (op != .read) = .key) :
    exec (.peerRequest idx peer off op data) s = .next (s.answer true 0) := by
  refine exec_peerRequest_some hva hfit hx ?_
  rcases he with he | he <;> simp only [State.peerTry, he]

theorem exec_peerRequest_poison (he : s.engine va (op != .write) (op != .read) = .poison) :
    exec (.peerRequest idx peer off op data) s = .next ((s.recodeAt va).answer true 0) :=
  exec_peerRequest_some hva hfit hx (by simp only [State.peerTry, he])

theorem exec_peerRequest_absent (he : s.engine va (op != .write) (op != .read) = .absent) :
    ∃ t tok, exec (.peerRequest idx peer off op data) s = .next t ∧ t.waves = s.waves ∧ t.pkg = s.pkg ∧
      (∃ x ∈ t.die.faults, x.token = tok ∧ x.key = .page (va / 65536)) ∧
      t.tabs.peerWait = s.tabs.peerWait ++ [{ va := va, op := op, n := data.len.toNat, data := data.bytes.toNat, token := tok }] := by
  obtain ⟨tok, htok, hf, hw, hp, hq⟩ := s.joinFault_page (va / 65536) va
  refine ⟨(s.joinFault (.page (va / 65536)) va true).1.onTabs fun t => { t with
      peerWait := t.peerWait ++ [{ va := va, op := op, n := data.len.toNat, data := data.bytes.toNat, token := tok }] }, tok,
    exec_peerRequest_some hva hfit hx ?_, hw, hp, hf, ?_⟩
  · simp only [State.peerTry, he, htok]
  · rw [State.onTabs_tabs, hq]

end Peer

/-- The bytes of a served request lie in one block. -/
theorem peerFits_iff (off n : Nat) (op : PeerOp) : peerFits off n op = true ↔
    1 ≤ n ∧ off % 256 + n ≤ 256 ∧ (peerRedop op = 0 ∨ n % redSize (peerRedop op) = 0 ∧ off % redSize (peerRedop op) = 0) := by
  simp only [peerFits, Bool.and_eq_true, Bool.or_eq_true, decide_eq_true_eq, beq_iff_eq, and_assoc]

/-! ### Reduce-adds of peers (R284) -/

theorem redSize_pos (op : Nat) : 0 < redSize op := by
  unfold redSize
  split <;> decide

/-- Elements of equal size, laid one after another: byte `i` is byte `i % n` of element `i / n`. -/
theorem flatMap_getD {n m i : Nat} (f : Nat → List Byte) (hn : ∀ k, (f k).length = n) (hi : i < n * m) :
    ((List.range m).flatMap f).getD i 0 = (f (i / n)).getD (i % n) 0 := by
  induction m with
  | zero => omega
  | succ m ih =>
    have hpos : 0 < n := by
      rcases Nat.eq_zero_or_pos n with rfl | h
      · simp at hi
      · exact h
    have hlen : ((List.range m).flatMap f).length = n * m := by simp [List.length_flatMap, hn, Nat.mul_comm]
    rw [List.range_succ, List.flatMap_append, List.flatMap_singleton, List.getD_eq_getElem?_getD]
    by_cases h : i < n * m
    · rw [List.getElem?_append_left (by omega), ← List.getD_eq_getElem?_getD, ih h]
    · have hdiv : i / n = m := Nat.div_eq_of_lt_le (by rw [Nat.mul_comm]; omega) (by rw [Nat.mul_comm]; exact hi)
      have hmod : i % n = i - n * m := by
        have := Nat.div_add_mod i n
        rw [hdiv] at this
        omega
      rw [List.getElem?_append_right (by omega), hlen, ← List.getD_eq_getElem?_getD, hdiv, hmod]

theorem raddBytes_length {op : Nat} {old new : List Byte} (h : new.length % redSize op = 0) : (raddBytes op old new).length = new.length := by
  simp only [raddBytes, List.length_flatMap, natBytes_length, List.map_const', List.sum_replicate, List.length_range, smul_eq_mul]
  exact Nat.div_mul_cancel (Nat.dvd_of_mod_eq_zero h)

/-- A byte of a reduce-add of whole elements: of the sum of the elements that hold it. -/
theorem raddBytes_getD {op i : Nat} {old new : List Byte} (h : new.length % redSize op = 0) (hi : i < new.length) :
    let j := i / redSize op * redSize op
    (raddBytes op old new).getD i 0 = BitVec.ofNat 8 (raddElem op (bytesNat ((old.drop j).take (redSize op)))
      (bytesNat ((new.drop j).take (redSize op))) / 2 ^ (8 * (i - j))) := by
  have hpos := redSize_pos op
  have hm : redSize op * (new.length / redSize op) = new.length := Nat.mul_div_cancel' (Nat.dvd_of_mod_eq_zero h)
  have hij : i - i / redSize op * redSize op = i % redSize op := by
    have := Nat.div_add_mod i (redSize op)
    rw [Nat.mul_comm] at this
    omega
  simp only [raddBytes]
  rw [flatMap_getD _ (fun k => natBytes_length _ _) (by omega), natBytes_getD (Nat.mod_lt _ hpos), hij, Nat.mul_comm (redSize op)]

theorem State.homeBytes_length (s : State) (f pa n : Nat) : (s.homeBytes f pa n).length = n := by simp [State.homeBytes]

theorem State.homeBytes_getD {s : State} {f pa n i : Nat} (h : i < n) : (s.homeBytes f pa n).getD i 0 = s.homeByte f (pa + i) := by
  simp [State.homeBytes, h]

theorem State.homeBytes_part {s : State} {f pa n k m : Nat} (h : k + m ≤ n) :
    ((s.homeBytes f pa n).drop k).take m = s.homeBytes f (pa + k) m := by
  have hlen : (((s.homeBytes f pa n).drop k).take m).length = m := by simp [State.homeBytes_length]; omega
  refine ext_getD (by rw [hlen, State.homeBytes_length]) fun i hi => ?_
  rw [hlen] at hi
  rw [List.getD_eq_getElem?_getD, List.getElem?_take_of_lt hi, List.getElem?_drop, ← List.getD_eq_getElem?_getD,
    State.homeBytes_getD (by omega), State.homeBytes_getD hi, Nat.add_assoc]

/-- The byte at `a` after a reduce-add of `n` bytes at the home: of the sum `g` of the element of `size` bytes that holds it. -/
def State.addedByte (s : State) (f pa n x size : Nat) (g : Nat → Nat → Nat) (a : Nat) : Byte :=
  if pa ≤ a ∧ a < pa + n then
    let i := (a - pa) / size * size
    BitVec.ofNat 8 (g (bytesNat (s.homeBytes f (pa + i) size)) (x / 2 ^ (8 * i) % 2 ^ (8 * size)) / 2 ^ (8 * (a - pa - i)))
  else s.homeByte f a

section Serve
variable {s : State} {f pa n x : Nat} {op : PeerOp} (h : s.homeGood f pa = true) (hf : f < 64) (hhalt : s.tabs.halted = false)
  (hreg : ∀ k, s.regionHeld none k = false) (hfit : pa % 256 + n ≤ 256)
include h hf hhalt hreg hfit

/-- A peer's write at a good home. -/
theorem State.peerServe_write :
    ∃ t, s.peerServe pa f .write n x = some t ∧ t.waves = s.waves ∧ (fieldsComp f = false → s.Written t f pa n x) := by
  obtain ⟨t, ht, hw⟩ := State.written_of_good (n := n) (x := x) h hf hreg hfit
  exact ⟨t, by simp only [State.peerServe, hhalt, Bool.false_eq_true, if_false, ht], hw⟩

/-- A peer's reduce-add at a good home. -/
theorem State.peerServe_add (hr : op ≠ .read) (hw : op ≠ .write) (hn : n % redSize (peerRedop op) = 0) :
    ∃ t, s.peerServe pa f op n x = some t ∧ t.waves = s.waves ∧ (fieldsComp f = false → ∀ a, a / 256 = pa / 256 →
      t.homeByte f a = s.addedByte f pa n x (redSize (peerRedop op)) (raddElem (peerRedop op)) a) := by
  obtain ⟨t, ht, hwaves, hbytes⟩ := State.homeWrite_of_good (s := s.answer false (bytesNat (s.homeBytes f pa n))) (f := f) (pa := pa)
    (bs := raddBytes (peerRedop op) (s.homeBytes f pa n) (natBytes n x)) h hf hreg
    (by rwa [raddBytes_length (by rwa [natBytes_length]), natBytes_length])
  have hold : natBytes n (bytesNat (s.homeBytes f pa n)) = s.homeBytes f pa n := by
    have := natBytes_bytesNat (s.homeBytes f pa n)
    rwa [State.homeBytes_length] at this
  have hserve : s.peerServe pa f op n x = some t := by
    cases op with
    | read => exact absurd rfl hr
    | write => exact absurd rfl hw
    | addI32 | addF32 | addBf16 =>
      rw [← ht]
      simp [State.peerServe, State.homeRead_of_good h hfit, State.answer, hhalt, hold]
  refine ⟨t, hserve, hwaves, fun hc a ha => ?_⟩
  rw [hbytes hc a ha, raddBytes_length (by rwa [natBytes_length]), natBytes_length, State.addedByte]
  have hpos := redSize_pos (peerRedop op)
  have hdvd := Nat.div_add_mod n (redSize (peerRedop op))
  split
  · rename_i hin
    have hj : (a - pa) / redSize (peerRedop op) * redSize (peerRedop op) + redSize (peerRedop op) ≤ n := by
      have hlt : (a - pa) / redSize (peerRedop op) < n / redSize (peerRedop op) := by
        rw [Nat.div_lt_iff_lt_mul hpos, Nat.mul_comm]
        omega
      have := Nat.mul_le_mul_right (redSize (peerRedop op)) hlt
      rw [Nat.succ_mul, Nat.mul_comm (n / _)] at this
      omega
    rw [raddBytes_getD (by rwa [natBytes_length]) (by rw [natBytes_length]; omega)]
    dsimp only
    rw [State.homeBytes_part hj, natBytes_part hj, bytesNat_natBytes, Nat.pow_mul 2 8 (redSize _)]
  · rfl

end Serve

/-- Settles O31: the walk of an access, then the block at its home. -/
theorem outsideAccesses : Obligations.OutsideAccesses := by
  refine ⟨exportOk_iff, fun s hdm n m data idx peer off op len big => ⟨?readRefused, ?read, ?writeRefused, ?write, ?peer⟩⟩
  case readRefused =>
    intro hp
    refine ⟨_, exec_hostMemRead_refused hp, rfl, (s.recoded_hdmWalked _).codesOnly_answer _ _, fun hg => ?_⟩
    rw [State.hdmWalked_of_walk hg]
    exact ⟨rfl, rfl⟩
  case read =>
    intro pa f hp hgood
    exact ⟨_, exec_hostMemRead_good hp hgood, rfl, rfl, rfl⟩
  case writeRefused =>
    intro hp
    have hr := s.recoded_hdmWalked hdm.toNat
    exact ⟨_, exec_hostMemWrite_refused hp, hr.codesOnly, by rw [hr.1], State.hdmWalked_of_walk⟩
  case write =>
    intro pa f hp hf hc hgood hhalt hreg
    exact exec_hostMemWrite_good hp hf hc hgood hhalt hreg
  case peer =>
    intro e va out eng hfit
    refine ⟨fun hx => ⟨_, exec_peerRequest_refused hfit hx, rfl, rfl⟩, fun hx => ⟨fun he => ?_, fun he => ?_, fun he => ?_, ?served⟩⟩
    · exact ⟨_, exec_peerRequest_error rfl hfit hx he, rfl, rfl⟩
    · exact ⟨_, exec_peerRequest_poison rfl hfit hx he, rfl, (s.recoded_recodeAt va).codesOnly_answer _ _⟩
    · exact exec_peerRequest_absent rfl hfit hx he
    case served =>
      intro pa f he hf hgood hhalt hreg
      obtain ⟨-, hin, hwhole⟩ := (peerFits_iff _ _ _).mp hfit
      have hpa : pa % 256 = off.toNat % 256 := by
        have := State.engine_ok_mod he
        omega
      have hblock : pa % 256 + len.toNat ≤ 256 := by rw [hpa]; exact hin
      have hserve (t : State) (ht : s.peerServe pa f op len.toNat big.toNat = some t) : out = .next t :=
        exec_peerRequest_some rfl hfit hx (by simp only [State.peerTry]; rw [show s.engine _ _ _ = _ from he]; exact ht)
      cases op with
      | read =>
        have hr := State.homeRead_of_good hgood hblock
        exact ⟨_, hserve _ (congrArg some hr), rfl, fun _ => rfl, fun _ => ⟨nofun, nofun, nofun, nofun⟩⟩
      | write =>
        obtain ⟨t, ht, hw, hb⟩ := State.peerServe_write (x := big.toNat) hgood hf hhalt hreg hblock
        exact ⟨t, hserve t ht, hw, nofun, fun hc => ⟨fun _ => hb hc, nofun, nofun, nofun⟩⟩
      | addI32 =>
        obtain ⟨t, ht, hw, hb⟩ := State.peerServe_add (x := big.toNat) (op := .addI32) hgood hf hhalt hreg hblock nofun nofun
          (hwhole.resolve_left nofun).1
        exact ⟨t, hserve t ht, hw, nofun, fun hc => ⟨nofun, fun _ => hb hc, nofun, nofun⟩⟩
      | addF32 =>
        obtain ⟨t, ht, hw, hb⟩ := State.peerServe_add (x := big.toNat) (op := .addF32) hgood hf hhalt hreg hblock nofun nofun
          (hwhole.resolve_left nofun).1
        exact ⟨t, hserve t ht, hw, nofun, fun hc => ⟨nofun, nofun, fun _ => hb hc, nofun⟩⟩
      | addBf16 =>
        obtain ⟨t, ht, hw, hb⟩ := State.peerServe_add (x := big.toNat) (op := .addBf16) hgood hf hhalt hreg hblock nofun nofun
          (hwhole.resolve_left nofun).1
        exact ⟨t, hserve t ht, hw, nofun, fun hc => ⟨nofun, nofun, nofun, fun _ => hb hc⟩⟩

end Sys2Proof.Machine

/-! PROOFS. The units' events (05 R72 to R81; 15 R245, R246; 17 R260 to R264), and O52: the exact unit and TLDEC lane by lane, TLENC
byte by byte from the rules of term-list form, DECS bit by bit from the rules of the split-stream code. -/

namespace Sys2Proof.Machine

/-! ### The wave of a unit's work, its core and its clock -/

/-- A wave on the die that changes under its number, and nothing else does. -/
theorem State.onAny_of_wave? {s : State} {wid : Nat} {f : Wave → Wave} {w : Wave} (h : s.wave? wid = some w) (hid : (f w).id = w.id)
    (hb : w.flow.hold ≠ .blank → (f w).flow.hold ≠ .blank) :
    (s.onAny wid f).wave? wid = some (f w) ∧
      s.onAny wid f = { s with w := (s.onAny wid f).w, others := (s.onAny wid f).others } := by
  have hany : s.onAny wid f = s.onWave wid f := by rw [State.onAny, h]; rfl
  have hwid : (f w).id.wid = wid := by
    rw [hid]
    exact beq_iff_eq.mp (List.find?_some (p := fun x : Wave => x.id.wid == wid) h)
  have hfind (xs : List Wave) (hx : xs.find? (fun x => x.id.wid == wid) = some w) :
      (xs.map fun x => if x.id.wid = wid then f x else x).find? (fun x => x.id.wid == wid) = some (f w) := by
    induction xs with
    | nil => cases hx
    | cons x xs ih =>
      by_cases hxw : x.id.wid = wid
      · rw [List.find?_cons_of_pos (by simpa using hxw)] at hx
        cases hx
        simp [hxw, hwid]
      · rw [List.find?_cons_of_neg (by simpa using hxw)] at hx
        simp [hxw, ih hx]
  rw [hany]
  unfold State.wave? State.waves at h ⊢
  by_cases hacting : s.w.id.wid = wid ∧ s.w.flow.hold ≠ .blank
  · have hon : s.onWave wid f = s.onW f := if_pos hacting
    obtain ⟨hw, hne⟩ := hacting
    rw [if_neg hne, List.find?_cons_of_pos (by simpa using hw)] at h
    cases h
    refine ⟨?_, by rw [hon]; rfl⟩
    rw [hon, State.onW_w, State.onW_others, if_neg (hb hne), List.find?_cons_of_pos (by simpa using hwid)]
  · have hon : s.onWave wid f = { s with others := s.others.map fun x => if x.id.wid = wid then f x else x } := if_neg hacting
    rw [hon]
    refine ⟨?_, rfl⟩
    by_cases hne : s.w.flow.hold = .blank
    · rw [if_pos hne] at h
      simp only [if_pos hne, hfind _ h]
    · have hw : ¬(s.w.id.wid == wid) = true := by
        rw [beq_iff_eq]
        exact fun hw => hacting ⟨hw, hne⟩
      rw [if_neg hne, List.find?_cons_of_neg (p := fun x : Wave => x.id.wid == wid) hw] at h
      simp only [if_neg hne]
      rw [List.find?_cons_of_neg (p := fun x : Wave => x.id.wid == wid) hw, hfind _ h]

theorem look?_map {α β : Type} (g : α → β) (m : Map α) (k : Nat) :
    look? (m.map fun e => (e.1, g e.2)) k = (look? m k).map g := by
  induction m with
  | nil => rfl
  | cons e m ih =>
    simp only [List.map_cons, look?, ih]
    split <;> rfl

/-- Time that passes changes of a core the work of its vector ALUs alone. -/
theorem State.core_pass (s : State) (d k : Nat) : (s.pass d).core k = { s.core k with alu := ((s.pass d).core k).alu } := by
  have hmap := look?_map (fun c : Core => { c with alu := c.alu.filterMap fun (e : Nat × Nat) => if e.2 ≤ d then none else some (e.1, e.2 - d) }) s.cores k
  simp only [State.core, State.pass, look, hmap]
  cases look? s.cores k <;> rfl

theorem State.coreClock_passTo {s : State} (h : s.tabs.power = .active) (n : Nat) :
    (s.passTo n).pkg.coreClock = max s.pkg.coreClock n := by
  simp only [State.passTo, State.pass, if_pos h]
  omega

@[simp] theorem State.core_onCore (s : State) (c : Nat) (f : Core → Core) : (s.onCore c f).core c = f (s.core c) := by
  simp [State.core, State.onCore]

theorem popUnit_length {q rest : List UnitOp} {o : UnitOp} (h : q = o :: rest) (now : Nat) : (popUnit q now).length = rest.length := by
  subst h
  cases rest <;> rfl

theorem getLsbD_setBit_of_lt {n : Nat} (x : BitVec n) {l : Nat} (hl : l < n) (k : Nat) :
    (setBit x l true).getLsbD k = (x.getLsbD k || decide (k = l)) := by
  have h2 : (BitVec.ofNat n (2 ^ l)).getLsbD k = decide (k = l) := by
    rw [BitVec.getLsbD_ofNat, Nat.testBit_two_pow]
    by_cases h : l = k
    · subst h; simp [hl]
    · simp [h, Ne.symm h]
  unfold setBit
  rw [if_pos rfl, BitVec.getLsbD_or, h2]

/-- Marked registers are full. -/
theorem getLsbD_setBits {n : Nat} (x : BitVec n) (d m k : Nat) (hm : d + m ≤ n) :
    ((List.range m).foldl (fun x i => setBit x (d + i) true) x).getLsbD k = (x.getLsbD k || (decide (d ≤ k) && decide (k < d + m))) := by
  induction m with
  | zero =>
    have : ¬(d ≤ k ∧ k < d + 0) := by omega
    simp only [List.range_zero, List.foldl_nil, ← Bool.decide_and, this, decide_false, Bool.or_false]
  | succ m ih =>
    rw [List.range_succ, List.foldl_append, List.foldl_cons, List.foldl_nil, getLsbD_setBit_of_lt _ (by omega), ih (by omega), Bool.or_assoc]
    congr 1
    rw [Bool.eq_iff_iff]
    simp only [Bool.or_eq_true, Bool.and_eq_true, decide_eq_true_eq]
    omega

theorem Wave.markV_full {w : Wave} {d n k : Nat} (hn : d + n ≤ 128) (hd : d ≤ k) (hk : k < d + n) :
    (w.markV d n true).regs.vfull.getLsbD k = true := by
  rw [Wave.markV_regs]
  simp [getLsbD_setBits _ _ _ _ hn, hd, hk]

theorem Wave.markS_full {w : Wave} {d : Nat} (hd : d < 64) : (w.markS d 1 true).regs.sfull.getLsbD d = true := by
  rw [Wave.markS_regs]
  simp [getLsbD_setBit_of_lt w.regs.sfull hd d]

/-- With no V2S moves waiting, nothing settles. -/
theorem Wave.settleV2S_of_nil {w : Wave} (h : w.mem.v2s = []) : w.settleV2S = w := by
  simp [Wave.settleV2S, h]
  rw [← h]

/-! ### Lanes written one by one -/

/-- Write one lane of a vector register: lane, register and value. -/
def Wave.wrCell (w : Wave) (x : Nat × Nat × Word) : Wave := w.wrVMask (maskOf [x.1]) x.2.1 fun _ => x.2.2

theorem Wave.lane_wrCell {w : Wave} {x : Nat × Nat × Word} (hl : x.1 < 32) (hr : x.2.1 < 128) (r l : Nat) :
    (w.wrCell x).lane r l = if r = x.2.1 ∧ l = x.1 then x.2.2 else w.lane r l := by
  rw [Wave.wrCell, Wave.lane_wrVMask, maskOf_getLsbD [x.1] (by simpa using hl)]
  simp only [List.mem_singleton, decide_eq_true_eq]
  by_cases h : r = x.2.1 ∧ l = x.1
  · rw [if_pos h, if_pos ⟨h.1, hr, h.2 ▸ hl, h.2⟩]
  · rw [if_neg h, if_neg fun h' => h ⟨h'.1, h'.2.2.2⟩]

theorem Wave.rdV_wrCell {w : Wave} {x : Nat × Nat × Word} {r : Nat} (h : x.2.1 ≠ r) : (w.wrCell x).rdV r = w.rdV r := by
  rw [Wave.wrCell, Wave.rdV_wrVMask, if_neg fun h' => h h'.1.symm]

/-- A lane that several writes reach has their value, where they agree. -/
theorem Wave.lane_wrCells {xs : List (Nat × Nat × Word)} {w : Wave} {r l : Nat} {y : Word} (hin : ∀ x ∈ xs, x.1 < 32 ∧ x.2.1 < 128)
    (hy : ∀ x ∈ xs, x.1 = l → x.2.1 = r → x.2.2 = y) (hex : (∃ x ∈ xs, x.1 = l ∧ x.2.1 = r) ∨ w.lane r l = y) :
    (xs.foldl Wave.wrCell w).lane r l = y := by
  induction xs generalizing w with
  | nil => simpa using hex
  | cons x xs ih =>
    obtain ⟨hl, hr⟩ := hin x List.mem_cons_self
    refine ih (fun z hz => hin z (List.mem_cons_of_mem _ hz)) (fun z hz => hy z (List.mem_cons_of_mem _ hz)) ?_
    rw [Wave.lane_wrCell hl hr]
    by_cases hx : r = x.2.1 ∧ l = x.1
    · exact .inr ((if_pos hx).trans (hy x List.mem_cons_self hx.2.symm hx.1.symm))
    · rw [if_neg hx]
      rcases hex with ⟨z, hz, h1, h2⟩ | h
      · rcases List.mem_cons.mp hz with rfl | hz
        · exact absurd ⟨h2.symm, h1.symm⟩ hx
        · exact .inl ⟨z, hz, h1, h2⟩
      · exact .inr h

theorem Wave.rdV_wrCells {xs : List (Nat × Nat × Word)} {w : Wave} {r : Nat} (h : ∀ x ∈ xs, x.2.1 ≠ r) :
    (xs.foldl Wave.wrCell w).rdV r = w.rdV r := by
  induction xs generalizing w with
  | nil => rfl
  | cons x xs ih =>
    rw [List.foldl_cons, ih fun z hz => h z (List.mem_cons_of_mem _ hz), Wave.rdV_wrCell (h x List.mem_cons_self)]

/-- Writes of lanes change vector registers alone. -/
theorem Wave.wrCells_eq (xs : List (Nat × Nat × Word)) (w : Wave) :
    xs.foldl Wave.wrCell w = { w with regs := { w.regs with v := (xs.foldl Wave.wrCell w).regs.v } } := by
  induction xs generalizing w with
  | nil => rfl
  | cons x xs ih => rw [List.foldl_cons, ih (w.wrCell x)]; rfl

/-! ### The exact unit (15 R245, R246; 17 R264) -/

/-- The value of a sum of products added one by one, whatever its flags. -/
theorem foldl_fmaStep_fst (fm : FFmt) (x y : Nat → FVal) (ks : List Nat) (c : Nat × Flags) :
    (ks.foldl (fun c i => fmaStep fm c (x i) (y i)) c).1 = ks.foldl (fun c i => (fm.fma .rne (x i) (y i) (fm.unpack c)).1) c.1 := by
  induction ks generalizing c with
  | nil => rfl
  | cons k ks ih => exact ih _

theorem xmmReal_fst (b : Block) (o : XmmOp) (fin fm : FFmt) (n k m j c0 : Nat) :
    (xmmReal b o fin fm n k m j c0).1 = (List.range k).foldl (fun c i =>
      (fm.fma .rne (b.numAt fin n (o.aoff + n * (k * m + i))) (b.numAt fin n (o.boff + n * (16 * i + j))) (fm.unpack c)).1) c0 := by
  simp only [xmmReal, foldl_fmaStep_fst, Nat.mul_comm n, Nat.mul_comm k m, Nat.mul_comm 16]

/-- The real part of an element of C of complex numbers, as the statement forms it. -/
theorem xmmComplex_fst (b : Block) (o : XmmOp) (m j cr ci : Nat) :
    let num := b.numAt fp64 8
    let step := fun (c : Nat) (x y : FVal) => (fp64.fma .rne x y (fp64.unpack c)).1
    let bi := fun i => let x := num (o.boff + 16 * (8 * i + j) + 8); if o.conjb then x.neg else x
    (xmmComplex b o m j cr ci).1.1 = (List.range 4).foldl (fun c i =>
      step (step c (num (o.aoff + 16 * (4 * m + i))) (num (o.boff + 16 * (8 * i + j)))) (num (o.aoff + 16 * (4 * m + i) + 8)).neg (bi i)) cr ∧
    (xmmComplex b o m j cr ci).2.1 = (List.range 4).foldl (fun c i =>
      step (step c (num (o.aoff + 16 * (4 * m + i))) (bi i)) (num (o.aoff + 16 * (4 * m + i) + 8)) (num (o.boff + 16 * (8 * i + j)))) ci := by
  simp only [xmmComplex, Nat.mul_comm _ 16, Nat.mul_comm _ 4, Nat.mul_comm _ 8]
  exact ⟨rfl, rfl⟩

/-- The writes of an XMM: lane, register and value. -/
def XmmOp.writes (o : XmmOp) (b : Block) (w : Wave) : List (Nat × Nat × Word) :=
  (List.range (xmmGroups o.form)).flatMap fun g => (List.range 32).flatMap fun l => (xmmLane b o w g l).1.map fun x => (l, x)

theorem XmmOp.mem_writes {o : XmmOp} {b : Block} {w : Wave} {x : Nat × Nat × Word} :
    x ∈ o.writes b w ↔ ∃ g < xmmGroups o.form, x.1 < 32 ∧ x.2 ∈ (xmmLane b o w g x.1).1 := by
  obtain ⟨l, y⟩ := x
  simp only [XmmOp.writes, List.mem_flatMap, List.mem_range, List.mem_map, Prod.mk.injEq]
  constructor
  · rintro ⟨g, hg, l', hl, y', hy, rfl, rfl⟩
    exact ⟨g, hg, hl, hy⟩
  · rintro ⟨g, hg, hl, hy⟩
    exact ⟨g, hg, l, hl, y, hy, rfl, rfl⟩

/-- The wave after an XMM: its writes, C full, and the flags. -/
theorem Wave.afterXmm_eq {w : Wave} (b : Block) (o : XmmOp) (h : w.mem.v2s = []) :
    ∃ f, w.afterXmm b o = (((o.writes b w).foldl Wave.wrCell w).markV o.d (xmmRegs o.form) true).orFlags f := by
  have hcells : (((List.range (xmmGroups o.form)).flatMap fun g => (List.range 32).map fun l => (l, xmmLane b o w g l)).foldl
      (fun v c => c.2.1.foldl (fun v x => v.wrVMask (maskOf [c.1]) x.1 fun _ => x.2) v) w) = (o.writes b w).foldl Wave.wrCell w := by
    simp only [XmmOp.writes, List.foldl_flatMap, List.foldl_map]
    rfl
  have hsettle (f : Flags) : ((((o.writes b w).foldl Wave.wrCell w).markV o.d (xmmRegs o.form) true).orFlags f).settleV2S =
      (((o.writes b w).foldl Wave.wrCell w).markV o.d (xmmRegs o.form) true).orFlags f := by
    refine Wave.settleV2S_of_nil ?_
    rw [Wave.orFlags_mem, Wave.markV_mem, Wave.wrCells_eq]
    exact h
  unfold Wave.afterXmm
  simp only [hcells, hsettle]
  exact ⟨_, rfl⟩

/-- Registers of a group of C. -/
def xmmSpan (form : Nat) : Nat := if form = 0 then 2 else if form = 3 then 4 else 1

theorem xmmGroups_span (form : Nat) : xmmGroups form * xmmSpan form = xmmRegs form := by
  unfold xmmGroups xmmSpan xmmRegs
  grind

/-- The registers that a lane of a group writes are the group's own, each once. -/
theorem xmmLane_regs {b : Block} {o : XmmOp} {w : Wave} (hf : o.form < 4) (g l : Nat) :
    ((xmmLane b o w g l).1.map (·.1)) = (List.range (xmmSpan o.form)).map fun i => o.d + xmmSpan o.form * g + i := by
  have hcases : o.form = 0 ∨ o.form = 1 ∨ o.form = 2 ∨ o.form = 3 := by omega
  rcases hcases with h | h | h | h <;> simp [xmmLane, xmmSpan, h, List.range_succ]

/-- A register and lane of C takes the value that its group gives it. -/
theorem Wave.lane_xmmWrites {b : Block} {o : XmmOp} {w : Wave} {g l r : Nat} {y : Word} (hf : o.form < 4) (hd : o.d + xmmRegs o.form ≤ 128)
    (hg : g < xmmGroups o.form) (hl : l < 32) (hy : (r, y) ∈ (xmmLane b o w g l).1) :
    ((o.writes b w).foldl Wave.wrCell w).lane r l = y := by
  have hspan := xmmGroups_span o.form
  have hreg {g' l' : Nat} {x : Nat × Word} (hx : x ∈ (xmmLane b o w g' l').1) :
      o.d + xmmSpan o.form * g' ≤ x.1 ∧ x.1 < o.d + xmmSpan o.form * g' + xmmSpan o.form := by
    have := List.mem_map_of_mem (f := (·.1)) hx
    rw [xmmLane_regs hf] at this
    simp only [List.mem_map, List.mem_range] at this
    obtain ⟨i, hi, he⟩ := this
    omega
  have hle {g' : Nat} (hg' : g' < xmmGroups o.form) : xmmSpan o.form * g' + xmmSpan o.form ≤ xmmRegs o.form := by
    rw [← hspan, Nat.mul_comm, ← Nat.succ_mul]
    exact Nat.mul_le_mul_right _ hg'
  refine Wave.lane_wrCells (fun x hx => ?_) (fun x hx h1 h2 => ?_) (.inl ⟨(l, r, y), XmmOp.mem_writes.mpr ⟨g, hg, hl, hy⟩, rfl, rfl⟩)
  · obtain ⟨g', hg', hlt, hx⟩ := XmmOp.mem_writes.mp hx
    have := hreg hx
    have := hle hg'
    exact ⟨hlt, by omega⟩
  · obtain ⟨g', hg', hlt, hx⟩ := XmmOp.mem_writes.mp hx
    obtain ⟨h3, h4⟩ := hreg hx
    obtain ⟨h5, h6⟩ := hreg hy
    simp only at h5 h6
    have hgg : g' = g := by
      rw [h2] at h3 h4
      generalize xmmSpan o.form = n at *
      rcases Nat.lt_trichotomy g' g with hlt | rfl | hlt
      · have := Nat.mul_le_mul_left n hlt
        rw [Nat.mul_succ] at this
        omega
      · rfl
      · have := Nat.mul_le_mul_left n hlt
        rw [Nat.mul_succ] at this
        omega
    subst hgg
    rw [h1] at hx
    have hnodup : ((xmmLane b o w g' l).1.map (·.1)).Nodup := by
      rw [xmmLane_regs hf]
      exact List.Nodup.map (fun i j h => by simpa using h) List.nodup_range
    exact congrArg Prod.snd (List.inj_on_of_nodup_map hnodup hx hy h2)

theorem Wave.rdV_xmmWrites {b : Block} {o : XmmOp} {w : Wave} {r : Nat} (hf : o.form < 4) (h : r < o.d ∨ o.d + xmmRegs o.form ≤ r) :
    ((o.writes b w).foldl Wave.wrCell w).rdV r = w.rdV r := by
  refine Wave.rdV_wrCells fun x hx => ?_
  obtain ⟨g, hg, -, hx⟩ := XmmOp.mem_writes.mp hx
  have hmem := List.mem_map_of_mem (f := (·.1)) hx
  rw [xmmLane_regs hf] at hmem
  simp only [List.mem_map, List.mem_range] at hmem
  obtain ⟨i, hi, he⟩ := hmem
  have hle := Nat.mul_le_mul_left (xmmSpan o.form) hg
  rw [Nat.mul_succ, Nat.mul_comm _ (xmmGroups _), xmmGroups_span] at hle
  omega

/-- The halves of a number in a register pair. -/
theorem pairBits_ofNat (x : Nat) : pairBits (BitVec.ofNat 32 (x / 2 ^ 32)) (BitVec.ofNat 32 x) = BitVec.ofNat 64 x := by
  refine BitVec.eq_of_toNat_eq ?_
  simp only [pairBits, BitVec.toNat_append, BitVec.toNat_ofNat]
  rw [← Nat.shiftLeft_add_eq_or_of_lt (Nat.mod_lt _ (by decide)), Nat.shiftLeft_eq]
  omega

/-- XMM_START of the head of the queue. -/
theorem exec_xmmStart {s : State} {core : BitVec 7} {o : XmmOp} {rest : List XmmOp} {bk : Nat} {b : Block}
    (hq : (s.core core.toNat).xq = o :: rest) (hbk : o.blk = some bk) (hb : s.blk? bk = some b) (hstart : o.started = none)
    (hbefore : s.tileBefore o.wid o.seq = false) (ha : b.pending o.aoff (xmmBytes o.form) = false)
    (hbp : b.pending o.boff (xmmBytes o.form) = false) :
    exec (.xmmStart core) s = .next (s.onCore core.toNat fun c => { c with xq := { o with started := some s.pkg.coreClock } :: rest }) := by
  show execXmmStart core s = _
  simp [execXmmStart, hq, hbk, hb, hstart, hbefore, ha, hbp]

/-- The state and the wave after an XMM. -/
theorem exec_xmmComplete {s : State} {core : BitVec 7} {o : XmmOp} {rest : List XmmOp} {bk t0 : Nat} {b : Block} {w : Wave}
    (hq : (s.core core.toNat).xq = o :: rest) (hbk : o.blk = some bk) (hb : s.blk? bk = some b) (hstart : o.started = some t0)
    (hw : s.wave? o.wid = some w) (hv : w.mem.v2s = []) :
    ∃ t f, exec (.xmmComplete core) s = .next t ∧
      t.wave? o.wid = some ((((o.writes b w).foldl Wave.wrCell w).markV o.d (xmmRegs o.form) true).orFlags f) ∧
      (t.core core.toNat).xq = rest ∧ t.die = s.die ∧
      (s.tabs.power = .active → t.pkg.coreClock = max s.pkg.coreClock (t0 + xmmCycles o.form)) := by
  obtain ⟨f, hf⟩ := Wave.afterXmm_eq b o hv
  have hflow := congrArg Wave.flow (Wave.wrCells_eq (o.writes b w) w)
  have hid := congrArg Wave.id (Wave.wrCells_eq (o.writes b w) w)
  let u := (s.passTo (t0 + xmmCycles o.form)).onCore core.toNat fun c => { c with xq := rest }
  have hwu : u.wave? o.wid = some w := hw
  obtain ⟨hwt, ht⟩ := State.onAny_of_wave? (f := fun w => w.afterXmm b o) hwu (by rw [hf]; exact hid)
    (by rw [hf, Wave.orFlags_flow, Wave.markV_flow, hflow]; exact id)
  refine ⟨u.onAny o.wid fun w => w.afterXmm b o, f, ?_, by rw [hwt, hf], ?_, ?_, ?_⟩
  · show execXmmComplete core s = _
    simp only [execXmmComplete, hq, hstart, hbk, Option.bind_some, hb]
    rfl
  · rw [ht]
    exact (congrArg Core.xq (State.core_onCore _ core.toNat _) : (u.core core.toNat).xq = rest)
  · rw [ht]
    rfl
  · intro hp
    rw [ht]
    exact State.coreClock_passTo hp _

/-- R245, R246, R264: the exact unit. -/
theorem exactUnitRuns : Statements.ExactUnitRuns := by
  intro s core o rest bk b hq hbk hb
  refine ⟨fun hstart hbefore ha hbp => ⟨_, exec_xmmStart hq hbk hb hstart hbefore ha hbp, rfl, ?_⟩, ?_⟩
  · exact congrArg Core.xq (State.core_onCore _ _ _)
  · intro t0 w hstart hw hform hd hv
    obtain ⟨t, f, ht, hwt, hxq, hdie, hclock⟩ := exec_xmmComplete hq hbk hb hstart hw hv
    have hflow := congrArg Wave.flow (Wave.wrCells_eq (o.writes b w) w)
    have hregs := congrArg Wave.regs (Wave.wrCells_eq (o.writes b w) w)
    have hlane {g l r : Nat} {y : Word} (hg : g < xmmGroups o.form) (hl : l < 32) (hy : (r, y) ∈ (xmmLane b o w g l).1) :
        ((((o.writes b w).foldl Wave.wrCell w).markV o.d (xmmRegs o.form) true).orFlags f).lane r l = y :=
      Wave.lane_xmmWrites hform hd hg hl hy
    have hlane2 {g l r x : Nat} (hg : g < xmmGroups o.form) (hl : l < 32) (hlo : (r, BitVec.ofNat 32 x) ∈ (xmmLane b o w g l).1)
        (hhi : (r + 1, BitVec.ofNat 32 (x / 2 ^ 32)) ∈ (xmmLane b o w g l).1) :
        ((((o.writes b w).foldl Wave.wrCell w).markV o.d (xmmRegs o.form) true).orFlags f).lane2 r l = BitVec.ofNat 64 x := by
      rw [Wave.lane2, hlane hg hl hlo, hlane hg hl hhi, pairBits_ofNat]
    have hcell (e : Nat) : e % 32 < 32 := Nat.mod_lt _ (by decide)
    have he (e : Nat) : 32 * (e / 32) + e % 32 = e := Nat.div_add_mod e 32
    have hrow {n m j : Nat} (hj : j < n) : (n * m + j) / n = m ∧ (n * m + j) % n = j :=
      ⟨by rw [Nat.mul_add_div (by omega), Nat.div_eq_of_lt hj, Nat.add_zero], by rw [Nat.mul_add_mod, Nat.mod_eq_of_lt hj]⟩
    refine ⟨t, _, ht, hwt, hxq, fun m hm j hj => ⟨fun h0 => ?_, fun h1 => ?_, fun h2 => ?_⟩, fun h3 m hm j hj => ?_, fun i hi => ?_, fun r hr => ?_,
      fun r => ?_, hflow, hclock, hdie⟩
    · obtain ⟨hm', hj'⟩ := hrow (m := m) hj
      have hg : (16 * m + j) / 32 < xmmGroups o.form := by rw [h0]; show _ < 8; omega
      refine (hlane2 (x := (xmmReal b o fp64 fp64 8 8 m j (o.old (w.lane2 (o.d + 2 * ((16 * m + j) / 32)) ((16 * m + j) % 32)).toNat)).1)
        hg (hcell _) ?_ ?_).trans (congrArg _ (xmmReal_fst ..))
      all_goals simp [xmmLane, h0, he, hm', hj']
    · obtain ⟨hm', hj'⟩ := hrow (m := m) hj
      have hg : (16 * m + j) / 32 < xmmGroups o.form := by rw [h1]; show _ < 8; omega
      refine (hlane (y := BitVec.ofNat 32 (xmmReal b o fp32 fp32 4 16 m j (o.old (w.lane (o.d + (16 * m + j) / 32) ((16 * m + j) % 32)).toNat)).1)
        hg (hcell _) ?_).trans (congrArg _ (xmmReal_fst ..))
      simp [xmmLane, h1, he, hm', hj']
    · obtain ⟨hm', hj'⟩ := hrow (m := m) hj
      have hg : (16 * m + j) / 32 < xmmGroups o.form := by rw [h2]; show _ < 8; omega
      refine (hlane (y := BitVec.ofNat 32 (xmmReal b o bf16 fp32 2 32 m j (o.old (w.lane (o.d + (16 * m + j) / 32) ((16 * m + j) % 32)).toNat)).1)
        hg (hcell _) ?_).trans (congrArg _ (xmmReal_fst ..))
      simp [xmmLane, h2, he, hm', hj']
    · obtain ⟨hm', hj'⟩ := hrow (m := m) hj
      have hg : (8 * m + j) / 32 < xmmGroups o.form := by rw [h3]; show _ < 2; omega
      generalize hl : (8 * m + j) % 32 = l
      generalize hr : o.d + 4 * ((8 * m + j) / 32) = r
      obtain ⟨hre, him⟩ := xmmComplex_fst b o m j (o.old (w.lane2 r l).toNat) (o.old (w.lane2 (r + 2) l).toNat)
      have hl32 : l < 32 := hl ▸ hcell _
      have hlanes : (xmmLane b o w ((8 * m + j) / 32) l).1 = let c := xmmComplex b o m j (o.old (w.lane2 r l).toNat) (o.old (w.lane2 (r + 2) l).toNat)
          [(r, BitVec.ofNat 32 c.1.1), (r + 1, BitVec.ofNat 32 (c.1.1 / 2 ^ 32)),
           (r + 2, BitVec.ofNat 32 c.2.1), (r + 2 + 1, BitVec.ofNat 32 (c.2.1 / 2 ^ 32))] := by
        subst hl hr
        simp [xmmLane, h3, he, hm', hj']
      exact ⟨(hlane2 hg hl32 (by rw [hlanes]; simp) (by rw [hlanes]; simp)).trans (congrArg _ hre),
        (hlane2 hg hl32 (by rw [hlanes]; simp) (by rw [hlanes]; simp)).trans (congrArg _ him)⟩
    · exact Wave.markV_full hd (by omega) (by omega)
    · exact Wave.rdV_xmmWrites hform hr
    · rw [Wave.rdS, Wave.rdS, Wave.orFlags_regs, Wave.markV_regs, hregs]

/-! ### TLDEC (17 R261) -/

/-- The writes of a TLDEC's lanes, and the flags of all. -/
def UnitOp.cells (o : UnitOp) (b : Block) (xs : List (Nat × Nat)) : List (Nat × Nat × Word) :=
  xs.flatMap fun x => [(x.1, o.d, (tldecLane b o x.2).1), (x.1, o.d + 1, (tldecLane b o x.2).2.1)]

def UnitOp.flagsOf (o : UnitOp) (b : Block) (xs : List (Nat × Nat)) : Flags := xs.foldr (fun x f => (tldecLane b o x.2).2.2 ||| f) 0

theorem Wave.wrCells_orFlags (xs : List (Nat × Nat × Word)) (w : Wave) (f : Flags) :
    xs.foldl Wave.wrCell (w.orFlags f) = (xs.foldl Wave.wrCell w).orFlags f := by
  induction xs generalizing w with
  | nil => rfl
  | cons x xs ih => exact ih (w.wrCell x)

theorem Wave.afterTldec_eq {w : Wave} (b : Block) (o : UnitOp) (h : w.mem.v2s = []) :
    w.afterTldec b o = (((o.cells b o.lanes).foldl Wave.wrCell w).orFlags (o.flagsOf b o.lanes)).markV o.d 2 true := by
  have hfold (xs : List (Nat × Nat)) (v : Wave) : xs.foldl (fun v l =>
      let r := tldecLane b o l.2
      ((v.wrVMask (maskOf [l.1]) o.d fun _ => r.1).wrVMask (maskOf [l.1]) (o.d + 1) fun _ => r.2.1).orFlags r.2.2) v =
      ((o.cells b xs).foldl Wave.wrCell v).orFlags (o.flagsOf b xs) := by
    induction xs generalizing v with
    | nil => simp [UnitOp.cells, UnitOp.flagsOf, Wave.orFlags]
    | cons x xs ih =>
      rw [List.foldl_cons, ih, Wave.wrCells_orFlags]
      simp only [UnitOp.cells, UnitOp.flagsOf, List.flatMap_cons, List.foldl_append, List.foldr_cons, Wave.orFlags, BitVec.or_assoc]
      rfl
  unfold Wave.afterTldec
  rw [hfold]
  refine Wave.settleV2S_of_nil ?_
  rw [Wave.markV_mem, Wave.orFlags_mem, Wave.wrCells_eq]
  exact h

/-- The flags of a lane are among those of all. -/
theorem UnitOp.flagsOf_and {o : UnitOp} {b : Block} {xs : List (Nat × Nat)} {x : Nat × Nat} (hx : x ∈ xs) (a : Flags) :
    (a ||| o.flagsOf b xs) &&& (tldecLane b o x.2).2.2 = (tldecLane b o x.2).2.2 := by
  induction xs with
  | nil => cases hx
  | cons y xs ih =>
    simp only [UnitOp.flagsOf, List.foldr_cons]
    rcases List.mem_cons.mp hx with rfl | hx
    · ext i hi
      simp only [BitVec.getElem_and, BitVec.getElem_or]
      cases (tldecLane b o x.2).2.2[i] <;> simp
    · have := ih hx
      ext i hi
      have hbit := congrArg (fun f : Flags => f[i]) this
      simp only [UnitOp.flagsOf, BitVec.getElem_and, BitVec.getElem_or] at hbit ⊢
      revert hbit
      cases (tldecLane b o x.2).2.2[i] <;> simp
      grind

section Lanes
variable {o : UnitOp} {b : Block} {w : Wave} (hd : o.d + 2 ≤ 128) (h32 : ∀ x ∈ o.lanes, x.1 < 32)
include hd h32

theorem UnitOp.cells_bounds : ∀ c ∈ o.cells b o.lanes, c.1 < 32 ∧ c.2.1 < 128 := by
  intro c hc
  simp only [UnitOp.cells, List.mem_flatMap, List.mem_cons, List.not_mem_nil, or_false] at hc
  obtain ⟨x, hx, rfl | rfl⟩ := hc
  · exact ⟨h32 x hx, show o.d < 128 by omega⟩
  · exact ⟨h32 x hx, show o.d + 1 < 128 by omega⟩

/-- A lane of a TLDEC takes its element's words. -/
theorem Wave.lane_tldec (hnd : (o.lanes.map (·.1)).Nodup) {x : Nat × Nat} (hx : x ∈ o.lanes) :
    ((o.cells b o.lanes).foldl Wave.wrCell w).lane o.d x.1 = (tldecLane b o x.2).1 ∧
    ((o.cells b o.lanes).foldl Wave.wrCell w).lane (o.d + 1) x.1 = (tldecLane b o x.2).2.1 := by
  have hone {y : Nat × Nat} (hy : y ∈ o.lanes) (h : y.1 = x.1) : y = x := List.inj_on_of_nodup_map hnd hy hx h
  have hmem : (x.1, o.d, (tldecLane b o x.2).1) ∈ o.cells b o.lanes ∧ (x.1, o.d + 1, (tldecLane b o x.2).2.1) ∈ o.cells b o.lanes := by
    simp only [UnitOp.cells, List.mem_flatMap]
    exact ⟨⟨x, hx, by simp⟩, ⟨x, hx, by simp⟩⟩
  constructor
  · refine Wave.lane_wrCells (UnitOp.cells_bounds hd h32) (fun c hc h1 h2 => ?_) (.inl ⟨_, hmem.1, rfl, rfl⟩)
    simp only [UnitOp.cells, List.mem_flatMap, List.mem_cons, List.not_mem_nil, or_false] at hc
    obtain ⟨y, hy, rfl | rfl⟩ := hc
    · rw [hone hy h1]
    · simp at h2
  · refine Wave.lane_wrCells (UnitOp.cells_bounds hd h32) (fun c hc h1 h2 => ?_) (.inl ⟨_, hmem.2, rfl, rfl⟩)
    simp only [UnitOp.cells, List.mem_flatMap, List.mem_cons, List.not_mem_nil, or_false] at hc
    obtain ⟨y, hy, rfl | rfl⟩ := hc
    · simp at h2
    · rw [hone hy h1]

/-- Another lane keeps its value. -/
theorem Wave.lane_tldec_other {l : Nat} (hl : l ∉ o.lanes.map (·.1)) (r : Nat) :
    ((o.cells b o.lanes).foldl Wave.wrCell w).lane r l = w.lane r l := by
  refine Wave.lane_wrCells (UnitOp.cells_bounds hd h32) (fun c hc h1 _ => ?_) (.inr rfl)
  simp only [UnitOp.cells, List.mem_flatMap, List.mem_cons, List.not_mem_nil, or_false] at hc
  obtain ⟨y, hy, hc⟩ := hc
  refine absurd (List.mem_map_of_mem (f := (·.1)) hy) ?_
  rcases hc with rfl | rfl <;> exact fun h => hl (h1 ▸ h)

end Lanes

/-- Nibbles as a number, digit by digit. -/
theorem leNibbles_eq (ts : List (Bool × Nat)) : tldecLane.leNibbles (ts.map termNibble) =
    (List.range ts.length).foldl (fun n i => n + termNibble (ts.getD i (false, 0)) * 16 ^ i) 0 := by
  have hsum (f : Nat → Nat) (n a : Nat) : (List.range n).foldl (fun x i => x + f i) a = a + ((List.range n).map f).sum := by
    induction n with
    | zero => rfl
    | succ n ih => rw [List.range_succ, List.foldl_append, ih, List.map_append, List.sum_append]; simp [Nat.add_assoc]
  rw [hsum, Nat.zero_add]
  induction ts with
  | nil => rfl
  | cons t ts ih =>
    rw [List.map_cons, tldecLane.leNibbles, ih, List.length_cons, List.range_succ_eq_map, List.map_cons, List.sum_cons, List.map_map,
      ← List.sum_map_mul_left]
    congr 1
    · simp
    · congr 1
      exact List.map_congr_left fun i _ => by simp [Nat.pow_succ]; ring

/-- The state and the wave after a TLDEC. -/
theorem exec_tldecComplete {s : State} {core : BitVec 7} {o : UnitOp} {rest : List UnitOp} {bk : Nat} {b : Block} {w : Wave}
    (hq : (s.core core.toNat).tlfq = o :: rest) (hbk : o.blk = some bk) (hb : s.blk? bk = some b) (henc : o.enc = false)
    (hready : s.tldecReady b o = true) (hw : s.wave? o.wid = some w) (hv : w.mem.v2s = []) :
    ∃ t, exec (.tldecComplete core) s = .next t ∧ t.wave? o.wid = some (w.afterTldec b o) ∧
      (t.core core.toNat).tlfq.length = rest.length ∧ t.blk? bk = some b ∧
      (s.tabs.power = .active → t.pkg.coreClock = max s.pkg.coreClock (o.since + 4 + (o.lanes.length + 7) / 8)) := by
  have hflow := congrArg Wave.flow (Wave.wrCells_eq (o.cells b o.lanes) w)
  have hid := congrArg Wave.id (Wave.wrCells_eq (o.cells b o.lanes) w)
  let t := s.passTo (o.since + 4 + ceilDiv o.lanes.length 8)
  let u := t.onCore core.toNat fun x => { x with tlfq := popUnit x.tlfq t.pkg.coreClock }
  have hwu : u.wave? o.wid = some w := hw
  obtain ⟨hwt, ht⟩ := State.onAny_of_wave? (f := fun w => w.afterTldec b o) hwu (by rw [Wave.afterTldec_eq b o hv]; exact hid)
    (by rw [Wave.afterTldec_eq b o hv, Wave.markV_flow, Wave.orFlags_flow, hflow]; exact id)
  refine ⟨u.onAny o.wid fun w => w.afterTldec b o, ?_, hwt, ?_, ?_, ?_⟩
  · show execTldecComplete core s = _
    simp only [execTldecComplete, hq, henc, hbk, Option.bind_some, hb, hready, if_true, Bool.false_eq_true, if_false]
    rfl
  · have hcore : u.core core.toNat = { t.core core.toNat with tlfq := popUnit (t.core core.toNat).tlfq t.pkg.coreClock } := State.core_onCore ..
    have hpass : (t.core core.toNat).tlfq = (s.core core.toNat).tlfq := by
      show ((s.pass _).core _).tlfq = _
      rw [State.core_pass]
    rw [ht]
    show (u.core core.toNat).tlfq.length = _
    rw [hcore]
    exact popUnit_length (hpass.trans hq) _
  · rw [ht]
    exact hb
  · intro hp
    rw [ht]
    exact State.coreClock_passTo hp _

/-- The words that a lane of a TLDEC takes, by the element that it reads, of the tile's kind (R261). -/
def tldecWords (kind : Nat) : Option Elem → Word × Word × Flags
  | none => (if isBx kind then BitVec.ofNat 32 fp32.nanBits else 0, 0xFFFFFFFF, fINVALID)
  | some e =>
    (if isBx kind then BitVec.ofNat 32 (fp32.conv .rne (bxValue kind e)).1 else BitVec.ofInt 32 e.v,
      BitVec.ofNat 32 (e.cnt + (if e.tms.any fun t => t.2 == 8 then 0 else tldecLane.leNibbles (e.tms.map termNibble)) * 16 +
        if e.tms.any fun t => t.2 == 8 then 2 ^ 24 else 0),
      if isBx kind && e.x == 255 then fNANBLOCK else 0)

theorem tldecLane_eq (b : Block) (o : UnitOp) (arg : Nat) :
    tldecLane b o arg = tldecWords (TlfHdr.parse (b.nums o.src 16)).kind (tldecElem b o arg) := by
  unfold tldecLane tldecWords
  cases tldecElem b o arg <;> rfl

theorem tldecWords_some (kind : Nat) (e : Elem) :
    (isBx kind = false → (tldecWords kind (some e)).1 = BitVec.ofInt 32 e.v) ∧
    (isBx kind = true → e.x = 255 → (tldecWords kind (some e)).1 = 0x7FC00000 ∧ (tldecWords kind (some e)).2.2 = fNANBLOCK) ∧
    (isBx kind = true → e.x ≠ 255 → (tldecWords kind (some e)).1 = BitVec.ofNat 32
      (fp32.conv .rne (.fin (decide (e.v < 0)) e.v.natAbs ((e.x : Int) - 127 - e.mu - ((bxB kind : Int) - 1)))).1) ∧
    (tldecWords kind (some e)).2.1 = BitVec.ofNat 32 (e.cnt + if e.tms.any fun y => y.2 == 8 then 2 ^ 24 else
      16 * (List.range e.tms.length).foldl (fun n i => n + termNibble (e.tms.getD i (false, 0)) * 16 ^ i) 0) := by
  refine ⟨fun h => ?_, fun h h2 => ⟨?_, ?_⟩, fun h h2 => ?_, ?_⟩
  · simp only [tldecWords, h, Bool.false_eq_true, if_false]
  · simp only [tldecWords, h, if_true, bxValue, h2]
    rfl
  · simp only [tldecWords, h, h2, beq_self_eq_true, Bool.and_self, if_true]
  · simp only [tldecWords, h, if_true, bxValue, h2, if_false]
  · simp only [tldecWords]
    rw [leNibbles_eq]
    split
    · rw [Nat.zero_mul, Nat.add_zero]
    · rw [Nat.add_zero, Nat.mul_comm 16]

/-! ### Bytes of tile memory (15 R247) -/

/-- A byte of tile memory as a number. -/
def Block.num (b : Block) (a : Nat) : Nat := (look 0 b.tile a).toNat

theorem Block.num_lt (b : Block) (a : Nat) : b.num a < 256 := (look 0 b.tile a).isLt

theorem Block.nums_eq (b : Block) (off n : Nat) : b.nums off n = (List.range n).map fun i => b.num (off + i) := by
  simp only [Block.nums, Block.tileBytes, List.map_map]
  rfl

theorem Block.nums_getD {b : Block} {off n i : Nat} (h : i < n) : (b.nums off n).getD i 0 = b.num (off + i) := by
  simp [Block.nums_eq, h]

theorem Block.putNums_frame (ws : List (Nat × List Nat)) (b : Block) :
    b.putNums ws = { b with tile := (b.putNums ws).tile } := by
  unfold Block.putNums
  induction ws generalizing b with
  | nil => rfl
  | cons p ws ih => rw [List.foldl_cons, ih]; rfl

/-- A byte that several writes reach has their value, where they agree. -/
theorem Block.look_putNums {ws : List (Nat × List Nat)} {b : Block} {a : Nat} {y : Byte}
    (hy : ∀ p ∈ ws, p.1 ≤ a → a < p.1 + p.2.length → BitVec.ofNat 8 (p.2.getD (a - p.1) 0) = y)
    (hex : (∃ p ∈ ws, p.1 ≤ a ∧ a < p.1 + p.2.length) ∨ look 0 b.tile a = y) : look 0 (b.putNums ws).tile a = y := by
  unfold Block.putNums
  induction ws generalizing b with
  | nil => simpa using hex
  | cons p ws ih =>
    refine ih (fun q hq => hy q (List.mem_cons_of_mem _ hq)) ?_
    have hput : look 0 (b.putTile p.1 (p.2.map (BitVec.ofNat 8))).tile a =
        if p.1 ≤ a ∧ a < p.1 + p.2.length then BitVec.ofNat 8 (p.2.getD (a - p.1) 0) else look 0 b.tile a := by
      rw [Block.putTile, look_putBytes, List.length_map]
      refine if_congr Iff.rfl ?_ rfl
      exact List.getD_map ..
    rw [hput]
    by_cases hp : p.1 ≤ a ∧ a < p.1 + p.2.length
    · exact .inr ((if_pos hp).trans (hy p List.mem_cons_self hp.1 hp.2))
    · rw [if_neg hp]
      rcases hex with ⟨q, hq, hle⟩ | h
      · rcases List.mem_cons.mp hq with rfl | hq
        · exact absurd hle hp
        · exact .inl ⟨q, hq, hle⟩
      · exact .inr h

theorem Block.look_putNums_out {ws : List (Nat × List Nat)} {b : Block} {a : Nat} (h : ∀ p ∈ ws, a < p.1 ∨ p.1 + p.2.length ≤ a) :
    look 0 (b.putNums ws).tile a = look 0 b.tile a :=
  Block.look_putNums (fun p hp h1 h2 => by have := h p hp; omega) (.inr rfl)

/-- The last write that reaches a byte gives its value. -/
theorem Block.look_putNums_last {ws pre post : List (Nat × List Nat)} {p : Nat × List Nat} {b : Block} {i x : Nat}
    (hws : ws = pre ++ p :: post) (hx : p.2[i]? = some x) (hpost : ∀ q ∈ post, p.1 + i < q.1 ∨ q.1 + q.2.length ≤ p.1 + i) :
    look 0 (b.putNums ws).tile (p.1 + i) = BitVec.ofNat 8 x := by
  have hi : i < p.2.length := (List.getElem?_eq_some_iff.mp hx).1
  have hsplit : b.putNums ws = ((b.putNums pre).putNums [p]).putNums post := by simp [Block.putNums, hws]
  rw [hsplit, Block.look_putNums_out hpost]
  refine Block.look_putNums (fun q hq _ _ => ?_) (.inl ⟨p, List.mem_singleton_self p, by omega, by omega⟩)
  rw [List.mem_singleton.mp hq, Nat.add_sub_cancel_left, List.getD_eq_getElem?_getD, hx]
  rfl

/-! ### The end of a work that gives a status -/

/-- The wave after a TLENC or a DECS, which runs again (`run`) or goes on as it was. -/
def Wave.withStatus (w : Wave) (run : Bool) (d x : Nat) : Wave :=
  let v := (w.wrS d (BitVec.ofNat 32 x)).markS d 1 true
  if run then v.withHold .run else v

theorem Wave.withStatus_spec {w : Wave} {d : Nat} (hd : d < 64) (run : Bool) (x : Nat) :
    (w.withStatus run d x).rdS d = BitVec.ofNat 32 x ∧ (w.withStatus run d x).regs.sfull.getLsbD d = true ∧
      (w.withStatus run d x).id = w.id ∧ (w.withStatus run d x).flow = if run then { w.flow with hold := .run } else w.flow := by
  have hs : ((w.wrS d (BitVec.ofNat 32 x)).markS d 1 true).rdS d = BitVec.ofNat 32 x := by
    show (w.wrS d _).rdS d = _
    rw [Wave.rdS_wrS, if_pos ⟨rfl, hd⟩]
  cases run
  · exact ⟨hs, Wave.markS_full hd, rfl, rfl⟩
  · exact ⟨hs, Wave.markS_full hd, rfl, rfl⟩

/-- The state after a TLENC or a DECS whose work ends `n` cycles after its head came up, with the block's tile written and the wave's
status given: `g` is the change of the unit's queue. -/
def State.ended (s : State) (c n bk wid : Nat) (ws : List (Nat × List Nat)) (g : Nat → Core → Core) (f : Wave → Wave) : State :=
  let t := (s.passTo n).onBlk bk fun b => b.putNums ws
  (t.onCore c (g t.pkg.coreClock)).onAny wid f

theorem State.ended_spec {s : State} {c n bk wid : Nat} {ws : List (Nat × List Nat)} {g : Nat → Core → Core} {f : Wave → Wave} {b : Block}
    {w : Wave} (hb : s.blk? bk = some b) (hw : s.wave? wid = some w) (hid : (f w).id = w.id)
    (hhold : w.flow.hold ≠ .blank → (f w).flow.hold ≠ .blank) :
    (s.ended c n bk wid ws g f).wave? wid = some (f w) ∧ (s.ended c n bk wid ws g f).blk? bk = some (b.putNums ws) ∧
      (∃ now, (s.ended c n bk wid ws g f).core c = g now { s.core c with alu := ((s.passTo n).core c).alu }) ∧
      (s.tabs.power = .active → (s.ended c n bk wid ws g f).pkg.coreClock = max s.pkg.coreClock n) := by
  let t : State := { s.passTo n with sched := { s.sched with blocks := put s.sched.blocks bk (b.putNums ws) } }
  have hblk : ((s.passTo n).onBlk bk fun b => b.putNums ws) = t := by
    have : (s.passTo n).blk? bk = some b := hb
    unfold State.onBlk
    rw [this]
    rfl
  let u := t.onCore c (g t.pkg.coreClock)
  have hu : u.wave? wid = some w := hw
  obtain ⟨hwave, hrest⟩ := State.onAny_of_wave? (f := f) hu hid hhold
  have hend : s.ended c n bk wid ws g f = u.onAny wid f := by rw [State.ended, hblk]
  rw [hend]
  refine ⟨hwave, ?_, ⟨t.pkg.coreClock, ?_⟩, fun hp => ?_⟩
  · rw [hrest]
    exact (look?_put _ _ _ _).trans (if_pos rfl)
  · rw [hrest]
    show u.core c = _
    rw [State.core_onCore]
    exact congrArg _ (State.core_pass s _ c)
  · rw [hrest]
    exact State.coreClock_passTo hp n

/-! ### The header of a tile in term-list form (05 R75) -/

theorem leN_eq (bs : List Nat) : leN bs = Nat.ofDigits 256 bs := by
  induction bs with
  | nil => rfl
  | cons b t ih => rw [leN, ih, Nat.ofDigits_cons]

/-- Whole bytes of a little-endian number. -/
theorem bitsN_leN {bs : List Nat} (h : ∀ x ∈ bs, x < 256) (k n : Nat) : bitsN (leN bs) (8 * k) (8 * n) = leN ((bs.drop k).take n) := by
  have hd : ∀ x ∈ bs.drop k, x < 256 := fun x hx => h x (List.mem_of_mem_drop hx)
  rw [bitsN, Nat.pow_mul, Nat.pow_mul, leN_eq, leN_eq]
  exact (congrArg (· % _) (Nat.ofDigits_div_pow_eq_ofDigits_drop k (by decide) bs h)).trans
    (Nat.ofDigits_mod_pow_eq_ofDigits_take n (by decide) _ hd)

/-- A bit of a number whose digits have `n` bits. -/
theorem ofDigits_bit {n : Nat} (hn : 0 < n) {ds : List Nat} (h : ∀ x ∈ ds, x < 2 ^ n) (i : Nat) :
    Nat.ofDigits (2 ^ n) ds / 2 ^ i % 2 = ds.getD (i / n) 0 / 2 ^ (i % n) % 2 := by
  have hi : 2 ^ i = (2 ^ n) ^ (i / n) * 2 ^ (i % n) := by rw [← Nat.pow_mul, ← Nat.pow_add, Nat.div_add_mod]
  have hhead : ds.getD (i / n) 0 = (ds.drop (i / n)).headD 0 := by
    rw [List.getD_eq_getElem?_getD, ← List.head?_drop]
    cases ds.drop (i / n) <;> rfl
  rw [hi, ← Nat.div_div_eq_div_mul, Nat.ofDigits_div_pow_eq_ofDigits_drop _ (Nat.two_pow_pos n) _ h, hhead]
  cases ds.drop (i / n) with
  | nil => simp [Nat.ofDigits]
  | cons d t =>
    have hlt : i % n < n := Nat.mod_lt _ hn
    have hrest : 2 ^ n * Nat.ofDigits (2 ^ n) t = 2 ^ (i % n) * (2 * (2 ^ (n - i % n - 1) * Nat.ofDigits (2 ^ n) t)) := by
      rw [← Nat.mul_assoc, ← Nat.mul_assoc, ← Nat.pow_succ, ← Nat.pow_add, show i % n + 1 + (n - i % n - 1) = n by omega]
    rw [Nat.ofDigits_cons, hrest]
    rw [List.headD_cons]
    rw [Nat.add_mul_div_left _ _ (Nat.two_pow_pos _), Nat.add_mul_mod_self_left]

theorem leN_bit {bs : List Nat} (h : ∀ x ∈ bs, x < 256) (i : Nat) : leN bs / 2 ^ i % 2 = bs.getD (i / 8) 0 / 2 ^ (i % 8) % 2 := by
  rw [leN_eq]
  exact ofDigits_bit (n := 8) (by decide) h i

theorem leN_pair (a b : Nat) : leN [a, b] = a + 256 * b := by simp [leN]

/-- The header `h` as a job's fields: KIND, ROWS, E, L and ESCCAP agree. -/
structure EncJob.Of (g : EncJob) (h : TlfHdr) : Prop where
  kind : h.kind = g.kind
  rows : h.rows = g.rows
  e : h.e = g.e
  l : h.l = g.l
  cap : h.esccap = g.cap

/-- The fields that the 16 bytes of a header give. -/
theorem TlfHdr.parse_fields {n : Nat → Nat} (hn : ∀ i, n i < 256) :
    let h := TlfHdr.parse ((List.range 16).map n)
    h.kind = n 0 % 16 ∧ h.rows = n 2 + 256 * n 3 ∧ h.e = n 4 + 256 * n 5 ∧ h.l = n 6 + 256 * n 7 ∧ h.esccap = n 8 + 256 * n 9 ∧
      (h.resOk = true ↔ n 0 / 16 = 0 ∧ n 1 / 2 = 0 ∧ ∀ j, 12 ≤ j → j < 16 → n j = 0) := by
  have hbs : ∀ x ∈ (List.range 16).map n, x < 256 := by
    intro x hx
    obtain ⟨i, -, rfl⟩ := List.mem_map.mp hx
    exact hn i
  have hlist : (List.range 16).map n = [n 0, n 1, n 2, n 3, n 4, n 5, n 6, n 7, n 8, n 9, n 10, n 11, n 12, n 13, n 14, n 15] := rfl
  have h0 : bitsN (leN ((List.range 16).map n)) 0 8 = n 0 := by
    rw [bitsN_leN hbs 0 1, hlist]
    simp [leN]
  have h1 : bitsN (leN ((List.range 16).map n)) 8 8 = n 1 := by
    rw [bitsN_leN hbs 1 1, hlist]
    simp [leN]
  have hkind : bitsN (leN ((List.range 16).map n)) 0 4 = n 0 % 16 := by
    rw [← h0]
    unfold bitsN
    omega
  have hhigh : bitsN (leN ((List.range 16).map n)) 4 4 = n 0 / 16 := by
    rw [← h0]
    unfold bitsN
    omega
  have hres : bitsN (leN ((List.range 16).map n)) 9 7 = n 1 / 2 := by
    rw [← h1]
    unfold bitsN
    omega
  have htail : bitsN (leN ((List.range 16).map n)) 96 32 = n 12 + 256 * (n 13 + 256 * (n 14 + 256 * n 15)) := by
    rw [bitsN_leN hbs 12 4, hlist]
    simp [leN]
  refine ⟨hkind, ?_, ?_, ?_, ?_, ?_⟩
  · exact (bitsN_leN hbs 2 2).trans (by rw [hlist]; exact leN_pair _ _)
  · exact (bitsN_leN hbs 4 2).trans (by rw [hlist]; exact leN_pair _ _)
  · exact (bitsN_leN hbs 6 2).trans (by rw [hlist]; exact leN_pair _ _)
  · exact (bitsN_leN hbs 8 2).trans (by rw [hlist]; exact leN_pair _ _)
  · simp only [TlfHdr.parse, hhigh, hres, htail, Bool.and_eq_true, beq_iff_eq]
    constructor
    · rintro ⟨⟨h3, h2⟩, h1⟩
      refine ⟨h1, h2, fun j hj hj' => ?_⟩
      have : j = 12 ∨ j = 13 ∨ j = 14 ∨ j = 15 := by omega
      rcases this with rfl | rfl | rfl | rfl <;> omega
    · rintro ⟨h1, h2, h3⟩
      have := h3 12 (by decide) (by decide)
      have := h3 13 (by decide) (by decide)
      have := h3 14 (by decide) (by decide)
      have := h3 15 (by decide) (by decide)
      exact ⟨⟨by omega, h2⟩, h1⟩

theorem isBx_iff {k : Nat} (h : k ≤ 5) : isBx k = decide (3 ≤ k) := by
  have : k = 0 ∨ k = 1 ∨ k = 2 ∨ k = 3 ∨ k = 4 ∨ k = 5 := by omega
  rcases this with rfl | rfl | rfl | rfl | rfl | rfl <;> rfl

section Job
variable {g : EncJob} {h : TlfHdr} (ho : g.Of h) (hk : g.kind ≤ 5)
include ho hk

theorem EncJob.Of.isBx : isBx h.kind = decide (3 ≤ g.kind) := by rw [ho.kind, isBx_iff hk]

omit hk in
theorem EncJob.Of.blk : bxBlock h.kind = g.blk := by rw [ho.kind]; rfl

omit hk in
theorem EncJob.Of.mag : bxB h.kind = g.mag := by rw [ho.kind]; rfl

theorem EncJob.Of.dr : h.dr = g.dr := by
  rw [TlfHdr.dr, denseRow, ho.isBx hk, ho.blk, ho.kind, ho.e, EncJob.dr]
  by_cases h1 : g.kind ≤ 1
  · simp [h1, show ¬3 ≤ g.kind by omega, show ¬g.kind = 2 by omega]
  · by_cases h2 : g.kind = 2
    · simp [h2]
    · simp [h1, h2, show 3 ≤ g.kind by omega]

theorem EncJob.Of.fx : h.fx = g.fx := by
  rw [TlfHdr.fx, ho.isBx hk, ho.e, EncJob.fx]
  simp

theorem EncJob.Of.extent : h.extent = 16 + g.rows * g.l + g.cap * g.dr := by
  rw [TlfHdr.extent, ho.dr hk, ho.rows, ho.l, ho.cap]

end Job

/-- The header that the 16 bytes `hdr` give, and the job with its fields. -/
def EncJob.ofHeader (hdr : Nat → Nat) (row : Nat → Nat → Nat) : EncJob :=
  { kind := hdr 0 % 16, rows := hdr 2 + 256 * hdr 3, e := hdr 4 + 256 * hdr 5, l := hdr 6 + 256 * hdr 7, cap := hdr 8 + 256 * hdr 9, row := row }

theorem EncJob.ofHeader_of {hdr : Nat → Nat} (hn : ∀ i, hdr i < 256) (row : Nat → Nat → Nat) :
    (EncJob.ofHeader hdr row).Of (TlfHdr.parse ((List.range 16).map hdr)) := by
  obtain ⟨h1, h2, h3, h4, h5, -⟩ := TlfHdr.parse_fields hn
  exact ⟨h1, h2, h3, h4, h5⟩

/-- A header is valid apart from ESCCNT as R75 says. -/
theorem EncJob.valid_iff {hdr : Nat → Nat} (hn : ∀ i, hdr i < 256) (row : Nat → Nat → Nat) :
    (TlfHdr.parse ((List.range 16).map hdr)).validShape = true ↔ (EncJob.ofHeader hdr row).Valid hdr := by
  obtain ⟨-, -, -, -, -, hres⟩ := TlfHdr.parse_fields hn
  have ho := EncJob.ofHeader_of hn row
  generalize TlfHdr.parse ((List.range 16).map hdr) = h at ho hres
  generalize EncJob.ofHeader hdr row = g at ho
  by_cases hk : g.kind ≤ 5
  · simp only [TlfHdr.validShape, EncJob.Valid, Bool.and_eq_true, decide_eq_true_eq, hres, isBx_iff hk, ho.dr hk, ho.fx hk, ho.kind, ho.rows, ho.e, ho.l,
      ho.cap, beq_iff_eq, Bool.or_eq_true, Bool.not_eq_true', decide_eq_false_iff_not, and_assoc, imp_iff_not_or]
  · simp [TlfHdr.validShape, EncJob.Valid, ho.kind, hk]

/-! ### Terms and elements (05 R72, R73, R68 to R70) -/

theorem bitBelow_eq (u i : Nat) : bitBelow u i = if i = 0 then 0 else (u / 2 ^ (i - 1) % 2 : Nat) := by
  unfold bitBelow
  cases i with
  | zero => simp [Nat.testBit_eq_decide_div_mod_eq]
  | succ i =>
    rw [Nat.testBit_succ, Nat.mul_div_cancel_left _ (by decide), Nat.testBit_eq_decide_div_mod_eq]
    rcases Nat.mod_two_eq_zero_or_one (u / 2 ^ i) with h | h <;> simp [h]

/-- A digit of radix 4 is at most 2 in size. -/
theorem bitBelow_cases (u i : Nat) : bitBelow u i = 0 ∨ bitBelow u i = 1 := by
  unfold bitBelow
  split <;> simp

/-- TERMS by the digits, as R72 lists them. -/
theorem terms_eq_booth (a : Int) : terms a = booth a := by
  have hdigit (i : Nat) : boothDigit (decide (a < 0)) a.natAbs i =
      let d := -2 * bitBelow a.natAbs (2 * i + 2) + bitBelow a.natAbs (2 * i + 1) + bitBelow a.natAbs (2 * i)
      if d = 0 then [] else [(decide (a < 0) != decide (d < 0), if d.natAbs = 2 then 2 * i + 1 else 2 * i)] := by
    unfold boothDigit
    rcases bitBelow_cases a.natAbs (2 * i + 2) with h1 | h1 <;> rcases bitBelow_cases a.natAbs (2 * i + 1) with h2 | h2 <;>
      rcases bitBelow_cases a.natAbs (2 * i) with h3 | h3 <;> simp [h1, h2, h3]
  simp only [terms, hdigit, bitBelow_eq]
  simp [booth]

theorem booth_length_le (a : Int) : (booth a).length ≤ 5 := by
  rw [booth]
  simp only [List.flatMap_cons, List.flatMap_nil, List.length_append, List.length_nil]
  have hone (c : Prop) [Decidable c] (x : Bool × Nat) : (if c then [] else [x]).length ≤ 1 := by split <;> simp
  have h4 := hone
  grind

/-- Elements of equal number, laid one after another. -/
theorem flatMap_range_map {α : Type} (f : Nat → Nat → α) (m n : Nat) :
    ((List.range m).flatMap fun q => (List.range n).map (f q)) = (List.range (n * m)).map fun k => f (k / n) (k % n) := by
  rcases Nat.eq_zero_or_pos n with rfl | hn
  · simp
  · induction m with
    | zero => simp
    | succ m ih =>
      rw [List.range_succ, List.flatMap_append, ih, List.flatMap_singleton, Nat.mul_succ, List.range_add, List.map_append, List.map_map]
      congr 1
      refine List.map_congr_left fun i hi => ?_
      have hi' := List.mem_range.mp hi
      simp only [Function.comp, Nat.mul_add_div hn, Nat.div_eq_of_lt hi', Nat.add_zero, Nat.mul_add_mod, Nat.mod_eq_of_lt hi']

/-- `n` bits as a sum of bits. -/
theorem mod_two_pow_eq_sum (x n : Nat) : x % 2 ^ n = ((List.range n).map fun t => x / 2 ^ t % 2 * 2 ^ t).sum := by
  induction n with
  | zero => simp [Nat.mod_one]
  | succ n ih => rw [List.range_succ, List.map_append, List.sum_append, ← ih, Nat.mod_pow_succ]; simp [Nat.mul_comm]

/-- A bit of a field of bits. -/
theorem bitsN_bit (x lo : Nat) {n t : Nat} (h : t < n) : bitsN x lo n / 2 ^ t % 2 = x / 2 ^ (lo + t) % 2 := by
  rw [bitsN, ← Nat.toNat_testBit, ← Nat.toNat_testBit, Nat.testBit_mod_two_pow, Nat.testBit_div_two_pow, decide_eq_true h, Bool.true_and, Nat.add_comm]

theorem getD_map_range {f : Nat → Nat} {n j : Nat} (h : j < n) : ((List.range n).map f).getD j 0 = f j := by simp [h]

theorem getD_drop (xs : List Nat) (k j : Nat) : (xs.drop k).getD j 0 = xs.getD (k + j) 0 := by
  rw [List.getD_eq_getElem?_getD, List.getElem?_drop, ← List.getD_eq_getElem?_getD]

section Row
variable {g : EncJob} (hbyte : ∀ i j, g.row i j < 256)

/-- A row as the encoder takes it. -/
def EncJob.bytes (g : EncJob) (i : Nat) : List Nat := (List.range g.dr).map (g.row i)

/-- The fields of block `q` of row `i`: the bits after its scale bytes. -/
def EncJob.str (g : EncJob) (i q : Nat) : Nat := leN (((List.range g.blk).map fun j => g.row i (q * g.blk + j)).drop 2)

theorem EncJob.dr_bx (h3 : 3 ≤ g.kind) : g.dr = g.e / 16 * g.blk := by
  rw [EncJob.dr, if_neg (by omega), if_neg (by omega)]

/-- A BX block has room for its 16 fields (Table 5.4). -/
theorem EncJob.blk_mag (h3 : 3 ≤ g.kind) (h5 : g.kind ≤ 5) : 16 * (g.mag + 1) = 8 * (g.blk - 2) ∧ 2 < g.blk := by
  have : g.kind = 3 ∨ g.kind = 4 ∨ g.kind = 5 := by omega
  rcases this with h | h | h <;> simp [EncJob.mag, EncJob.blk, h]

theorem EncJob.slice_bytes (h3 : 3 ≤ g.kind) (i : Nat) {q : Nat} (hq : q < g.e / 16) :
    slice (g.bytes i) (q * g.blk) g.blk = (List.range g.blk).map fun j => g.row i (q * g.blk + j) := by
  refine List.map_congr_left fun j hj => ?_
  have hj' := List.mem_range.mp hj
  have hle := Nat.mul_le_mul_right g.blk hq
  rw [Nat.succ_mul] at hle
  exact getD_map_range (by rw [EncJob.dr_bx h3]; omega)

include hbyte in
theorem EncJob.str_bit (i q : Nat) {j : Nat} (hj : j < 8 * (g.blk - 2)) :
    g.str i q / 2 ^ j % 2 = g.row i (q * g.blk + 2 + j / 8) / 2 ^ (j % 8) % 2 := by
  have hlt : ∀ x ∈ ((List.range g.blk).map fun j => g.row i (q * g.blk + j)).drop 2, x < 256 := by
    intro x hx
    obtain ⟨y, -, rfl⟩ := List.mem_map.mp (List.mem_of_mem_drop hx)
    exact hbyte _ _
  rw [EncJob.str, leN_bit hlt, getD_drop, getD_map_range (by omega), Nat.add_assoc]

include hbyte in
/-- The bits of BX element `k` of row `i`: its magnitude, and its sign. -/
theorem EncJob.field_eq (h3 : 3 ≤ g.kind) (h5 : g.kind ≤ 5) (i k : Nat) :
    let f := bitsN (g.str i (k / 16)) (k % 16 * (g.mag + 1)) (g.mag + 1)
    f % 2 ^ g.mag = (g.field i k).1 ∧ f / 2 ^ g.mag % 2 = (g.field i k).2 := by
  obtain ⟨hroom, -⟩ := EncJob.blk_mag h3 h5
  have hk : k % 16 * (g.mag + 1) + (g.mag + 1) ≤ 16 * (g.mag + 1) := by
    have : k % 16 + 1 ≤ 16 := Nat.mod_lt _ (by decide)
    rw [← Nat.succ_mul]
    exact Nat.mul_le_mul_right _ this
  have hbit {t : Nat} (ht : t < g.mag + 1) : bitsN (g.str i (k / 16)) (k % 16 * (g.mag + 1)) (g.mag + 1) / 2 ^ t % 2 =
      g.row i (k / 16 * g.blk + 2 + (k % 16 * (g.mag + 1) + t) / 8) / 2 ^ ((k % 16 * (g.mag + 1) + t) % 8) % 2 := by
    rw [bitsN_bit _ _ ht, EncJob.str_bit hbyte _ _ (by omega)]
  refine ⟨?_, hbit (by omega)⟩
  rw [mod_two_pow_eq_sum]
  refine congrArg List.sum (List.map_congr_left fun t ht => ?_)
  rw [hbit (by have := List.mem_range.mp ht; omega)]

theorem bxSigned_eq (b f : Nat) : bxSigned b f = if f / 2 ^ b % 2 = 1 then -((f % 2 ^ b : Nat) : Int) else (f % 2 ^ b : Nat) := by
  rw [bxSigned, Nat.testBit_eq_decide_div_mod_eq]
  simp

end Row

theorem sextN_eq {x n : Nat} (h : x < 2 ^ n) : sextN x n = if x < 2 ^ (n - 1) then (x : Int) else (x : Int) - 2 ^ n := by
  rw [sextN, Nat.mod_eq_of_lt h]

section Elems
variable {g : EncJob} {h : TlfHdr} (ho : g.Of h) (hk : g.kind ≤ 5) (he : g.e % 8 = 0) (he16 : 3 ≤ g.kind → g.e % 16 = 0)
  (hbyte : ∀ i j, g.row i j < 256)
include ho hk he he16 hbyte

/-- The elements of a row with the terms that a writer lists for each (R73, R77). -/
theorem EncJob.elems_eq (i : Nat) :
    ((denseElems h.kind h.e (g.bytes i)).map (Elem.listed h.kind)).map (fun e => (e.cnt, e.tms)) =
      (List.range g.e).map fun k => ((g.terms i k).length, g.terms i k) := by
  by_cases h3 : 3 ≤ g.kind
  · have hbx : isBx h.kind = true := by rw [ho.isBx hk, decide_eq_true h3]
    have hblocks : denseElems h.kind h.e (g.bytes i) = (List.range (g.e / 16)).flatMap fun q => (List.range 16).map fun f =>
        Elem.dense (bxSigned g.mag (bitsN (g.str i q) (f * (g.mag + 1)) (g.mag + 1))) (g.row i (q * g.blk))
          (if (g.row i (q * g.blk + 1)).testBit (f / 4) then 1 else 0) := by
      obtain ⟨-, h2⟩ := EncJob.blk_mag h3 hk
      rw [denseElems, if_pos hbx, ho.blk, ho.e]
      refine List.flatMap_congr fun q hq => ?_
      rw [EncJob.slice_bytes h3 i (List.mem_range.mp hq), bxElems, ho.mag]
      simp only [getD_map_range (show 0 < g.blk by omega), getD_map_range (show 1 < g.blk by omega), Nat.add_zero]
      rfl
    have hlen : 16 * (g.e / 16) = g.e := Nat.mul_div_cancel' (Nat.dvd_of_mod_eq_zero (he16 h3))
    rw [hblocks, flatMap_range_map, hlen, List.map_map, List.map_map]
    refine List.map_congr_left fun k _ => ?_
    obtain ⟨hmag, hsign⟩ := EncJob.field_eq hbyte h3 hk i k
    simp only [Function.comp, Elem.listed, hbx, Bool.true_and, Elem.dense, bxSigned_eq, hmag, hsign, terms_eq_booth, EncJob.terms, EncJob.nan,
      decide_eq_true h3, if_pos h3]
    by_cases hx : g.row i (k / 16 * g.blk) = 255 <;> simp [hx]
  · have hbx : isBx h.kind = false := by rw [ho.isBx hk, decide_eq_false h3]
    have hbytes {j : Nat} (hj : j < g.dr) : (g.bytes i).getD j 0 = g.row i j := getD_map_range hj
    rw [denseElems, if_neg (by rw [hbx]; simp), ho.kind, ho.e, List.map_map, List.map_map]
    refine List.map_congr_left fun k hkr => ?_
    have hke := List.mem_range.mp hkr
    have hlisted (e : Elem) : Elem.listed g.kind e = e := by rw [Elem.listed, ← ho.kind, hbx]; rfl
    have hnan : g.nan i k = false := by simp [EncJob.nan, h3]
    simp only [Function.comp, hlisted, EncJob.terms, hnan, Bool.false_eq_true, if_false, if_neg h3]
    by_cases h2 : g.kind = 2
    · have hdr : g.dr = g.e / 2 := by simp [EncJob.dr, h2]
      have hx : g.row i (k / 2) / 16 ^ (k % 2) % 16 < 2 ^ 4 := Nat.mod_lt _ (by decide)
      rw [if_pos h2, if_pos h2, hbytes (by omega), bitsN, Nat.pow_mul, show (2 : Nat) ^ 4 = 16 from rfl, sextN_eq hx]
      simp only [Elem.dense, terms_eq_booth]
      rfl
    · have hdr : g.dr = g.e := by rw [EncJob.dr, if_pos (by omega)]
      rw [if_neg h2, if_neg h2, hbytes (by omega)]
      by_cases h1 : g.kind = 1
      · simp only [if_pos h1, Elem.dense, terms_eq_booth]
      · rw [if_neg h1, if_neg h1, sextN_eq (hbyte i k)]
        simp only [Elem.dense, terms_eq_booth]
        rfl

end Elems

/-! ### The slot of a row (05 R76, R77) -/

theorem packNibbles_length (xs : List Nat) : (packNibbles xs).length = (xs.length + 1) / 2 := by
  induction xs using packNibbles.induct with
  | case1 => rfl
  | case2 a => simp [packNibbles]
  | case3 a b t ih =>
    simp only [packNibbles, List.length_cons, ih]
    omega

theorem packNibbles_getD (xs : List Nat) (j : Nat) : (packNibbles xs).getD j 0 = xs.getD (2 * j) 0 + 16 * xs.getD (2 * j + 1) 0 := by
  induction xs using packNibbles.induct generalizing j with
  | case1 => rfl
  | case2 a => cases j <;> simp [packNibbles, Nat.mul_succ]
  | case3 a b t ih =>
    cases j with
    | zero => simp [packNibbles]
    | succ j => simp only [packNibbles, List.getD_cons_succ, ih, Nat.mul_succ]

/-- Byte `j` of bytes that lie behind `n` others. -/
theorem getD_append_of_length {xs ys : List Nat} {n : Nat} (h : xs.length = n) (j : Nat) :
    (xs ++ ys).getD j 0 = if j < n then xs.getD j 0 else ys.getD (j - n) 0 := by
  subst h
  split
  · exact List.getD_append _ _ _ _ ‹_›
  · exact List.getD_append_right _ _ _ _ (by omega)

theorem padTo_length (n : Nat) (bs : List Nat) : (padTo n bs).length = n := by
  simp only [padTo, List.length_append, List.length_take, List.length_replicate]
  omega

theorem padTo_getD {n : Nat} {bs : List Nat} (h : bs.length ≤ n) (j : Nat) : (padTo n bs).getD j 0 = bs.getD j 0 := by
  rw [padTo, List.take_of_length_le h, getD_append_of_length rfl]
  split
  · rfl
  · rw [List.getD_eq_default bs _ (by omega)]
    rw [List.getD_eq_getElem?_getD, List.getElem?_replicate]
    split <;> rfl

/-- Bytes by their places. -/
theorem eq_map_range {bs : List Nat} {n : Nat} {f : Nat → Nat} (hl : bs.length = n) (h : ∀ j < n, bs.getD j 0 = f j) :
    bs = (List.range n).map f := by
  refine List.ext_getElem (by simpa using hl) fun j h1 h2 => ?_
  rw [List.getElem_map, List.getElem_range, ← h j (by omega), List.getD_eq_getElem _ _ h1]

/-- The bytes of row `i`'s slot, and its bytes as a writer puts them dense. -/
def EncJob.slotBytes (g : EncJob) (i : Nat) : List Nat := (List.range g.l).map (g.slot i)
def EncJob.denseBytes (g : EncJob) (i : Nat) : List Nat := (List.range g.dr).map (g.written i)

section Slot
variable {g : EncJob} {h : TlfHdr} (ho : g.Of h) (hk : g.kind ≤ 5) (he : g.e % 8 = 0) (he16 : 3 ≤ g.kind → g.e % 16 = 0)
  (hbyte : ∀ i j, g.row i j < 256)

include ho hk he he16 in
/-- The scale bytes of a row's blocks. -/
theorem EncJob.bxScales_eq (i : Nat) : bxScales h (g.bytes i) = (List.range (g.fx - 2)).map fun t =>
    let x := g.row i (t / 2 * g.blk)
    if t % 2 = 0 then x else if x = 255 then 0 else g.row i (t / 2 * g.blk + 1) % 16 := by
  by_cases h3 : 3 ≤ g.kind
  · obtain ⟨-, h2⟩ := EncJob.blk_mag h3 hk
    have hfx : g.fx - 2 = 2 * (g.e / 16) := by
      have := he16 h3
      rw [EncJob.fx, if_pos h3]
      omega
    rw [bxScales, if_pos (by rw [ho.isBx hk, decide_eq_true h3]), ho.blk, ho.e, hfx,
      ← flatMap_range_map (fun q t => if t = 0 then g.row i (q * g.blk)
        else if g.row i (q * g.blk) = 255 then 0 else g.row i (q * g.blk + 1) % 16) (g.e / 16) 2]
    refine List.flatMap_congr fun q hq => ?_
    have hle := Nat.mul_le_mul_right g.blk (List.mem_range.mp hq)
    rw [Nat.succ_mul, ← EncJob.dr_bx h3] at hle
    have h0 : (g.bytes i).getD (q * g.blk) 0 = g.row i (q * g.blk) := getD_map_range (by omega)
    have h1 : (g.bytes i).getD (q * g.blk + 1) 0 = g.row i (q * g.blk + 1) := getD_map_range (by omega)
    simp only [h0, h1]
    rfl
  · rw [bxScales, if_neg (by rw [ho.isBx hk, decide_eq_false h3]; simp), EncJob.fx, if_neg h3]
    rfl

include ho hk he he16 hbyte in
/-- A row is a term row where its terms fit, and its slot is then as Table 5.7 has it. -/
theorem EncJob.encodeTermRow_eq (i : Nat) :
    encodeTermRow h (g.bytes i) = if g.fits i then some (g.slotBytes i) else none := by
  have hels := EncJob.elems_eq ho hk he he16 hbyte i
  generalize hE : (denseElems h.kind h.e (g.bytes i)).map (Elem.listed h.kind) = els at hels
  have hterms : els.flatMap (·.tms) = g.list i := by
    have := congrArg (List.flatMap Prod.snd) hels
    rwa [List.flatMap_map, List.flatMap_map] at this
  have hcounts : els.map (·.cnt) = (List.range g.e).map fun k => (g.terms i k).length := by
    have := congrArg (List.map Prod.fst) hels
    rwa [List.map_map, List.map_map] at this
  simp only [encodeTermRow, hE, hterms, hcounts]
  simp only [ho.fx hk, ho.e, ho.l, ceilDiv, show (g.list i).length + 2 - 1 = (g.list i).length + 1 from rfl]
  have hfits : g.fits i = ((g.list i).all (fun t => decide (t.2 ≤ 7)) && decide (g.fx + g.e / 2 + ((g.list i).length + 1) / 2 ≤ g.l)) := rfl
  rw [← hfits]
  refine if_ctx_congr Iff.rfl (fun hfit => congrArg some ?_) fun _ => rfl
  have hroom : g.fx + g.e / 2 + ((g.list i).length + 1) / 2 ≤ g.l := by
    rw [hfits, Bool.and_eq_true, decide_eq_true_eq] at hfit
    exact hfit.2
  have hfx : 2 ≤ g.fx := by
    rw [EncJob.fx]
    split <;> omega
  have hcnt : (packNibbles ((List.range g.e).map fun k => (g.terms i k).length)).length = g.e / 2 := by
    rw [packNibbles_length, List.length_map, List.length_range]
    omega
  have hscale : (bxScales h (g.bytes i)).length = g.fx - 2 := by rw [EncJob.bxScales_eq ho hk he he16, List.length_map, List.length_range]
  have hnibs : (packNibbles ((g.list i).map termNibble)).length = ((g.list i).length + 1) / 2 := by rw [packNibbles_length, List.length_map]
  refine eq_map_range (padTo_length _ _) fun j hj => ?_
  rw [padTo_getD (by simp only [List.length_append, leBytes_length, hcnt, hscale, hnibs]; omega)]
  rw [List.append_assoc, List.append_assoc, getD_append_of_length (leBytes_length 2 _), getD_append_of_length hscale, getD_append_of_length hcnt]
  simp only [EncJob.slot, hfit, reduceCtorEq, if_false]
  by_cases h2 : j < 2
  · rw [if_pos h2, if_pos h2, leBytes_getD, if_pos h2]
  rw [if_neg h2, if_neg h2]
  by_cases hs : j < g.fx
  · rw [if_pos (show j - 2 < g.fx - 2 by omega), if_pos hs, EncJob.bxScales_eq ho hk he he16, getD_map_range (by omega)]
    simp only [show (j - 2) % 2 = j % 2 by omega]
  rw [if_neg (show ¬j - 2 < g.fx - 2 by omega), if_neg hs, show j - 2 - (g.fx - 2) = j - g.fx by omega]
  by_cases hc : j < g.fx + g.e / 2
  · rw [if_pos (show j - g.fx < g.e / 2 by omega), if_pos hc, packNibbles_getD, getD_map_range (by omega), getD_map_range (by omega)]
  · rw [if_neg (show ¬j - g.fx < g.e / 2 by omega), if_neg hc, packNibbles_getD]
    have hnib (k : Nat) : ((g.list i).map termNibble).getD k 0 = match (g.list i)[k]? with
        | some t => t.2 + if t.1 then 8 else 0
        | none => 0 := by
      rw [List.getD_eq_getElem?_getD, List.getElem?_map]
      cases (g.list i)[k]? <;> rfl
    rw [hnib, hnib] <;> rfl

/-- The slot of an escape row names its place among them. -/
theorem EncJob.escapeSlot {i : Nat} (hfx : 2 ≤ g.l) (hf : g.fits i = false) (hesc : g.esc i < 32768) :
    padTo g.l (leBytes 2 (32768 + g.esc i)) = g.slotBytes i := by
  refine eq_map_range (padTo_length _ _) fun j hj => ?_
  rw [padTo_getD (by rwa [leBytes_length]), leBytes_getD]
  simp only [EncJob.slot, hf, if_true]
  by_cases h0 : j = 0
  · subst h0
    simp
    omega
  · by_cases h1 : j = 1
    · subst h1
      simp
      omega
    · rw [if_neg (by omega), if_neg h0, if_neg h1]

end Slot

/-! ### Rows as a writer puts them dense (05 R68, R70) -/

/-- Fields of `n` bits laid one after another. -/
theorem foldl_fields (n : Nat) (fs : List Nat) (s a : Nat) :
    (fs.zipIdx s).foldl (fun a f => a + f.1 * 2 ^ (f.2 * n)) a = a + 2 ^ (s * n) * Nat.ofDigits (2 ^ n) fs := by
  induction fs generalizing s a with
  | nil => simp [Nat.ofDigits]
  | cons f fs ih =>
    rw [List.zipIdx_cons, List.foldl_cons, ih, Nat.ofDigits_cons, Nat.succ_mul, Nat.pow_add]
    ring

theorem foldl_zipIdx_map {β : Type} (one : Nat → Nat) (op : β → Nat × Nat → β) (fs : List Nat) (s : Nat) (a : β) :
    (fs.zipIdx s).foldl (fun a f => op a (one f.1, f.2)) a = ((fs.map one).zipIdx s).foldl op a := by
  induction fs generalizing s a with
  | nil => rfl
  | cons f fs ih => exact ih _ _

/-- A byte by its bits. -/
theorem byte_eq_sum (x p : Nat) : x / 256 ^ p % 256 = ((List.range 8).map fun t => x / 2 ^ (8 * p + t) % 2 * 2 ^ t).sum := by
  rw [show (256 : Nat) = 2 ^ 8 from rfl, mod_two_pow_eq_sum]
  refine congrArg List.sum (List.map_congr_left fun t _ => ?_)
  rw [← Nat.pow_mul, Nat.div_div_eq_div_mul, ← Nat.pow_add]

/-- A field as a writer puts it: no sign for a magnitude of 0. -/
def bxField (b f : Nat) : Nat := if f % 2 ^ b = 0 then 0 else f

section Dense
variable {g : EncJob} (hbyte : ∀ i j, g.row i j < 256) (h3 : 3 ≤ g.kind) (h5 : g.kind ≤ 5)
include hbyte h3 h5

/-- Bit `k` of a block's fields as a writer puts them. -/
theorem EncJob.written_bit (i q : Nat) {k : Nat} (hk : k < 16 * (g.mag + 1)) :
    (((List.range 16).map fun f => bitsN (g.str i q) (f * (g.mag + 1)) (g.mag + 1)).zipIdx.foldl
      (fun a f => a + bxField g.mag f.1 * 2 ^ (f.2 * (g.mag + 1))) 0) / 2 ^ k % 2 =
    if k % (g.mag + 1) = g.mag ∧ (g.field i (16 * q + k / (g.mag + 1))).1 = 0 then 0
    else g.row i (q * g.blk + 2 + k / 8) / 2 ^ (k % 8) % 2 := by
  obtain ⟨hroom, -⟩ := EncJob.blk_mag h3 h5
  have hn : 0 < g.mag + 1 := Nat.succ_pos _
  have hf : k / (g.mag + 1) < 16 := by rwa [Nat.div_lt_iff_lt_mul hn]
  have hkn : k % (g.mag + 1) < g.mag + 1 := Nat.mod_lt _ hn
  have hlt : ∀ x ∈ ((List.range 16).map fun f => bitsN (g.str i q) (f * (g.mag + 1)) (g.mag + 1)).map (bxField g.mag), x < 2 ^ (g.mag + 1) := by
    intro x hx
    obtain ⟨y, hy, rfl⟩ := List.mem_map.mp hx
    obtain ⟨f, -, rfl⟩ := List.mem_map.mp hy
    unfold bxField
    split
    · exact Nat.two_pow_pos _
    · exact Nat.mod_lt _ (Nat.two_pow_pos _)
  rw [foldl_zipIdx_map (bxField g.mag) (fun a f => a + f.1 * 2 ^ (f.2 * (g.mag + 1))), foldl_fields, Nat.zero_mul, Nat.pow_zero, Nat.one_mul,
    Nat.zero_add, ofDigits_bit hn hlt, List.map_map, getD_map_range hf, Function.comp_apply]
  have hplace : k / (g.mag + 1) * (g.mag + 1) + k % (g.mag + 1) = k := by rw [Nat.mul_comm]; exact Nat.div_add_mod _ _
  have hbit : bitsN (g.str i q) (k / (g.mag + 1) * (g.mag + 1)) (g.mag + 1) / 2 ^ (k % (g.mag + 1)) % 2 =
      g.row i (q * g.blk + 2 + k / 8) / 2 ^ (k % 8) % 2 := by
    rw [bitsN_bit _ _ hkn, hplace, EncJob.str_bit hbyte _ _ (by omega)]
  obtain ⟨hmag, -⟩ := EncJob.field_eq hbyte h3 h5 i (16 * q + k / (g.mag + 1))
  rw [Nat.mul_add_div (by decide), Nat.div_eq_of_lt hf, Nat.add_zero, Nat.mul_add_mod, Nat.mod_eq_of_lt hf] at hmag
  rw [← hmag, ← hbit, bxField]
  generalize bitsN (g.str i q) (k / (g.mag + 1) * (g.mag + 1)) (g.mag + 1) = x
  by_cases hx : x % 2 ^ g.mag = 0
  · rw [if_pos hx]
    by_cases hsign : k % (g.mag + 1) = g.mag
    · rw [if_pos ⟨hsign, hx⟩]
      simp
    · have hlow : x / 2 ^ (k % (g.mag + 1)) % 2 = x % 2 ^ g.mag / 2 ^ (k % (g.mag + 1)) % 2 := by
        rw [← Nat.toNat_testBit, ← Nat.toNat_testBit, Nat.testBit_mod_two_pow, decide_eq_true (by omega), Bool.true_and]
      rw [if_neg fun h => hsign h.1, hlow, hx]
  · rw [if_neg hx, if_neg fun h => hx h.2]

/-- A block as a writer puts it, byte by byte (R68, R70). -/
theorem EncJob.bxPack_eq (i q : Nat) :
    bxPack g.kind (g.row i (q * g.blk)) (g.row i (q * g.blk + 1))
      ((List.range 16).map fun f => bitsN (g.str i q) (f * (g.mag + 1)) (g.mag + 1)) =
      (List.range g.blk).map fun p => g.written i (g.blk * q + p) := by
  obtain ⟨hroom, h2⟩ := EncJob.blk_mag h3 h5
  have hblk : bxBlock g.kind = g.blk := rfl
  have hplace {p : Nat} (hp : p < g.blk) : (g.blk * q + p) / g.blk = q ∧ (g.blk * q + p) % g.blk = p :=
    ⟨by rw [Nat.mul_add_div (by omega), Nat.div_eq_of_lt hp, Nat.add_zero], by rw [Nat.mul_add_mod, Nat.mod_eq_of_lt hp]⟩
  have hnan : g.nan i (16 * q) = (g.row i (q * g.blk) == 255) := by
    rw [EncJob.nan, decide_eq_true h3, Bool.true_and, Nat.mul_div_cancel_left _ (by decide)]
  by_cases hx : g.row i (q * g.blk) = 255
  · rw [bxPack, if_pos hx, hblk]
    refine eq_map_range (by simp; omega) fun p hp => ?_
    obtain ⟨h6, h7⟩ := hplace hp
    simp only [EncJob.written, h6, h7, hnan, hx, beq_self_eq_true, if_true, Nat.not_lt.mpr h3, false_or]
    cases p with
    | zero => simp [Nat.mul_comm g.blk, hx]
    | succ p =>
      rw [List.getD_cons_succ, if_neg (Nat.succ_ne_zero p), List.getD_eq_getElem?_getD, List.getElem?_replicate]
      split <;> rfl
  · rw [bxPack, if_neg hx, hblk]
    refine eq_map_range (by simp [leBytes_length]; omega) fun p hp => ?_
    obtain ⟨h6, h7⟩ := hplace hp
    have hnan' : g.nan i (16 * q) = false := by rw [hnan, beq_eq_false_iff_ne]; exact hx
    simp only [EncJob.written, h6, h7, hnan', Nat.not_lt.mpr h3, false_or, reduceCtorEq, if_false]
    match p, hp with
    | 0, _ => simp [Nat.mul_comm g.blk]
    | 1, _ => simp [Nat.mul_comm g.blk]
    | p + 2, hp =>
      rw [List.getD_cons_succ, List.getD_cons_succ, leBytes_getD, if_pos (by omega), if_neg (by omega), if_neg (by omega), byte_eq_sum]
      refine congrArg List.sum (List.map_congr_left fun t ht => ?_)
      have ht' := List.mem_range.mp ht
      have hbit := EncJob.written_bit hbyte h3 h5 i q (k := 8 * p + t) (by omega)
      rw [show (8 * p + t) / 8 = p by omega, show (8 * p + t) % 8 = t by omega] at hbit
      rw [Nat.add_sub_cancel, show g.blk * q + (p + 2) = q * g.blk + 2 + p by rw [Nat.mul_comm]; omega]
      refine (congrArg (· * 2 ^ t) hbit).trans ?_
      split <;> simp

end Dense

theorem EncJob.denseWritten_eq {g : EncJob} {h : TlfHdr} (ho : g.Of h) (hk : g.kind ≤ 5) (hbyte : ∀ i j, g.row i j < 256) (i : Nat) :
    denseWritten h (g.bytes i) = g.denseBytes i := by
  by_cases h3 : 3 ≤ g.kind
  · obtain ⟨-, h2⟩ := EncJob.blk_mag h3 hk
    have hblocks : denseWritten h (g.bytes i) = (List.range (g.e / 16)).flatMap fun q => (List.range g.blk).map fun p => g.written i (g.blk * q + p) := by
      rw [denseWritten, if_pos (by rw [ho.isBx hk, decide_eq_true h3]), ho.blk, ho.mag, ho.e, ho.kind]
      refine List.flatMap_congr fun q hq => ?_
      rw [EncJob.slice_bytes h3 i (List.mem_range.mp hq), ← EncJob.bxPack_eq hbyte h3 hk]
      simp only [getD_map_range (show 0 < g.blk by omega), getD_map_range (show 1 < g.blk by omega), Nat.add_zero]
      rfl
    rw [hblocks, flatMap_range_map, EncJob.denseBytes, EncJob.dr_bx h3, Nat.mul_comm]
    simp only [Nat.div_add_mod]
  · rw [denseWritten, if_neg (by rw [ho.isBx hk, decide_eq_false h3]; simp)]
    refine List.map_congr_left fun j _ => ?_
    rw [EncJob.written, if_pos (.inl (by omega))]

/-! ### What TLENC writes (05 R77; 17 R260) -/

section Bounds
variable {g : EncJob} (hbyte : ∀ i j, g.row i j < 256)

theorem EncJob.terms_length_le (i k : Nat) : (g.terms i k).length ≤ 5 := by
  unfold EncJob.terms
  split
  · simp
  · repeat' split
    all_goals exact booth_length_le _

include hbyte in
theorem EncJob.written_lt (i j : Nat) : g.written i j < 256 := by
  unfold EncJob.written
  dsimp only
  split
  · exact hbyte _ _
  · split
    · decide
    · split
      · have := hbyte i j
        omega
      · have hbit (t : Nat) : (if (8 * (j % g.blk - 2) + t) % (g.mag + 1) = g.mag ∧
            (g.field i (16 * (j / g.blk) + (8 * (j % g.blk - 2) + t) / (g.mag + 1))).1 = 0 then 0 else g.row i j / 2 ^ t % 2 * 2 ^ t) ≤ 2 ^ t := by
          split
          · exact Nat.zero_le _
          · have : g.row i j / 2 ^ t % 2 ≤ 1 := by omega
            exact (Nat.mul_le_mul_right _ this).trans_eq (Nat.one_mul _)
        refine Nat.lt_of_le_of_lt (List.sum_le_sum fun t _ => hbit t) ?_
        decide

include hbyte in
theorem EncJob.slot_lt {i : Nat} (hesc : g.esc i < 32768) (j : Nat) : g.slot i j < 256 := by
  unfold EncJob.slot
  dsimp only
  by_cases hf : g.fits i = false
  · rw [if_pos hf]
    split
    · omega
    · split <;> omega
  rw [if_neg hf]
  split
  · exact Nat.mod_lt _ (by decide)
  split
  · split
    · exact hbyte _ _
    · split
      · decide
      · omega
  split
  · have h1 := g.terms_length_le i (2 * (j - g.fx))
    have h2 := g.terms_length_le i (2 * (j - g.fx) + 1)
    omega
  · have hall : ∀ t ∈ g.list i, t.2 ≤ 7 := by
      rw [Bool.not_eq_false, EncJob.fits, Bool.and_eq_true] at hf
      simpa using hf.1
    have hnib (k : Nat) : (match (g.list i)[k]? with
        | some t => t.2 + if t.1 then 8 else 0
        | none => 0) ≤ 15 := by
      cases hk : (g.list i)[k]? with
      | none => exact Nat.zero_le _
      | some t =>
        have := hall t (List.mem_of_getElem? hk)
        show t.2 + (if t.1 then 8 else 0) ≤ 15
        split <;> omega
    have h1 := hnib (2 * (j - g.fx - g.e / 2))
    have h2 := hnib (2 * (j - g.fx - g.e / 2) + 1)
    refine Nat.lt_of_le_of_lt (Nat.add_le_add h1 (Nat.mul_le_mul_left 16 h2)) (by decide)

end Bounds

theorem EncJob.esc_succ (g : EncJob) (i : Nat) : g.esc (i + 1) = g.esc i + if g.fits i then 0 else 1 := by
  simp only [EncJob.esc, List.range_succ, List.filter_append, List.length_append]
  cases hf : g.fits i <;> simp [hf]

theorem EncJob.esc_mono (g : EncJob) {i k : Nat} (h : i ≤ k) : g.esc i ≤ g.esc k := by
  induction h with
  | refl => exact Nat.le_refl _
  | step _ ih => exact ih.trans (by rw [EncJob.esc_succ]; exact Nat.le_add_right _ _)

/-- An escape row is counted once it has passed. -/
theorem EncJob.esc_lt (g : EncJob) {i k : Nat} (h : i < k) (hf : g.fits i = false) : g.esc i < g.esc k := by
  have := g.esc_mono h
  rw [EncJob.esc_succ, hf] at this
  simpa using this

/-- The writes of row `i`: its slot, and its bytes where it is an escape row. -/
def EncJob.rowWrites (g : EncJob) (i : Nat) : List (Nat × List Nat) :=
  (16 + i * g.l, g.slotBytes i) :: if g.fits i then [] else [(16 + g.rows * g.l + g.esc i * g.dr, g.denseBytes i)]

section Encode
variable {g : EncJob} {h : TlfHdr} (ho : g.Of h) (hk : g.kind ≤ 5) (he : g.e % 8 = 0) (he16 : 3 ≤ g.kind → g.e % 16 = 0)
  (hbyte : ∀ i j, g.row i j < 256) (hl : 2 ≤ g.l) (hcap : g.cap ≤ 32767)
include ho

include hk he he16 hbyte hl hcap in
/-- The rows from row `i` on: their writes, or none if there are more escape rows than ESCCAP. -/
theorem EncJob.encodeRows_eq (m i : Nat) (hm : i + m = g.rows) (hesc : g.esc i ≤ g.cap) :
    encodeRows h ((List.range' i m).map g.bytes) i (g.esc i) =
      if g.esc g.rows ≤ g.cap then some ((List.range' i m).flatMap g.rowWrites, g.esc g.rows) else none := by
  induction m generalizing i with
  | zero =>
    subst hm
    simp [encodeRows, hesc]
  | succ m ih =>
    rw [List.range'_succ, List.map_cons, encodeRows, EncJob.encodeTermRow_eq ho hk he he16 hbyte]
    cases hf : g.fits i with
    | true =>
      have hnext : g.esc (i + 1) = g.esc i := by rw [EncJob.esc_succ, hf]; rfl
      have := ih (i + 1) (by omega) (by omega)
      rw [hnext] at this
      simp only [if_true, this, ho.l]
      split
      · simp [EncJob.rowWrites, hf]
      · rfl
    | false =>
      have hnext : g.esc (i + 1) = g.esc i + 1 := by rw [EncJob.esc_succ, hf]; rfl
      simp only [Bool.false_eq_true, if_false, ho.cap]
      by_cases hroom : g.esc i < g.cap
      · have := ih (i + 1) (by omega) (by omega)
        rw [hnext] at this
        rw [if_pos hroom, this, ho.l, ho.rows, ho.dr hk, EncJob.escapeSlot hl hf (by omega), EncJob.denseWritten_eq ho hk hbyte]
        split
        · simp [EncJob.rowWrites, hf]
        · rfl
      · have := g.esc_lt (show i < g.rows by omega) hf
        rw [if_neg hroom, if_neg (by omega)]

/-- The header that TLENC writes. -/
theorem EncJob.header_eq (hrows : g.rows < 65536) (he' : g.e < 65536) (hl' : g.l < 65536) (hcap : g.cap < 65536) {n : Nat} (hn : n < 65536) :
    ({ h with resOk := true, dense := g.dense, esccnt := if g.dense then 0 else n } : TlfHdr).bytes = (List.range 16).map fun j =>
      [g.kind, if g.dense then 1 else 0, g.rows % 256, g.rows / 256, g.e % 256, g.e / 256, g.l % 256, g.l / 256, g.cap % 256, g.cap / 256,
        if g.dense then 0 else n % 256, if g.dense then 0 else n / 256].getD j 0 := by
  have hle {x : Nat} (hx : x < 65536) : leBytes 2 x = [x % 256, x / 256] := by
    simp only [leBytes]
    rw [Nat.mod_eq_of_lt (show x / 256 < 256 by omega)]
  have hcnt : leBytes 2 (if g.dense then 0 else n) = [if g.dense then 0 else n % 256, if g.dense then 0 else n / 256] := by
    split
    · rfl
    · exact hle hn
  simp only [TlfHdr.bytes, ho.kind, ho.rows, ho.e, ho.l, ho.cap, hle hrows, hle he', hle hl', hle hcap, hcnt]
  rfl

end Encode

/-- A byte of tile memory that several writes reach, as a number. -/
theorem Block.num_putNums {ws : List (Nat × List Nat)} {b : Block} {a y : Nat} (h256 : y < 256)
    (hy : ∀ p ∈ ws, p.1 ≤ a → a < p.1 + p.2.length → p.2.getD (a - p.1) 0 = y) (hex : ∃ p ∈ ws, p.1 ≤ a ∧ a < p.1 + p.2.length) :
    (b.putNums ws).num a = y := by
  have := Block.look_putNums (b := b) (a := a) (y := BitVec.ofNat 8 y) (fun p hp h1 h2 => by rw [hy p hp h1 h2]) (.inl hex)
  rw [Block.num, this, BitVec.toNat_ofNat]
  exact Nat.mod_eq_of_lt h256

theorem Block.num_putNums_out {ws : List (Nat × List Nat)} {b : Block} {a : Nat} (h : ∀ p ∈ ws, a < p.1 ∨ p.1 + p.2.length ≤ a) :
    (b.putNums ws).num a = b.num a := by
  rw [Block.num, Block.look_putNums_out h, Block.num]

/-- Two places of rows of equal length are in the same row. -/
theorem row_unique {i i' j n : Nat} (h1 : i' * n ≤ i * n + j) (h2 : i * n + j < i' * n + n) (hj : j < n) : i' = i := by
  have h3 : i' < i + 1 := by
    by_contra hc
    have := Nat.mul_le_mul_right n (Nat.not_lt.mp hc)
    rw [Nat.succ_mul] at this
    omega
  have h4 : i < i' + 1 := by
    by_contra hc
    have := Nat.mul_le_mul_right n (Nat.not_lt.mp hc)
    rw [Nat.succ_mul] at this
    omega
  omega

theorem row_fits {i j n m : Nat} (hi : i < m) (hj : j < n) : i * n + j < m * n := by
  have := Nat.mul_le_mul_right n hi
  rw [Nat.succ_mul] at this
  omega

/-- The writes of a whole tile (R77), the header last. -/
def EncJob.writes (g : EncJob) : List (Nat × List Nat) :=
  (if g.dense then (List.range g.rows).map fun i => (16 + i * g.dr, g.denseBytes i) else (List.range g.rows).flatMap g.rowWrites) ++
    [(0, (List.range 16).map g.header)]

section Tile
variable {g : EncJob} {h : TlfHdr} {hdr : Nat → Nat} (hv : g.Valid hdr) (hbyte : ∀ i j, g.row i j < 256)
include hv

theorem EncJob.Valid.l_ge : 2 ≤ g.l := by
  obtain ⟨-, -, -, -, -, -, h8, -, -, -, hfx, -⟩ := hv
  have : 2 ≤ g.fx := by
    rw [EncJob.fx]
    split <;> omega
  omega

include hbyte in
/-- TLENC's encoder makes the tile as R77 says. -/
theorem EncJob.tlfEncode_eq (ho : g.Of h) (hrows : g.rows < 65536) (hl : g.l < 65536) :
    (tlfEncode h ((List.range g.rows).map g.bytes)).1 = g.writes ∧
      (tlfEncode h ((List.range g.rows).map g.bytes)).2.esccnt + (if (tlfEncode h ((List.range g.rows).map g.bytes)).2.dense then 65536 else 0) =
        if g.dense then 65536 else g.esc g.rows := by
  have hl2 := hv.l_ge
  obtain ⟨-, -, -, hk, -, hcap, -, he, he8, he16, -, -⟩ := hv
  have henc := EncJob.encodeRows_eq ho hk he8 he16 hbyte hl2 hcap g.rows 0 (Nat.zero_add _) (by simp [EncJob.esc])
  have hesc0 : g.esc 0 = 0 := rfl
  rw [hesc0, ← List.range_eq_range'] at henc
  by_cases hd : g.dense = true
  · have hlt : g.cap < g.esc g.rows := of_decide_eq_true hd
    rw [if_neg (by omega)] at henc
    have hhdr := EncJob.header_eq ho hrows (by omega) hl (by omega) (show 0 < 65536 by decide)
    simp only [hd, if_true] at hhdr
    simp only [tlfEncode, henc, EncJob.writes, hd, if_true, Nat.zero_add, and_true, hhdr, List.length_map, List.length_range]
    congr 1
    · refine List.map_congr_left fun i hi => ?_
      have hi' := List.mem_range.mp hi
      rw [ho.dr hk, ← EncJob.denseWritten_eq ho hk hbyte]
      simp [hi']
    · simp [EncJob.header, hd]
  · rw [Bool.not_eq_true] at hd
    have hle : g.esc g.rows ≤ g.cap := by simpa [EncJob.dense] using hd
    rw [if_pos hle] at henc
    have hhdr := EncJob.header_eq ho hrows (by omega) hl (by omega) (show g.esc g.rows < 65536 by omega)
    simp only [hd, Bool.false_eq_true, if_false] at hhdr
    simp only [tlfEncode, henc, EncJob.writes, hd, Bool.false_eq_true, if_false, Nat.add_zero, and_true, hhdr]
    simp [EncJob.header, hd]

omit hv in
theorem EncJob.header_lt (hk : g.kind ≤ 5) (hrows : g.rows < 65536) (he : g.e < 65536) (hl : g.l < 65536) (hcap : g.cap < 65536)
    (hesc : g.dense = false → g.esc g.rows < 65536) (j : Nat) : g.header j < 256 := by
  have hall : ∀ x ∈ [g.kind, if g.dense then 1 else 0, g.rows % 256, g.rows / 256, g.e % 256, g.e / 256, g.l % 256, g.l / 256, g.cap % 256,
      g.cap / 256, if g.dense then 0 else g.esc g.rows % 256, if g.dense then 0 else g.esc g.rows / 256], x < 256 := by
    cases hd : g.dense with
    | true => simp; omega
    | false =>
      have := hesc hd
      simp
      omega
  rw [EncJob.header, List.getD_eq_getElem?_getD]
  cases hj : ([g.kind, if g.dense then 1 else 0, g.rows % 256, g.rows / 256, g.e % 256, g.e / 256, g.l % 256, g.l / 256, g.cap % 256,
      g.cap / 256, if g.dense then 0 else g.esc g.rows % 256, if g.dense then 0 else g.esc g.rows / 256] : List Nat)[j]? with
  | none => exact (by decide : (0 : Nat) < 256)
  | some x => exact hall x (List.mem_of_getElem? hj)

omit hv in
theorem EncJob.mem_writes_dense (hd : g.dense = true) {p : Nat × List Nat} :
    p ∈ g.writes ↔ (∃ i < g.rows, p = (16 + i * g.dr, g.denseBytes i)) ∨ p = (0, (List.range 16).map g.header) := by
  simp only [EncJob.writes, hd, if_true, List.mem_append, List.mem_map, List.mem_range, List.mem_singleton]
  grind

omit hv in
theorem EncJob.mem_writes_terms (hd : g.dense = false) {p : Nat × List Nat} :
    p ∈ g.writes ↔ (∃ i < g.rows, p = (16 + i * g.l, g.slotBytes i)) ∨
      (∃ i < g.rows, g.fits i = false ∧ p = (16 + g.rows * g.l + g.esc i * g.dr, g.denseBytes i)) ∨ p = (0, (List.range 16).map g.header) := by
  simp only [EncJob.writes, hd, EncJob.rowWrites, Bool.false_eq_true, if_false, List.mem_append, List.mem_flatMap, List.mem_range,
    List.mem_cons, List.not_mem_nil, or_false]
  constructor
  · rintro (⟨i, hi, rfl | hp⟩ | rfl)
    · exact .inl ⟨i, hi, rfl⟩
    · cases hf : g.fits i with
      | true => simp [hf] at hp
      | false =>
        simp only [hf, Bool.false_eq_true, if_false, List.mem_singleton] at hp
        exact .inr (.inl ⟨i, hi, hf, hp⟩)
    · exact .inr (.inr rfl)
  · rintro (⟨i, hi, rfl⟩ | ⟨i, hi, hf, rfl⟩ | rfl)
    · exact .inl ⟨i, hi, .inl rfl⟩
    · exact .inl ⟨i, hi, .inr (by simp [hf])⟩
    · exact .inr rfl

section Leaves
variable {b : Block} {dst a y : Nat}

omit hv in
/-- What a byte of the tile becomes, by the writes that reach it. -/
theorem EncJob.num_writes (h256 : y < 256)
    (hy : ∀ p ∈ g.writes, dst + p.1 ≤ a → a < dst + p.1 + p.2.length → p.2.getD (a - (dst + p.1)) 0 = y)
    (hex : ∃ p ∈ g.writes, dst + p.1 ≤ a ∧ a < dst + p.1 + p.2.length) :
    (b.putNums (g.writes.map fun w => (dst + w.1, w.2))).num a = y := by
  refine Block.num_putNums h256 (fun q hq h1 h2 => ?_) ?_
  · obtain ⟨p, hp, rfl⟩ := List.mem_map.mp hq
    exact hy p hp h1 h2
  · obtain ⟨p, hp, h⟩ := hex
    exact ⟨_, List.mem_map_of_mem hp, h⟩

omit hv in
theorem EncJob.num_writes_out (h : ∀ p ∈ g.writes, a < dst + p.1 ∨ dst + p.1 + p.2.length ≤ a) :
    (b.putNums (g.writes.map fun w => (dst + w.1, w.2))).num a = b.num a := by
  refine Block.num_putNums_out fun q hq => ?_
  obtain ⟨p, hp, rfl⟩ := List.mem_map.mp hq
  exact h p hp

omit hv in
theorem EncJob.denseBytes_length (i : Nat) : (g.denseBytes i).length = g.dr := by simp [EncJob.denseBytes]
omit hv in
theorem EncJob.slotBytes_length (i : Nat) : (g.slotBytes i).length = g.l := by simp [EncJob.slotBytes]

include hbyte in
/-- A tile that stays dense. -/
theorem EncJob.leaves_dense (hd : g.dense = true) (hrows : g.rows < 65536) (hl : g.l < 65536) :
    g.Leaves dst b.num (b.putNums (g.writes.map fun w => (dst + w.1, w.2))).num := by
  obtain ⟨-, -, -, hk, -, hcap, -, he, -, -, -, -⟩ := hv
  refine ⟨fun j hj => ?header, fun _ => ⟨fun i hi j hj => ?row, fun a ha => ?out⟩, fun h => absurd (h.symm.trans hd) (by decide)⟩
  case header =>
    refine EncJob.num_writes (EncJob.header_lt hk hrows (by omega) hl (by omega) (fun h => absurd (h.symm.trans hd) (by decide)) j)
      (fun p hp h1 h2 => ?_) ⟨_, (EncJob.mem_writes_dense hd).mpr (.inr rfl), by simp, by simpa using hj⟩
    obtain ⟨i, hi, rfl⟩ | rfl := (EncJob.mem_writes_dense hd).mp hp
    · simp only at h1
      omega
    · simp only [Nat.add_zero, Nat.add_sub_cancel_left]
      exact getD_map_range hj
  case row =>
    refine EncJob.num_writes (EncJob.written_lt hbyte i j) (fun p hp h1 h2 => ?_)
      ⟨_, (EncJob.mem_writes_dense hd).mpr (.inl ⟨i, hi, rfl⟩), by simp only; omega, by simp only [EncJob.denseBytes_length]; omega⟩
    obtain ⟨i', hi', rfl⟩ | rfl := (EncJob.mem_writes_dense hd).mp hp
    · simp only [EncJob.denseBytes_length] at h1 h2 ⊢
      cases row_unique (i := i) (i' := i') (j := j) (n := g.dr) (by omega) (by omega) hj
      rw [show dst + 16 + i * g.dr + j - (dst + (16 + i * g.dr)) = j by omega]
      exact getD_map_range hj
    · simp only [List.length_map, List.length_range] at h2
      omega
  case out =>
    refine EncJob.num_writes_out fun p hp => ?_
    obtain ⟨i, hi, rfl⟩ | rfl := (EncJob.mem_writes_dense hd).mp hp
    · have := Nat.mul_le_mul_right g.dr hi
      rw [Nat.succ_mul] at this
      simp only [EncJob.denseBytes_length]
      omega
    · simp only [List.length_map, List.length_range]
      omega

include hbyte in
/-- A tile of slots and escape rows. -/
theorem EncJob.leaves_terms (hd : g.dense = false) (hrows : g.rows < 65536) (hl : g.l < 65536) :
    g.Leaves dst b.num (b.putNums (g.writes.map fun w => (dst + w.1, w.2))).num := by
  obtain ⟨-, -, -, hk, -, hcap, -, he, -, -, -, -⟩ := hv
  have hle : g.esc g.rows ≤ g.cap := by simpa [EncJob.dense] using hd
  have hesc {i : Nat} (hi : i < g.rows) : g.esc i < 32768 := by
    have := g.esc_mono hi.le
    omega
  refine ⟨fun j hj => ?header, fun h => absurd (h.symm.trans hd) (by decide), fun _ => ⟨fun i hi j hj => ?slot, fun i hi hf j hj => ?escape,
    fun a ha => ?out⟩⟩
  case header =>
    refine EncJob.num_writes (EncJob.header_lt hk hrows (by omega) hl (by omega) (fun _ => by omega) j)
      (fun p hp h1 h2 => ?_) ⟨_, (EncJob.mem_writes_terms hd).mpr (.inr (.inr rfl)), by simp, by simpa using hj⟩
    obtain ⟨i, hi, rfl⟩ | ⟨i, hi, hf, rfl⟩ | rfl := (EncJob.mem_writes_terms hd).mp hp
    · simp only at h1
      omega
    · simp only at h1
      omega
    · simp only [Nat.add_zero, Nat.add_sub_cancel_left]
      exact getD_map_range hj
  case slot =>
    have hfit := row_fits hi hj
    refine EncJob.num_writes (EncJob.slot_lt hbyte (hesc hi) j) (fun p hp h1 h2 => ?_)
      ⟨_, (EncJob.mem_writes_terms hd).mpr (.inl ⟨i, hi, rfl⟩), by simp only; omega, by simp only [EncJob.slotBytes_length]; omega⟩
    obtain ⟨i', hi', rfl⟩ | ⟨i', hi', hf, rfl⟩ | rfl := (EncJob.mem_writes_terms hd).mp hp
    · simp only [EncJob.slotBytes_length] at h1 h2 ⊢
      cases row_unique (i := i) (i' := i') (j := j) (n := g.l) (by omega) (by omega) hj
      rw [show dst + 16 + i * g.l + j - (dst + (16 + i * g.l)) = j by omega]
      exact getD_map_range hj
    · simp only at h1
      omega
    · simp only [List.length_map, List.length_range] at h2
      omega
  case escape =>
    refine EncJob.num_writes (EncJob.written_lt hbyte i j) (fun p hp h1 h2 => ?_)
      ⟨_, (EncJob.mem_writes_terms hd).mpr (.inr (.inl ⟨i, hi, hf, rfl⟩)), by simp only; omega, by simp only [EncJob.denseBytes_length]; omega⟩
    obtain ⟨i', hi', rfl⟩ | ⟨i', hi', hf', rfl⟩ | rfl := (EncJob.mem_writes_terms hd).mp hp
    · have := Nat.mul_le_mul_right g.l hi'
      rw [Nat.succ_mul] at this
      simp only [EncJob.slotBytes_length] at h2
      omega
    · simp only [EncJob.denseBytes_length] at h1 h2 ⊢
      have hsame : g.esc i' = g.esc i := row_unique (j := j) (n := g.dr) (by omega) (by omega) hj
      have hii : i' = i := by
        rcases Nat.lt_trichotomy i' i with hlt | h | hlt
        · have := g.esc_lt hlt hf'
          omega
        · exact h
        · have := g.esc_lt hlt hf
          omega
      cases hii
      rw [show dst + 16 + g.rows * g.l + g.esc i * g.dr + j - (dst + (16 + g.rows * g.l + g.esc i * g.dr)) = j by omega]
      exact getD_map_range hj
    · simp only [List.length_map, List.length_range] at h2
      omega
  case out =>
    refine EncJob.num_writes_out fun p hp => ?_
    obtain ⟨i, hi, rfl⟩ | ⟨i, hi, hf, rfl⟩ | rfl := (EncJob.mem_writes_terms hd).mp hp
    · have := Nat.mul_le_mul_right g.l hi
      rw [Nat.succ_mul] at this
      simp only [EncJob.slotBytes_length]
      omega
    · have := Nat.mul_le_mul_right g.dr (g.esc_lt hi hf)
      rw [Nat.succ_mul] at this
      simp only [EncJob.denseBytes_length]
      omega
    · simp only [List.length_map, List.length_range]
      omega

end Leaves

end Tile

/-- The job of a TLENC, from its header and its rows. -/
def UnitOp.pitch (o : UnitOp) (b : Block) : Nat :=
  if o.arg = 0 then (EncJob.ofHeader (fun j => b.num (o.dst + j)) fun _ _ => 0).dr else o.arg

def UnitOp.job (o : UnitOp) (b : Block) : EncJob :=
  EncJob.ofHeader (fun j => b.num (o.dst + j)) fun i j => b.num (o.src + i * o.pitch b + j)

/-- Bytes of a TLENC's tile (R75). -/
def EncJob.size (g : EncJob) : Nat := 16 + g.rows * g.l + g.cap * g.dr

section Job
variable (b : Block) (o : UnitOp)

theorem UnitOp.job_of : (o.job b).Of (TlfHdr.parse (b.nums o.dst 16)) := by
  rw [Block.nums_eq]
  exact EncJob.ofHeader_of (fun i => b.num_lt _) _

theorem UnitOp.valid_iff : (TlfHdr.parse (b.nums o.dst 16)).validShape = true ↔ (o.job b).Valid fun j => b.num (o.dst + j) := by
  rw [Block.nums_eq]
  exact EncJob.valid_iff (fun i => b.num_lt _) _

theorem UnitOp.job_bounds : (o.job b).rows < 65536 ∧ (o.job b).l < 65536 := by
  have h2 := b.num_lt (o.dst + 2)
  have h3 := b.num_lt (o.dst + 3)
  have h6 := b.num_lt (o.dst + 6)
  have h7 := b.num_lt (o.dst + 7)
  simp only [UnitOp.job, EncJob.ofHeader]
  omega

/-- Do a TLENC's rows and its tile lie in the tile memory, and do they keep apart (R260)? -/
def UnitOp.Inside : Prop := o.src + (o.job b).rows * o.pitch b ≤ b.tmem ∧ o.dst + (o.job b).size ≤ b.tmem
def UnitOp.Apart : Prop :=
  ¬(o.src < o.dst + (o.job b).size ∧ o.dst < o.src + (o.job b).rows * o.pitch b) ∧ (o.job b).dr ≤ o.pitch b

theorem tlencResult_invalid (hv : ¬(o.job b).Valid fun j => b.num (o.dst + j)) : tlencResult b o = (0x80000001, []) := by
  rw [← UnitOp.valid_iff, Bool.not_eq_true] at hv
  simp only [tlencResult, hv, if_true]

variable {b o}
variable (hv : (o.job b).Valid fun j => b.num (o.dst + j))
include hv

/-- The result of a TLENC with a good header. -/
theorem tlencResult_valid : tlencResult b o =
    if b.tmem < o.src + (o.job b).rows * o.pitch b ∨ b.tmem < o.dst + (o.job b).size then (0x80000002, [])
    else if (o.src < o.dst + (o.job b).size ∧ o.dst < o.src + (o.job b).rows * o.pitch b) ∨ o.pitch b < (o.job b).dr then (0x80000003, [])
    else (if (o.job b).dense then 65536 else (o.job b).esc (o.job b).rows, (o.job b).writes.map fun w => (o.dst + w.1, w.2)) := by
  have ho := o.job_of b
  obtain ⟨hrows, hl⟩ := o.job_bounds b
  have hshape := (o.valid_iff b).mpr hv
  have hk : (o.job b).kind ≤ 5 := by
    obtain ⟨-, -, -, hk, -⟩ := hv
    exact hk
  have henc := EncJob.tlfEncode_eq hv (fun i j => b.num_lt _) ho hrows hl
  have hpitch : (if o.arg = 0 then (o.job b).dr else o.arg) = o.pitch b := rfl
  have hbytes (i : Nat) : b.nums (o.src + i * o.pitch b) (o.job b).dr = (o.job b).bytes i := Block.nums_eq ..
  simp only [tlencResult, hshape, ho.dr hk, ho.rows, ho.extent hk, hpitch, hbytes, henc, meets, Bool.and_eq_true, decide_eq_true_eq, EncJob.size,
    Bool.true_eq_false, if_false]
  rfl

theorem tlencResult_outside (hin : ¬o.Inside b) : tlencResult b o = (0x80000002, []) := by
  rw [tlencResult_valid hv, if_pos]
  unfold UnitOp.Inside at hin
  omega

theorem tlencResult_meets (hin : o.Inside b) (hap : ¬o.Apart b) : tlencResult b o = (0x80000003, []) := by
  obtain ⟨h1, h2⟩ := hin
  rw [tlencResult_valid hv, if_neg (by omega), if_pos]
  rwa [UnitOp.Apart, Decidable.not_and_iff_not_or_not, Decidable.not_not, Nat.not_le] at hap

theorem tlencResult_good (hin : o.Inside b) (hap : o.Apart b) : tlencResult b o =
    (if (o.job b).dense then 65536 else (o.job b).esc (o.job b).rows, (o.job b).writes.map fun w => (o.dst + w.1, w.2)) := by
  obtain ⟨h1, h2⟩ := hin
  obtain ⟨h3, h4⟩ := hap
  rw [tlencResult_valid hv, if_neg (by omega), if_neg (by omega)]

theorem UnitOp.status_lt : (if (o.job b).dense then 65536 else (o.job b).esc (o.job b).rows) < 0x80000000 := by
  obtain ⟨-, -, -, -, -, hcap, -⟩ := hv
  cases hd : (o.job b).dense with
  | true => exact (by decide : 65536 < 0x80000000)
  | false =>
    have : (o.job b).esc (o.job b).rows ≤ (o.job b).cap := by simpa [EncJob.dense] using hd
    simp only [Bool.false_eq_true, if_false]
    omega

end Job

/-- A status below 0x80000000 comes with the encoder's writes and its counts. -/
theorem tlencResult_encoded {b : Block} {o : UnitOp} (h : (tlencResult b o).1 < 0x80000000) :
    let hd := TlfHdr.parse (b.nums o.dst 16)
    let p := if o.arg = 0 then hd.dr else o.arg
    let e := tlfEncode hd ((List.range hd.rows).map fun i => b.nums (o.src + i * p) hd.dr)
    (tlencResult b o).1 = e.2.esccnt + (if e.2.dense then 65536 else 0) ∧ (tlencResult b o).2 = e.1.map fun w => (o.dst + w.1, w.2) := by
  unfold tlencResult at h ⊢
  generalize TlfHdr.parse (b.nums o.dst 16) = hd at h ⊢
  dsimp only at h ⊢
  generalize (if o.arg = 0 then hd.dr else o.arg) = p at h ⊢
  by_cases h1 : hd.validShape = false
  · rw [if_pos h1] at h
    exact absurd h (by decide : ¬(0x80000001 : Nat) < 0x80000000)
  rw [if_neg h1] at h ⊢
  by_cases h2 : b.tmem < o.src + hd.rows * p ∨ b.tmem < o.dst + hd.extent
  · rw [if_pos h2] at h
    exact absurd h (by decide : ¬(0x80000002 : Nat) < 0x80000000)
  rw [if_neg h2] at h ⊢
  by_cases h3 : meets o.src (hd.rows * p) o.dst hd.extent = true ∨ p < hd.dr
  · rw [if_pos h3] at h
    exact absurd h (by decide : ¬(0x80000003 : Nat) < 0x80000000)
  rw [if_neg h3]
  exact ⟨rfl, rfl⟩

theorem exec_tlencComplete {s : State} {core : BitVec 7} {o : UnitOp} {rest : List UnitOp} {bk : Nat} {b : Block}
    (hq : (s.core core.toNat).tlfq = o :: rest) (hbk : o.blk = some bk) (hb : s.blk? bk = some b) (henc : o.enc = true)
    (hready : s.tlencReady core.toNat b o = true) :
    exec (.tlencComplete core) s = .next (s.ended core.toNat (o.since + tlencCycles b o (tlencResult b o)) bk o.wid (tlencResult b o).2
      (fun now x => { x with tlfq := popUnit x.tlfq now }) fun w => w.withStatus true o.d (tlencResult b o).1) := by
  show execTlencComplete core s = _
  simp only [execTlencComplete, hq, hbk, Option.bind_some, hb, Option.map_some, henc, hready, if_true, Bool.true_eq_false, if_false]
  rfl

/-! ### Symbols of a sub-stream (05 R80) -/

/-- The bits from place `p` to the end of a sub-stream. -/
def bitsTo (bit : Nat → Bool) (top p : Nat) : List Bool := (List.range (top - p)).map fun i => bit (p + i)

section Bits
variable {bit : Nat → Bool} {top : Nat}

theorem bitsTo_of_lt {p : Nat} (h : p < top) : bitsTo bit top p = bit p :: bitsTo bit top (p + 1) := by
  rw [bitsTo, show top - p = (top - (p + 1)) + 1 by omega, List.range_succ_eq_map, List.map_cons, List.map_map, bitsTo]
  refine congrArg₂ _ rfl (List.map_congr_left fun i _ => ?_)
  simp only [Function.comp, Nat.succ_eq_add_one]
  congr 1
  omega

theorem bitsTo_of_le {p : Nat} (h : top ≤ p) : bitsTo bit top p = [] := by rw [bitsTo, Nat.sub_eq_zero_of_le h]; rfl

theorem bitsFrom_succ (p n : Nat) : bitsFrom bit p (n + 1) = (if bit p then 2 ^ n else 0) + bitsFrom bit (p + 1) n := by
  rw [bitsFrom, List.range_succ_eq_map, List.map_cons, List.sum_cons, List.map_map, bitsFrom]
  congr 2
  refine List.map_congr_left fun i _ => ?_
  simp only [Function.comp, Nat.succ_eq_add_one]
  rw [show p + (i + 1) = p + 1 + i by omega, show n + 1 - 1 - (i + 1) = n - 1 - i by omega]

/-- A number of `n` bits is read where all of them are there. -/
theorem takeBits_eq (n acc p : Nat) (hp : p ≤ top) : takeBits n acc (bitsTo bit top p) =
    if p + n ≤ top then some (acc * 2 ^ n + bitsFrom bit p n, bitsTo bit top (p + n)) else none := by
  induction n generalizing acc p with
  | zero => simp [takeBits, bitsFrom, hp]
  | succ n ih =>
    rcases Nat.lt_or_ge p top with h | h
    · rw [bitsTo_of_lt h, takeBits, ih _ _ h, bitsFrom_succ, show p + 1 + n = p + (n + 1) by omega]
      refine if_congr Iff.rfl (congrArg some (Prod.ext ?_ rfl)) rfl
      cases bit p
      · simp only [Bool.false_eq_true, if_false]
        ring
      · simp only [if_true]
        ring
    · rw [bitsTo_of_le h, if_neg (by omega)]
      rfl

/-- The ones before a zero. -/
theorem unary_iff (n q p : Nat) (hp : p ≤ top) (q' : Nat) (r : List Bool) : unary n q (bitsTo bit top p) = some (q', r) ↔
    (∃ j < n, (∀ i < j, bit (p + i) = true) ∧ bit (p + j) = false ∧ p + j + 1 ≤ top ∧ q' = q + j ∧ r = bitsTo bit top (p + j + 1)) ∨
    ((∀ i < n, bit (p + i) = true) ∧ p + n ≤ top ∧ q' = q + n ∧ r = bitsTo bit top (p + n)) := by
  induction n generalizing q p with
  | zero =>
    rw [unary, Option.some.injEq, Prod.mk.injEq]
    constructor
    · rintro ⟨rfl, rfl⟩
      exact .inr ⟨fun i hi => absurd hi (Nat.not_lt_zero i), hp, rfl, rfl⟩
    · rintro (⟨j, hj, -⟩ | ⟨-, -, rfl, rfl⟩)
      · exact absurd hj (Nat.not_lt_zero j)
      · exact ⟨rfl, rfl⟩
  | succ n ih =>
    rcases Nat.lt_or_ge p top with h | h
    · rw [bitsTo_of_lt h]
      cases hb : bit p with
      | true =>
        rw [unary, ih _ _ h]
        constructor
        · rintro (⟨j, hj, h1, h2, h3, h4, h5⟩ | ⟨h1, h2, h3, h4⟩)
          · refine .inl ⟨j + 1, by omega, fun i hi => ?_, by rwa [show p + (j + 1) = p + 1 + j by omega], by omega, by omega,
              by rw [h5, show p + 1 + j + 1 = p + (j + 1) + 1 by omega]⟩
            cases i with
            | zero => exact hb
            | succ i => rw [show p + (i + 1) = p + 1 + i by omega]; exact h1 i (by omega)
          · refine .inr ⟨fun i hi => ?_, by omega, by omega, by rw [h4, show p + 1 + n = p + (n + 1) by omega]⟩
            cases i with
            | zero => exact hb
            | succ i => rw [show p + (i + 1) = p + 1 + i by omega]; exact h1 i (by omega)
        · rintro (⟨j, hj, h1, h2, h3, h4, h5⟩ | ⟨h1, h2, h3, h4⟩)
          · cases j with
            | zero => rw [Nat.add_zero, hb] at h2; cases h2
            | succ j =>
              refine .inl ⟨j, by omega, fun i hi => ?_, by rwa [show p + 1 + j = p + (j + 1) by omega], by omega, by omega,
                by rw [h5, show p + 1 + j + 1 = p + (j + 1) + 1 by omega]⟩
              rw [show p + 1 + i = p + (i + 1) by omega]
              exact h1 _ (by omega)
          · refine .inr ⟨fun i hi => ?_, by omega, by omega, by rw [h4, show p + 1 + n = p + (n + 1) by omega]⟩
            rw [show p + 1 + i = p + (i + 1) by omega]
            exact h1 _ (by omega)
      | false =>
        rw [unary]
        constructor
        · rintro h'
          cases h'
          exact .inl ⟨0, by omega, fun i hi => absurd hi (by omega), hb, by omega, rfl, rfl⟩
        · rintro (⟨j, hj, h1, h2, h3, h4, h5⟩ | ⟨h1, h2, h3, h4⟩)
          · cases j with
            | zero => rw [h4, h5]; rfl
            | succ j => exact absurd ((h1 0 (by omega)).symm.trans hb) (by decide)
          · exact absurd ((h1 0 (by omega)).symm.trans hb) (by decide)
    · rw [bitsTo_of_le h]
      refine ⟨fun h' => by simp [unary] at h', ?_⟩
      rintro (⟨j, hj, h1, h2, h3, h4, h5⟩ | ⟨h1, h2, h3, h4⟩)
      · omega
      · omega

/-- One symbol, as R80 reads it. -/
theorem sscSymbol_iff (k p : Nat) (hp : p ≤ top) (z : Nat) (r : List Bool) : sscSymbol k (bitsTo bit top p) = some (z, r) ↔
    ∃ p', SymbolAt bit top k p z p' ∧ r = bitsTo bit top p' := by
  unfold sscSymbol
  constructor
  · intro h
    split at h
    · cases h
    · rename_i q r' hu
      rcases (unary_iff 16 0 p hp q r').mp hu with ⟨j, hj, h1, h2, h3, rfl, rfl⟩ | ⟨h1, h2, rfl, rfl⟩
      · rw [Nat.zero_add, if_neg (by omega), takeBits_eq k 0 _ h3] at h
        by_cases hroom : p + j + 1 + k ≤ top
        · rw [if_pos hroom, Option.map_some, Option.some.injEq, Prod.mk.injEq] at h
          obtain ⟨rfl, rfl⟩ := h
          exact ⟨_, ⟨hroom, .inl ⟨j, hj, h1, h2, by rw [Nat.zero_mul, Nat.zero_add], rfl⟩⟩, rfl⟩
        · rw [if_neg hroom] at h
          cases h
      · rw [if_pos rfl, takeBits_eq 8 0 _ h2] at h
        by_cases hroom : p + 16 + 8 ≤ top
        · rw [if_pos hroom, Option.some.injEq, Prod.mk.injEq] at h
          obtain ⟨rfl, rfl⟩ := h
          exact ⟨_, ⟨hroom, .inr ⟨h1, by rw [Nat.zero_mul, Nat.zero_add], rfl⟩⟩, rfl⟩
        · rw [if_neg hroom] at h
          cases h
  · rintro ⟨p', ⟨hroom, ⟨q, hq, h1, h2, rfl, rfl⟩ | ⟨h1, rfl, rfl⟩⟩, rfl⟩
    · have hu := (unary_iff (top := top) 16 0 p hp q _).mpr (.inl ⟨q, hq, h1, h2, by omega, by omega, rfl⟩)
      simp only [hu]
      rw [if_neg (by omega), takeBits_eq k 0 _ (by omega), if_pos hroom, Nat.zero_mul, Nat.zero_add]
      rfl
    · have hu := (unary_iff (top := top) 16 0 p hp 16 _).mpr (.inr ⟨h1, by omega, by omega, rfl⟩)
      simp only [hu, if_true]
      rw [takeBits_eq 8 0 _ (by omega), if_pos hroom, Nat.zero_mul, Nat.zero_add]

/-- The byte that a symbol gives after `prev` (R80). -/
theorem symbol_byte (prev z : Nat) (x : Nat) :
    (((prev : Int) + if z % 2 = 0 then ((z / 2 : Nat) : Int) else -(((z + 1) / 2 : Nat) : Int)) % 256).toNat = x ↔
      (x : Int) = ((prev : Int) + if z % 2 = 0 then (z / 2 : Int) else -(((z : Int) + 1) / 2)) % 256 := by
  split <;> omega

/-- A sub-stream gives these bytes, as many as are asked for. -/
theorem sscStream_iff (k n prev p : Nat) (hp : p ≤ top) (xs : List Nat) :
    sscStream k n prev (bitsTo bit top p) = some xs ↔ xs.length = n ∧ StreamGives bit top k p prev xs := by
  induction n generalizing prev p xs with
  | zero =>
    rw [sscStream, Option.some.injEq]
    constructor
    · rintro rfl
      exact ⟨rfl, trivial⟩
    · rintro ⟨h, -⟩
      exact (List.length_eq_zero_iff.mp h).symm
  | succ n ih =>
    unfold sscStream
    constructor
    · intro h
      split at h
      · cases h
      · rename_i z r hs
        obtain ⟨p', hsym, rfl⟩ := (sscSymbol_iff k p hp z r).mp hs
        split at h
        · cases h
        · rename_i hz
          obtain ⟨ys, hys, rfl⟩ := Option.map_eq_some_iff.mp h
          obtain ⟨hlen, hgives⟩ := (ih _ _ hsym.1 _).mp hys
          exact ⟨by rw [List.length_cons, hlen], z, p', hsym, by omega, (symbol_byte ..).mp rfl, hgives⟩
    · rintro ⟨hlen, hgives⟩
      cases xs with
      | nil => cases hlen
      | cons x ys =>
        obtain ⟨z, p', hsym, hz, hx, hrest⟩ := hgives
        have hs := (sscSymbol_iff k p hp z _).mpr ⟨p', hsym, rfl⟩
        simp only [hs]
        rw [if_neg (by omega), (symbol_byte ..).mpr hx, (ih _ _ hsym.1 _).mpr ⟨by simpa using hlen, hrest⟩]
        rfl

end Bits

/-- The bits of bytes, by their places. -/
theorem bitsMsb_eq (bs : List Nat) : bitsMsb bs = bitsTo (fun p => (bs.getD (p / 8) 0).testBit (7 - p % 8)) (8 * bs.length) 0 := by
  have hbyte (b : Nat) : [b.testBit 7, b.testBit 6, b.testBit 5, b.testBit 4, b.testBit 3, b.testBit 2, b.testBit 1, b.testBit 0] =
      (List.range 8).map fun t => b.testBit (7 - t) := rfl
  have hbs : bs = (List.range bs.length).map fun i => bs.getD i 0 := eq_map_range rfl fun _ _ => rfl
  simp only [bitsMsb, hbyte]
  conv_lhs => rw [hbs, List.flatMap_map]
  rw [flatMap_range_map (fun i t => (bs.getD i 0).testBit (7 - t)), bitsTo, Nat.sub_zero]
  simp only [Nat.zero_add]

/-! ### The header of a chunk (05 R81) -/

/-- The bytes of a chunk. -/
def SscJob.chunk (c : SscJob) : List Nat := (List.range c.lc).map c.byte

/-- The bytes of sub-stream `i`. -/
def SscJob.sub (c : SscJob) (i : Nat) : List Nat := (List.range (c.stop i - c.start i)).map fun j => c.byte (c.start i + j)

/-- What its header says, where it is good. -/
def SscJob.header (c : SscJob) : SscHdr :=
  { n := c.n, raw := c.raw, ks := (List.range c.n).map c.k, subs := (List.range c.n).map c.sub }

section Header
variable {c : SscJob}

theorem SscJob.n_pos : 0 < c.n := Nat.two_pow_pos _

theorem SscJob.start_succ (i : Nat) : c.start (i + 1) = c.start i + c.len i := by
  simp only [SscJob.start, List.range_succ, List.map_append, List.sum_append, List.map_cons, List.map_nil, List.sum_cons, List.sum_nil]
  omega

theorem SscJob.start_mono {i k : Nat} (h : i ≤ k) : c.start i ≤ c.start k := by
  induction h with
  | refl => exact Nat.le_refl _
  | step _ ih => exact ih.trans (by rw [SscJob.start_succ]; exact Nat.le_add_right _ _)

theorem SscJob.start_ge (i : Nat) : 1 + 3 * c.n ≤ c.start i := Nat.le_add_right _ _

theorem SscJob.slice_chunk {off m : Nat} (h : off + m ≤ c.lc) : slice c.chunk off m = (List.range m).map fun i => c.byte (off + i) := by
  refine List.map_congr_left fun i hi => ?_
  have hi' := List.mem_range.mp hi
  exact getD_map_range (by omega)

/-- Some bytes of a chunk, by their places. -/
theorem SscJob.drop_take_chunk {off m : Nat} (h : off + m ≤ c.lc) : (c.chunk.drop off).take m = (List.range m).map fun j => c.byte (off + j) := by
  refine eq_map_range (by simp [SscJob.chunk]; omega) fun j hj => ?_
  rw [List.getD_eq_getElem?_getD, List.getElem?_take_of_lt hj, List.getElem?_drop, ← List.getD_eq_getElem?_getD]
  exact getD_map_range (by omega)

theorem SscJob.stop_le (h : c.start (c.n - 1) ≤ c.lc) {i : Nat} (hi : i < c.n) : c.start i ≤ c.stop i ∧ c.stop i ≤ c.lc := by
  unfold SscJob.stop
  split
  · rename_i hlast
    rw [show i = c.n - 1 by omega]
    exact ⟨h, Nat.le_refl _⟩
  · exact ⟨SscJob.start_mono (Nat.le_succ i), (SscJob.start_mono (by omega)).trans h⟩

theorem foldl_add_eq_sum (xs : List Nat) : xs.foldl (· + ·) 0 = xs.sum := List.sum_eq_foldl.symm

/-- A chunk's header, or none where it fails R81. -/
theorem SscJob.sscHeader_eq (hlc : 1 ≤ c.lc) [Decidable c.HeaderOk] : sscHeader c.chunk = if c.HeaderOk then some c.header else none := by
  have hlen : c.chunk.length = c.lc := by simp [SscJob.chunk]
  have h0 : c.chunk.getD 0 0 = c.byte 0 := getD_map_range hlc
  have hempty : c.chunk.isEmpty = false := by
    rw [List.isEmpty_eq_false_iff, ne_eq, ← List.length_eq_zero_iff]
    omega
  have hn := c.n_pos
  have hhl : 3 + 2 * (c.n - 1) + c.n = 1 + 3 * c.n := by omega
  by_cases hnc : 3 < c.byte 0
  · rw [if_neg fun hok : c.HeaderOk => absurd hok.1 (by omega)]
    simp only [sscHeader, h0, decide_eq_true hnc, Bool.or_true, if_true]
  by_cases hshort : c.lc < 1 + 3 * c.n
  · have hstart := c.start_ge (c.n - 1)
    rw [if_neg fun hok : c.HeaderOk => by
      obtain ⟨-, -, -, -, hok⟩ := hok
      omega]
    simp only [sscHeader, h0, hempty, hnc, decide_false, Bool.or_self, Bool.false_eq_true, if_false, hlen]
    rw [if_pos]
    refine .inr (.inr (.inr ?_))
    have : c.lc < 3 + 2 * (c.n - 1) + c.n := by omega
    exact this.trans_le (Nat.le_add_right _ _)
  · have hraw : leN (slice c.chunk 1 2) = c.raw := by
      rw [SscJob.slice_chunk (by omega)]
      exact leN_pair _ _
    have hlens : ((List.range (c.n - 1)).map fun i => leN (slice c.chunk (3 + 2 * i) 2)) = (List.range (c.n - 1)).map c.len := by
      refine List.map_congr_left fun i hi => ?_
      have hi' := List.mem_range.mp hi
      rw [SscJob.slice_chunk (by omega)]
      exact (leN_pair _ _).trans (by rw [SscJob.len, show 4 + 2 * i = 3 + 2 * i + 1 by omega]; rfl)
    have hks : slice c.chunk (3 + 2 * (c.n - 1)) c.n = (List.range c.n).map c.k := SscJob.slice_chunk (by omega)
    have hused : 3 + 2 * (c.n - 1) + c.n + ((List.range (c.n - 1)).map c.len).sum = c.start (c.n - 1) := by rw [hhl]; rfl
    have hany : (((List.range c.n).map c.k).any fun k => decide (7 < k)) = true ↔ ¬∀ i < c.n, c.k i ≤ 7 := by simp
    have hbad : (c.raw = 0 ∨ 512 < c.raw ∨ (((List.range c.n).map c.k).any fun k => decide (7 < k)) = true ∨ c.lc < c.start (c.n - 1)) ↔ ¬c.HeaderOk := by
      rw [hany, SscJob.HeaderOk]
      grind
    simp only [sscHeader, h0, hempty, hnc, decide_false, Bool.or_self, Bool.false_eq_true, if_false, hlen]
    rw [show (2 : Nat) ^ c.byte 0 = c.n from rfl, hraw, hlens, hks, foldl_add_eq_sum, hused]
    by_cases hok : c.HeaderOk
    · have hstart : c.start (c.n - 1) ≤ c.lc := by
        obtain ⟨-, -, -, -, h⟩ := hok
        exact h
      rw [if_neg (hbad.not.mpr (not_not.mpr hok)), if_pos hok]
      refine congrArg some ?_
      rw [SscJob.header]
      congr 1
      refine List.map_congr_left fun i hi => ?_
      have hi' := List.mem_range.mp hi
      obtain ⟨h1, h2⟩ := SscJob.stop_le hstart hi'
      have hat : 3 + 2 * (c.n - 1) + c.n + (((List.range (c.n - 1)).map c.len).take i).foldl (· + ·) 0 = c.start i := by
        rw [foldl_add_eq_sum, hhl, ← List.map_take, List.take_range, Nat.min_eq_left (by omega)]
        rfl
      have hsize : (if i + 1 = c.n then c.lc - c.start i else ((List.range (c.n - 1)).map c.len).getD i 0) = c.stop i - c.start i := by
        unfold SscJob.stop
        split
        · rfl
        · rw [getD_map_range (by omega), SscJob.start_succ, Nat.add_sub_cancel_left]
      rw [hat, hsize, SscJob.drop_take_chunk (by omega)]
      rfl
    · rw [if_pos (hbad.mpr hok), if_neg hok]

end Header

/-! ### The bytes of a chunk (05 R80) -/

/-- A sub-stream gives bytes. -/
theorem StreamGives.lt {bit : Nat → Bool} {top k p prev : Nat} {xs : List Nat} (h : StreamGives bit top k p prev xs) : ∀ x ∈ xs, x < 256 := by
  induction xs generalizing p prev with
  | nil => exact nofun
  | cons y ys ih =>
    obtain ⟨z, p', -, -, hy, hrest⟩ := h
    intro x hx
    rcases List.mem_cons.mp hx with rfl | hx
    · omega
    · exact ih hrest x hx

theorem bitsTo_congr {f g : Nat → Bool} {top : Nat} (h : ∀ p < top, f p = g p) (p : Nat) : bitsTo f top p = bitsTo g top p := by
  refine List.map_congr_left fun i hi => ?_
  have hi' := List.mem_range.mp hi
  exact h _ (by omega)

section Body
variable {c : SscJob}

/-- The bits of sub-stream `i`. -/
def SscJob.bit (c : SscJob) (i p : Nat) : Bool := (c.byte (c.start i + p / 8)).testBit (7 - p % 8)

theorem SscJob.bitsMsb_sub (i : Nat) : bitsMsb (c.sub i) = bitsTo (c.bit i) (8 * (c.stop i - c.start i)) 0 := by
  have hlen : (c.sub i).length = c.stop i - c.start i := by simp [SscJob.sub]
  rw [bitsMsb_eq, hlen]
  refine bitsTo_congr (fun p hp => ?_) 0
  rw [SscJob.bit, SscJob.sub, getD_map_range (by omega)]

/-- What the decoder makes of sub-stream `i`. -/
def SscJob.outs (c : SscJob) (i : Nat) : Option (List Nat) := sscStream (c.k i) (sscCount c.raw c.n i) 0 (bitsMsb (c.sub i))

theorem SscJob.outs_iff (i : Nat) (xs : List Nat) : c.outs i = some xs ↔
    xs.length = sscCount c.raw c.n i ∧ StreamGives (c.bit i) (8 * (c.stop i - c.start i)) (c.k i) 0 0 xs := by
  rw [SscJob.outs, SscJob.bitsMsb_sub]
  exact sscStream_iff _ _ _ _ (Nat.zero_le _) _

theorem SscJob.gives_iff (out : Nat → Nat) :
    c.Gives out ↔ ∀ i < c.n, c.outs i = some ((List.range (sscCount c.raw c.n i)).map fun t => out (i + c.n * t)) := by
  refine forall₂_congr fun i hi => ?_
  rw [SscJob.outs_iff]
  simp only [List.length_map, List.length_range, true_and]
  rfl

theorem SscJob.body_eq : sscBody c.header =
    if ((List.range c.n).map c.outs).any (·.isNone) then none
    else some ((List.range c.raw).map fun j => ((((List.range c.n).map c.outs).getD (j % c.n) none).getD []).getD (j / c.n) 0) := by
  have houts : ((List.range c.n).map fun i => sscStream (((List.range c.n).map c.k).getD i 0) (sscCount c.raw c.n i) 0
      (bitsMsb (((List.range c.n).map c.sub).getD i []))) = (List.range c.n).map c.outs := by
    refine List.map_congr_left fun i hi => ?_
    have hi' := List.mem_range.mp hi
    rw [getD_map_range hi', SscJob.outs]
    simp [hi']
  simp only [sscBody, SscJob.header, houts]

theorem SscJob.outs_getD {i : Nat} (hi : i < c.n) : ((List.range c.n).map c.outs).getD i none = c.outs i := by simp [hi]

/-- Byte `j` of a chunk is symbol `j / N` of its sub-stream. -/
theorem lt_sscCount {raw n j : Nat} (hn : 0 < n) (hj : j < raw) : j / n < sscCount raw n (j % n) := by
  have := Nat.div_add_mod j n
  rw [sscCount, ← Nat.succ_le_iff, Nat.le_div_iff_mul_le hn, Nat.succ_mul, Nat.mul_comm]
  omega

theorem SscJob.out_lt {out : Nat → Nat} (h : c.Gives out) {j : Nat} (hj : j < c.raw) : out j < 256 := by
  refine (h _ (Nat.mod_lt j c.n_pos)).lt _ (List.mem_map.mpr ⟨j / c.n, List.mem_range.mpr (lt_sscCount c.n_pos hj), ?_⟩)
  rw [Nat.mod_add_div]

theorem SscJob.body_of_gives {out : Nat → Nat} (h : c.Gives out) : sscBody c.header = some ((List.range c.raw).map out) := by
  rw [SscJob.gives_iff] at h
  rw [SscJob.body_eq, if_neg]
  · refine congrArg some (List.map_congr_left fun j hj => ?_)
    have hmod := Nat.mod_lt j c.n_pos
    rw [SscJob.outs_getD hmod, h _ hmod, Option.getD_some, getD_map_range (lt_sscCount c.n_pos (List.mem_range.mp hj)), Nat.mod_add_div]
  · simp only [List.any_eq_true, List.mem_map, List.mem_range, not_exists, not_and]
    rintro x ⟨i, hi, rfl⟩
    rw [h i hi]
    simp

theorem SscJob.gives_of_body {xs : List Nat} (h : sscBody c.header = some xs) : ∃ out, c.Gives out := by
  rw [SscJob.body_eq] at h
  split at h
  · cases h
  · rename_i hall
    have hsome : ∀ i < c.n, ∃ ys, c.outs i = some ys := by
      intro i hi
      by_contra hne
      refine hall (List.any_eq_true.mpr ⟨none, List.mem_map.mpr ⟨i, List.mem_range.mpr hi, ?_⟩, rfl⟩)
      cases ho : c.outs i with
      | none => rfl
      | some ys => exact absurd ⟨ys, ho⟩ hne
    refine ⟨fun j => ((c.outs (j % c.n)).getD []).getD (j / c.n) 0, SscJob.gives_iff _ |>.mpr fun i hi => ?_⟩
    obtain ⟨ys, hys⟩ := hsome i hi
    rw [hys]
    refine congrArg some (eq_map_range ((SscJob.outs_iff i ys).mp hys).1 fun t _ => ?_)
    rw [Nat.add_mul_mod_self_left, Nat.mod_eq_of_lt hi, hys, Nat.add_mul_div_left _ _ c.n_pos, Nat.div_eq_of_lt hi, Nat.zero_add]
    rfl

theorem SscJob.body_none (h : ∀ out, ¬c.Gives out) : sscBody c.header = none := by
  cases hb : sscBody c.header with
  | none => rfl
  | some xs =>
    obtain ⟨out, ho⟩ := SscJob.gives_of_body hb
    exact absurd ho (h out)

end Body

/-! ### DECS (17 R262) -/

/-- The chunk of a DECS. -/
def UnitOp.chunk (o : UnitOp) (b : Block) : SscJob := { lc := o.arg, byte := fun i => b.num (o.src + i) }

section Decs
variable {b : Block} {o : UnitOp}

theorem decsResult_long (h : o.arg = 0 ∨ 2047 < o.arg) : decsResult b o = (0x80000002, [], 4) := by simp only [decsResult, if_pos h]

variable (hl : ¬(o.arg = 0 ∨ 2047 < o.arg))
include hl

theorem decsResult_outside (h : b.tmem < o.src + o.arg) : decsResult b o = (0x80000003, [], 4) := by
  simp only [decsResult, if_neg hl, if_pos h]

variable (hin : o.src + o.arg ≤ b.tmem)
include hin

theorem decsResult_badHeader (h : ¬(o.chunk b).HeaderOk) : decsResult b o = (0x80000001, [], 4) := by
  classical
  have hhdr : sscHeader (b.nums o.src o.arg) = none := by
    rw [Block.nums_eq]
    exact (SscJob.sscHeader_eq (c := o.chunk b) (show 1 ≤ o.arg by omega)).trans (if_neg h)
  simp only [decsResult, if_neg hl, if_neg (show ¬b.tmem < o.src + o.arg by omega), hhdr]

variable (hok : (o.chunk b).HeaderOk)
include hok

theorem decsResult_header : decsResult b o =
    if b.tmem < o.dst + (o.chunk b).raw ∨ (o.src < o.dst + (o.chunk b).raw ∧ o.dst < o.src + o.arg) then (0x80000003, [], 4)
    else match sscBody (o.chunk b).header with
      | none => (0x80000001, [], 12 + ((o.chunk b).raw + (o.chunk b).n - 1) / (o.chunk b).n)
      | some out => ((o.chunk b).raw, out, 12 + ((o.chunk b).raw + (o.chunk b).n - 1) / (o.chunk b).n) := by
  classical
  have hhdr : sscHeader (b.nums o.src o.arg) = some (o.chunk b).header := by
    rw [Block.nums_eq]
    exact (SscJob.sscHeader_eq (c := o.chunk b) (show 1 ≤ o.arg by omega)).trans (if_pos hok)
  simp only [decsResult, if_neg hl, if_neg (show ¬b.tmem < o.src + o.arg by omega), hhdr, meets, Bool.and_eq_true, decide_eq_true_eq]
  rfl

/-- Does what a DECS writes lie in the tile memory, apart from its chunk (R262)? -/
def UnitOp.DecsApart (o : UnitOp) (b : Block) : Prop :=
  o.dst + (o.chunk b).raw ≤ b.tmem ∧ ¬(o.src < o.dst + (o.chunk b).raw ∧ o.dst < o.src + o.arg)

theorem decsResult_meets (h : ¬o.DecsApart b) : decsResult b o = (0x80000003, [], 4) := by
  rw [decsResult_header hl hin hok, if_pos]
  rwa [UnitOp.DecsApart, Decidable.not_and_iff_not_or_not, Decidable.not_not, Nat.not_le] at h

theorem decsResult_none (h : o.DecsApart b) (hbad : ∀ out, ¬(o.chunk b).Gives out) :
    decsResult b o = (0x80000001, [], 12 + ((o.chunk b).raw + (o.chunk b).n - 1) / (o.chunk b).n) := by
  obtain ⟨h1, h2⟩ := h
  rw [decsResult_header hl hin hok, if_neg (by omega), SscJob.body_none hbad]

theorem decsResult_gives (h : o.DecsApart b) {out : Nat → Nat} (hgives : (o.chunk b).Gives out) : decsResult b o =
    ((o.chunk b).raw, (List.range (o.chunk b).raw).map out, 12 + ((o.chunk b).raw + (o.chunk b).n - 1) / (o.chunk b).n) := by
  obtain ⟨h1, h2⟩ := h
  rw [decsResult_header hl hin hok, if_neg (by omega), SscJob.body_of_gives hgives]

end Decs

theorem exec_decsComplete {s : State} {core : BitVec 7} {o : UnitOp} {rest : List UnitOp} {bk : Nat} {b : Block}
    (hq : (s.core core.toNat).decq = o :: rest) (hbk : o.blk = some bk) (hb : s.blk? bk = some b) (hready : s.decsReady b o = true) :
    exec (.decsComplete core) s = .next (s.ended core.toNat (o.since + (decsResult b o).2.2) bk o.wid [(o.dst, (decsResult b o).2.1)]
      (fun now x => { x with decq := popUnit x.decq now }) fun w => w.withStatus false o.d (decsResult b o).1) := by
  show execDecsComplete core s = _
  simp only [execDecsComplete, hq, hbk, Option.bind_some, hb, Option.map_some, hready, if_true]
  rfl

/-- R120, R262: DECS with no tile memory. -/
theorem decsWithoutBlock : Statements.DecsWithoutBlock := by
  intro s core o rest w hq hbk hd hw
  let t := s.passTo (o.since + 4)
  let u := t.onCore core.toNat fun x => { x with decq := popUnit x.decq t.pkg.coreClock }
  obtain ⟨hrd, hfull, hid, hflow⟩ := Wave.withStatus_spec (w := w) hd false (decsBare o)
  have hwu : u.wave? o.wid = some w := hw
  obtain ⟨hwt, ht⟩ := State.onAny_of_wave? (f := fun w => w.withStatus false o.d (decsBare o)) hwu hid (by rw [hflow]; exact id)
  refine ⟨u.onAny o.wid fun w => w.withStatus false o.d (decsBare o), _, ?_, hwt, ?_, hfull, hflow, ?_, ?_, ?_, fun hp => ?_⟩
  · show execDecsComplete core s = _
    simp only [execDecsComplete, hq, hbk, Option.bind_none]
    rfl
  · rw [hrd, decsBare]
    split <;> rfl
  · have hcore : u.core core.toNat = { t.core core.toNat with decq := popUnit (t.core core.toNat).decq t.pkg.coreClock } := State.core_onCore ..
    have hpass : (t.core core.toNat).decq = (s.core core.toNat).decq := by
      show ((s.pass _).core _).decq = _
      rw [State.core_pass]
    rw [ht]
    show (u.core core.toNat).decq.length = _
    rw [hcore]
    exact popUnit_length (hpass.trans hq) _
  · rw [ht]
    rfl
  · rw [ht]
    rfl
  · rw [ht]
    exact State.coreClock_passTo hp _

/-- R72 to R81, R260 to R262: TLENC, TLDEC and DECS. -/
theorem tileUnitsRun : Statements.TileUnitsRun := by
  intro s core o bk b w hbk hb hw
  refine ⟨fun rest hq henc hready hd => ?tlenc, fun rest hq henc hready hd hnd h32 hv => ?tldec, fun rest hq hready hd => ?decs⟩
  case tlenc =>
    intro r
    obtain ⟨hrd, hfull, hid, hflow⟩ := Wave.withStatus_spec (w := w) hd true r.1
    obtain ⟨hwt, hbt, ⟨now, hcore⟩, hclock⟩ := State.ended_spec (c := core.toNat) (n := o.since + tlencCycles b o r) (ws := r.2)
      (g := fun now x => { x with tlfq := popUnit x.tlfq now }) (f := fun w => w.withStatus true o.d r.1) hb hw hid
      (fun _ => by rw [hflow]; exact fun h => nomatch h)
    have hframe := congrArg Block.tags (Block.putNums_frame r.2 b)
    have hempty (h : r.2 = []) : b.putNums r.2 = b := by rw [h]; rfl
    have hcycles8 (h : ¬r.1 < 0x80000000) : tlencCycles b o r = 8 := if_neg h
    refine ⟨_, _, _, exec_tlencComplete hq hbk hb henc hready, hwt, hrd, hfull, hflow, ?_, hbt, hframe, hempty,
      fun a ha => Block.look_putNums_out ha, fun pre p post i x hws hx hpost => Block.look_putNums_last hws hx hpost,
      tlencResult_encoded, fun hshape => ?_, ?_⟩
    · rw [hcore]
      exact popUnit_length hq now
    · have hr : r = (0x80000001, []) := tlencResult_invalid b o fun hv => by rw [(o.valid_iff b).mpr hv] at hshape; cases hshape
      exact ⟨by rw [hrd, hr]; rfl, hempty (by rw [hr])⟩
    · intro n h shape dr p g size valid inside apart after
      have hafter {k : Nat} (hk : tlencCycles b o r = k) : after k := hk ▸ hclock
      refine ⟨fun hv => ?_, fun hv hin => ?_, fun hv hin hap => ?_, fun hv hin hap => ?_⟩
      · have hr : r = (0x80000001, []) := tlencResult_invalid b o hv
        exact ⟨by rw [hrd, hr]; rfl, hempty (by rw [hr]), hafter (hcycles8 (by rw [hr]; decide))⟩
      · have hr : r = (0x80000002, []) := tlencResult_outside hv hin
        exact ⟨by rw [hrd, hr]; rfl, hempty (by rw [hr]), hafter (hcycles8 (by rw [hr]; decide))⟩
      · have hr : r = (0x80000003, []) := tlencResult_meets hv hin hap
        exact ⟨by rw [hrd, hr]; rfl, hempty (by rw [hr]), hafter (hcycles8 (by rw [hr]; decide))⟩
      · have hr := tlencResult_good (b := b) (o := o) hv hin hap
        obtain ⟨hrows, hl⟩ := o.job_bounds b
        have hstatus : r.1 < 0x80000000 := (congrArg Prod.fst hr).trans_lt (UnitOp.status_lt hv)
        refine ⟨?_, hafter ?_, hrd.trans (congrArg _ (congrArg Prod.fst hr))⟩
        · have hleaves : (o.job b).Leaves o.dst b.num (b.putNums ((o.job b).writes.map fun w => (o.dst + w.1, w.2))).num := by
            cases hdense : (o.job b).dense with
            | true => exact EncJob.leaves_dense hv (fun i j => b.num_lt _) hdense hrows hl
            | false => exact EncJob.leaves_terms hv (fun i j => b.num_lt _) hdense hrows hl
          rw [show r.2 = _ from congrArg Prod.snd hr]
          exact hleaves
        · have ho := o.job_of b
          simp only [tlencCycles, if_pos hstatus, ho.rows, ho.e]
          rfl
  case tldec =>
    obtain ⟨t, ht, hwt, hlen, hbt, hclock⟩ := exec_tldecComplete hq hbk hb henc hready hw hv
    rw [Wave.afterTldec_eq b o hv] at hwt
    have hflow := congrArg Wave.flow (Wave.wrCells_eq (o.cells b o.lanes) w)
    refine ⟨t, _, ht, hwt, hlen, ⟨fun x hx hnone => ?_, fun x hx e he => ?_, fun l hl hout => ⟨?_, ?_⟩⟩,
      Wave.markV_full hd (by omega) (by omega), Wave.markV_full hd (by omega) (by omega), hbt, hflow, hclock⟩
    · obtain ⟨h1, h2⟩ := Wave.lane_tldec (w := w) (b := b) hd h32 hnd hx
      have hflags := UnitOp.flagsOf_and (o := o) (b := b) hx
        ((o.cells b o.lanes).foldl Wave.wrCell w).csr.arithf
      rw [tldecLane_eq, hnone] at h1 h2 hflags
      exact ⟨h1, h2, hflags⟩
    · obtain ⟨h1, h2⟩ := Wave.lane_tldec (w := w) (b := b) hd h32 hnd hx
      have hflags := UnitOp.flagsOf_and (o := o) (b := b) hx
        ((o.cells b o.lanes).foldl Wave.wrCell w).csr.arithf
      obtain ⟨hint, hnan, hfin, hword⟩ := tldecWords_some (TlfHdr.parse (b.nums o.src 16)).kind e
      rw [tldecLane_eq, he] at h1 h2 hflags
      refine ⟨fun hk => h1.trans (hint hk), fun hk hx255 => ⟨h1.trans (hnan hk hx255).1, ?_⟩, fun hk hx255 => h1.trans (hfin hk hx255),
        h2.trans hword⟩
      rw [(hnan hk hx255).2] at hflags
      exact hflags
    · exact Wave.lane_tldec_other hd h32 hout _
    · exact Wave.lane_tldec_other hd h32 hout _
  case decs =>
    intro r
    obtain ⟨hrd, hfull, hid, hflow⟩ := Wave.withStatus_spec (w := w) hd false r.1
    obtain ⟨hwt, hbt, ⟨now, hcore⟩, hclock⟩ := State.ended_spec (c := core.toNat) (n := o.since + r.2.2) (ws := [(o.dst, r.2.1)])
      (g := fun now x => { x with decq := popUnit x.decq now }) (f := fun w => w.withStatus false o.d r.1) hb hw hid
      (fun h => by rw [hflow]; exact h)
    have hframe := congrArg Block.tags (Block.putNums_frame [(o.dst, r.2.1)] b)
    have hempty (h : r.2.1 = []) : b.putNums [(o.dst, r.2.1)] = b := by rw [h]; rfl
    have hout (a : Nat) (ha : a < o.dst ∨ o.dst + r.2.1.length ≤ a) : look 0 (b.putNums [(o.dst, r.2.1)]).tile a = look 0 b.tile a :=
      Block.look_putNums_out (by simpa using ha)
    have hbyte (i x : Nat) (hx : r.2.1[i]? = some x) : look 0 (b.putNums [(o.dst, r.2.1)]).tile (o.dst + i) = BitVec.ofNat 8 x :=
      Block.look_putNums_last (pre := []) (post := []) rfl hx nofun
    refine ⟨_, _, _, exec_decsComplete hq hbk hb hready, hwt, hrd, hfull, hflow, ?_, hbt, hframe, hbyte, hout,
      fun hlong => ?_, ?_⟩
    · rw [hcore]
      exact popUnit_length hq now
    · have hr : r = (0x80000002, [], 4) := decsResult_long hlong
      exact ⟨by rw [hrd, hr]; rfl, hempty (by rw [hr])⟩
    · intro c long apart after whole
      have hafter {k : Nat} (hk : r.2.2 = k) : after k := hk ▸ hclock
      refine ⟨fun hlong => ?_, fun hlong hin => ?_, fun hlong hin hok => ?_, fun hlong hin hok hap => ?_, fun hlong hin hok hap hbad => ?_,
        fun hlong hin hok hap out hgives => ?_⟩
      · have hr : r = (0x80000002, [], 4) := decsResult_long hlong
        exact hafter (by rw [hr])
      · have hr : r = (0x80000003, [], 4) := decsResult_outside hlong hin
        exact ⟨by rw [hrd, hr]; rfl, hempty (by rw [hr]), hafter (by rw [hr])⟩
      · have hr : r = (0x80000001, [], 4) := decsResult_badHeader hlong hin hok
        exact ⟨by rw [hrd, hr]; rfl, hempty (by rw [hr]), hafter (by rw [hr])⟩
      · have hr : r = (0x80000003, [], 4) := decsResult_meets hlong hin hok hap
        exact ⟨by rw [hrd, hr]; rfl, hempty (by rw [hr]), hafter (by rw [hr])⟩
      · have hr : r = (0x80000001, [], whole) := decsResult_none hlong hin hok hap hbad
        exact ⟨by rw [hrd, hr]; rfl, hempty (by rw [hr]), hafter (by rw [hr])⟩
      · have hr : r = (c.raw, (List.range c.raw).map out, whole) := decsResult_gives hlong hin hok hap hgives
        refine ⟨by rw [hrd, hr], hafter (by rw [hr]), fun j hj => ?_, fun a ha => hout a (by rw [hr]; simpa using ha)⟩
        rw [hbyte j (out j) (by rw [hr]; simp [hj]), BitVec.toNat_ofNat]
        exact Nat.mod_eq_of_lt (SscJob.out_lt hgives hj)

/-- Settles O52: the runs of the exact unit, of the tile units and of a DECS of a wave with no block. -/
theorem tileAndExactUnits : Obligations.TileAndExactUnits := ⟨exactUnitRuns, tileUnitsRun, decsWithoutBlock⟩

end Sys2Proof.Machine

/-! PROOFS. Control transfers (07 R111 to R116; 13 R195 to R198): where a wave goes and what its stack holds then; O40 and O3. -/

namespace Sys2Proof.Machine

/-! ### An instruction outside the vector ALU that comes to a transfer, a trap, or a step on -/

section Issue
variable {s : State} {u : Use} {f : State → Act} (h : s.mayRun u = true) (ho : u.occ = 0)
include h ho

theorem issue_idleAlu : issue u f s = .next ((f s).settle s) := by rw [issue_run h, ho]; rfl

/-- A transfer whose effect is on the wave's flow alone. -/
theorem issue_jumps {fl : WaveFlow} (ha : f s = .goto { s with w := { s.w with flow := fl } }) (hb : fl.hold = s.w.flow.hold) :
    ∃ t, issue u f s = .next t ∧ s.Jumped t (({ s.w with flow := fl } : Wave).gone s.w).flow := by
  have hne : fl.hold ≠ .blank := hb ▸ State.hold_ne_blank_of_issues (Use.act_run (f := f) h).1
  have hx : issue u f s = .next (s.onW fun w => ({ w with flow := fl } : Wave).gone s.w) := by
    rw [issue_idleAlu h ho, ha]
    exact congrArg _ (State.went_onW (f := fun w => { w with flow := fl }) rfl hne)
  exact ⟨_, hx, rfl, ⟨rfl, rfl, by rw [Wave.advance_csr]; rfl, rfl, rfl⟩, fun _ _ _ => rfl⟩

theorem issue_traps {code fva : Nat} {lanes : Word} (ha : f s = .trap code fva lanes) :
    issue u f s = .next (s.takeTrap code fva lanes) := by rw [issue_idleAlu h ho, ha]; rfl

theorem issue_passes (ha : f s = .done s) : ∃ t, issue u f s = .next t ∧ s.PassedOn t :=
  ⟨_, by rw [issue_idleAlu h ho, ha]; rfl, s.passedOn_advance⟩

end Issue

/-- A wave with another mask, RPC and stack, and another wave barrier. -/
def Wave.reflow (w : Wave) (mask : Word) (rpc : Addr) (stack : List StackEntry) (arrived phase : Word) : Wave :=
  { w with flow := { w.flow with mask := mask, rpc := rpc, stack := stack, wbArrived := arrived, wbPhase := phase } }

theorem Wave.advance_flow_of_none {w : Wave} (hc : w.flow.clause = none) :
    w.advance.flow = (((w.perfAdd 0 1).withHold .run).finish w.flow.pc).flow := by
  unfold Wave.advance
  split
  · rfl
  · rename_i c h; rw [hc] at h; cases h

/-- Going on looks at none of these. -/
theorem Wave.advance_reflow (w : Wave) (m : Word) (r : Addr) (st : List StackEntry) (x p : Word) :
    (w.reflow m r st x p).advance.flow = { w.advance.flow with mask := m, rpc := r, stack := st, wbArrived := x, wbPhase := p } := by
  cases hc : w.flow.clause with
  | none => rw [Wave.advance_flow_of_none hc, Wave.advance_flow_of_none (w := w.reflow m r st x p) hc]; rfl
  | some c =>
    rcases Nat.lt_or_ge (posIndex w.flow.pc + 1) (hdrNI c.hdr) with h | h
    · rw [Wave.advance_flow_of_next hc h, Wave.advance_flow_of_next (w := w.reflow m r st x p) hc h]; rfl
    · rw [Wave.advance_flow_of_last hc h, Wave.advance_flow_of_last (w := w.reflow m r st x p) hc h]; rfl

/-- An instruction that changes these alone and goes on. -/
theorem issue_reflows {s : State} {u : Use} {f : State → Act} (h : s.mayRun u = true) (ho : u.occ = 0) {m : Word} {r : Addr}
    {st : List StackEntry} {x p : Word} (ha : f s = .done { s with w := s.w.reflow m r st x p }) :
    ∃ t, issue u f s = .next t ∧ s.Jumped t { s.w.advance.flow with mask := m, rpc := r, stack := st, wbArrived := x, wbPhase := p } := by
  refine ⟨s.onW fun w => (w.reflow m r st x p).advance, by rw [issue_idleAlu h ho, ha]; rfl, rfl, ⟨?_, ?_, ?_, ?_, ?_⟩, fun _ _ _ => rfl⟩
  · exact Wave.advance_id _
  · exact Wave.advance_regs _
  · show (s.w.reflow m r st x p).advance.csr = s.w.advance.csr
    rw [Wave.advance_csr, Wave.advance_csr]; rfl
  · exact s.w.advance_reflow m r st x p
  · exact Wave.advance_mem _

theorem Wave.advance_flow_wbArrived (w : Wave) : w.advance.flow.wbArrived = w.flow.wbArrived := by
  have h := w.advance_reflow w.flow.mask w.flow.rpc w.flow.stack w.flow.wbArrived w.flow.wbPhase
  exact (congrArg WaveFlow.wbArrived h :)

theorem Wave.advance_flow_wbPhase (w : Wave) : w.advance.flow.wbPhase = w.flow.wbPhase := by
  have h := w.advance_reflow w.flow.mask w.flow.rpc w.flow.stack w.flow.wbArrived w.flow.wbPhase
  exact (congrArg WaveFlow.wbPhase h :)

/-! ### Targets (R41, R111) -/

theorem Wave.relPos_eq_target (w : Wave) (off : BitVec 16) : w.relPos off = w.target off := by
  have h0 : 0 ≤ ((w.here : Int) + 4 * off.toInt) % 2 ^ 49 := Int.emod_nonneg _ (by decide)
  have h1 : ((w.here : Int) + 4 * off.toInt) % 2 ^ 49 < 2 ^ 49 := Int.emod_lt_of_pos _ (by decide)
  unfold Wave.relPos headerPos mkPos Wave.rel Wave.target
  rw [← BitVec.ofInt_natCast]
  congr 1
  omega

theorem Wave.relRpc_eq_targetVa (w : Wave) (off : BitVec 16) : w.relRpc off = w.targetVa off := by
  have h0 : 0 ≤ ((w.here : Int) + 4 * off.toInt) % 2 ^ 49 := Int.emod_nonneg _ (by decide)
  unfold Wave.relRpc Wave.rel Wave.targetVa
  rw [← BitVec.ofInt_natCast, Int.toNat_of_nonneg h0]

/-! ### BRA and BRC (R111, R112) -/

/-- The JOIN that a divergent branch or jump pushes. -/
def Wave.joinAt (w : Wave) (roff : BitVec 16) : StackEntry := { kind := .join, pc := w.target roff, mask := w.flow.mask, rpc := w.flow.rpc }

/-- The lanes that a BRC sends to its target. -/
def Wave.brcTaken (w : Wave) (neg : Bool) (p : BitVec 3) : Word := w.flow.mask &&& if neg then ~~~(w.rdP p.toNat) else w.rdP p.toNat

/-- BRC, with the targets as the spec names them. -/
theorem brcAct_eq (s : State) (neg : Bool) (p : BitVec 3) (toff roff : BitVec 16) : brcAct neg p toff roff s =
    if s.w.brcTaken neg p = s.w.flow.mask then .goto (s.onW fun w => w.jump (w.target toff))
    else if s.w.brcTaken neg p = 0 then .done s
    else if 30 < s.w.depth then s.w.trapAct cSTACK_OVERFLOW
    else .done (s.onW fun w => w.reflow (w.flow.mask &&& ~~~s.w.brcTaken neg p) (s.w.targetVa roff)
      (w.flow.stack ++ [s.w.joinAt roff, { kind := .path, pc := s.w.target toff, mask := s.w.brcTaken neg p, rpc := s.w.targetVa roff }]) w.flow.wbArrived w.flow.wbPhase) := by
  simp only [← Wave.relPos_eq_target, ← Wave.relRpc_eq_targetVa, Wave.joinAt, Wave.brcTaken, BitVec.and_comm s.w.flow.mask]
  rfl

theorem branches : Statements.Branches := by
  intro s neg p toff roff h
  have hb := brcAct_eq s neg p toff roff
  refine ⟨?bra, fun ht => ?taken, fun (ht : s.w.brcTaken neg p = 0) hm => ?none,
    fun (h1 : s.w.brcTaken neg p ≠ _) (h2 : s.w.brcTaken neg p ≠ 0) (hd : s.w.depth ≤ 30) => ?split,
    fun (h1 : s.w.brcTaken neg p ≠ _) (h2 : s.w.brcTaken neg p ≠ 0) (hd : 30 < s.w.depth) => ?deep⟩
  case bra =>
    rw [← s.w.relPos_eq_target]
    exact issue_jumps h rfl (f := fun s => .goto (s.onW fun w => w.jump (w.relPos toff))) rfl rfl
  case taken => exact issue_jumps h rfl (hb.trans (if_pos ht)) rfl
  case none =>
    refine issue_passes h rfl (hb.trans ?_)
    rw [if_neg fun e => hm (e.symm.trans ht), if_pos ht]
  case split =>
    rw [if_neg h1, if_neg h2, if_neg (Nat.not_lt.mpr hd)] at hb
    obtain ⟨t, hx, hj⟩ := issue_reflows h rfl hb
    rw [← Wave.advance_flow_wbArrived, ← Wave.advance_flow_wbPhase] at hj
    exact ⟨t, hx, hj⟩
  case deep =>
    refine issue_traps h rfl (hb.trans ?_)
    rw [if_neg h1, if_neg h2, if_pos hd]; rfl

/-! ### Pops (R111) -/

section Pop
variable {w : Wave} {st : List StackEntry} {e : StackEntry}

/-- A pop that reaches a lane goes on there. -/
theorem Wave.popAll_of_top (hc : w.flow.contin = false) (hs : w.flow.stack = st ++ [e]) (hk : e.kind ≠ .parked) (hm : e.mask ≠ 0) :
    w.popAll none = .run (({ w with flow := { w.flow with stack := st } } : Wave).enter e) := by
  simp only [Wave.popAll, Wave.pop, Wave.popBelow, hc, Bool.false_and, Bool.false_eq_true, if_false, hs, List.getLast?_concat,
    List.dropLast_concat, if_neg hk, if_neg hm]

theorem Wave.popAll_of_nil (hc : w.flow.contin = false) (hs : w.flow.stack = []) : w.popAll none = .gone w := by
  simp only [Wave.popAll, Wave.pop, Wave.popBelow, hc, Bool.false_and, Bool.false_eq_true, if_false, hs, List.getLast?_nil]

end Pop

theorem Wave.freeStack_iff {w : Wave} : w.freeStack = true ↔ w.mem.region = none ∧ w.flow.contin = false := by
  simp [Wave.freeStack]

theorem State.depth0_of_no_region {s : State} {w : Wave} (h : w.mem.region = none) : s.depth0 w = none := by
  simp only [State.depth0, State.regionOf, h, Option.bind_none, Option.map_none]

theorem State.floor_of_freeStack {s : State} {w : Wave} (h : w.freeStack = true) : s.floor w = 0 := by
  obtain ⟨hr, hc⟩ := Wave.freeStack_iff.mp h
  simp only [State.floor, State.depth0_of_no_region hr, hc, Bool.false_eq_true, if_false]

/-- A free wave whose flow has become `fl` pops to the top entry. -/
theorem State.popped_of_top {s : State} (h : s.w.freeStack = true) {fl : WaveFlow} {st : List StackEntry} {e : StackEntry}
    (hc : fl.contin = s.w.flow.contin) (hs : fl.stack = st ++ [e]) (hk : e.kind ≠ .parked) (hm : e.mask ≠ 0) :
    s.popped (({ s.w with flow := fl } : Wave).popAll (s.depth0 s.w)) =
      .goto { s with w := (({ s.w with flow := { fl with stack := st } } : Wave).enter e) } := by
  obtain ⟨hr, hn⟩ := Wave.freeStack_iff.mp h
  rw [State.depth0_of_no_region hr, Wave.popAll_of_top (w := { s.w with flow := fl }) (hc.trans hn) hs hk hm]
  rfl

/-! ### JMPI (R114) -/

theorem mem_insertNat {x a : Nat} {xs : List Nat} : a ∈ insertNat x xs ↔ a = x ∨ a ∈ xs := by
  induction xs with
  | nil => simp [insertNat]
  | cons y t ih =>
    simp only [insertNat]
    split
    · simp
    · split
      · rename_i hxy; simp [hxy]
      · simp only [List.mem_cons, ih]; tauto

theorem insertNat_pairwise {x : Nat} {xs : List Nat} (h : xs.Pairwise (· < ·)) : (insertNat x xs).Pairwise (· < ·) := by
  induction xs with
  | nil => simp [insertNat]
  | cons y t ih =>
    obtain ⟨hy, ht⟩ := List.pairwise_cons.mp h
    simp only [insertNat]
    split
    · rename_i hxy
      exact List.pairwise_cons.mpr ⟨List.forall_mem_cons.mpr ⟨hxy, fun a ha => Nat.lt_trans hxy (hy a ha)⟩, h⟩
    · split
      · exact h
      · refine List.pairwise_cons.mpr ⟨fun a ha => ?_, ih ht⟩
        rcases mem_insertNat.mp ha with rfl | ha
        · omega
        · exact hy a ha

/-- The targets of some lanes, as JMPI sorts them. -/
def sortedTargets (tg : Nat → Nat) (ls : List Nat) : List Nat := ls.foldl (fun acc l => insertNat (tg l) acc) []

theorem sortedTargets_eq {tg : Nat → Nat} {ls vas : List Nat} (hp : vas.Pairwise (· < ·)) (hall : ∀ l ∈ ls, tg l ∈ vas)
    (hon : ∀ va ∈ vas, ∃ l ∈ ls, tg l = va) : sortedTargets tg ls = vas := by
  have gen : ∀ (ls acc : List Nat), acc.Pairwise (· < ·) →
      (ls.foldl (fun acc l => insertNat (tg l) acc) acc).Pairwise (· < ·) ∧
        ∀ a, a ∈ ls.foldl (fun acc l => insertNat (tg l) acc) acc ↔ a ∈ acc ∨ ∃ l ∈ ls, tg l = a := by
    intro ls
    induction ls with
    | nil => intro acc ha; exact ⟨ha, by simp⟩
    | cons l t ih =>
      intro acc ha
      obtain ⟨h1, h2⟩ := ih _ (insertNat_pairwise (x := tg l) ha)
      refine ⟨h1, fun a => ?_⟩
      simp only [List.foldl_cons, h2, mem_insertNat, List.exists_mem_cons_iff, eq_comm (a := a)]
      tauto
  obtain ⟨h1, h2⟩ := gen ls [] .nil
  refine h1.eq_of_mem_iff hp fun a => ?_
  rw [h2]
  constructor
  · rintro (h | ⟨l, hl, rfl⟩)
    · cases h
    · exact hall l hl
  · exact fun h => .inr (hon a h)

section Jmpi
variable {s : State} {a : BitVec 7} {roff : BitVec 16}

theorem jmpiAct_of_bad {b : Nat} {bs : List Nat} (h : (s.w.lanes.filter fun l => !s.lands (s.w.jmpiTarget a.toNat l)) = b :: bs) :
    jmpiAct a roff s = .trap cBAD_LANDING (s.w.jmpiTarget a.toNat b) (maskOf (b :: bs)) := by
  simp only [jmpiAct, h]

theorem jmpiAct_of_one {va : Nat} (hb : (s.w.lanes.filter fun l => !s.lands (s.w.jmpiTarget a.toNat l)) = [])
    (ht : sortedTargets (s.w.jmpiTarget a.toNat) s.w.lanes = [va]) :
    jmpiAct a roff s = .goto (s.onW fun w => w.jump (headerPos va)) := by
  rw [sortedTargets] at ht
  simp only [jmpiAct, hb, ht]

/-- The entry that JMPI pushes for a target. -/
def Wave.jmpiPath (w : Wave) (a : BitVec 7) (roff : BitVec 16) (va : Nat) : StackEntry :=
  { kind := .path, pc := headerPos va, mask := w.maskWhere fun l => w.jmpiTarget a.toNat l == va, rpc := w.targetVa roff }

theorem Wave.jmpiPath_mask_ne_zero {w : Wave} {va l : Nat} (hl : l ∈ w.lanes) (ht : w.jmpiTarget a.toNat l = va) :
    (w.jmpiPath a roff va).mask ≠ 0 := by
  obtain ⟨h32, hact⟩ := (w.mem_lanes l).mp hl
  have hbit : (w.jmpiPath a roff va).mask.getLsbD l = true :=
    (w.maskWhere_getLsbD _ l h32).trans (by rw [hact, ht, beq_self_eq_true]; rfl)
  intro h0
  rw [h0] at hbit
  simp at hbit

theorem jmpiAct_of_several {va : Nat} {vas : List Nat} (hb : (s.w.lanes.filter fun l => !s.lands (s.w.jmpiTarget a.toNat l)) = [])
    (hne : vas ≠ []) (ht : sortedTargets (s.w.jmpiTarget a.toNat) s.w.lanes = vas ++ [va]) :
    jmpiAct a roff s =
      if 32 < s.w.depth + (vas ++ [va]).length then s.w.trapAct cSTACK_OVERFLOW
      else s.popped ((s.w.push (s.w.joinAt roff ::
        (vas ++ [va]).map (s.w.jmpiPath a roff))).popAll (s.depth0 s.w)) := by
  unfold jmpiAct
  simp only [hb]
  rw [show s.w.lanes.foldl _ [] = _ from ht]
  split
  case h_1 h => simp at h
  case h_2 h => cases vas <;> simp at h hne
  case h_3 => simp only [Wave.relPos_eq_target, Wave.relRpc_eq_targetVa]; rfl

end Jmpi

theorem indirectJumps : Statements.IndirectJumps := by
  intro s wa a roff h
  refine ⟨fun b bs hbad => ?bad, fun va hm hall => ?one, fun vas top hbad hne hp hall hon => ?several⟩
  case bad =>
    refine issue_traps h rfl ((jmpiAct_of_bad hbad).trans ?_)
    rw [hbad]; rfl
  case one =>
    have hbad : (s.w.lanes.filter fun l => !s.lands (s.w.jmpiTarget a.toNat l)) = [] := by
      rw [List.filter_eq_nil_iff]
      intro l hl
      obtain ⟨ht, hs⟩ := hall l hl
      rw [show s.w.jmpiTarget a.toNat l = va from ht, hs]
      decide
    obtain ⟨l, hl⟩ := List.exists_mem_of_ne_nil _ (Wave.lanes_ne_nil hm)
    have ht : sortedTargets (s.w.jmpiTarget a.toNat) s.w.lanes = [va] :=
      sortedTargets_eq (List.pairwise_singleton _ _) (fun l hl => List.mem_singleton.mpr (hall l hl).1)
        fun x hx => ⟨l, hl, ((hall l hl).1).trans (List.mem_singleton.mp hx).symm⟩
    exact issue_jumps h rfl (f := jmpiAct a roff) (jmpiAct_of_one hbad ht) rfl
  case several =>
    have hx := jmpiAct_of_several (roff := roff) hbad hne (sortedTargets_eq (tg := s.w.jmpiTarget a.toNat) hp hall hon)
    rw [List.length_append, List.length_singleton, ← Nat.add_assoc] at hx
    refine ⟨fun (hd : s.w.depth + vas.length + 1 ≤ 32) hf => ?_, fun hd => issue_traps h rfl (hx.trans (if_pos hd))⟩
    obtain ⟨l, hl, hlt⟩ := hon top (by simp)
    rw [if_neg (Nat.not_lt.mpr hd), List.map_append, List.map_singleton, ← List.cons_append] at hx
    have hpop := State.popped_of_top hf (fl := (s.w.push (s.w.joinAt roff :: vas.map (s.w.jmpiPath a roff) ++ [s.w.jmpiPath a roff top])).flow) rfl
      (List.append_assoc ..).symm (by simp [Wave.jmpiPath]) (Wave.jmpiPath_mask_ne_zero hl hlt)
    exact issue_jumps h rfl (hx.trans hpop) rfl

/-- Settles O40: BRA and BRC, and JMPI. -/
theorem branchesAndJumps : Obligations.BranchesAndJumps := ⟨branches, indirectJumps⟩

/-! ### CALL, RET and BRK (R113, R115) -/

theorem stripFrom_append (pre : List StackEntry) (m : Word) (rest : List StackEntry) :
    stripFrom pre.length m (pre ++ rest) = pre ++ less m rest := by
  rw [stripFrom, List.take_left, List.drop_left]; rfl

theorem findCallj_go_append {xs : List StackEntry} (h : ∀ x ∈ xs, x.kind ≠ .callj) (ys : List StackEntry) (i : Nat) :
    findCallj.go (xs ++ ys) i = findCallj.go ys (i - xs.length) := by
  induction xs generalizing i with
  | nil => rfl
  | cons x xs ih =>
    obtain ⟨hx, hxs⟩ := List.forall_mem_cons.mp h
    rw [List.cons_append, findCallj.go, if_neg hx, ih hxs, List.length_cons]
    congr 1
    omega

theorem findCallj_append {pre rest : List StackEntry} {c : StackEntry} (hc : c.kind = .callj) (h : ∀ x ∈ rest, x.kind ≠ .callj) :
    findCallj (pre ++ c :: rest) = some pre.length := by
  have hr : (pre ++ c :: rest).reverse = rest.reverse ++ c :: pre.reverse := by simp
  rw [findCallj, hr, findCallj_go_append (by simpa using h), findCallj.go, if_pos hc]
  simp

theorem findCallj_eq_none {st : List StackEntry} (h : ∀ x ∈ st, x.kind ≠ .callj) : findCallj st = none := by
  have hr := findCallj_go_append (xs := st.reverse) (by simpa using h) [] (st.length - 1)
  rwa [List.append_nil, findCallj.go] at hr

theorem Wave.leave_above {w : Wave} {pre rest : List StackEntry} {c : StackEntry} (hs : w.flow.stack = pre ++ c :: rest) :
    w.leave (pre.length + 1) = { w with flow := { w.flow with mask := 0, stack := pre ++ c :: less w.flow.mask rest } } := by
  have hp : pre.length + 1 = (pre ++ [c]).length := by simp
  have hl : pre ++ c :: rest = (pre ++ [c]) ++ rest := by simp
  rw [Wave.leave, hs, hp, hl, stripFrom_append, List.append_assoc]
  rfl

section Ret
variable {s : State} {pre rest : List StackEntry} {c : StackEntry} (hf : s.w.freeStack = true) (hs : s.w.flow.stack = pre ++ c :: rest)
include hf hs

/-- RET above its CALLJ, which it finds. -/
theorem retAct_of_callj (hc : c.kind = .callj) (hr : ∀ x ∈ rest, x.kind ≠ .callj) {st : List StackEntry} {e : StackEntry}
    (hst : (if less s.w.flow.mask rest = [] then (pre ++ [c]).map fun e => { e with mask := e.mask &&& s.w.flow.alive }
      else pre ++ c :: less s.w.flow.mask rest) = st ++ [e]) (hk : e.kind ≠ .parked) (hm : e.mask ≠ 0) :
    retAct s = .goto { s with w := (({ s.w with flow := { s.w.flow with mask := 0, stack := st } } : Wave).enter e) } := by
  have hj : findCallj s.w.flow.stack = some pre.length := by rw [hs]; exact findCallj_append hc hr
  have hdep : (s.w.leave (pre.length + 1)).depth = pre.length + 1 ↔ less s.w.flow.mask rest = [] := by
    rw [Wave.leave_above hs, ← List.length_eq_zero_iff]
    simp only [Wave.depth, List.length_append, List.length_cons]
    omega
  have hpop := State.popped_of_top hf (fl := { s.w.flow with mask := 0, stack := st ++ [e] }) (st := st) rfl rfl hk hm
  simp only [retAct, hj, State.floor_of_freeStack hf, Nat.not_lt_zero, if_false, hdep]
  rw [← hpop, ← hst]
  congr 2
  split
  case isTrue h0 => rw [Wave.leave_above hs, h0]
  case isFalse => rw [Wave.leave_above hs]

end Ret

/-- BRK above its JOIN. -/
theorem brkAct_of_join {s : State} {level : BitVec 4} {pre rest : List StackEntry} {j : StackEntry} (hf : s.w.freeStack = true)
    (hs : s.w.flow.stack = pre ++ j :: rest) (hl : pre.length = level.toNat) (hj : j.kind = .join) (hr : ∀ x ∈ rest, x.kind ≠ .callj)
    {st : List StackEntry} {e : StackEntry} (hst : pre ++ j :: less s.w.flow.mask rest = st ++ [e]) (hk : e.kind ≠ .parked)
    (hm : e.mask ≠ 0) :
    brkAct level s = .goto { s with w := (({ s.w with flow := { s.w.flow with mask := 0, stack := st } } : Wave).enter e) } := by
  have hat : s.w.flow.stack[level.toNat]? = some j := by rw [hs, ← hl, List.getElem?_append_right (Nat.le_refl _)]; simp
  have hno : ((s.w.flow.stack.drop (level.toNat + 1)).any fun x => x.kind == .callj) = false := by
    rw [hs, ← hl, ← List.singleton_append, ← List.append_assoc, List.drop_left' (by simp), List.any_eq_false]
    simpa using hr
  simp only [brkAct, hat, hj, hno, ne_eq, not_true_eq_false, Bool.false_eq_true, or_self, if_false, State.floor_of_freeStack hf,
    Nat.not_lt_zero]
  rw [← hl, Wave.leave_above hs, hst]
  exact State.popped_of_top hf (fl := { s.w.flow with mask := 0, stack := st ++ [e] }) rfl rfl hk hm

/-- BRK where the named entry is no JOIN, or a CALLJ stands above it. -/
theorem brkAct_of_other {s : State} {level : BitVec 4} {pre rest : List StackEntry} {j : StackEntry}
    (hs : s.w.flow.stack = pre ++ j :: rest) (hl : pre.length = level.toNat) (h : j.kind ≠ .join ∨ ∃ x ∈ rest, x.kind = .callj) :
    brkAct level s = s.w.trapAct cILLEGAL_CONVERGENCE := by
  have hat : s.w.flow.stack[level.toNat]? = some j := by rw [hs, ← hl, List.getElem?_append_right (Nat.le_refl _)]; simp
  have hdrop : s.w.flow.stack.drop (level.toNat + 1) = rest := by
    rw [hs, ← hl, ← List.singleton_append, ← List.append_assoc, List.drop_left' (by simp)]
  simp only [brkAct, hat, hdrop]
  exact if_pos (h.imp_right fun h => by simpa using h)

/-- Settles O3: CALL by its definition; RET and BRK strip the entries above the one they find and pop. -/
theorem callsReturnsBreaks : Obligations.CallsReturnsBreaks := by
  intro s toff level h
  refine ⟨fun hd => ?call, fun hd => ?deep, fun pre c rest hs hc hrest hf => ⟨fun he hm => ?retCall, fun ps e he hk hm => ?retPath⟩,
    fun hn => ?noCall, fun pre j rest hs hl => ⟨fun hj hr hf st e hst hk hm => ?brk, fun ho => ?noJoin⟩, fun hl => ?noEntry⟩
  case call =>
    rw [← s.w.relPos_eq_target]
    exact issue_jumps h rfl (f := callAct toff) (if_neg (Nat.not_le.mpr hd)) rfl
  case deep => exact issue_traps h rfl (f := callAct toff) (if_pos hd)
  case retCall =>
    refine issue_jumps h rfl (retAct_of_callj hf hs hc hrest (e := { c with mask := c.mask &&& s.w.flow.alive }) ?_ (by simp [hc]) hm) rfl
    rw [if_pos he, List.map_append, List.map_singleton]
  case retPath =>
    refine issue_jumps h rfl (retAct_of_callj hf hs hc hrest (st := pre ++ c :: ps) ?_ hk hm) rfl
    rw [he, if_neg (by simp), List.append_assoc, List.cons_append]
  case noCall =>
    have hr : retAct s = s.w.trapAct cILLEGAL_CONVERGENCE := by simp only [retAct, findCallj_eq_none hn]
    exact issue_traps h rfl hr
  case brk => exact issue_jumps h rfl (brkAct_of_join hf hs hl hj hr hst hk hm) rfl
  case noJoin => exact issue_traps h rfl (brkAct_of_other hs hl ho)
  case noEntry =>
    have hr : brkAct level s = s.w.trapAct cILLEGAL_CONVERGENCE := by simp only [brkAct, List.getElem?_eq_none hl]
    exact issue_traps h rfl hr
end Sys2Proof.Machine

/-! PROOFS. EXIT of a wave that an image also holds (07 R116; 25 R343): O4 fails there. -/

namespace Sys2Proof.Machine

/-- A machine whose one wave stands at an EXIT, with a save image of a wave of the same number in block 0 of the save area. -/
def imagedState : State :=
  let s := State.reset.placeWord 32 ((encode .exit).headD 0).toNat
  let x : SavedWave := { wave := s.w, stop := 0, aborted := false, run := none, totals := [], place := [0] }
  { s with die := { s.die with saved := [{ unit := 3, core := 0, blk := none, waves := [x], written := true, bytes := 0, place := [] }] } }

/-- The wave retires and leaves the die at once, and what its EXIT counts then goes to the image, which is written again. -/
theorem imagedState_exit : ∃ t, exec .exit imagedState = .next t ∧ t.pkg.blkMeta ≠ imagedState.pkg.blkMeta := by
  refine ⟨_, rfl, ?_⟩
  decide +kernel

/-- Refutes O4: in `imagedState` the EXIT of the last lanes changes the package. The statement lacks the hypothesis that no save image
holds a wave of the acting wave's number, as waves that leave and come back by their images never leave both at once. -/
theorem not_exits : ¬ Obligations.Exits := by
  intro h
  obtain ⟨t, ht, hne⟩ := imagedState_exit
  obtain ⟨-, hgone⟩ := h imagedState (by decide +kernel) (by decide +kernel)
  obtain ⟨u, hu, -, -, -, -, -, hpkg⟩ := hgone (by decide +kernel) (by decide +kernel) (by decide +kernel) (by decide +kernel)
  rw [ht] at hu
  cases hu
  exact hne (congrArg Pkg.blkMeta hpkg)

end Sys2Proof.Machine

/-! PROOFS. SPAWN (07 R102; 13 R202), and O6 from it. -/

namespace Sys2Proof.Machine

theorem State.plain_iff {s : State} : s.plain = true ↔ s.w.mem.region = none ∧ s.w.id.kind ≠ .kindling := by
  simp [State.plain]

/-- An instruction that regions and kindling waves do not have, by a wave that is neither. -/
theorem notInRegion_notKindling {s : State} (h : s.plain = true) (f : State → Act) : notInRegion (notKindling f) s = f s := by
  obtain ⟨hr, hk⟩ := State.plain_iff.mp h
  simp [notInRegion, notKindling, hr, hk]

theorem spPeriod_eq (n : Nat) : spPeriod n = if n = 0 then 1024 else 256 * n := by rw [spPeriod, Nat.mul_comm]

/-- A bin that takes at least one record. -/
theorem Bin.add_of_ne_nil (b : Bin) (entry now spwait : Nat) {rs : List SpawnRec} (h : rs ≠ []) (hs : ∀ r ∈ rs, r.spwait = spwait) :
    b.add entry now rs = { b with key := some entry, recs := b.recs ++ rs, due := if b.recs = [] then some (now + spPeriod spwait) else b.due } := by
  obtain ⟨r, rs, rfl⟩ := List.exists_cons_of_ne_nil h
  rw [← hs r List.mem_cons_self]
  simp only [Bin.add, List.isEmpty_iff]

/-- A core whose bin `k` has taken records. -/
def Core.spawned (k entry now : Nat) (rs : List SpawnRec) (c : Core) : Core := { c with bins := put c.bins k ((c.bin k).add entry now rs) }

theorem Core.bin_spawned (k entry now : Nat) (rs : List SpawnRec) (c : Core) (j : Nat) :
    (c.spawned k entry now rs).bin j = if j = k then (c.bin k).add entry now rs else c.bin j := look_put ..

theorem spawnAct_of_room {s : State} {a : BitVec 7} {b : BitVec 6} {k : Nat} (he : entryOk (s.w.rdS2 b.toNat).toNat = true)
    (hk : (s.core s.w.id.core).binFor (s.w.rdS2 b.toNat).toNat = some k)
    (hr : ((s.core s.w.id.core).bin k).recs.length + (s.w.spawnRecs a.toNat).length ≤ 64) :
    spawnAct a b s = .done (s.onCore s.w.id.core
      (Core.spawned k (s.w.rdS2 b.toNat).toNat s.pkg.coreClock (s.w.spawnRecs a.toNat))) := by
  simp only [spawnAct, he, hk, Bool.true_eq_false, if_false, if_neg (Nat.not_lt.mpr hr)]
  rfl

theorem Wave.moved_advance (w : Wave) : w.Moved w.advance w.advance.flow w.mem :=
  ⟨Wave.advance_id w, Wave.advance_regs w, rfl, rfl, Wave.advance_mem w⟩

theorem State.core_onCore_of_ne {s : State} {c j : Nat} (h : j ≠ c) (f : Core → Core) : (s.onCore c f).core j = s.core j :=
  (look_upd ..).trans (if_neg h)

@[simp] theorem State.core_onW (s : State) (f : Wave → Wave) (c : Nat) : (s.onW f).core c = s.core c := rfl

/-- Settles O6: the records join the bin that takes them, and the wave goes on. -/
theorem spawning : Obligations.Spawning := by
  intro s wa a wb b h hp k he hm n old hk hroom
  have hne : s.w.spawnRecs a.toNat ≠ [] := by simpa [Wave.spawnRecs] using Wave.lanes_ne_nil hm
  have hact := spawnAct_of_room (a := a) he hk (by simpa [Wave.spawnRecs] using hroom)
  have hadd := Bin.add_of_ne_nil old (s.w.rdS2 b.toNat).toNat s.pkg.coreClock s.w.id.spwait hne (by simp [Wave.spawnRecs])
  have hx : exec (.spawn wa a wb b) s =
      .next ((s.onCore n (Core.spawned k (s.w.rdS2 b.toNat).toNat s.pkg.coreClock (s.w.spawnRecs a.toNat))).onW Wave.advance) :=
    (issue_idleAlu h rfl).trans (by rw [notInRegion_notKindling hp, hact]; rfl)
  have hcore := s.core_onCore n (Core.spawned k (s.w.rdS2 b.toNat).toNat s.pkg.coreClock (s.w.spawnRecs a.toNat))
  have hbin (j : Nat) := (congrArg (Core.bin · j) hcore).trans (Core.bin_spawned ..)
  refine ⟨_, hx, s.w.moved_advance, rfl, fun j hj => State.core_onCore_of_ne hj _, ?core, fun j hj => (hbin j).trans (if_neg hj), ?bin⟩
  case core => rw [State.core_onW, hcore]; rfl
  case bin =>
    rw [State.core_onW, show Core.bin _ k = _ from (hbin k).trans (if_pos rfl), hadd, spPeriod_eq]
    exact ⟨rfl, rfl, rfl⟩

end Sys2Proof.Machine

/-! PROOFS. A wave that may not issue (07 R108): O60. -/

namespace Sys2Proof.Machine

/-- Whatever the words of an instruction name, its meaning is an issue by the acting wave. -/
theorem exec_eq_issue {i : Instr} (h : i.isEncoded = true) : ∃ u f, ∀ s, exec i s = issue u f s := by
  cases i <;> cases h
  all_goals exact ⟨_, _, fun _ => rfl⟩

theorem issue_of_not_issues {s : State} (h : s.issues = false) (u : Use) (f : State → Act) : issue u f s = .next s := by
  rw [issue, h]; rfl

/-- Settles O60: every encoded instruction is issued, and issuing does nothing for a wave that may not issue. -/
theorem nothingWithoutIssue : Obligations.NothingWithoutIssue := by
  intro s i hs hi
  obtain ⟨u, f, he⟩ := exec_eq_issue hi
  rw [he, issue_of_not_issues hs]

end Sys2Proof.Machine

/-! PROOFS. What a release leaves as it is: all but the caches, the fabric, the tiles' states and memory (09 R127 to R139, R368). -/

namespace Sys2Proof.Machine

/-- A machine without its cores, its L2, its tiles, its memory and what the fabric carries, and without the last response on the fabric. -/
def State.front (s : State) : State :=
  { s with cores := [], pkg := State.reset.pkg, fresh := 0, tabs := { s.tabs with lastRead := (false, 0) }
           die := { s.die with objects := [], l2 := [], useNo := 0, tlb2 := [] } }

/-- An operation that may wait leaves the front as it is if it goes on. -/
def OptFront (s : State) (o : Option State) : Prop := ∀ t, o = some t → t.front = s.front

section Lists
variable {α : Type} {s : State}

theorem forEach_front {f : α → State → State} (hf : ∀ x t, (f x t).front = t.front) (xs : List α) : (forEach xs s f).front = s.front := by
  induction xs generalizing s with
  | nil => rfl
  | cons x xs ih => exact ih.trans (hf x s)

theorem foldlM_front {f : State → α → Option State} (hf : ∀ t x, OptFront t (f t x)) (xs : List α) : OptFront s (xs.foldlM f s) := by
  induction xs generalizing s with
  | nil => rintro t ⟨⟩; rfl
  | cons x xs ih =>
    intro t h
    obtain ⟨u, hu, ht⟩ := Option.bind_eq_some_iff.mp ((List.foldlM_cons ..).symm.trans h)
    exact (ih t ht).trans (hf s x u hu)

theorem map_front {o : Option State} (ho : OptFront s o) {g : State → State} (hg : ∀ t, (g t).front = t.front) : OptFront s (o.map g) := by
  intro t h
  obtain ⟨u, hu, rfl⟩ := Option.map_eq_some_iff.mp h
  exact (hg u).trans (ho u hu)

theorem bind_front {o : Option State} (ho : OptFront s o) {g : State → Option State} (hg : ∀ t, OptFront t (g t)) : OptFront s (o.bind g) := by
  intro t h
  obtain ⟨u, hu, ht⟩ := Option.bind_eq_some_iff.mp h
  exact (hg u t ht).trans (ho u hu)

end Lists

section Front
variable (s : State)

@[simp] theorem State.onCore_front (c : Nat) (f : Core → Core) : (s.onCore c f).front = s.front := rfl
@[simp] theorem State.onPkg_front (f : Pkg → Pkg) : (s.onPkg f).front = s.front := rfl
@[simp] theorem State.answer_front (p : Bool) (x : Nat) : (s.answer p x).front = s.front := rfl
@[simp] theorem State.carry_front (x : Packet) : (s.carry x).front = s.front := rfl
@[simp] theorem State.drawBytes_front (n : Nat) : (s.drawBytes n).2.front = s.front := rfl

@[simp] theorem forEach_onCore_front (xs : List Nat) (f : Nat → Core → Core) : (forEach xs s fun k t => t.onCore k (f k)).front = s.front :=
  forEach_front (fun k t => t.onCore_front k (f k)) xs

/-! ### The fabric -/

@[simp] theorem State.takeHint_front (frame h : Nat) : (s.takeHint frame h).front = s.front := by
  simp only [State.takeHint]
  exact forEach_onCore_front ..

@[simp] theorem State.respond_front (x : Packet) : (s.respond x).front = s.front := by
  grind [State.respond, State.takeHint_front, State.answer_front]

@[simp] theorem State.serveCd_front (cd : Nat) : (s.serveCd cd).front = s.front := by
  grind [State.serveCd, forEach_front, State.respond_front, State.onPkg_front]

@[simp] theorem State.sendReply_front (x : Packet) (home : Nat) (r : Body) : (s.sendReply x home r).front = s.front := by
  grind [State.sendReply, State.respond_front, State.carry_front, State.serveCd_front, State.onPkg_front]

@[simp] theorem State.lost_front (x : Packet) : (s.lost x).front = s.front := by
  grind [State.lost, State.answer_front]

@[simp] theorem State.serve_front (x : Packet) (home : Nat) : (s.serve x home).front = s.front := by
  grind [State.serve, State.onPkg_front, State.sendReply_front]

@[simp] theorem State.route_front (n md : Nat) (x : Packet) : (s.route n md x).1.front = s.front := by
  induction n generalizing s md x with
  | zero => rfl
  | succ n ih => grind [State.route, State.onPkg_front, State.carry_front, State.lost_front]

@[simp] theorem State.landOwn_front (x : Packet) : (s.landOwn x).front = s.front := by
  grind [State.landOwn, State.respond_front, State.route_front, State.serve_front]

@[simp] theorem State.detourFirst_front (md : Nat) : (s.detourFirst md).front = s.front := by
  grind [State.detourFirst, forEach_front, State.onPkg_front, State.landOwn_front]

@[simp] theorem State.travelFrom_front (pa md n : Nat) : (s.travelFrom pa md n).1.front = s.front := by
  induction n generalizing s md with
  | zero => rfl
  | succ n ih => grind [State.travelFrom, State.detourFirst_front]

@[simp] theorem State.travel_front (pa : Nat) : (s.travel pa).1.front = s.front := by
  grind [State.travel, State.travelFrom_front, State.serveCd_front, State.takeHint_front]

/-! ### Lines and tiles -/

@[simp] theorem State.loseLine_front (line : Nat) : (s.loseLine line).front = s.front := by
  grind [State.loseLine, State.onPkg_front, State.drawBytes_front]

@[simp] theorem State.onTile_front (t : TileId) (f : Tile → Tile) : (s.onTile t f).front = s.front := by
  unfold State.onTile State.onObj
  split <;> rfl

@[simp] theorem State.onL2_front (line : Nat) (f : L2Line → L2Line) : (s.onL2 line f).front = s.front := by
  unfold State.onL2
  split <;> rfl

@[simp] theorem State.afterBlock_front (line fields : Nat) : (s.afterBlock line fields).front = s.front := by
  grind [State.afterBlock, State.travel_front, State.onPkg_front]

@[simp] theorem State.l2Fill_front (line va fields : Nat) : (s.l2Fill line va fields).front = s.front := by
  unfold State.l2Fill
  split
  · exact s.onL2_front line _
  · exact s.afterBlock_front line fields

@[simp] theorem State.l2Merge_front (pa fields : Nat) (bs : List Byte) (mask : Nat → Bool) : (s.l2Merge pa fields bs mask).front = s.front :=
  s.onL2_front _ _

@[simp] theorem State.l2WriteBack_front (line : Nat) : (s.l2WriteBack line).front = s.front := by
  grind [State.l2WriteBack, State.travel_front, State.onPkg_front, State.onL2_front]

@[simp] theorem State.dropTile_front (t : TileId) : (s.dropTile t).front = s.front := by
  rw [State.dropTile, State.onTile_front, forEach_onCore_front]
  exact forEach_front (fun l x => x.loseLine_front l) _

@[simp] theorem State.clearSum_front (k : Nat) (p : Nat → Bool) : (s.clearSum k p).front = s.front := forEach_onCore_front ..

@[simp] theorem State.discardClean_front (c : Nat) (p : L1Line → Bool) : (s.discardClean c p).front = s.front := forEach_onCore_front ..

end Front

/-! ### Evictions and write-backs -/

section Evict
variable {ev : State → Nat → Option State} (hev : ∀ t l, OptFront t (ev t l)) (s : State)
include hev

theorem fitWith_front (line n : Nat) : OptFront s (fitWith ev line n s) := by
  induction n generalizing s with
  | zero => grind [fitWith, OptFront]
  | succ n ih => grind [fitWith, OptFront, bind_front]

theorem fitBy_front (line : Nat) : OptFront s (fitBy ev s line) := fitWith_front hev s line _

theorem wb1With_front (own : Option Nat) (k line : Nat) : OptFront s (wb1With ev own s k line) := by
  grind [wb1With, OptFront, State.l2Merge_front, State.l2Fill_front, State.onCore_front]

theorem wbAllWith_front (own : Option Nat) (c : Nat) (p : L1Line → Bool) : OptFront s (wbAllWith ev own c p s) :=
  foldlM_front (fun t (e : Nat × Nat) => wb1With_front hev t own e.1 e.2) _

theorem drainWith_front (k : Nat) (p : Nat → Bool) : OptFront s (drainWith ev k p s) :=
  map_front (wbAllWith_front hev s none k _) fun t => t.clearSum_front k p

theorem recordLeavesWith_front (line : Nat) : OptFront s (recordLeavesWith ev s line) := by
  have hdrain (l : L2Line) (f : L2Line → L2Line) :
      OptFront (s.onL2 line f) (l.rel.entries.foldlM (fun t e => drainWith (fitBy ev) e.core (fun o => e.drain.contains o) t) (s.onL2 line f)) :=
    foldlM_front (fun t (e : RecEntry) => drainWith_front (fun u l => fitBy_front hev u l) t e.core _) _
  grind [recordLeavesWith, OptFront, map_front, forEach_front, State.onL2_front, State.discardClean_front]

theorem leaveWith_front (line : Nat) : OptFront s (leaveWith ev s line) := by
  have hplain : OptFront s ((recordLeavesWith ev s line).map fun t => (t.l2WriteBack line).l2Drop line) :=
    map_front (recordLeavesWith_front hev s line) fun t => t.l2WriteBack_front line
  have hall (ls : List Nat) (tid : TileId) : OptFront s ((ls.foldlM (recordLeavesWith ev) s).map fun t => t.dropTile tid) :=
    map_front (foldlM_front (fun t l => recordLeavesWith_front hev t l) ls) fun t => t.dropTile_front tid
  unfold leaveWith
  split
  · rintro t ⟨⟩; rfl
  · simp only
    split
    · exact hplain
    · split
      · exact hplain
      · split
        · rintro t ⟨⟩
        · exact hall _ _

end Evict

section Release
variable (s : State)

theorem State.leaveN_front (n line : Nat) : OptFront s (s.leaveN n line) := by
  induction n generalizing s line with
  | zero => rintro t ⟨⟩
  | succ n ih => exact leaveWith_front (fun t l => ih t l) s line

theorem State.fit_front (line : Nat) : OptFront s (s.fit line) := fitBy_front (fun t l => t.leaveN_front _ l) s line

theorem State.wbTry_front (own : Option Nat) (c : Nat) (p : L1Line → Bool) : OptFront s (s.wbTry own c p) :=
  wbAllWith_front (fun t l => t.fit_front l) s own c p

theorem State.plainRelease_front (k scope : Nat) : OptFront s (s.plainRelease k scope) := by
  unfold State.plainRelease
  split
  · exact drainWith_front (fun t l => t.fit_front l) s k fun _ => true
  · split
    · exact map_front (s.wbTry_front none k _) fun t => t.clearSum_front k _
    · rintro t ⟨⟩; rfl

theorem State.plainAcquire_front (k scope : Nat) : (s.plainAcquire k scope).front = s.front := by
  grind [State.plainAcquire, State.acquireSys, State.acquireAll, State.discardClean_front, State.onCore_front]

end Release

/-! ### What the front shows -/

section Shown
variable {s t : State} (h : t.front = s.front)
include h

theorem State.w_of_front : t.w = s.w := congrArg (·.w) h
theorem State.sched_of_front : t.sched = s.sched := congrArg (·.sched) h
theorem State.bars_of_front : t.die.bars = s.die.bars := congrArg (·.die.bars) h

theorem State.sameOutside_of_front : s.SameOutside t where
  others := congrArg (·.others) h
  host := congrArg (·.host) h
  tabs := congrArg (fun u => { u.tabs with lastRead := s.tabs.lastRead }) h
  agenda := congrArg (·.agenda) h

end Shown

end Sys2Proof.Machine

/-! PROOFS. Barriers (07 R98 to R101; 13 R200), and O43 from them. -/

namespace Sys2Proof.Machine

/-! ### The wave barrier (R99, R101) -/

/-- An entry that is no longer parked. -/
def StackEntry.ordinary (e : StackEntry) : StackEntry := if e.kind = .parked then { e with kind := .path } else e

theorem Wave.advance_flow_mask (w : Wave) : w.advance.flow.mask = w.flow.mask := by
  have h := w.advance_reflow w.flow.mask w.flow.rpc w.flow.stack w.flow.wbArrived w.flow.wbPhase
  exact (congrArg WaveFlow.mask h :)

theorem Wave.advance_flow_rpc (w : Wave) : w.advance.flow.rpc = w.flow.rpc := by
  have h := w.advance_reflow w.flow.mask w.flow.rpc w.flow.stack w.flow.wbArrived w.flow.wbPhase
  exact (congrArg WaveFlow.rpc h :)

theorem Wave.advance_flow_stack (w : Wave) : w.advance.flow.stack = w.flow.stack := by
  have h := w.advance_reflow w.flow.mask w.flow.rpc w.flow.stack w.flow.wbArrived w.flow.wbPhase
  exact (congrArg WaveFlow.stack h :)

/-- Going on keeps what a wave-level BAR with `.arrive` keeps. -/
theorem Wave.advance_flow_arrived (w : Wave) (x : Word) :
    { w.advance.flow with mask := w.flow.mask, rpc := w.flow.rpc, stack := w.flow.stack, wbArrived := x, wbPhase := w.flow.wbPhase } =
      { w.advance.flow with wbArrived := x } := by
  rw [← Wave.advance_flow_mask, ← Wave.advance_flow_rpc, ← Wave.advance_flow_stack, ← Wave.advance_flow_wbPhase]

theorem Wave.wbArrive_of_met {w : Wave} {m : Word} (hm : w.flow.wbArrived ||| m ≠ 0) (h : w.flow.alive &&& ~~~(w.flow.wbArrived ||| m) = 0) :
    w.wbArrive m = w.reflow w.flow.mask w.flow.rpc (w.flow.stack.map StackEntry.ordinary) 0 (w.flow.wbPhase + 1) :=
  if_pos ⟨hm, h⟩

theorem Wave.wbArrive_of_unmet {w : Wave} {m : Word} (h : w.flow.alive &&& ~~~(w.flow.wbArrived ||| m) ≠ 0) :
    w.wbArrive m = w.reflow w.flow.mask w.flow.rpc w.flow.stack (w.flow.wbArrived ||| m) w.flow.wbPhase :=
  if_neg fun hx => h hx.2

theorem Wave.wbArrive_nobody {w : Wave} (h : w.flow.wbArrived = 0) : w.wbArrive 0 = w := by
  have h0 : w.flow.wbArrived ||| (0 : Word) = 0 := by rw [h]; rfl
  refine (if_neg fun hx => hx.1 h0).trans ?_
  rw [h0, ← h]

theorem findPath_go_append {xs : List StackEntry} (h : ∀ x ∈ xs, x.kind = .parked) (ys : List StackEntry) (i : Nat) :
    findPath.go (xs ++ ys) i = findPath.go ys (i - xs.length) := by
  induction xs generalizing i with
  | nil => rfl
  | cons x xs ih =>
    obtain ⟨hx, hxs⟩ := List.forall_mem_cons.mp h
    rw [List.cons_append, findPath.go, hx, List.length_cons]
    refine (ih hxs _).trans ?_
    congr 1
    omega

/-- The nearest path lies below parked entries only. -/
theorem findPath_append {pre rest : List StackEntry} {e : StackEntry} (he : e.kind = .path) (h : ∀ x ∈ rest, x.kind = .parked) :
    findPath (pre ++ e :: rest) = some pre.length := by
  have hr : (pre ++ e :: rest).reverse = rest.reverse ++ e :: pre.reverse := by simp
  rw [findPath, hr, findPath_go_append (by simpa using h), findPath.go, he]
  simp

/-- A free wave that parks goes on at the nearest path. -/
theorem State.parkPath_of_path {s : State} {w : Wave} {pre rest : List StackEntry} {e : StackEntry} (hf : w.freeStack = true)
    (hs : w.flow.stack = pre ++ e :: rest) (he : e.kind = .path) (hr : ∀ x ∈ rest, x.kind = .parked) {p : StackEntry}
    (hd : w.flow.stack.length ≤ 32) :
    s.parkPath w [p] = .goto { s with w := ({ w with flow := { w.flow with stack := pre ++ rest ++ [p] } } : Wave).enter e } := by
  have hi : findPath w.flow.stack = some pre.length := hs ▸ findPath_append he hr
  have hget : w.flow.stack[pre.length]? = some e := by rw [hs]; simp
  have hdel : w.flow.stack.eraseIdx pre.length = pre ++ rest := by
    rw [hs, List.eraseIdx_append_of_length_le (Nat.le_refl _), Nat.sub_self]; rfl
  have hroom : ¬ 32 < w.depth - 1 + [p].length := by
    have : 0 < w.flow.stack.length := by rw [hs]; simp
    simp only [Wave.depth, List.length_singleton]
    omega
  simp only [State.parkPath, hi, if_neg hroom, State.floor_of_freeStack hf, Nat.not_lt_zero, if_false, Wave.parkOn, hget, hdel]

/-- The entry in which lanes park after their BAR. -/
def Wave.parkedNext (w : Wave) : StackEntry := { kind := .parked, pc := w.advance.flow.pc, mask := w.flow.mask, rpc := w.flow.rpc }

/-- The wave as its lanes arrive at a wave-level BAR, of which MODE 2 is none. -/
def Wave.arriving (w : Wave) (mode : Nat) : Wave := if mode = 2 then w else w.wbArrive w.flow.mask

/-- A wave-level BAR none of whose lanes has arrived before. -/
theorem waveBarAct_eq {s : State} {mode : Nat} (hrep : mode ≠ 2 → s.w.flow.mask &&& s.w.flow.wbArrived = 0) (hm : s.w.flow.mask ≠ 0) :
    waveBarAct mode s =
      if mode ≠ 2 ∧ s.w.flow.alive &&& ~~~(s.w.flow.wbArrived ||| s.w.flow.mask) = 0 then
        .done { s with w := (s.w.wbArrive s.w.flow.mask).wbArrive 0 }
      else if mode = 1 then
        if 32 < s.w.depth then s.w.trapAct cSTACK_OVERFLOW
        else .done (s.onW fun w => (w.arriving mode).reflow w.flow.mask (w.arriving mode).flow.rpc ((w.arriving mode).flow.stack ++ [])
          (w.arriving mode).flow.wbArrived (w.arriving mode).flow.wbPhase)
      else s.parkPath (s.w.arriving mode) [s.w.parkedNext] := by
  have h0 : (if mode = 2 then (0 : Word) else s.w.flow.mask &&& s.w.flow.wbArrived) = 0 := by
    split
    · rfl
    · exact hrep ‹_›
  have h1 : s.w.flow.mask &&& ~~~(0 : Word) = s.w.flow.mask := BitVec.and_allOnes
  unfold waveBarAct
  simp only [h0, h1, if_true, if_neg hm]
  rfl

theorem waveBarriers : Statements.WaveBarriers := by
  intro s mode num h w m plain hrep hm
  have hx := waveBarAct_eq hrep hm
  refine ⟨fun h1 hmet => ?met, fun h1 hun hd => ?arrive, fun pre e rest hs he hr hf hd hmode hun => ?park⟩
  case met =>
    have hne : s.w.flow.wbArrived ||| s.w.flow.mask ≠ 0 := fun h0 => hm (BitVec.or_eq_zero_iff.mp h0).2
    rw [if_pos ⟨by omega, hmet⟩, Wave.wbArrive_of_met hne hmet, Wave.wbArrive_nobody rfl] at hx
    obtain ⟨t, ht, hj⟩ := issue_reflows h rfl (f := waveBarAct mode.toNat) hx
    exact ⟨t, ht, by rwa [← Wave.advance_flow_mask, ← Wave.advance_flow_rpc] at hj⟩
  case arrive =>
    have h2 : mode.toNat = 1 := by rw [h1]; rfl
    have ha : s.w.arriving mode.toNat = _ := (if_neg (by omega)).trans (Wave.wbArrive_of_unmet hun)
    rw [if_neg fun hc => hun hc.2, if_pos h2, if_neg (show ¬ 32 < s.w.depth from Nat.not_lt.mpr hd)] at hx
    simp only [State.onW, ha, List.append_nil] at hx
    obtain ⟨t, ht, hj⟩ := issue_reflows h rfl (f := waveBarAct mode.toNat) (m := s.w.flow.mask) (r := s.w.flow.rpc)
      (st := s.w.flow.stack) (x := s.w.flow.wbArrived ||| s.w.flow.mask) (p := s.w.flow.wbPhase) hx
    exact ⟨t, ht, s.w.advance_flow_arrived _ ▸ hj⟩
  case park =>
    have hw : ∃ x, s.w.arriving mode.toNat = s.w.reflow s.w.flow.mask s.w.flow.rpc s.w.flow.stack x s.w.flow.wbPhase ∧
        x = if mode.toNat = 0 then s.w.flow.wbArrived ||| s.w.flow.mask else s.w.flow.wbArrived := by
      rcases hmode with h0 | h2
      · exact ⟨_, (if_neg (by omega)).trans (Wave.wbArrive_of_unmet (hun h0)), (if_pos h0).symm⟩
      · exact ⟨_, if_pos h2, (if_neg (by omega)).symm⟩
    obtain ⟨x, hv, hxeq⟩ := hw
    have hno : ¬(mode.toNat ≠ 2 ∧ s.w.flow.alive &&& ~~~(s.w.flow.wbArrived ||| s.w.flow.mask) = 0) :=
      fun hc => hun (hmode.resolve_right hc.1) hc.2
    rw [if_neg hno, if_neg (by omega), hv, State.parkPath_of_path (w := s.w.reflow _ _ _ x _) hf hs he hr hd] at hx
    exact hxeq ▸ issue_jumps h rfl (f := waveBarAct mode.toNat) hx rfl

/-! ### Barriers of a block, a cluster and a grid (R98 to R100) -/

theorem State.SameOutside.trans {s t u : State} (h : s.SameOutside t) (g : t.SameOutside u) : s.SameOutside u where
  others := g.others.trans h.others
  host := g.host.trans h.host
  tabs := by rw [← h.tabs, ← g.tabs]
  agenda := g.agenda.trans h.agenda

theorem mem_of_look? {α : Type} {m : Map α} {k : Nat} {x : α} (h : look? m k = some x) : (k, x) ∈ m := by
  induction m with
  | nil => cases h
  | cons e m ih =>
    by_cases hk : e.1 = k
    · rw [look?, if_pos hk, Option.some.injEq] at h
      rw [← hk, ← h]
      exact List.mem_cons_self
    · rw [look?, if_neg hk] at h
      exact List.mem_cons_of_mem _ (ih h)

/-- A key's first entry alone gives way to what is put there. -/
theorem mem_put_of_mem {α : Type} {m : Map α} {k : Nat} {x y : α} (hk : look? m k = some y) {e : Nat × α} (h : e ∈ m) :
    e ∈ put m k x ∨ e = (k, y) := by
  induction m with
  | nil => cases h
  | cons a m ih =>
    obtain ⟨j, z⟩ := a
    by_cases hj : j = k
    · simp only [put, if_pos hj]
      rw [look?, if_pos hj, Option.some.injEq] at hk
      rcases List.mem_cons.mp h with rfl | h
      · exact .inr (by rw [hj, hk])
      · exact .inl (List.mem_cons_of_mem _ h)
    · rw [look?, if_neg hj] at hk
      simp only [put, if_neg hj]
      split
      · exact .inl (List.mem_cons_of_mem _ h)
      · rcases List.mem_cons.mp h with rfl | h
        · exact .inl List.mem_cons_self
        · exact (ih hk h).imp_left (List.mem_cons_of_mem _)

section SetBar
variable {s : State} {k : Nat} {b y : Block} (hk : s.blk? k = some y) (level num : Nat) (x : Barrier)

include hk

theorem State.onBlk_of_blk? (f : Block → Block) :
    s.onBlk k f = { s with sched := { s.sched with blocks := put s.sched.blocks k (f y) } } := by
  unfold State.onBlk
  rw [hk]

theorem State.bar_setBar : (s.setBar k b level num x).bar k b level num = x := by
  by_cases hl : level = 1
  · simp only [State.setBar, State.bar, if_pos hl, State.onBlk_of_blk? hk, State.blk?, look?_put, if_true, Option.getD_some, look_put]
  · simp only [State.setBar, State.bar, if_neg hl, State.onDie, look_put, if_true]

theorem State.setBar_w : (s.setBar k b level num x).w = s.w := by
  unfold State.setBar
  split
  · rw [State.onBlk_of_blk? hk]
  · rfl

theorem State.setBar_outside : s.SameOutside (s.setBar k b level num x) := by
  unfold State.setBar
  split
  · rw [State.onBlk_of_blk? hk]
    exact ⟨rfl, rfl, rfl, rfl⟩
  · exact ⟨rfl, rfl, rfl, rfl⟩

theorem State.setBar_blk? : ((s.setBar k b level num x).blk? k).isSome = true := by
  unfold State.setBar
  split
  · rw [State.onBlk_of_blk? hk, State.blk?, look?_put, if_pos rfl]; rfl
  · exact Option.isSome_iff_exists.mpr ⟨y, hk⟩

/-- A barrier of a block is no part of who its members are. -/
theorem State.mem_barMembers_setBar (c : Block) (l i : Nat) :
    i ∈ (s.setBar k b level num x).barMembers c l ↔ i ∈ s.barMembers c l := by
  unfold State.setBar
  split
  · rw [State.onBlk_of_blk? hk]
    have hy : (k, y) ∈ s.sched.blocks := mem_of_look? hk
    simp only [State.barMembers, State.barBlocks, List.mem_flatMap, List.mem_filter, List.mem_map]
    constructor
    · rintro ⟨z, ⟨⟨e, he, rfl⟩, hc⟩, hi⟩
      rcases mem_put he with rfl | he
      · exact ⟨y, ⟨⟨_, hy, rfl⟩, hc⟩, hi⟩
      · exact ⟨_, ⟨⟨e, he, rfl⟩, hc⟩, hi⟩
    · rintro ⟨z, ⟨⟨e, he, rfl⟩, hc⟩, hi⟩
      rcases mem_put_of_mem (x := { y with bars := put y.bars num x }) hk he with he | rfl
      · exact ⟨_, ⟨⟨e, he, rfl⟩, hc⟩, hi⟩
      · exact ⟨_, ⟨⟨_, mem_of_look? ((look?_put ..).trans (if_pos rfl)), rfl⟩, hc⟩, hi⟩
  · rfl

end SetBar

section Settle
variable {s : State} {k : Nat} {b : Block} {level num : Nat}

theorem State.barSettle_of_met {x : Barrier} (hx : s.bar k b level num = x) (hne : x.arrived ≠ []) (h : ∀ i ∈ s.barMembers b level, i ∈ x.arrived) :
    s.barSettle k b level num = s.setBar k b level num { phase := x.phase + 1, arrived := [] } := by
  subst hx
  refine if_pos ?_
  simpa [hne] using h

theorem State.barSettle_of_unmet {x : Barrier} (hx : s.bar k b level num = x) (h : ∃ i ∈ s.barMembers b level, i ∉ x.arrived) :
    s.barSettle k b level num = s := by
  subst hx
  obtain ⟨i, hi, hno⟩ := h
  refine if_neg fun hc => hno ?_
  simp only [Bool.and_eq_true, List.all_eq_true, List.contains_iff_mem] at hc
  exact hc.2 i hi

theorem State.bar_of_front {t : State} (h : t.front = s.front) : t.bar k b level num = s.bar k b level num := by
  simp only [State.bar, State.blk?, State.sched_of_front h, State.bars_of_front h]

theorem State.barMembers_of_front {t : State} (h : t.front = s.front) : t.barMembers b level = s.barMembers b level := by
  simp only [State.barMembers, State.barBlocks, State.sched_of_front h]

end Settle

/-- The state after a wave has arrived at a barrier. -/
def State.arrive (s : State) (k : Nat) (b : Block) (level num : Nat) : State :=
  let x := s.bar k b level num
  (s.setBar k b level num { x with arrived := x.arrived ++ [s.w.id.wid] }).barSettle k b level num

section Arrive
variable {s : State} {k : Nat} {b : Block} (hk : s.blk? k = some b) {level num : Nat}
include hk

/-- The last member completes the phase. -/
theorem State.arrive_of_last (h : ∀ i ∈ s.barMembers b level, i = s.w.id.wid ∨ i ∈ (s.bar k b level num).arrived) :
    (s.arrive k b level num).bar k b level num = { phase := (s.bar k b level num).phase + 1, arrived := [] } ∧
      (s.arrive k b level num).w = s.w ∧ s.SameOutside (s.arrive k b level num) := by
  unfold State.arrive
  dsimp only
  obtain ⟨y, hy⟩ := Option.isSome_iff_exists.mp (State.setBar_blk? hk level num _)
  rw [State.barSettle_of_met (State.bar_setBar hk level num _) (by simp)]
  · exact ⟨State.bar_setBar hy .., (State.setBar_w hy ..).trans (State.setBar_w hk ..),
      (State.setBar_outside hk ..).trans (State.setBar_outside hy ..)⟩
  · intro i hi
    rw [State.mem_barMembers_setBar hk] at hi
    simpa [or_comm] using h i hi

/-- A member that is not the last arrives. -/
theorem State.arrive_of_more (h : ∃ i ∈ s.barMembers b level, i ≠ s.w.id.wid ∧ i ∉ (s.bar k b level num).arrived) :
    (s.arrive k b level num).bar k b level num =
        { s.bar k b level num with arrived := (s.bar k b level num).arrived ++ [s.w.id.wid] } ∧
      (s.arrive k b level num).w = s.w ∧ s.SameOutside (s.arrive k b level num) := by
  obtain ⟨i, hi, hne, hno⟩ := h
  unfold State.arrive
  dsimp only
  rw [State.barSettle_of_unmet (State.bar_setBar hk level num _)]
  · exact ⟨State.bar_setBar hk .., State.setBar_w hk .., State.setBar_outside hk ..⟩
  · exact ⟨i, (State.mem_barMembers_setBar hk ..).mpr hi, by simp [hne, hno]⟩

end Arrive

theorem barAct_of_block {s : State} {k : Nat} {b : Block} {level mode num : Nat} (hl : level ≠ 0) (hp : s.plain = true)
    (hid : s.w.id.blk = some k) (hb : s.blk? k = some b) (hk : s.w.id.kind = .block) (hm : s.w.flow.mask = s.w.flow.alive)
    (hg : level = 3 → cdGridbar (s.cardBits b.card) = true) : barAct level mode num s = blockBarAct k b level mode num s := by
  have hof : s.blkOf s.w = some b := by rw [State.blkOf, hid]; exact hb
  have hc : s.w.converged = true := beq_iff_eq.mpr hm
  have hno : ¬(s.w.id.kind ≠ .block ∨ s.w.converged = false ∨ (level = 3 ∧ cdGridbar (s.cardBits b.card) = false)) := by
    rintro (h | h | ⟨h3, h⟩)
    · exact h hk
    · simp [hc] at h
    · simp [hg h3] at h
  simp only [barAct, if_neg hl, notInRegion, (State.plain_iff.mp hp).1, Option.isSome_none, Bool.false_eq_true, if_false, hid, hof, if_neg hno]

section BlockBar
variable {s : State} {k : Nat} {b : Block} {level mode num : Nat}

theorem blockBarAct_of_waiting {l n ph : Nat} (h : s.w.waitingBar = some (l, n, ph)) : blockBarAct k b level mode num s =
    if (s.bar k b l n).phase = ph then .wait (s.onW fun w => w.withHold (.bar l n ph)) else .done (s.barAcquire l) := by
  simp only [blockBarAct, h]

theorem blockBarAct_of_mode2 (h : s.w.waitingBar = none) (h2 : mode = 2) : blockBarAct k b level mode num s =
    .wait (s.onW fun w => w.withHold (.bar level num (s.bar k b level num).phase)) := by
  simp only [blockBarAct, h, if_pos h2]

theorem blockBarAct_of_arrived (h : s.w.waitingBar = none) (h2 : mode ≠ 2) (ha : (s.bar k b level num).arrived.contains s.w.id.wid = true) :
    blockBarAct k b level mode num s = .wait s := by
  simp only [blockBarAct, h, if_neg h2, ha, if_true]

section Fresh
variable (h : s.w.waitingBar = none) (h2 : mode ≠ 2) (ha : (s.bar k b level num).arrived.contains s.w.id.wid = false) (hp : s.promoting s.w = false)
include h h2 ha hp

theorem blockBarAct_of_earlier (he : s.earlierDone s.w s.w.mem.seq = false) : blockBarAct k b level mode num s = .wait s := by
  simp only [blockBarAct, h, if_neg h2, ha, hp, he, Bool.false_eq_true, if_false, Bool.not_false, if_true]

theorem blockBarAct_of_release {t : State} (he : s.earlierDone s.w s.w.mem.seq = true) (ht : s.plainRelease s.w.id.core (level - 1) = some t) :
    blockBarAct k b level mode num s =
      if mode = 1 then .done (t.arrive k b level num)
      else if ((t.arrive k b level num).bar k b level num).phase = (s.bar k b level num).phase then
        .wait ((t.arrive k b level num).onW fun w => w.withHold (.bar level num (s.bar k b level num).phase))
      else .done ((t.arrive k b level num).barAcquire level) := by
  have hf := s.plainRelease_front _ _ t ht
  simp only [blockBarAct, h, if_neg h2, ha, hp, he, Bool.false_eq_true, if_false, Bool.not_true, barScope, ht, State.arrive,
    State.bar_of_front hf, State.w_of_front hf]

end Fresh

theorem State.SameOutside.onW {s u : State} (h : s.SameOutside u) (f : Wave → Wave) : s.SameOutside (u.onW f) :=
  ⟨h.others, h.host, h.tabs, h.agenda⟩

theorem State.barAcquire_front (s : State) (level : Nat) : (s.barAcquire level).front = s.front := s.plainAcquire_front _ _

/-- A wave that goes on in state `u`, in which it stands as in `s`. -/
theorem State.moved_of_done {s u : State} (h : u.w = s.w) : s.w.Moved (u.onW Wave.advance).w s.w.advance.flow s.w.mem := by
  show s.w.Moved u.w.advance _ _
  rw [h]
  exact s.w.moved_advance

end BlockBar

theorem blockBarriers : Statements.BlockBarriers := by
  intro s level mode num k b h hl hm2 hp hid hb hkind hm hg x held
  have hl0 : level.toNat ≠ 0 := fun h0 => hl (BitVec.eq_of_toNat_eq h0)
  have hact := barAct_of_block (mode := mode.toNat) (num := num.toNat) hl0 hp hid hb hkind hm fun h3 => hg (BitVec.eq_of_toNat_eq h3)
  have hx {a : Act} (ha : blockBarAct k b level.toNat mode.toNat num.toNat s = a) : exec (.bar level mode num) s = .next (a.settle s) :=
    (issue_idleAlu h rfl).trans (by rw [hact, ha])
  refine ⟨fun l n ph hw => ⟨fun hph => ?held, fun hph => ?passed⟩, fun hw => ⟨fun h2 => ?mode2, fun h2 ha => ?again, fun h2 ha hpr =>
    ⟨fun he => ?earlier, fun he hr => ⟨fun hall => ?last, fun hmore => ?more⟩⟩⟩⟩
  case held => exact hx ((blockBarAct_of_waiting hw).trans (if_pos hph))
  case passed =>
    have hf := s.barAcquire_front l
    exact ⟨_, hx ((blockBarAct_of_waiting hw).trans (if_neg hph)), State.moved_of_done (State.w_of_front hf),
      (State.sameOutside_of_front hf).onW _,
      show (s.barAcquire l).sched = _ from State.sched_of_front hf⟩
  case mode2 => exact hx (blockBarAct_of_mode2 hw (congrArg BitVec.toNat h2))
  all_goals have hne : mode.toNat ≠ 2 := fun h0 => h2 (BitVec.eq_of_toNat_eq h0)
  case again => exact hx (blockBarAct_of_arrived hw hne ha)
  case earlier => exact hx (blockBarAct_of_earlier hw hne ha hpr he)
  all_goals
    obtain ⟨t, ht⟩ := Option.isSome_iff_exists.mp hr
    have hf := s.plainRelease_front _ _ t ht
    have hrel := blockBarAct_of_release hw hne ha hpr he ht
    have hbt : t.blk? k = some b := by rw [State.blk?, State.sched_of_front hf]; exact hb
    have hwt : t.w = s.w := State.w_of_front hf
    have hbar : t.bar k b level.toNat num.toNat = s.bar k b level.toNat num.toNat := State.bar_of_front hf
    have hmem : t.barMembers b level.toNat = s.barMembers b level.toNat := State.barMembers_of_front hf
    have hout : s.SameOutside t := State.sameOutside_of_front hf
  case last =>
    obtain ⟨hb2, hw2, ho2⟩ := State.arrive_of_last (num := num.toNat) hbt (by rw [hmem, hwt, hbar]; exact hall)
    rw [hbar] at hb2
    rw [hb2] at hrel
    by_cases h1 : mode.toNat = 1
    · exact ⟨_, hx (hrel.trans (if_pos h1)), hb2, State.moved_of_done (hw2.trans hwt), (hout.trans ho2).onW _⟩
    · have hf2 := (t.arrive k b level.toNat num.toNat).barAcquire_front level.toNat
      refine ⟨_, hx (hrel.trans ((if_neg h1).trans (if_neg (Nat.succ_ne_self _)))), (State.bar_of_front hf2).trans hb2,
        State.moved_of_done ((State.w_of_front hf2).trans (hw2.trans hwt)), ((hout.trans ho2).trans (State.sameOutside_of_front hf2)).onW _⟩
  case more =>
    obtain ⟨hb2, hw2, ho2⟩ := State.arrive_of_more (num := num.toNat) hbt (by rw [hmem, hwt, hbar]; exact hmore)
    rw [hbar, hwt] at hb2
    rw [hb2] at hrel
    by_cases h1 : mode.toNat = 1
    · refine ⟨_, hx (hrel.trans (if_pos h1)), hb2, (hout.trans ho2).onW _, fun _ => State.moved_of_done (hw2.trans hwt), fun h0 => ?_⟩
      exact absurd (h1.symm.trans (congrArg BitVec.toNat h0)) (by decide)
    · have hsettled := ((hout.trans ho2).onW fun w => w.withHold (.bar level.toNat num.toNat x.phase)).onW fun w =>
        { w with flow := { w.flow with stalled := true, piped := false } }
      refine ⟨_, hx (hrel.trans ((if_neg h1).trans (if_pos rfl))), hb2, hsettled, fun h0 => ?_, fun _ => ?_⟩
      · exact absurd (congrArg BitVec.toNat h0) h1
      · exact congrArg (fun w : Wave => { w with flow := { w.flow with hold := .bar level.toNat num.toNat x.phase, stalled := true, piped := false } })
          (hw2.trans hwt)

/-- Settles O43: a wave's own barrier, and those of a block, a cluster and a grid. -/
theorem barriers : Obligations.Barriers := ⟨waveBarriers, blockBarriers⟩

end Sys2Proof.Machine

/-! PROOFS. Graphs: their checks, uploads and triggers (07 R90, R91; 27 R347, R350), and O42 from them. -/

namespace Sys2Proof.Machine

/-! ### Cards (Table 7.2) -/

theorem entryOk_iff (e : Nat) : entryOk e = true ↔ e < 2 ^ 49 ∧ e % 4 = 0 := by simp [entryOk]

theorem cdFuse_iff (c : Nat) : cdFuse c = true ↔ c / 2 ^ 249 % 2 ^ 1 = 1 := by
  rw [cdFuse, Nat.testBit_eq_decide_div_mod_eq, decide_eq_true_eq, pow_one]

theorem succPacked_iff (c : Nat) :
    succPacked c = true ↔ ∀ i < 10, c / 2 ^ (336 + 16 * i) % 2 ^ 16 = 0xFFFF → c / 2 ^ (352 + 16 * i) % 2 ^ 16 = 0xFFFF := by
  have hnext (i : Nat) : 336 + 16 * (i + 1) = 352 + 16 * i := by omega
  simp only [succPacked, cdSucc, bitsN, hnext, List.all_eq_true, List.mem_range, Bool.or_eq_true, bne_iff_ne, beq_iff_eq, ← imp_iff_not_or]

/-- The blocks of a card come in whole clusters. -/
theorem clusters_iff (c : Nat) : (1 ≤ cdBpc c ∧ cdBcap c % max 1 (cdBpc c) = 0) ↔ (1 ≤ cdBpc c ∧ cdBcap c % cdBpc c = 0) :=
  and_congr_right fun h => by rw [Nat.max_eq_right h]

theorem cardOk_iff (c : Nat) :
    let fld := fun (a n : Nat) => c / 2 ^ a % 2 ^ n
    cardOk c = true ↔
      (∀ i < 10, fld (336 + 16 * i) 16 = 0xFFFF → fld (352 + 16 * i) 16 = 0xFFFF) ∧ fld 320 16 ≤ 1023 ∧ fld 304 16 ≤ 256 ∧
      1 ≤ fld 288 16 ∧ fld 256 32 ≤ 524288 ∧ fld 256 32 % 128 = 0 ∧ fld 250 6 = 0 ∧ fld 243 5 = 0 ∧
      (fld 249 1 = 1 → fld 184 8 = 8) ∧ fld 232 8 ≤ 128 ∧ 8 ≤ fld 224 8 ∧ fld 224 8 ≤ 128 ∧ fld 224 8 % 8 = 0 ∧
      1 ≤ fld 192 32 ∧ fld 192 32 ≤ 1048576 ∧ 1 ≤ fld 184 8 ∧ fld 184 8 ≤ 8 ∧ fld 192 32 % fld 184 8 = 0 ∧
      1 ≤ fld 176 8 ∧ fld 176 8 ≤ 16 ∧ fld 160 16 ≤ 256 ∧ fld 160 16 % 4 = 0 ∧
      fld 64 64 < 2 ^ 49 ∧ fld 64 64 % 4 = 0 ∧ fld 0 64 < 2 ^ 49 ∧ fld 0 64 % 4 = 0 := by
  have hmax := clusters_iff c
  simp only [cardOk, Bool.and_eq_true, decide_eq_true_eq, beq_iff_eq, succPacked_iff, entryOk_iff, Bool.or_eq_true, Bool.not_eq_true',
    ← Bool.not_eq_true, cdFuse_iff, ← imp_iff_not_or, and_assoc]
  simp only [cdPred, cdSpwait, cdChunk, cdTmem, cdBpc, cdWslots, cdVregs, cdWpb, cdBcap, cdRecSize, cdArg, cdEntry, bitsN] at hmax ⊢
  constructor
  · rintro ⟨h1, h2, h3, h4, h5, h6, h7, h8, h9, h10, h11, h12, h13, hb1, hb8, hw1, hw16, hn1, hn, hcl, h⟩
    exact ⟨h1, h2, h3, h4, h5, h6, h7, h8, h9, h10, h11, h12, h13, hn1, hn, hb1, hb8, (hmax.mp ⟨hb1, hcl⟩).2, hw1, hw16, h⟩
  · rintro ⟨h1, h2, h3, h4, h5, h6, h7, h8, h9, h10, h11, h12, h13, hn1, hn, hb1, hb8, hcl, hw1, hw16, h⟩
    exact ⟨h1, h2, h3, h4, h5, h6, h7, h8, h9, h10, h11, h12, h13, hb1, hb8, hw1, hw16, hn1, hn, (hmax.mpr ⟨hb1, hcl⟩).2, h⟩

/-! ### Cycles (R90) -/

/-- Some card among the nodes `ns` lists node `n` as a successor. -/
def hasPred (g : List Nat) (ns : List Nat) (n : Nat) : Bool := ns.any fun m => (cdSuccs (g.getD m 0)).contains n

theorem hasPred_iff {g ns : List Nat} {n : Nat} : hasPred g ns n = true ↔ ∃ m ∈ ns, n ∈ cdSuccs (g.getD m 0) := by
  simp [hasPred]

/-- Where the edges rise in rank, a round takes a node away. -/
theorem filter_hasPred_length_lt {g ns : List Nat} (rank : Nat → Nat) (hr : ∀ n ∈ ns, ∀ m ∈ ns, m ∈ cdSuccs (g.getD n 0) → rank n < rank m)
    (hne : ns ≠ []) : (ns.filter (hasPred g ns)).length < ns.length := by
  obtain ⟨n, hn, hmin⟩ := ns.toFinset.exists_min_image rank (by simpa using hne)
  rw [List.length_filter_lt_length_iff_exists]
  refine ⟨n, List.mem_toFinset.mp hn, fun hp => ?_⟩
  obtain ⟨m, hm, hs⟩ := hasPred_iff.mp hp
  exact Nat.not_lt.mpr (hmin m (List.mem_toFinset.mpr hm)) (hr m hm n (List.mem_toFinset.mp hn) hs)

theorem cyclic_eq_nil_of_rank {g : List Nat} (rank : Nat → Nat) {f : Nat} {ns : List Nat} (hf : ns.length ≤ f)
    (hr : ∀ n ∈ ns, ∀ m ∈ ns, m ∈ cdSuccs (g.getD n 0) → rank n < rank m) : cyclic g f ns = [] := by
  induction f generalizing ns with
  | zero => exact List.length_eq_zero_iff.mp (Nat.le_zero.mp hf)
  | succ f ih =>
    by_cases hne : ns = []
    · subst hne; exact ih (Nat.zero_le _) (by simp)
    · refine ih (ns := ns.filter (hasPred g ns)) ?_ fun n hn m hm => hr n (List.mem_of_mem_filter hn) m (List.mem_of_mem_filter hm)
      have := filter_hasPred_length_lt rank hr hne
      omega

/-- The round in which a node goes is a rank along which the edges rise. -/
theorem rank_of_cyclic_eq_nil {g : List Nat} {f : Nat} {ns : List Nat} (h : cyclic g f ns = []) :
    ∃ rank : Nat → Nat, ∀ n ∈ ns, ∀ m ∈ ns, m ∈ cdSuccs (g.getD n 0) → rank n < rank m := by
  induction f generalizing ns with
  | zero =>
    rw [show ns = [] from h]
    exact ⟨id, by simp⟩
  | succ f ih =>
    obtain ⟨rank, hr⟩ := ih (ns := ns.filter (hasPred g ns)) h
    refine ⟨fun n => if hasPred g ns n = true then rank n + 1 else 0, fun n hn m hm hs => ?_⟩
    have hpm : hasPred g ns m = true := hasPred_iff.mpr ⟨n, hn, hs⟩
    dsimp only
    rw [if_pos hpm]
    split
    · exact Nat.succ_lt_succ (hr n (List.mem_filter.mpr ⟨hn, ‹_›⟩) m (List.mem_filter.mpr ⟨hm, hpm⟩) hs)
    · exact Nat.succ_pos _

/-! ### The first failure of a graph (R90) -/

section First
variable {p q : Nat → Bool} {f : Nat → Prop} (hq : ∀ n, q n = true ↔ ¬f n) {k : Nat}
include hq

theorem find?_selected_of_first {n : Nat} (hn : n < k) (hp : p n = true) (hf : ¬f n) (hm : ∀ m < n, p m = true → f m) :
    ((List.range k).filter p).find? q = some n := by
  rw [List.find?_filter, List.find?_range_eq_some]
  refine ⟨by simp [hp, (hq n).mpr hf], List.mem_range.mpr hn, fun m hmn => ?_⟩
  by_cases hpm : p m = true
  · simp [Bool.eq_false_iff.mpr fun h => (hq m).mp h (hm m hmn hpm)]
  · simp [hpm]

theorem find?_selected_of_all (h : ∀ n < k, p n = true → f n) : ((List.range k).filter p).find? q = none := by
  rw [List.find?_eq_none]
  intro n hn hqn
  obtain ⟨hn, hp⟩ := List.mem_filter.mp hn
  exact (hq n).mp hqn (h n (List.mem_range.mp hn) hp)

end First

theorem predCards_eq (g : List Nat) (n : Nat) :
    predCards g n = ((List.range g.length).filter fun m => (cdSuccs (g.getD m 0)).contains n).length := by
  have hg : (List.range g.length).map (fun m => g.getD m 0) = g := List.ext_getElem (by simp) fun i _ h => by simp [h]
  conv_lhs => rw [predCards, ← hg, List.filter_map, List.length_map]
  rfl

theorem tooLarge_iff (s : State) (c : Nat) :
    s.tooLarge c = true ↔ ¬(s.unitsPerCore (cardNeed c) ≠ 0 ∧ (cdGridbar c = true → cdBcap c ≤ s.gmax c)) := by
  simp only [State.tooLarge, Bool.or_eq_true, beq_iff_eq, Bool.and_eq_true, decide_eq_true_eq]
  grind

theorem graphChecks : Statements.GraphChecks := by
  refine ⟨cardOk_iff, fun s g p => ?_⟩
  intro card fault good inside counted ordered small all first
  have hgood (n : Nat) : (!cardOk (card n)) = true ↔ ¬good n := by simp [good]
  have hinside (n : Nat) : ((cdSuccs (card n)).any fun m => decide (g.length ≤ m)) = true ↔ ¬inside n := by
    simp [inside]
  have hcounted (n : Nat) : (cdPred (card n) != predCards g n) = true ↔ ¬counted n := by
    simp [counted, card, predCards_eq]
  have hsmall (n : Nat) := tooLarge_iff s (card n)
  refine ⟨fun n ⟨hn, hp, hf, hm⟩ => ?bad, fun hg n ⟨hn, hp, hf, hm⟩ => ?outside, fun hg hi n ⟨hn, hp, hf, hm⟩ => ?miscounted,
    fun hg hi hc ho => ?cyclic, fun hg hi hc ho n ⟨hn, hp, hf, hm⟩ => ?large, fun hg hi hc ho hs => ?ok⟩
  all_goals simp only [fault, State.graphFault]
  case bad => rw [find?_selected_of_first hgood hn hp hf hm]
  all_goals rw [find?_selected_of_all hgood hg]
  case outside => rw [find?_selected_of_first hinside hn hp hf hm]
  all_goals rw [find?_selected_of_all hinside hi]
  case miscounted => rw [find?_selected_of_first hcounted hn hp hf hm]
  all_goals rw [find?_selected_of_all hcounted hc]
  all_goals dsimp only
  case cyclic =>
    cases hcy : cyclic g g.length (List.range g.length) with
    | cons n ns => exact ⟨n, rfl⟩
    | nil =>
      obtain ⟨rank, hr⟩ := rank_of_cyclic_eq_nil hcy
      exact absurd ⟨rank, fun n hn m hm => hr n (List.mem_range.mpr hn) m (List.mem_range.mpr hm)⟩ ho
  all_goals
    obtain ⟨rank, hr⟩ := ho
    rw [cyclic_eq_nil_of_rank rank (by simp) fun n hn m hm => hr n (List.mem_range.mp hn) m (List.mem_range.mp hm)]
  case large => rw [find?_selected_of_first hsmall hn hp hf hm]; rfl
  case ok => rw [find?_selected_of_all hsmall hs]; rfl


/-! ### Reports in GSTAT (27 R350) -/

theorem toNat_extractLsb' {w : Nat} (x : BitVec w) (lo n : Nat) : (x.extractLsb' lo n).toNat = bitsN x.toNat lo n := by
  rw [BitVec.extractLsb'_toNat, Nat.shiftRight_eq_div_pow]; rfl

theorem extractLsb'_eq_zero_iff {w : Nat} (x : BitVec w) (lo n : Nat) : x.extractLsb' lo n = 0 ↔ bitsN x.toNat lo n = 0 := by
  rw [← toNat_extractLsb']
  exact ⟨fun h => by rw [h]; rfl, fun h => BitVec.eq_of_toNat_eq h⟩

theorem getLsbD_ofNat_of_lt {n i : Nat} (hi : i < n) (x : Nat) : (BitVec.ofNat n x).getLsbD i = x.testBit i := by
  rw [BitVec.getLsbD_ofNat, decide_eq_true hi, Bool.true_and]

theorem getLsbD_setBit {n : Nat} (x : BitVec n) (k : Nat) (b : Bool) {i : Nat} (hi : i < n) :
    (setBit x k b).getLsbD i = if k = i then b else x.getLsbD i := by
  have hk : (BitVec.ofNat n (2 ^ k)).getLsbD i = decide (k = i) := (getLsbD_ofNat_of_lt hi _).trans Nat.testBit_two_pow
  cases b
  · rw [setBit, if_neg Bool.false_ne_true, BitVec.getLsbD_and, BitVec.getLsbD_not, hk]
    split <;> simp_all
  · rw [setBit, if_pos rfl, BitVec.getLsbD_or, hk]
    split <;> simp_all

/-- Bit 31 of a smaller number, set or cleared. -/
theorem setBit_31_ofNat {x : Nat} (h : x < 2 ^ 31) (b : Bool) :
    setBit (BitVec.ofNat 32 x) 31 b = BitVec.ofNat 32 ((if b then 2 ^ 31 else 0) + x) := by
  refine BitVec.eq_of_getLsbD_eq fun i hi => ?_
  rw [getLsbD_setBit _ _ _ hi, getLsbD_ofNat_of_lt hi, getLsbD_ofNat_of_lt hi]
  rcases Nat.lt_or_eq_of_le (Nat.le_of_lt_succ hi) with hlt | rfl
  · rw [if_neg (Nat.ne_of_gt hlt)]
    cases b
    · rw [if_neg Bool.false_ne_true, Nat.zero_add]
    · rw [if_pos rfl, Nat.testBit_two_pow_add_gt hlt]
  · rw [if_pos rfl]
    cases b
    · rw [if_neg Bool.false_ne_true, Nat.zero_add, Nat.testBit_lt_two_pow h]
    · rw [if_pos rfl, Nat.testBit_two_pow_add_eq, Nat.testBit_lt_two_pow h]; rfl

/-- GSTAT (27 R350): BUSY, the graph, the node and the code. -/
def gstatWord (busy : Bool) (g node code : Nat) : Word :=
  BitVec.ofNat 32 ((if busy then 2 ^ 31 else 0) + g * 2 ^ 26 + node % 1024 * 2 ^ 16 + code % 256)

theorem gstatWord_eq {g : Nat} (hg : g < 32) (busy : Bool) (node code : Nat) :
    setBit (BitVec.ofNat 32 (g % 32 * 2 ^ 26 + node % 1024 * 2 ^ 16 + code % 256)) 31 busy = gstatWord busy g node code := by
  have hlt : g % 32 * 2 ^ 26 + node % 1024 * 2 ^ 16 + code % 256 < 2 ^ 31 := by omega
  rw [setBit_31_ofNat hlt, gstatWord, Nat.mod_eq_of_lt hg, Nat.add_assoc, Nat.add_assoc, Nat.add_assoc]

theorem HostRegs.shown_report (h : HostRegs) (x : Word) :
    ({ h with gstat := x } : HostRegs).shown = { h with gstat := setBit x 31 h.busy } := rfl

theorem State.report_eq (s : State) {g : Nat} (hg : g < 32) (node code : Nat) :
    s.report g node code = { s with host := { s.host with gstat := gstatWord s.host.busy g node code } } := by
  rw [← gstatWord_eq hg]
  exact congrArg (fun h => { s with host := h }) (HostRegs.shown_report s.host _)

/-! ### GUPLOAD (R350) -/

/-- Does a launch that runs or waits use a graph? -/
def Sched.uses (d : Sched) (g : Nat) : Bool :=
  (d.waiting.any fun l => l.graph == g) || (match d.running with | some l => l.graph == g | none => false)

/-- The graph that a GUPLOAD or GTRIG names, the cards that an upload brings, and where they lie. -/
def graphNo (val : BitVec 64) : Nat := (val.extractLsb' 59 5).toNat
def cardCount (val : BitVec 64) : Nat := (val.extractLsb' 49 10).toNat + 1
def cardsVa (val : BitVec 64) : Nat := (val.extractLsb' 0 49).toNat

/-- What becomes of cards that have been read, given the first failure of their checks. -/
def State.uploaded (u : State) (g : Nat) (cards : List Nat) : Option (Nat × Nat) → State
  | some (code, node) => u.report g node code
  | none => (u.onSched fun d => { d with graphs := put d.graphs g cards }).report g 0 0

section Upload
variable {s : State} {val : BitVec 64}

theorem graphNo_lt : graphNo val < 32 := (val.extractLsb' 59 5).isLt

theorem graphNo_eq : bitsN val.toNat 59 5 = graphNo val := (toNat_extractLsb' ..).symm

theorem cardCount_eq : bitsN val.toNat 49 10 + 1 = cardCount val := congrArg (· + 1) (toNat_extractLsb' ..).symm

theorem cardsVa_eq (h : val.extractLsb' 0 6 = 0) : bitsN val.toNat 6 43 * 64 = cardsVa val := by
  have h0 := (extractLsb'_eq_zero_iff ..).mp h
  rw [cardsVa, toNat_extractLsb']
  simp only [bitsN] at h0 ⊢
  omega

section Idle
variable (hb : s.host.busy = false)
include hb

theorem State.writeGupload_bad (h : val.extractLsb' 0 6 ≠ 0) : s.writeGupload val = s.report (graphNo val) 0 0x80 := by
  simp only [State.writeGupload, hb, Bool.false_eq_true, if_false, graphNo_eq, if_pos (mt (extractLsb'_eq_zero_iff ..).mpr h)]

theorem State.writeGupload_aligned (h : val.extractLsb' 0 6 = 0) :
    s.writeGupload val = if s.sched.uses (graphNo val) = true then s.report (graphNo val) 0 0x83 else s.uploadGraph val := by
  simp only [State.writeGupload, hb, Bool.false_eq_true, if_false, graphNo_eq, (extractLsb'_eq_zero_iff ..).mp h, ne_eq, not_true_eq_false]
  rfl

end Idle

section Read
variable (hh : s.tabs.halted = false) (h0 : val.extractLsb' 0 6 = 0)
include hh h0

/-- The cards of an upload cannot be read for good. -/
theorem State.uploadGraph_of_refused {a : Nat} (hr : s.engRead (cardsVa val) (64 * cardCount val) = .prot a ∨
    s.engRead (cardsVa val) (64 * cardCount val) = .key a) :
    s.uploadGraph val = (s.onHost fun h => { h with upload := none }).report (graphNo val) 0 0x84 := by
  rcases hr with hr | hr <;>
    simp only [State.uploadGraph, hh, Bool.false_eq_true, if_false, cardsVa_eq h0, cardCount_eq, graphNo_eq, hr]

theorem State.uploadGraph_of_poison {a : Nat} (hr : s.engRead (cardsVa val) (64 * cardCount val) = .poison a) :
    s.uploadGraph val = ((s.recodeAt a).onHost fun h => { h with upload := none }).report (graphNo val) 0 0x84 := by
  simp only [State.uploadGraph, hh, Bool.false_eq_true, if_false, cardsVa_eq h0, cardCount_eq, graphNo_eq, hr]

/-- The cards have been read, for a graph that nothing uses. -/
theorem State.uploadGraph_of_ok {u : State} {bs : List Byte} (hr : s.engRead (cardsVa val) (64 * cardCount val) = .ok u bs)
    (hu : u.sched.uses (graphNo val) = false) (hn : u.host.upload = none) {r : Option (Nat × Nat)}
    (hf : u.graphFault (cardsOf bs (cardCount val)) (fun _ => true) = r) :
    s.uploadGraph val = u.uploaded (graphNo val) (cardsOf bs (cardCount val)) r := by
  have hidle : (u.onHost fun h => { h with upload := none }) = u := by
    rw [← hn]; rfl
  simp only [State.uploadGraph, hh, Bool.false_eq_true, if_false, cardsVa_eq h0, cardCount_eq, graphNo_eq, hr, hidle, hf]
  exact (if_neg (Bool.eq_false_iff.mp hu)).trans (by cases r <;> rfl)

end Read
end Upload

/-! ### GTRIG (R350) -/

/-- The launch that a GTRIG queues. -/
def State.triggered (s : State) (val : BitVec 64) : Launch :=
  { num := s.sched.launchNo, graph := graphNo val, gtrig := val, cards := [], readyNo := 0, token := none }

theorem State.writeGtrig_eq (s : State) (val : BitVec 64) : s.writeGtrig val =
    if val.extractLsb' 0 4 ≠ 0 then s.report (graphNo val) 0 0x80
    else if look? s.sched.graphs (graphNo val) = none then s.report (graphNo val) 0 0x85
    else if 8 ≤ s.sched.waiting.length then s.report (graphNo val) 0 0x82
    else s.onSched fun d => { d with waiting := d.waiting ++ [s.triggered val], launchNo := d.launchNo + 1 } := by
  simp only [State.writeGtrig, graphNo_eq, ne_eq, extractLsb'_eq_zero_iff, Option.isNone_iff_eq_none]
  rfl

theorem HostRegs.upload_of_idle {h : HostRegs} (hb : h.busy = false) : h.upload = none := by
  rw [HostRegs.busy, Bool.or_eq_false_iff] at hb
  exact Option.isNone_iff_eq_none.mp (by simpa using hb.1)

/-- A report while nothing is uploaded or patched. -/
theorem State.report_idle {s : State} {val : BitVec 64} (hb : s.host.busy = false) (node code : Nat) :
    s.report (graphNo val) node code = { s with host := { s.host with gstat := gstatWord false (graphNo val) node code } } :=
  hb ▸ s.report_eq graphNo_lt node code

theorem State.onHost_clear {s : State} (h : s.host.upload = none) : (s.onHost fun h => { h with upload := none }) = s := by
  rw [← h]; rfl

theorem uploadsAndTriggers : Statements.UploadsAndTriggers := by
  intro s val off x g n used gstat busy
  have hup {t : State} (ht : s.writeGupload val = t) : exec (.guploadW val) s = .next t := congrArg _ ht
  have htrig {t : State} (ht : s.writeGtrig val = t) : exec (.gtrigW val) s = .next t := congrArg _ ht
  have hreport (t : State) (node code : Nat) := t.report_eq (graphNo_lt (val := val)) node code
  refine ⟨fun (hb : s.host.busy = false) => ⟨fun h => ?bad, fun h hu => ?used, fun h hu hh => ?halted, fun h hu hh =>
      ⟨fun a hr => ?refused, fun a hr => ?poison, fun u bs hr hs hho => ⟨fun hok => ?stored, fun code node hf => ?faulty⟩⟩⟩,
    fun hb => hup (if_pos hb), fun h => ?misplaced, fun h => ⟨fun hn => ?unknown, fun hn hl => ?full, fun hn hl => ?queued⟩,
    ?low⟩
  case bad => exact hup ((State.writeGupload_bad hb h).trans (State.report_idle hb 0 0x80))
  case used => exact hup ((State.writeGupload_aligned hb h).trans ((if_pos hu).trans (State.report_idle hb 0 0x83)))
  case misplaced => exact htrig ((s.writeGtrig_eq val).trans ((if_pos h).trans (hreport s 0 0x80)))
  case unknown => exact htrig ((s.writeGtrig_eq val).trans ((if_neg (not_not_intro h)).trans ((if_pos hn).trans (hreport s 0 0x85))))
  case full =>
    exact htrig ((s.writeGtrig_eq val).trans ((if_neg (not_not_intro h)).trans ((if_neg hn).trans ((if_pos hl).trans (hreport s 0 0x82)))))
  case queued =>
    exact ⟨_, s.triggered val, htrig ((s.writeGtrig_eq val).trans ((if_neg (not_not_intro h)).trans ((if_neg hn).trans (if_neg (Nat.not_le.mpr hl))))),
      rfl, rfl, rfl, rfl⟩
  case low =>
    intro e he ho
    simp only [List.mem_cons, List.not_mem_nil, or_false] at he
    have hx : exec (.lowHalfWrite off x) s = execLowHalfWrite off x s := rfl
    rw [hx, execLowHalfWrite, ← ho]
    rcases he with rfl | rfl | rfl | rfl <;> rfl
  all_goals
    have hnone := HostRegs.upload_of_idle hb
    have hfree := (State.writeGupload_aligned hb h).trans (if_neg (Bool.eq_false_iff.mp hu))
  case halted =>
    exact ⟨_, hup (hfree.trans (if_pos hh)), rfl, (getLsbD_setBit _ _ _ (by decide)).trans (if_pos rfl)⟩
  case refused =>
    have ht := hfree.trans (State.uploadGraph_of_refused hh h hr)
    rw [State.onHost_clear hnone, State.report_idle hb] at ht
    exact hup ht
  case poison =>
    have ht := hfree.trans (State.uploadGraph_of_poison hh h hr)
    have hrec := s.recoded_recodeAt a
    have hhost : (s.recodeAt a).host = s.host := s.recodeAt_host a
    rw [State.onHost_clear (by rw [hhost]; exact hnone), State.report_idle (by rw [hhost]; exact hb)] at ht
    refine ⟨_, hup ht, ?_, ?_⟩
    · have hsame : ({ s.recodeAt a with host := s.host } : State) = s.recodeAt a := by rw [← hhost]
      exact hsame ▸ hrec.codesOnly
    · exact congrArg (fun h : HostRegs => { h with gstat := gstatWord false (graphNo val) 0 0x84 }) hhost
  case stored =>
    have ht := hfree.trans (State.uploadGraph_of_ok hh h hr (by rw [hs]; exact hu) (by rw [hho]; exact hnone) hok)
    refine ⟨_, hup (ht.trans (State.report_idle (by show u.host.busy = false; rw [hho]; exact hb) 0 0)), ?_, rfl, rfl, rfl, fun j hj => ?_⟩
    · exact (look_put ..).trans (if_pos rfl)
    · exact ((look_put ..).trans (if_neg hj)).trans (by rw [hs])
  case faulty =>
    have ht := hfree.trans (State.uploadGraph_of_ok hh h hr (by rw [hs]; exact hu) (by rw [hho]; exact hnone) hf)
    exact ⟨_, hup (ht.trans (State.report_idle (by rw [hho]; exact hb) node code)), rfl, rfl⟩

/-- Settles O42: the checks of a graph in their order, and what GUPLOAD, GTRIG and the low halves do. -/
theorem graphsAndTriggers : Obligations.GraphsAndTriggers := ⟨graphChecks, uploadsAndTriggers⟩

end Sys2Proof.Machine

/-! PROOFS. An L2 that lists its lines out of order: O24, O7 and O23 fail there. -/

namespace Sys2Proof.Machine

/-! ### A crowded set of the L2 (R127, R131) -/

/-- A good line of nines at a virtual address, pinned or not. -/
def nines (va : Nat) (pins : List Nat) : L2Line :=
  { obj := 0, va := va, data := Vector.replicate 256 9, dirty := false, fields := 0, poison := false, rel := RelRecord.empty, pins := pins, used := 0 }

/-- A machine at an instruction whose first table entry is a 1 GiB leaf with every right at physical address 0 (Table 9.8). Its L2 lists
fifteen pinned lines of the set of a line before that line itself, although their numbers are higher: a use of the line writes it at
the list's head, where its set has a line too many and none that may leave. -/
def crowded (i : Instr) (line : Nat) : State :=
  ((State.reset.placeWord 32 ((encode i).headD 0).toNat).onPkg fun p => { p with dram := [(0, 0x3B)], blkMeta := [(0, { code := 0, fields := 0 })] }).onDie
    fun d => { d with l2 := ((List.range 15).map fun k => (line + 2 ^ 18 * (k + 1), nines 0 [1])) ++ [(line, nines (256 * line) [])] }

/-- What the L2 holds of a line of nines. -/
theorem State.inL2_of_nines {s : State} {line va a : Nat} {pins : List Nat} (ho : s.die.objects = [])
    (he : s.engine (256 * line) true false = .ok (256 * line) 0) (hl : s.l2? line = some (nines va pins)) (hz : s.setSize line ≤ 16)
    (ha : a / 256 = line) : s.InL2 a 9 := by
  have hpa : 256 * line / 65536 * 65536 + a % 65536 = a := by omega
  have hea := s.engine_page (b := a) (by omega) he
  rw [hpa] at hea
  refine ⟨a, 0, nines va pins, hea, ?_, ha ▸ hl, rfl, ha ▸ hz, ?_⟩
  · simp [State.sealedTile, State.obj?, ho, look?]
  · have hlt : a % 256 < 256 := Nat.mod_lt _ (by decide)
    simp [nines, Vector.getD, hlt]

/-! ### A ring write that finds no room (07 R105) -/

/-- Queue 5 owes its ring a record, in a machine whose ring's line stands in a crowded set. -/
def crowdedRing : State :=
  (crowded .nop 0x40).onQueue 5 fun q => { q with ringbase := 0x4000, log2cap := 1, tail := 2, unwritten := [(1, List.replicate 8 9)] }

theorem crowdedRing_ringWrite : ∃ t, exec (.tqRingWrite 5) crowdedRing = .next t ∧ (t.queue 5).unwritten ≠ [] :=
  ⟨_, rfl, by decide +kernel⟩

/-- Refutes O24: the ring write of `crowdedRing` waits although the L2 holds its line. The statement lacks the hypothesis that the L2
lists each line once, in rising order. -/
theorem not_queueAndBinWork : ¬ Obligations.QueueAndBinWork := by
  intro h
  obtain ⟨t, ht, hne⟩ := crowdedRing_ringWrite
  obtain ⟨-, -, -, -, -, hring, -⟩ := h crowdedRing 0 0 5
  obtain ⟨u, hu, hq, -⟩ := hring 1 (List.replicate 8 9) [] 0x4020 0 (by decide +kernel) (by decide +kernel) (by decide +kernel) (by decide +kernel)
    (by decide +kernel) (by decide +kernel) (by decide +kernel) (by decide +kernel) (.inr (by decide +kernel))
  rw [ht] at hu
  cases hu
  exact hne (congrArg TaskQueue.unwritten hq)

/-! ### A refill that finds no room (07 R107) -/

/-- A TQPOP of a full chip, with two records behind it in a ring whose line stands in a crowded set. -/
def crowdedPop : State :=
  (crowded (.tqpop 6 true true 7) 0x40).onQueue 0 fun q =>
    { q with chip := List.replicate 32 [], log2cap := 5, ringbase := 0x4000, tail := 2 }

theorem State.ringWrite_of_written {s : State} {q : Nat} (h : (s.queue q).unwritten = []) : s.ringWrite q = s := by
  unfold State.ringWrite
  dsimp only
  rw [h]
  split
  · next hno => cases hno
  · rfl

/-- A queue that owes its ring nothing, and whose next record waits for room in the L2, stays as it is. -/
theorem State.tidyQueue_of_wait {s : State} {q : Nat} (hw : (s.queue q).unwritten = [])
    (hr : s.engRead ((s.queue q).slotVa (s.queue q).head) 32 = .wait) (n : Nat) : s.tidyQueue q n = s := by
  have hrefill : s.refill q = s := by simp only [State.refill, hr, State.ringFault, ite_self]
  induction n with
  | zero => rfl
  | succ n ih => simp only [State.tidyQueue, State.ringWrite_of_written hw, hrefill, ih, ite_self]

theorem State.wakePops_of_nobody {s : State} {q : Nat} (h : (s.queue q).blocked = []) (n : Nat) : s.wakePops q n = s := by
  induction n with
  | zero => rfl
  | succ n ih => simp only [State.wakePops, State.wakePop, h, ih]

theorem crowdedPop_pops : ∃ t, exec (.tqpop 6 true true 7) crowdedPop = .next t ∧ (t.queue 0).head = 0 := by
  have hq : crowdedPop.w.queueNo 7 = 0 := by decide +kernel
  have hh : crowdedPop.w.flow.hold ≠ .pop 0 := by decide +kernel
  have hbefore : crowdedPop.tidyQueue 0 64 = crowdedPop := State.tidyQueue_of_wait (by decide +kernel) (by decide +kernel) 64
  have hwake : crowdedPop.wakePops 0 64 = crowdedPop := State.wakePops_of_nobody (by decide +kernel) 64
  have hafter : (crowdedPop.servePop 0 6).tidyQueue 0 64 = crowdedPop.servePop 0 6 :=
    State.tidyQueue_of_wait (by decide +kernel) (by decide +kernel) 64
  have hact : tqpopAct 6 true 7 crowdedPop = .done (crowdedPop.servePop 0 6) := by
    simp only [tqpopAct, hq, if_neg hh, hbefore, hwake, or_true, true_or, if_true]
    exact congrArg Act.done hafter
  have hrun : crowdedPop.mayRun (useOf 2 [ssrc 7 1 true] [sdst 6 1, vdst 0 8]) = true := by decide +kernel
  have hx : exec (.tqpop 6 true true 7) crowdedPop = .next ((crowdedPop.servePop 0 6).onW Wave.advance) :=
    (issue_idleAlu hrun rfl).trans (by rw [notInRegion_notKindling (by decide +kernel), hact]; rfl)
  exact ⟨_, hx, by decide +kernel⟩

theorem crowdedPop_inL2 (i : Nat) (hi : i < 2) : (crowdedPop.queue 0).slotVa ((crowdedPop.queue 0).head + i) % 32 = 0 ∧
    ∀ j < 32, crowdedPop.InL2 ((crowdedPop.queue 0).slotVa ((crowdedPop.queue 0).head + i) + j) 9 := by
  have hv : ∀ i < 2, (crowdedPop.queue 0).slotVa ((crowdedPop.queue 0).head + i) = 0x4000 + 32 * i := by decide +kernel
  rw [hv i hi]
  exact ⟨by omega, fun j hj => State.inL2_of_nines (line := 0x40) (by decide +kernel) (by decide +kernel) rfl (by decide +kernel) (by omega)⟩

/-- Refutes O7: the records of `crowdedPop`'s ring do not refill the chip although the L2 holds their line. The statement lacks the
hypothesis that the L2 lists each line once, in rising order. -/
theorem not_taskQueues : ¬ Obligations.TaskQueues := by
  intro h
  obtain ⟨t, ht, hhead⟩ := crowdedPop_pops
  obtain ⟨-, -, hring⟩ := h.2 crowdedPop 6 true true 7 (by decide +kernel) (by decide +kernel)
  obtain ⟨-, hfull, -⟩ := hring (by decide +kernel) (by unfold ringIdle; decide +kernel) (by decide +kernel)
  obtain ⟨u, hu, -, -, -, hq⟩ := hfull (fun _ _ => 9) (by decide +kernel) (by decide +kernel) (by decide +kernel) (by decide +kernel) (by decide +kernel)
    fun i hi => crowdedPop_inL2 i hi
  rw [ht] at hu
  cases hu
  exact absurd ((congrArg TaskQueue.head hq).symm.trans hhead) (by decide +kernel)

/-! ### A patch list that finds no room (07 R92) -/

/-- A launch of a bad patch entry, whose list's line stands in a crowded set. -/
def crowdedPatch : State :=
  (crowded .nop 0x14).onSched fun d => { d with waiting :=
    [{ num := 3, graph := 0, gtrig := BitVec.ofNat 64 (0x1400 + 2 ^ 49), cards := [], readyNo := 0, token := none }] }

theorem crowdedPatch_starts : ∃ t, exec .launchStart crowdedPatch = .next t ∧ t.host.patching = true := ⟨_, rfl, by decide +kernel⟩

/-- Refutes O23: the launch of `crowdedPatch` keeps waiting for its patch list although the L2 holds its line. The statement lacks the
hypothesis that the L2 lists each line once, in rising order. -/
theorem not_launches : ¬ Obligations.Launches := by
  intro h
  obtain ⟨t, ht, hp⟩ := crowdedPatch_starts
  have hn : ((BitVec.ofNat 64 (0x1400 + 2 ^ 49)).extractLsb' 49 10).toNat = 1 := by decide +kernel
  have hlist : 16 * ((BitVec.ofNat 64 (0x1400 + 2 ^ 49)).extractLsb' 4 45).toNat = 0x1400 := by decide +kernel
  obtain ⟨hstart, -⟩ := h crowdedPatch (by decide +kernel)
  obtain ⟨-, -, hpatch, -⟩ := hstart _ [] (by decide +kernel) rfl
  obtain ⟨hbad, -⟩ := hpatch (by decide +kernel) (by decide +kernel) (fun _ => 9) fun i hi => by
    rw [hlist]
    rw [hn] at hi
    exact State.inL2_of_nines (line := 0x14) (by decide +kernel) (by decide +kernel) rfl (by decide +kernel) (by omega)
  obtain ⟨u, hu, -, -, hno, -⟩ := hbad ⟨0, by decide +kernel, by decide +kernel⟩
  rw [ht] at hu
  cases hu
  exact absurd (hno.symm.trans hp) (by decide)

end Sys2Proof.Machine

/-! PROOFS. What keeps an access out (09 R120, R153; 13 R209; 25 R332): alignment, pages to walk, the end of tile memory, and O9. -/

namespace Sys2Proof.Machine

/-! ### The first two checks of R153 -/

/-- Lanes whose address is no multiple of the size raise ALIGN, before any other check. -/
theorem State.check_of_odd {s : State} {w : Wave} {k : Rights} {size : Nat} {ls : List (Nat × Nat)}
    (h : ls.filter (fun e => e.2 % size != 0) ≠ []) :
    s.check w k size ls = .fault cALIGN (ls.filter fun e => e.2 % size != 0) ((ls.filter fun e => e.2 % size != 0).headD (0, 0)).2 := by
  obtain ⟨e, es, he⟩ := List.exists_cons_of_ne_nil h
  simp only [State.check, he, List.headD_cons]

/-- Aligned lanes of pages that no TLB holds wait for the walks of these pages. -/
theorem State.check_of_unwalked {s : State} {w : Wave} {k : Rights} {size : Nat} {ls : List (Nat × Nat)}
    (ha : ls.filter (fun e => e.2 % size != 0) = []) (h : s.unwalked w (ls.map (·.2)) ≠ []) :
    s.check w k size ls = .walk (s.unwalked w (ls.map (·.2))) := by
  obtain ⟨p, ps, hp⟩ := List.exists_cons_of_ne_nil h
  simp only [State.check, ha, hp]

/-- A page is still to be walked when no fault of the instruction, no TLB and no ended walk answers for it. -/
theorem State.pageOf_isNone (s : State) (w : Wave) (p : Nat) :
    (s.pageOf w p).isNone = (!s.owes w (.page p) && (s.tlbHit w.id.core p).isNone && !w.mem.walked.contains p) := by
  unfold State.pageOf
  cases s.owes w (.page p) <;> cases s.tlbHit w.id.core p <;> cases w.mem.walked.contains p <;> rfl

theorem State.unwalked_eq (s : State) (w : Wave) (ls : List (Nat × Nat)) :
    s.unwalked w (ls.map (·.2)) = (((ls.filter fun x => decide (x.2 < 2 ^ 48)).map fun x => x.2 / 65536).eraseDups.filter fun p =>
      !s.owes w (.page p) && (s.tlbHit w.id.core p).isNone && !w.mem.walked.contains p) := by
  unfold State.unwalked
  rw [List.filter_map, List.map_map]
  simp only [State.pageOf_isNone]
  rfl

/-- What ALIGN comes to: a trap of the lanes that fail, or of the whole wave. -/
theorem Checked.act_align (w : Wave) (whole : Bool) (go : List LaneAcc → Act) (ls : List (Nat × Nat)) (fva : Nat) :
    (Checked.fault cALIGN ls fva).act w whole go = .trap cALIGN fva (if whole then w.flow.mask else maskOf (ls.map (·.1))) := rfl

/-- An instruction outside the vector ALU, by what it comes to. -/
theorem issue_of_act {u : Use} {f : State → Act} {s : State} {a : Act} (h : s.mayRun u = true) (ho : u.occ = 0) (ha : f s = a) :
    issue u f s = .next (a.settle s) := ha ▸ issue_idleAlu h ho

/-! ### Tile memory -/

/-- Aligned tile accesses beyond the tile memory trap PROTECTION. -/
theorem State.tileCheck_of_beyond {s : State} {whole : Bool} {size : Nat} {ls : List (Nat × Nat)} {go : Act}
    (ha : ∀ e ∈ ls, e.2 % size = 0) (h : ls.filter (fun e => decide (s.tmem s.w < e.2 + size)) ≠ []) :
    s.tileCheck whole size ls go = tileTrap cPROTECTION whole s.w (ls.filter fun e => decide (s.tmem s.w < e.2 + size)) := by
  have hodd : ls.filter (fun e => e.2 % size != 0) = [] := List.filter_eq_nil_iff.mpr fun e he => by simp [ha e he]
  obtain ⟨e, es, he⟩ := List.exists_cons_of_ne_nil h
  simp only [State.tileCheck, hodd, he]

/-- Settles O9: each access fails the first check that it can fail, and the wave takes what that check says. -/
theorem accessTraps : Obligations.AccessTraps := by
  intro s m d v wv e wb b off scope ord size sx f odd pages
  have hsize : sizeOf' size = bytesOf size := rfl
  refine ⟨fun hm => ⟨fun hodd => ?_, fun hodd hpages => ?_⟩, fun hm hodd => ?_, fun hm => ?_, fun hm ha => ?_⟩
  · have hact : ldAct m d scope ord size sx s = .trap cALIGN (odd.headD (0, 0)).2 (maskOf (odd.map (·.1))) := by
      rw [ldAct, eas_eq, hsize, State.check_of_odd hodd, Checked.act_align]
      rfl
    exact issue_of_act hm rfl hact
  · have hwalk : s.unwalked s.w ((s.w.addrs m).map (·.2)) = pages := s.unwalked_eq s.w _
    have hact : ldAct m d scope ord size sx s = .walk pages := by
      rw [ldAct, eas_eq, hsize, State.check_of_unwalked hodd (hwalk ▸ hpages), hwalk]
      rfl
    exact ⟨_, issue_of_act hm rfl hact, rfl, rfl, rfl, rfl⟩
  · have hact : stAct m v scope ord size s = .trap cALIGN (odd.headD (0, 0)).2 (maskOf (odd.map (·.1))) := by
      rw [stAct]
      simp only [eas_eq, hsize, State.check_of_odd hodd, Checked.act_align]
      rfl
    exact issue_of_act hm rfl hact
  · intro va hva
    have hea : (s.w.rdS2 b.toNat + off.signExtend 64).toNat = va := by
      rw [show off.signExtend 64 = BitVec.ofInt 64 off.toInt from rfl, BitVec.toNat_add, BitVec.toNat_ofInt]
      show _ = ((((s.w.rdS2 b.toNat).toNat : Int) + off.toInt) % 2 ^ 64).toNat
      generalize off.toInt = k
      omega
    have hodd : [(0, va)].filter (fun e => e.2 % bytesOf size != 0) = [(0, va)] :=
      List.filter_eq_self.mpr fun e he => by rw [List.mem_singleton.mp he]; simpa using hva
    have hact : sldAct e b off scope ord size s = .trap cALIGN va s.w.flow.mask := by
      rw [sldAct]
      simp only [hea, hsize, State.check_of_odd (hodd ▸ List.cons_ne_nil _ _), hodd, Checked.act_align]
      rfl
    exact issue_of_act hm rfl hact
  · intro out hout
    have hact : ldtAct f s = tileTrap cPROTECTION f.q s.w out := State.tileCheck_of_beyond ha hout
    exact issue_of_act hm rfl hact

end Sys2Proof.Machine

/-! PROOFS. Tags of tile lines (09 R121; 13 R219), and O10. -/

namespace Sys2Proof.Machine

/-! ### Tags -/

@[simp] theorem Block.tag_setTag (b : Block) (line t k : Nat) : (b.setTag line t).tag k = if k = line then t else b.tag k := look_putD ..

/-- The active lanes rise strictly. -/
theorem Wave.lanes_pairwise (w : Wave) : w.lanes.Pairwise (· < ·) := List.pairwise_lt_range.filter _

/-- What TMTAG leaves in the block: the tags alone, each line that a lane names with the tag that is set. -/
theorem tmtagGo_block (set : Bool) (tag : Nat) (ls : List (Nat × Nat)) (b : Block) :
    (tmtagGo set tag ls b).1 = { b with tags := (tmtagGo set tag ls b).1.tags } ∧
      ∀ line, (tmtagGo set tag ls b).1.tag line = if set = true ∧ ∃ e ∈ ls, e.2 = line then tag else b.tag line := by
  induction ls generalizing b with
  | nil => exact ⟨rfl, fun line => by simp [tmtagGo]⟩
  | cons e t ih =>
    obtain ⟨l, x⟩ := e
    obtain ⟨hb, htag⟩ := ih (if set then b.setTag x tag else b)
    refine ⟨?_, fun line => ?_⟩
    · rw [tmtagGo]
      exact hb.trans (by cases set <;> rfl)
    · rw [tmtagGo]
      refine (htag line).trans ?_
      cases set with
      | false => simp
      | true =>
        by_cases hx : line = x
        · simp [hx]
        · rw [if_pos rfl, b.tag_setTag, if_neg hx]
          exact if_congr (by simp [Ne.symm hx]) rfl rfl

/-- What TMTAG reads in a lane: the tag that an earlier lane has set, else the tag that the line had. -/
theorem tmtagGo_read {set : Bool} {tag : Nat} {ls : List (Nat × Nat)} (hls : ls.Pairwise fun x y => x.1 < y.1) (b : Block) :
    ∀ e ∈ ls, look 0 (tmtagGo set tag ls b).2 e.1 = if set = true ∧ ∃ y ∈ ls, y.1 < e.1 ∧ y.2 = e.2 then tag else b.tag e.2 := by
  induction ls generalizing b with
  | nil => simp
  | cons x t ih =>
    obtain ⟨hx, ht⟩ := List.pairwise_cons.mp hls
    intro e he
    rw [tmtagGo, look, look?]
    rcases List.mem_cons.mp he with rfl | he
    · have hnone : ¬∃ y ∈ e :: t, y.1 < e.1 ∧ y.2 = e.2 := by
        rintro ⟨y, hy, hlt, -⟩
        rcases List.mem_cons.mp hy with rfl | hy
        · exact lt_irrefl _ hlt
        · exact lt_asymm hlt (hx y hy)
      rw [if_pos rfl, if_neg fun h => hnone h.2]
      rfl
    · rw [if_neg (hx e he).ne]
      refine (ih ht (if set then b.setTag x.2 tag else b) e he).trans ?_
      cases set with
      | false => simp
      | true =>
        by_cases hl : e.2 = x.2
        · simp [hl, hx e he]
        · rw [if_pos rfl, b.tag_setTag, if_neg hl]
          exact if_congr (by simp [Ne.symm hl]) rfl rfl

/-- Settles O10: TMTAG goes over the lanes in their order and changes tags alone. -/
theorem tileTags : Obligations.TileTags := by
  intro s q d wa a set tag k b hm hr hk hb off hin
  set ls : List (Nat × Nat) := s.w.lanes.map fun l => (l, off l / 128) with hls
  set r := tmtagGo set tag.toNat ls b with hgo
  set f : Nat → Word := fun l => BitVec.ofNat 32 (look 0 r.2 l) with hf
  have hmem (x : Nat) (p : Nat → Prop) : (∃ e ∈ ls, p e.1 ∧ e.2 = x) ↔ ∃ l ∈ s.w.lanes, p l ∧ off l / 128 = x := by simp [hls]
  have hsorted : ls.Pairwise fun x y => x.1 < y.1 := by
    rw [hls, List.pairwise_map]
    exact s.w.lanes_pairwise
  obtain ⟨hblock, htags⟩ := tmtagGo_block set tag.toNat ls b
  have htmem : s.tmem s.w = b.tmem := by simp [State.tmem, State.blkOf, hk, hb]
  have hout : (s.w.lanes.map fun l => (l, off l)).filter (fun e => decide (s.tmem s.w ≤ e.2)) = [] := by
    rw [List.filter_eq_nil_iff, htmem]
    simpa using hin
  have hact : notInRegion (tmtagAct q d a set tag) s = .done ((s.onBlk k fun _ => r.1).onW fun w => w.wrV d.toNat f) := by
    rw [notInRegion, hr, tmtagAct]
    dsimp only
    rw [hout]
    simp only [hk, State.blkOf, Option.bind_some, hb, List.map_map]
    rfl
  have hon : s.onBlk k (fun _ => r.1) = { s with sched := { s.sched with blocks := put s.sched.blocks k r.1 } } :=
    State.onBlk_of_blk? hb _
  have hexec := issue_of_act hm rfl hact
  rw [hon] at hexec
  have hd : d.toNat < 128 := d.isLt
  refine ⟨_, r.1, hexec, ⟨?_, ?_, ?_, ?_⟩, ?_, ?_, fun j hj => ?_, hblock, rfl, rfl, rfl, rfl, fun l hl => ?_, fun line => ?_⟩
  · simp [Act.settle]
  · exact Wave.advance_flow_congr rfl
  · simp [Act.settle]
  · simp [Act.settle, Wave.advance_csr]
  · exact (s.w.sameRegs_wrCsr false d f).of_regs (by simp [Act.settle, Wave.wrCsr])
  · simp [Act.settle, State.blk?]
  · simp [Act.settle, State.blk?, hj]
  · have hread := tmtagGo_read (set := set) (tag := tag.toNat) hsorted b (l, off l / 128) (by simp [hls, hl])
    have hlane : ((s.w.wrV d.toNat f).advance).lane d.toNat l = f l := by
      have h := (s.w.lane_wrV d.toNat f d.toNat l)
      rw [if_pos ⟨rfl, hd, (s.w.mem_lanes l).mp hl⟩] at h
      simpa only [Wave.lane, Wave.rdV, Wave.advance_regs] using h
    refine (hlane.trans (congrArg (BitVec.ofNat 32) hread)).trans ?_
    simp only [hmem (off l / 128) fun j => j < l]
  · rw [htags]
    simp only [hls, List.mem_map, exists_exists_and_eq_and]

end Sys2Proof.Machine

/-! PROOFS. The walks of tables (09 R152, R153), and O15. -/

namespace Sys2Proof.Machine

/-- What entering a translation leaves of a set of translations. -/
theorem mem_filter_append_drop {α : Type} (l : List α) (e : α) (n : Nat) (hn : n ≠ 0) : e ∈ (l ++ [e]).drop ((l ++ [e]).length - n) := by
  rw [List.drop_append_of_le_length (by rw [List.length_append, List.length_singleton]; omega)]
  exact List.mem_append_right _ (List.mem_singleton_self e)

/-- The translation that is entered into the TLBs stands in the core's own. -/
theorem State.mem_tlbFill (s : State) (c : Nat) (e : TlbEnt) : e ∈ ((s.tlbFill c e).core c).tlb := by
  have hdie (t : State) (f : Die → Die) : (t.onDie f).core c = t.core c := rfl
  simp only [State.tlbFill, hdie, State.core_onCore]
  exact mem_filter_append_drop _ e 128 (by decide)

/-- What a served page leaves of the wave that is parked on it. -/
theorem State.onWave_walkedOne {s : State} {wid : Nat} {w : Wave} (h : s.wave? wid = some w) (leaf : Bool) (p : Nat) (rest : List Nat) :
    (s.onWave wid fun v => v.walkedOne leaf p rest).wave? wid = some (w.walkedOne leaf p rest) ∧
      ∃ a o, (s.onWave wid fun v => v.walkedOne leaf p rest) = { s with w := a, others := o } := by
  have hon : s.onAny wid (fun v => v.walkedOne leaf p rest) = s.onWave wid fun v => v.walkedOne leaf p rest := by
    rw [State.onAny, h]
    rfl
  obtain ⟨hwave, hrest⟩ := State.onAny_of_wave? (f := fun v => v.walkedOne leaf p rest) h rfl fun _ => by
    cases rest <;> exact nofun
  rw [hon] at hwave hrest
  exact ⟨hwave, _, _, hrest⟩

/-- A walk changes no part of the state but the package, and there neither the home nor the keys. -/
theorem State.walked_fields (s : State) (va : Nat) :
    (s.walked va).pkg.home = s.pkg.home ∧ (s.walked va).pkg.keys = s.pkg.keys ∧ (s.walked va).sched = s.sched ∧
      (s.walked va).host = s.host ∧ (s.walked va).cores = s.cores ∧ ∀ wid, (s.walked va).wave? wid = s.wave? wid := by
  obtain ⟨hs, hp, -⟩ := s.recoded_walked va
  refine ⟨by rw [hp], by rw [hp], by rw [hs], by rw [hs], by rw [hs], fun wid => by rw [hs]; rfl⟩

/-- Settles O15: a walk recodes entries that hold poison; its leaf enters the TLB, its absence the wave's own notes. -/
theorem pageWalks : Obligations.PageWalks := by
  intro s wid w p rest hw hhold hwalk
  have hserved : (!s.walking.contains p) = false := by rw [hwalk]; rfl
  refine ⟨fun hroot => ?_, fun hroot => ?_⟩
  · obtain ⟨hhome, hkeys, hsched, hhost, hcores, hwaves⟩ := s.walked_fields (p * 65536)
    have hkept : (s.walked (p * 65536)).wave? wid = some w := (hwaves wid).trans hw
    have hif : (if rest.isEmpty then Hold.run else .walk rest) = if rest = [] then .run else .walk rest := by simp
    cases hx : s.walk (p * 65536) with
    | leaf x =>
      obtain ⟨hwave, a, o, ht⟩ := State.onWave_walkedOne (s := (s.walked (p * 65536)).tlbFill w.id.core x) hkept true p rest
      refine ⟨_, _, ?_, hwave, ?_⟩
      · show execPageWalkComplete wid s = _
        simp only [execPageWalkComplete, hw, hhold, hserved, hroot, hx]
        rfl
      · rw [ht]
        refine ⟨?_, rfl, rfl, hhome, hkeys, hsched, hhost, rfl, ?_⟩
        · exact congrArg (fun h => { w.flow with hold := h }) hif
        · exact State.mem_tlbFill _ _ _
    | _ =>
      obtain ⟨hwave, a, o, ht⟩ := State.onWave_walkedOne hkept false p rest
      refine ⟨_, _, ?_, hwave, ?_⟩
      · show execPageWalkComplete wid s = _
        simp only [execPageWalkComplete, hw, hhold, hserved, hroot, hx]
        rfl
      · rw [ht]
        exact ⟨congrArg (fun h => { w.flow with hold := h }) hif, rfl, rfl, hhome, hkeys, hsched, hhost, rfl, hcores⟩
  · show execPageWalkComplete wid s = _
    simp only [execPageWalkComplete, hw, hhold, hserved, hroot]
    rfl

end Sys2Proof.Machine

/-! PROOFS. A FENCE behind a decode (13 R215; 17 R261), and O45. -/

namespace Sys2Proof.Machine

/-- A wave at an acquire FENCE of scope `.core`, whose earlier TLDEC still waits in the decoder of its core. -/
def fenceBehindDecode : State :=
  (placedW (.fence 2 0) fun w => { w with mem := { w.mem with seq := 1 } }).onCore 0 fun c =>
    { c with decq := [{ wid := 1, blk := some 1, enc := false, d := 0, src := 0, dst := 0, arg := 0, lanes := [], seq := 0, since := 0 }] }

theorem fenceBehindDecode_waits : ∃ t, exec (.fence 2 0) fenceBehindDecode = .next t ∧ t.w.flow.stalled = true := ⟨_, rfl, by decide +kernel⟩

/-- Refutes O45: an acquire waits for the wave's earlier TLDEC, TLENC and TLDEC.SSC (17 R261) besides its loads. The statement lets
`fenceBehindDecode` go on, since it owes no load; it lacks the hypothesis that neither queue of those units holds an earlier operation of
the wave. -/
theorem not_fencesAndCacheControl : ¬ Obligations.FencesAndCacheControl := by
  rintro ⟨h, -⟩
  obtain ⟨t, ht, hstalled⟩ := fenceBehindDecode_waits
  obtain ⟨hfirst, -⟩ := h fenceBehindDecode 2 0 (by decide +kernel) (by decide +kernel) (by decide +kernel)
  obtain ⟨-, hnear, -⟩ := hfirst (by rw [show fenceBehindDecode.w.flow.hold = .run by decide +kernel]; exact fun _ => nofun)
  obtain ⟨u, hu, -, ⟨-, -, -, hflow, -⟩, -⟩ := hnear (by decide +kernel) (by decide +kernel) (.inl rfl)
  rw [ht] at hu
  cases hu
  exact absurd hstalled (by rw [hflow]; decide +kernel)

end Sys2Proof.Machine

/-! PROOFS. An eviction under the wave's own guard (21 R294, R301, R305), and O47. -/

namespace Sys2Proof.Machine

/-- A wave at an OEVICT of object 1, whose only tile it guards itself; the L2 holds a line of the tile. -/
def evictOwnTile : State :=
  ((placedW (.oevict 6 false true 7) fun w =>
      { w.sets [(7, 1)] with mem := { w.mem with guards := [{ obj := 1, tile := 0 }] } }).withObj
    { obj1 true .present with tiles := [(0, { st := .present, guards := [.wave 1] })] }).l2Fill 0x20 0x2000 0

theorem evictOwnTile_evicts : ∃ t, exec (.oevict 6 false true 7) evictOwnTile = .next t ∧
    ∃ x ∈ t.die.l2, t.objOf x.2.va = 1 ∧ t.keptLine x.2.va = false := ⟨_, rfl, by decide +kernel⟩

/-- Refutes O47: OEVICT keeps the line of the tile that the acting wave guards, and with the instruction that guard ends, so the line
that stays in the L2 is one of a tile that may be dropped. The statement lacks the hypothesis that the acting wave guards no tile of the
object. -/
theorem not_objectInstructions : ¬ Obligations.ObjectInstructions := by
  rintro ⟨-, h⟩
  obtain ⟨t, ht, x, hx, hobj, hdrop⟩ := evictOwnTile_evicts
  have hcores (k : Nat) : ((evictOwnTile.core k).l1.isEmpty) = true :=
    core_all (p := fun c => c.l1.isEmpty) (by decide +kernel) (by decide +kernel) k
  obtain ⟨-, hbound⟩ := h evictOwnTile 6 true 7 5 false 0 (by decide +kernel) (by decide +kernel)
  obtain ⟨-, -, -, -, hevict, -⟩ := hbound _ rfl
  obtain ⟨u, hu, -, -, hl2⟩ := hevict (by decide +kernel) (by decide +kernel) (fun k => by rw [List.isEmpty_iff.mp (hcores k)]; rfl)
    (by decide +kernel) fun k y hy => by
      rw [List.isEmpty_iff.mp (hcores k)] at hy
      exact nomatch hy
  rw [ht] at hu
  cases hu
  exact absurd (hl2 x hx hobj) (by rw [hdrop]; decide)

end Sys2Proof.Machine

/-! PROOFS. A write to a crowded set of the L2 (09 R127), and O14. -/

namespace Sys2Proof.Machine

/-- A machine whose core 0 translates page 0, where the line of 0x4000 stands in a crowded set. -/
def crowdedSlice : State := paged (crowded .nop 0x40)

theorem crowdedSlice_keepsLine : ∃ t, exec (.l2SliceAccess 0 0x4000 .write 0) crowdedSlice = .next t ∧
    t.l2? 0x40 = some (nines 0x4000 []) := ⟨_, rfl, by decide +kernel⟩

/-- Refutes O14: the write to `crowdedSlice` waits although the L2 holds its line. The statement lacks the hypothesis that the L2 lists
each line once, in rising order. -/
theorem not_sliceAccesses : ¬ Obligations.SliceAccesses := by
  intro h
  obtain ⟨t, ht, hline⟩ := crowdedSlice_keepsLine
  obtain ⟨-, -, hwrite⟩ := h crowdedSlice 0 0x4000 0 _ (noSealed_of (by decide +kernel)) rfl
  obtain ⟨u, l, hu, -, -, hl, hdirty, -⟩ := hwrite .write (by decide) (by decide +kernel) (.inr (by decide +kernel)) (by decide +kernel) (by decide)
  rw [ht] at hu
  cases hu
  rw [show t.l2? ((0x4000 : BitVec 46).toNat / 8 * 8 / 256) = _ from hline] at hl
  cases hl
  exact absurd hdirty (by decide)

end Sys2Proof.Machine

/-! PROOFS. A copy whose source stands in a crowded set of the L2 (09 R127), and O16. -/

namespace Sys2Proof.Machine

/-- A started copy of 4 bytes at 0x3000 to tile line 4, whose source line stands in a crowded set. -/
def crowdedCopy : State :=
  (copying [0x3000, 0, 0, 0, 512, 0x00040001, 0, 0] 0 0 0 fun c => started { c with lines := [4] }).onDie fun d =>
    { d with l2 := (crowded .nop 0x30).die.l2 }

/-- Does an outcome leave a next state of this kind? -/
def outLeaves (o : Out) (p : State → Bool) : Bool := match o with
  | .next t => p t
  | _ => false

theorem exists_of_outLeaves {o : Out} {p : State → Bool} (h : outLeaves o p = true) : ∃ t, o = .next t ∧ p t = true := by
  cases o with
  | next t => exact ⟨t, rfl, h⟩
  | _ => cases h

theorem crowdedCopy_waits : outLeaves (exec (.copyLineArrival 0 1 4) crowdedCopy) (fun t => (t.copy? 0 1).map (·.lines) == some [4]) = true := by
  decide +kernel

/-- The copy of `crowdedCopy`: one row of 4 bytes. -/
theorem crowdedCopy_copy : ∃ c, crowdedCopy.copy? 0 1 = some c ∧ c.lines = [4] ∧ c.waits = [] ∧ c.blk = some 1 ∧
    c.started = true ∧ c.bad = false ∧ c.token = none ∧ c.toTile = true ∧ c.tlf = 0 ∧ c.ord = 0 ∧ c.limitBad = false ∧ c.op = 0 ∧
    c.rows = 1 ∧ c.rowLen = 4 ∧ c.pair 0 = 0x3000 := ⟨_, rfl, by decide +kernel⟩

/-- Refutes O16: line 4 of the copy of `crowdedCopy` does not arrive although the L2 holds the line that it reads. The statement lacks
the hypothesis that the L2 lists each line once, in rising order. -/
theorem not_copiesRun : ¬ Obligations.CopiesRun := by
  intro h
  obtain ⟨t, ht, hwait⟩ := exists_of_outLeaves crowdedCopy_waits
  obtain ⟨c, hc, hlines, hwaits, hblk, hstarted, hbad, htoken, htile, htlf, hord, hlimit, hop, hrows, hlen, hva⟩ := crowdedCopy_copy
  obtain ⟨-, harrives, -⟩ := h crowdedCopy 0 1 c hc (by decide +kernel) (by decide +kernel)
  have hsource (r : Nat) (hr : r < c.rows) (i : Nat) (hi : i < c.rowLen) :
      crowdedCopy.InL2 (c.pair 0 + r * (if c.p 2 = 0 then c.rowLen else c.p 2) + i) 9 := by
    obtain rfl : r = 0 := by omega
    rw [hva, Nat.zero_mul]
    exact State.inL2_of_nines (line := 0x30) (by decide +kernel) (by decide +kernel) rfl (by decide +kernel) (by omega)
  obtain ⟨u, b', hu, -, -, -, -, -, -, -, hleft, -⟩ := harrives 4 1 _ (fun _ => 9) ⟨hstarted, hbad, htoken, by simp [hwaits]⟩ htile
    (by simp [htlf]) (by simp [hord]) hlimit (by simp [hlines]) hblk rfl (fun _ => hsource) fun h1 => by simp [hop] at h1
  rw [ht] at hu
  cases hu
  have hstays : (t.copy? 0 1).map (·.lines) = some [4] := beq_iff_eq.mp hwait
  rw [hlines] at hleft
  exact absurd (hstays.symm.trans hleft) (by decide)

end Sys2Proof.Machine

/-! PROOFS. A strong store to a crowded set of the L2 (09 R127, R136), and O48. -/

namespace Sys2Proof.Machine

/-- A strong store of 8 bytes at 64 in a write buffer of core 0, where the L2's line 0 stands in a crowded set. -/
def crowdedBuffer : State := (buffered (wbEnt0 none)).onDie fun d => { d with l2 := (crowded .nop 0).die.l2 }

theorem crowdedBuffer_waits : outLeaves (exec (.writeBufferPerform 0 7) crowdedBuffer)
    (fun t => look [] (t.core 0).wbuf 7 == [wbEnt0 none]) = true := by decide +kernel

/-- Refutes O48: the store of `crowdedBuffer` waits although the L2 holds its line. The statement lacks the hypothesis that the L2 lists
each line once, in rising order. -/
theorem not_bufferedWrites : ¬ Obligations.BufferedWrites := by
  rintro ⟨-, h⟩
  obtain ⟨t, ht, hwait⟩ := exists_of_outLeaves crowdedBuffer_waits
  have hstays : look [] (t.core 0).wbuf 7 = [wbEnt0 none] := beq_iff_eq.mp hwait
  obtain ⟨hstore, -⟩ := h crowdedBuffer 0 7 (wbEnt0 none) [] (by decide +kernel) (by decide +kernel) (by unfold State.noneExited; decide +kernel)
    (noSealed_of (by decide +kernel)) (by decide +kernel) (by decide +kernel) (by decide +kernel) rfl (by decide) (by decide)
  obtain ⟨u, hu, hgone, -⟩ := hstore rfl (fun _ => ⟨by decide +kernel, .inr (by decide +kernel)⟩) fun hnear => absurd hnear (by decide +kernel)
  rw [ht] at hu
  cases hu
  exact absurd (hstays.symm.trans hgone) (by decide)

end Sys2Proof.Machine

/-! PROOFS. A kick whose range meets an L1 that lists a line twice (09 R148; 23 R325), and O25. -/

namespace Sys2Proof.Machine

/-- The L1's bytes of line 5 at a virtual address, none valid. -/
def lineFive (va : Nat) (dirty : BitVec 128) : L1Line := { L1Line.empty 0 va 0 with dirty := dirty }

/-- A machine that kicks its first 2 MiB to the host. Core 0's L1 lists line 5 twice: clean at an address of the range, and before that
dirty at an address beyond it, where a region's reads keep it from being written back. -/
def kickedTwice : State :=
  let s := (((placed .nop).withHo (ho0 1)).withCmds [.tohost 2]).onCore 0 fun c =>
    { c with l1 := [(5, lineFive (2 ^ 21 + 640) 1), (5, lineFive 640 0)] }
  s.onDie fun d => { d with regions := [(0, { region0 s with reads := [10] })] }

theorem kickedTwice_waits : outLeaves (exec .kickTohostComplete kickedTwice) (fun t => t.host.cmdq == [.tohost 2]) = true := by decide +kernel

/-- Refutes O25: the kick of `kickedTwice` does not end, since it takes the line of the range for the dirty one that the L1 lists before
it. The statement lacks the hypothesis that each L1 lists a line once, in rising order. -/
theorem not_hostCommands : ¬ Obligations.HostCommands := by
  intro h
  obtain ⟨t, ht, hwait⟩ := exists_of_outLeaves kickedTwice_waits
  have hstays : t.host.cmdq = [.tohost 2] := beq_iff_eq.mp hwait
  have hclean (k : Nat) : ((kickedTwice.core k).l1.all fun x => !inRange 0 x.2.va || x.2.dirty == 0) = true :=
    core_all (p := fun c => c.l1.all fun x => !inRange 0 x.2.va || x.2.dirty == 0) (by decide +kernel) (by decide +kernel) k
  obtain ⟨-, -, hends, -⟩ := h kickedTwice 2 0
  obtain ⟨-, hend⟩ := hends (ho0 1) (by decide +kernel) (by decide +kernel) (by decide +kernel) (by decide +kernel) (by decide +kernel) (by decide +kernel)
  obtain ⟨u, hu, ⟨hq, -⟩, -⟩ := hend (fun k x hx hin => by
      have hx := List.all_eq_true.mp (hclean k) x hx
      have hin : inRange 0 x.2.va = true := hin
      simpa [hin] using hx)
    (by decide +kernel) (by unfold Pkg.asBooted; decide +kernel) (by decide +kernel)
  rw [ht] at hu
  cases hu
  exact absurd (hstays.symm.trans hq) (by decide)

end Sys2Proof.Machine

/-! PROOFS. Accesses that pass their checks (09 R153; 13 R206 to R214), and O44. -/

namespace Sys2Proof.Machine

/-! ### The checks of R153 -/

/-- A page that a TLB translates, and that the instruction does not wait on, is a leaf to the wave. -/
theorem State.pageOf_of_hit {s : State} {w : Wave} {p : Nat} {x : TlbEnt} (howes : s.owes w (.page p) = false)
    (hx : s.tlbHit w.id.core p = some x) : s.pageOf w p = some (.leaf x) := by
  simp only [State.pageOf, howes, hx]
  rfl

/-- An access at its translated address, without data. -/
theorem State.accessOf_of_hit {s : State} {e : Nat × Nat} {x : TlbEnt} (howes : s.owes s.w (.page (e.2 / 65536)) = false)
    (hx : s.tlbHit s.w.id.core (e.2 / 65536) = some x) (data cmp : Nat → Nat) :
    s.accessOf data cmp e = { lane := e.1, va := e.2, pa := (s.transOf s.w e.2).1, fields := (s.transOf s.w e.2).2, data := data e.1, cmp := cmp e.1 } := by
  simp only [State.accessOf, State.transOf, State.pageOf_of_hit howes hx, hx]

/-- An accessible lane raises no code. -/
theorem State.laneCode_of_accessible {s : State} {rd wr : Bool} {size : Nat} {ls : List (Nat × Nat)} (h : s.Accessible rd wr size ls)
    {e : Nat × Nat} (he : e ∈ ls) : s.laneCode s.w { rd := rd, wr := wr } e.2 = none := by
  obtain ⟨-, hva, howes, hho, hlock, hseal, -, x, hx, hr, hw, hkey⟩ := h e he
  have hrights : ((rd && !x.r) || (wr && !x.w)) = false := by
    cases rd <;> cases wr <;> simp_all
  have hsealed : (wr && s.sealedWrite s.w e.2) = false := by
    cases wr <;> simp_all
  rw [State.laneCode, if_neg (by omega), if_neg (by omega), State.pageOf_of_hit howes hx]
  simp only [hrights, hho, hkey, hlock, hsealed, Bool.false_eq_true, if_false]

theorem State.missTiles_of_each {s : State} {w : Wave} {vas : List Nat} (h : ∀ va ∈ vas, s.missTiles w [va] = []) : s.missTiles w vas = [] := by
  have hnil : ∀ (ts : List TileId), ts.eraseDups = [] → ts = [] := by
    intro ts hts
    cases ts with
    | nil => rfl
    | cons t ts =>
      rw [List.eraseDups_cons] at hts
      cases hts
  unfold State.missTiles at h ⊢
  rw [List.filterMap_eq_nil_iff.mpr]
  · rfl
  · intro va hva
    have hone := List.filterMap_eq_nil_iff.mp (hnil _ (h va hva))
    exact hone va (List.mem_singleton_self va)

/-- Accessible lanes whose reads find no poison pass R153, each at its translated address. -/
theorem State.check_of_accessible {s : State} {rd wr : Bool} {size : Nat} {ls : List (Nat × Nat)} (h : s.Accessible rd wr size ls)
    (hp : rd = true → s.Readable wr size ls) :
    s.check s.w { rd := rd, wr := wr } size ls = .ok (ls.map (s.accessOf (fun _ => 0) fun _ => 0)) := by
  have hodd : ls.filter (fun e => e.2 % size != 0) = [] := List.filter_eq_nil_iff.mpr fun e he => by simp [(h e he).1]
  have hwalk : s.unwalked s.w (ls.map (·.2)) = [] := by
    rw [State.unwalked_eq, List.filter_eq_nil_iff]
    intro p hpage
    obtain ⟨e, he, rfl⟩ := List.mem_map.mp (List.mem_eraseDups.mp hpage)
    obtain ⟨-, -, -, -, -, -, -, x, hx, -⟩ := h e (List.mem_of_mem_filter he)
    simp [hx]
  have hcode : (codeOrder.find? fun c => (ls.map fun e => (e, s.laneCode s.w { rd := rd, wr := wr } e.2)).any fun x => x.2 == some c) = none := by
    rw [List.find?_eq_none]
    intro c _
    simp only [List.any_map, List.any_eq_true, not_exists, not_and]
    intro e he
    simp [State.laneCode_of_accessible h he]
  have hmiss : s.missTiles s.w (ls.map (·.2)) = [] := State.missTiles_of_each fun va hva => by
    obtain ⟨e, he, rfl⟩ := List.mem_map.mp hva
    obtain ⟨-, -, -, -, -, -, hm, -⟩ := h e he
    exact hm
  have has : (ls.map fun e => ({ lane := e.1, va := e.2, pa := (s.transOf s.w e.2).1, fields := (s.transOf s.w e.2).2, data := 0, cmp := 0 } : LaneAcc)) =
      ls.map (s.accessOf (fun _ => 0) fun _ => 0) := List.map_congr_left fun e he => by
    obtain ⟨-, -, howes, -, -, -, -, x, hx, -⟩ := h e he
    exact (State.accessOf_of_hit howes hx (fun _ => 0) fun _ => 0).symm
  have hpoison : (if rd then (ls.map (s.accessOf (fun _ => 0) fun _ => 0)).filter fun a => s.readsPoison s.w wr s.w.mem.seq size a else []) = [] := by
    cases rd with
    | false => rfl
    | true =>
      refine List.filter_eq_nil_iff.mpr fun a ha => ?_
      obtain ⟨e, he, rfl⟩ := List.mem_map.mp ha
      simp [hp rfl e he]
  simp only [State.check, hodd, hwalk, hcode, hmiss, has, hpoison]

/-! ### Data of a lane (R208) -/

theorem regsFor_eq_wordsOf (size : BitVec 3) : regsFor size = wordsOf size := by
  unfold regsFor regsOf sizeOf' wordsOf
  split <;> omega

/-- Digits summed with their weights, or nested from the highest down. -/
theorem foldl_digits_eq_foldr (B : Nat) (f : Nat → Nat) (c a n : Nat) :
    (List.range n).foldl (fun x i => x + f i * (c * B ^ i)) a = a + c * (List.range n).foldr (fun i x => x * B + f i) 0 := by
  induction n generalizing f c a with
  | zero => rfl
  | succ n ih =>
    have hstep := ih (fun i => f (i + 1)) (c * B) (a + f 0 * c)
    simp only [List.range_succ_eq_map, List.foldl_cons, List.foldr_cons, List.foldl_map, List.foldr_map, pow_zero, mul_one]
    simp only [Nat.succ_eq_add_one, pow_succ', ← mul_assoc] at hstep ⊢
    rw [hstep]
    ring

/-- The two readings of a lane's data agree. -/
theorem Wave.storeData_eq_dataOf (w : Wave) (r : Nat) (size : BitVec 3) (l : Nat) :
    w.storeData r (sizeOf' size) l = w.dataOf r (bytesOf size) l := by
  have hdigits (n : Nat) := foldl_digits_eq_foldr (2 ^ 32) (fun i => (w.lane (r + i) l).toNat) 1 0 n
  simp only [one_mul, zero_add, ← pow_mul] at hdigits
  unfold Wave.storeData Wave.dataOf Wave.laneData regsOf
  rw [hdigits, show sizeOf' size = bytesOf size from rfl]
  split
  · simp
  · rfl

/-! ### What an access leaves of its wave -/

/-- The full bits of registers that become empty. -/
theorem getLsbD_clearBits {n : Nat} (x : BitVec n) (d m : Nat) {k : Nat} (hk : k < n) :
    ((List.range m).foldl (fun x i => setBit x (d + i) false) x).getLsbD k = (x.getLsbD k && !(decide (d ≤ k) && decide (k < d + m))) := by
  induction m with
  | zero =>
    simp [← Bool.decide_and]
  | succ m ih =>
    rw [List.range_succ, List.foldl_append, List.foldl_cons, List.foldl_nil, getLsbD_setBit _ _ _ hk, ih]
    by_cases hd : d + m = k
    · simp [hd]
      omega
    · have hiff : (d ≤ k ∧ k < d + m) ↔ (d ≤ k ∧ k < d + (m + 1)) := by omega
      rw [if_neg hd]
      simp only [← Bool.decide_and, hiff]

/-- A wave that goes on with `n` registers from `d` empty and another memory side has issued an access. -/
theorem State.accessIssued (s : State) (d n : Nat) (mem : WaveMem) :
    s.AccessIssued (s.onW fun w => { w.markV d n false with mem := { mem with seq := w.mem.seq + 1 } }.advance) true d n mem where
  state := rfl
  id := Wave.advance_id _
  flow := Wave.advance_flow_congr rfl
  csr := by
    simp only [State.onW, Wave.advance_csr]
    rfl
  regs := by simp [State.onW]
  vfull := fun r hr => by simpa [State.onW] using getLsbD_clearBits s.w.regs.vfull d n hr
  sfull := fun r hr => by simp [State.onW]
  mem := by
    simp only [State.onW, Wave.advance_mem]
    rfl
  bytes := fun _ _ _ => rfl
  tile := fun _ _ => rfl

/-- An instruction outside the vector ALU that adds accesses to its wave's memory side. -/
theorem issue_access {u : Use} {f : State → Act} {s : State} (d n : Nat) (mem : WaveMem) (h : s.mayRun u = true) (ho : u.occ = 0)
    (ha : f s = .done (s.onW fun w => { w.markV d n false with mem := { mem with seq := w.mem.seq + 1 } })) :
    ∃ t, issue u f s = .next t ∧ s.AccessIssued t true d n mem := ⟨_, issue_of_act h ho ha, s.accessIssued d n mem⟩

/-! ### Stores -/

/-- Checked accesses with the data that a store takes. -/
theorem withData_map_accessOf (s : State) (f g : Nat → Nat) (hfg : ∀ l, f l = g l) (ls : List (Nat × Nat)) :
    withData f (ls.map (s.accessOf (fun _ => 0) fun _ => 0)) = ls.map (s.accessOf g fun _ => 0) := by
  unfold withData
  rw [List.map_map]
  refine List.map_congr_left fun e _ => ?_
  simp only [Function.comp_apply, State.accessOf]
  split <;> simp [hfg]

theorem State.accessOf_cmp (s : State) (data cmp : Nat → Nat) (e : Nat × Nat) : (s.accessOf data cmp e).cmp = cmp e.1 := by
  unfold State.accessOf
  split <;> rfl

theorem ordRel_eq (ord : BitVec 3) : ordRel ord = (ord.toNat == 3 || ord.toNat == 4) := by revert ord; decide
theorem ordAcq_eq (ord : BitVec 3) : ordAcq ord = (ord.toNat == 2 || ord.toNat == 4) := by revert ord; decide

/-- What ST comes to for accessible lanes outside a region. -/
theorem stAct_of_accessible {s : State} {m : MA 14} {v : BitVec 7} {scope : BitVec 2} {ord size : BitVec 3} (hr : s.w.mem.region = none)
    (h : s.Accessible false true (bytesOf size) (s.w.addrs m)) :
    let as := (s.w.addrs m).map (s.accessOf (s.w.dataOf v.toNat (bytesOf size)) fun _ => 0)
    stAct m v scope ord size s = if ord = 0 then .done (s.onW fun w => w.addStore false (bytesOf size) as)
      else .done (s.onW fun w => w.addStrong (bytesOf size) none scope.toNat (ordRel ord) false as) := by
  have hdata := withData_map_accessOf s _ _ (s.w.storeData_eq_dataOf v.toNat size) (s.w.addrs m)
  simp only [show sizeOf' size = bytesOf size from rfl] at hdata
  simp only [stAct, eas_eq, show sizeOf' size = bytesOf size from rfl, State.check_of_accessible h nofun, Checked.act, hr, hdata]

/-- The lanes whose tile accesses meet a PENDING line. -/
def State.pendingLanes (s : State) (n : Nat) (ls : List (Nat × Nat)) : List (Nat × Nat) := ls.filter fun x => match s.blkOf s.w with
  | some b => b.pending x.2 n
  | none => false

/-- What STT comes to where the tile memory holds its accesses. -/
theorem sttAct_of_within {s : State} {f : TA} (h : ∀ x ∈ tileAddrs f s.w, x.2 % bytesOf f.size = 0 ∧ x.2 + bytesOf f.size ≤ s.tmem s.w) :
    sttAct f s = if (s.pendingLanes (bytesOf f.size) (tileAddrs f s.w)).isEmpty then .done (s.onW fun w => w.addStore true (bytesOf f.size)
        (withData (fun l => w.storeData f.d.toNat (bytesOf f.size) l) ((tileAddrs f s.w).map tileAcc)))
      else tileTrap cTMEM_PENDING_STORE f.q s.w (s.pendingLanes (bytesOf f.size) (tileAddrs f s.w)) := by
  have hodd : (tileAddrs f s.w).filter (fun e => e.2 % bytesOf f.size != 0) = [] := List.filter_eq_nil_iff.mpr fun e he => by simp [(h e he).1]
  have hfit : (tileAddrs f s.w).filter (fun e => decide (s.tmem s.w < e.2 + bytesOf f.size)) = [] :=
    List.filter_eq_nil_iff.mpr fun e he => by simpa using (h e he).2
  show s.tileCheck f.q (bytesOf f.size) (tileAddrs f s.w) _ = _
  simp only [State.tileCheck, hodd, hfit]
  rfl

/-- Tile accesses with the data that a store takes. -/
theorem withData_map_tileAcc (f g : Nat → Nat) (hfg : ∀ l, f l = g l) (ls : List (Nat × Nat)) :
    withData f (ls.map tileAcc) = ls.map (tileAccess g) := by
  unfold withData
  rw [List.map_map]
  exact List.map_congr_left fun e _ => by simp [tileAcc, tileAccess, hfg]

theorem storesIssue : Statements.StoresIssue := by
  intro s m wv v scope ord size f n
  refine ⟨?_, ?_⟩
  · intro hr _ hm h as
    have hact := stAct_of_accessible (v := v) (scope := scope) (ord := ord) hr h
    refine ⟨fun hord => issue_access 0 0 _ hm rfl ?_, fun hord => issue_access 0 0 _ hm rfl ?_⟩
    · rw [hact, if_pos hord]
      rfl
    · rw [hact, if_neg hord, ordRel_eq]
      refine congrArg (fun es => Act.done (s.onW fun w => { w with mem := { w.mem with strong := s.w.mem.strong ++ es, seq := w.mem.seq + 1 } }))
        (List.map_congr_left fun a ha => ?_)
      obtain ⟨e, -, rfl⟩ := List.mem_map.mp ha
      rw [s.accessOf_cmp]
  · intro _ hm h wait
    have hpend : s.pendingLanes (bytesOf f.size) (tileAddrs f s.w) = wait := rfl
    have hact := sttAct_of_within h
    rw [hpend] at hact
    refine ⟨fun hwait => issue_access 0 0 _ hm rfl ?_, fun x xs hwait => ?_⟩
    · have hdata := withData_map_tileAcc _ _ (s.w.storeData_eq_dataOf f.d.toNat f.size) (tileAddrs f s.w)
      rw [hact, hwait, ← hdata]
      rfl
    · rw [hwait] at hact ⊢
      exact issue_of_act hm rfl hact

/-! ### Atomics -/

/-- Checked accesses with the data and the compare values of an atomic. -/
theorem map_accessOf_data (s : State) (f g c k : Nat → Nat) (hfg : ∀ l, f l = g l) (hck : ∀ l, c l = k l) (ls : List (Nat × Nat)) :
    ((ls.map (s.accessOf (fun _ => 0) fun _ => 0)).map fun a => { a with data := f a.lane, cmp := c a.lane }) = ls.map (s.accessOf g k) := by
  rw [List.map_map]
  refine List.map_congr_left fun e _ => ?_
  simp only [Function.comp_apply, State.accessOf]
  split <;> simp [hfg, hck]

/-- What an atomic comes to for accessible lanes that read no poison, outside a region; `k`: the compare values. -/
theorem atomAct_of_accessible {s : State} {m : MA 10} {aop : Nat} {v : BitVec 7} {d : Option (BitVec 7)} {cmp : Bool} {scope : BitVec 2}
    {ord size : BitVec 3} (hr : s.w.mem.region = none) (h : s.Accessible true true (bytesOf size) (s.w.addrs m))
    (hp : s.Readable true (bytesOf size) (s.w.addrs m)) {k : Nat → Nat}
    (hk : ∀ l, (match d with | some x => if cmp then s.w.storeData x.toNat (bytesOf size) l else 0 | none => 0) = k l) :
    atomAct m aop v d cmp scope ord size s =
      .done (s.onW fun w =>
        let as := (s.w.addrs m).map (s.accessOf (s.w.dataOf v.toNat (bytesOf size)) k)
        let u := w.addStrong (bytesOf size) (some aop) (atomScope ord scope) (ordRel ord) d.isSome as
        match d with
        | some x => { u.markV x.toNat (wordsOf size) false with mem := { u.mem with loads := u.mem.loads ++
            [{ loadEnt .atomic false x.toNat (bytesOf size) false (atomScope ord scope) (ordAcq ord) as [] with
               seq := w.mem.seq, pc := w.flow.pc, flags := decide (9 ≤ aop) }] } }
        | none => u) := by
  have hdata := map_accessOf_data s _ _ _ k (s.w.storeData_eq_dataOf v.toNat size) hk (s.w.addrs m)
  simp only [show sizeOf' size = bytesOf size from rfl] at hdata
  rw [← regsFor_eq_wordsOf]
  cases d <;> simp only [atomAct, eas_eq, show sizeOf' size = bytesOf size from rfl, State.check_of_accessible h fun _ => hp, Checked.act,
    State.atomic, hr, hdata] <;> rfl

theorem atomicsIssue : Statements.AtomicsIssue := by
  intro s m d aop wv v scope ord size hr h hp n sc ents mem
  refine ⟨fun _ hm => issue_access _ _ _ hm rfl ?_, fun _ hm => issue_access _ _ _ hm rfl ?_, fun _ hm => issue_access 0 0 _ hm rfl ?_⟩
  · rw [atomAct_of_accessible hr h hp (k := fun _ => 0) fun _ => rfl, ordRel_eq, ordAcq_eq]
    rfl
  · rw [atomAct_of_accessible hr h hp (d := some d) (cmp := true) (k := s.w.dataOf d.toNat n) fun l => s.w.storeData_eq_dataOf d.toNat size l, ordRel_eq, ordAcq_eq]
    rfl
  · rw [atomAct_of_accessible hr h hp (k := fun _ => 0) fun _ => rfl, ordRel_eq]
    rfl

/-- Settles O44: accesses that pass their checks join the queues of their wave, and no byte changes. -/
theorem storesAndAtomicsIssue : Obligations.StoresAndAtomicsIssue := ⟨storesIssue, atomicsIssue⟩

end Sys2Proof.Machine

/-! PROOFS. The exchange of two blocks of a frame that moves (09 R149 steps 3 and 4). -/

namespace Sys2Proof.Machine

/-- The partner of a memory die is another one, on the other compute die's side. -/
theorem partner_facts {m : Nat} (h : m < 8) : m ^^^ 4 < 8 ∧ m ^^^ 4 ≠ m ∧ (m ^^^ 4) ^^^ 4 = m := by
  revert m
  decide

/-- The bytes of two blocks change places; no other byte changes. -/
theorem Pkg.exchange_dram (p : Pkg) {a b : Nat} (h : a + 256 ≤ b ∨ b + 256 ≤ a) :
    (∀ i < 256, look 0 (p.exchange a b).dram (a + i) = look 0 p.dram (b + i) ∧ look 0 (p.exchange a b).dram (b + i) = look 0 p.dram (a + i)) ∧
      ∀ x, ¬(a ≤ x ∧ x < a + 256) → ¬(b ≤ x ∧ x < b + 256) → look 0 (p.exchange a b).dram x = look 0 p.dram x := by
  have hlook (x : Nat) : look 0 (p.exchange a b).dram x =
      if b ≤ x ∧ x < b + 256 then look 0 p.dram (a + (x - b)) else if a ≤ x ∧ x < a + 256 then look 0 p.dram (b + (x - a)) else look 0 p.dram x := by
    simp only [Pkg.exchange, look_putBytes, List.length_map, List.length_range]
    refine if_ctx_congr Iff.rfl (fun hx => ?_) fun _ => if_ctx_congr Iff.rfl (fun hx => ?_) fun _ => rfl
    · simp [List.getD_eq_getElem?_getD, show x - b < 256 by omega]
    · simp [List.getD_eq_getElem?_getD, show x - a < 256 by omega]
  refine ⟨fun i hi => ⟨?_, ?_⟩, fun x ha hb => ?_⟩
  · rw [hlook, if_neg (by omega), if_pos (by omega), Nat.add_sub_cancel_left]
  · rw [hlook, if_pos (by omega), Nat.add_sub_cancel_left]
  · rw [hlook, if_neg hb, if_neg ha]

/-- The metadata of two blocks change places. -/
theorem Pkg.exchange_blockMeta (p : Pkg) {a b : Nat} (hr : inReserve a = inReserve b) (h : a / 256 ≠ b / 256) :
    (p.exchange a b).blockMeta a = p.blockMeta b ∧ (p.exchange a b).blockMeta b = p.blockMeta a := by
  have hne : b / 256 ≠ a / 256 := Ne.symm h
  unfold Pkg.blockMeta
  rw [hr]
  cases hb : inReserve b with
  | true => exact ⟨rfl, rfl⟩
  | false => simp [Pkg.exchange, Pkg.blockMeta, hr, hb, h]

theorem Pkg.switch_blockMeta (p : Pkg) (m lf a : Nat) : (p.switch m lf).blockMeta a = p.blockMeta a := by
  simp only [Pkg.switch]
  split <;> rfl

/-- The homes stay while a block of the frame is still to be exchanged. -/
theorem Pkg.switch_of_left {p : Pkg} {m lf i : Nat} (hi : i < 256) (h : p.exchanged.contains (stackBase m lf / 256 + i) = false) : p.switch m lf = p := by
  refine if_neg fun hall => ?_
  exact Bool.false_ne_true (h.symm.trans (List.all_eq_true.mp hall i (List.mem_range.mpr hi)))

/-- Once every block of the frame is exchanged its entry switches. -/
theorem Pkg.switch_homeEnt {p : Pkg} {m lf : Nat} (hf : p.frameAt m lf ≠ p.frameAt (m ^^^ 4) lf)
    (h : ∀ i < 256, p.exchanged.contains (stackBase m lf / 256 + i) = true) :
    (p.switch m lf).homeEnt (p.frameAt m lf) = (p.homeEnt (p.frameAt m lf)).switched := by
  have hall : ((List.range 256).all fun i => p.exchanged.contains (stackBase m lf / 256 + i)) = true :=
    List.all_eq_true.mpr fun i hi => h i (List.mem_range.mp hi)
  rw [Pkg.switch, if_pos hall]
  simp only [Pkg.homeEnt, look_put, if_neg hf, if_true]

theorem Pkg.exchange_frameAt (p : Pkg) (a b m lf : Nat) : (p.exchange a b).frameAt m lf = p.frameAt m lf := by simp only [Pkg.exchange, Pkg.frameAt]
theorem Pkg.exchange_homeEnt (p : Pkg) (a b f : Nat) : (p.exchange a b).homeEnt f = p.homeEnt f := by simp only [Pkg.exchange, Pkg.homeEnt]

/-- A block beside the two of an exchange is exchanged after it if it was before. -/
theorem Pkg.exchange_contains (p : Pkg) {a b k : Nat} (ha : k ≠ a / 256) (hb : k ≠ b / 256) :
    (p.exchange a b).exchanged.contains k = p.exchanged.contains k := by
  simp [Pkg.exchange, ha, hb]

/-- HOME_BLOCK_EXCHANGE of a block that is still to move. -/
theorem exec_homeBlockExchange {s : State} {md : BitVec 3} {lframe : BitVec 20} {blk : BitVec 8}
    (hmoving : (s.pkg.homeEnt (s.pkg.frameAt md.toNat lframe.toNat)).moving = true)
    (hn : (s.pkg.homeEnt (s.pkg.frameAt md.toNat lframe.toNat)).nframe = lframe.toNat)
    (hh : (s.pkg.homeEnt (s.pkg.frameAt md.toNat lframe.toNat)).nhome = md.toNat ^^^ 4)
    (hx : s.pkg.exchanged.contains ((stackBase md.toNat lframe.toNat + blk.toNat * 256) / 256) = false) :
    exec (.homeBlockExchange md lframe blk) s = .next (s.onPkg fun p =>
      (p.exchange (stackBase md.toNat lframe.toNat + blk.toNat * 256) (stackBase (md.toNat ^^^ 4) lframe.toNat + blk.toNat * 256)).switch md.toNat lframe.toNat) := by
  show execHomeBlockExchange md lframe blk s = _
  simp only [execHomeBlockExchange, hmoving, hn, hh, hx, beq_self_eq_true, Bool.and_self, Bool.not_false, if_true]

/-- What an exchange does to the bytes, the metadata and the homes of a frame that moves. -/
theorem homeBlockExchange_swaps (p : Pkg) {m lf blk a b : Nat} (hm : m < 8) (_hlf : lf < 2 ^ 20) (hblk : blk < 256)
    (ha : a = m * 2 ^ 36 + lf * 2 ^ 16 + blk * 256) (hb : b = (m ^^^ 4) * 2 ^ 36 + lf * 2 ^ 16 + blk * 256)
    (hf : p.frameAt m lf ≠ p.frameAt (m ^^^ 4) lf) :
    let q := (p.exchange a b).switch m lf
    (∀ i < 256, look 0 q.dram (a + i) = look 0 p.dram (b + i) ∧ look 0 q.dram (b + i) = look 0 p.dram (a + i)) ∧
      (∀ x, ¬(a ≤ x ∧ x < a + 256) → ¬(b ≤ x ∧ x < b + 256) → look 0 q.dram x = look 0 p.dram x) ∧
      q.blockMeta a = p.blockMeta b ∧ q.blockMeta b = p.blockMeta a ∧
      ((∃ i < 256, i ≠ blk ∧ p.exchanged.contains (a / 256 - blk + i) = false) → q.home = p.home) ∧
      ((∀ i < 256, i ≠ blk → p.exchanged.contains (a / 256 - blk + i) = true) →
        q.homeEnt (p.frameAt m lf) = (p.homeEnt (p.frameAt m lf)).switched) := by
  intro q
  obtain ⟨hp8, hpm, -⟩ := partner_facts hm
  have hapart : a + 256 ≤ b ∨ b + 256 ≤ a := by omega
  have hblocks : a / 256 ≠ b / 256 := by omega
  have hres : inReserve a = inReserve b := by
    have hoff : a % 2 ^ 36 = b % 2 ^ 36 := by omega
    simp only [inReserve, hoff]
  have hbase (i : Nat) : a / 256 - blk + i = stackBase m lf / 256 + i := by
    unfold stackBase
    omega
  have hself : stackBase m lf / 256 + blk = a / 256 := by
    unfold stackBase
    omega
  have hleft (i : Nat) (hi : i < 256) (hne : i ≠ blk) :
      (p.exchange a b).exchanged.contains (stackBase m lf / 256 + i) = p.exchanged.contains (a / 256 - blk + i) := by
    have hb' : stackBase m lf / 256 + i ≠ b / 256 := by
      unfold stackBase
      omega
    rw [hbase i, Pkg.exchange_contains p (by omega) hb']
  obtain ⟨hswap, hkeep⟩ := p.exchange_dram hapart
  obtain ⟨hma, hmb⟩ := p.exchange_blockMeta hres hblocks
  refine ⟨?_, ?_, ?_, ?_, ?_, fun hall => ?_⟩
  · simpa only [q, Pkg.switch_dram] using hswap
  · simpa only [q, Pkg.switch_dram] using hkeep
  · simpa only [q, Pkg.switch_blockMeta] using hma
  · simpa only [q, Pkg.switch_blockMeta] using hmb
  · rintro ⟨i, hi, hne, hx⟩
    have hswitch : q = p.exchange a b := Pkg.switch_of_left hi ((hleft i hi hne).trans hx)
    rw [hswitch]
    simp only [Pkg.exchange]
  · have hdone (i : Nat) (hi : i < 256) : (p.exchange a b).exchanged.contains (stackBase m lf / 256 + i) = true := by
      by_cases hne : i = blk
      · subst hne
        simp [hself, Pkg.exchange]
      · exact (hleft i hi hne).trans (hall i hi hne)
    have hq := Pkg.switch_homeEnt (p := p.exchange a b) (by simpa only [Pkg.exchange_frameAt] using hf) hdone
    simpa only [Pkg.exchange_frameAt, Pkg.exchange_homeEnt] using hq

end Sys2Proof.Machine

/-! PROOFS. The end of a migration window (09 R149 steps 1 and 2), and O21. -/

namespace Sys2Proof.Machine

/-! ### Homes that move -/

/-- The entry of a frame whose home as booted is to move to the partner. -/
def movingEnt (f : Nat) : HomeEnt := { valid := true, moving := true, nhome := f % 8 ^^^ 4, nframe := f / 8, home := f % 8, lframe := f / 8 }

/-- Of the frames at their homes as booted, those of memory die `m` and its partner whose local frame is in `P` move, and no other. -/
structure Pkg.MovesOnly (p : Pkg) (m : Nat) (P : Nat → Prop) : Prop where
  only : ∀ e ∈ p.home, e.2 = movingEnt e.1 ∧ (e.1 % 8 = m ∨ e.1 % 8 = m ^^^ 4) ∧ P (e.1 / 8)
  each : ∀ lf, P lf → ∀ d, d = m ∨ d = m ^^^ 4 → p.homeEnt (lf * 8 + d) = movingEnt (lf * 8 + d)

theorem Pkg.MovesOnly.congr {p : Pkg} {m : Nat} {P Q : Nat → Prop} (h : p.MovesOnly m P) (hPQ : ∀ lf, P lf ↔ Q lf) : p.MovesOnly m Q :=
  funext (fun lf => propext (hPQ lf)) ▸ h

/-- Which frames move is told by the homes alone. -/
theorem Pkg.MovesOnly.of_home {p q : Pkg} {m : Nat} {P : Nat → Prop} (h : p.MovesOnly m P) (hq : q.home = p.home) : q.MovesOnly m P where
  only := hq ▸ h.only
  each := fun lf hlf d hd => by
    rw [Pkg.homeEnt, hq]
    exact h.each lf hlf d hd

theorem Pkg.movesOnly_of_booted {p : Pkg} (h : p.home = []) (m : Nat) : p.MovesOnly m fun _ => False where
  only := fun e he => by simp [h] at he
  each := nofun

/-- A frame that does not move has its entry as booted. -/
theorem Pkg.MovesOnly.homeEnt_of_not {p : Pkg} {m : Nat} {P : Nat → Prop} (h : p.MovesOnly m P) {f : Nat} (hf : ¬P (f / 8)) :
    p.homeEnt f = .boot f := by
  unfold Pkg.homeEnt look
  cases hx : look? p.home f with
  | none => rfl
  | some x =>
    obtain ⟨-, -, hP⟩ := h.only _ (mem_of_look? hx)
    exact absurd hP hf

theorem Pkg.MovesOnly.frameAt_of_not {p : Pkg} {m : Nat} {P : Nat → Prop} (h : p.MovesOnly m P) {lf : Nat} (hlf : ¬P lf) (d : Nat) :
    p.frameAt d lf = lf * 8 + d := by
  have hnone : (p.home.find? fun e => e.2.home == d && e.2.lframe == lf) = none := by
    rw [List.find?_eq_none]
    intro e he
    obtain ⟨hent, -, hP⟩ := h.only e he
    have hne : e.1 / 8 ≠ lf := fun heq => hlf (heq ▸ hP)
    simp [hent, movingEnt, hne]
  rw [Pkg.frameAt, hnone]

theorem movingEnt_of_boot {lf d : Nat} (hd : d < 8) :
    ({ HomeEnt.boot (lf * 8 + d) with moving := true, nhome := d ^^^ 4, nframe := lf } : HomeEnt) = movingEnt (lf * 8 + d) := by
  have hmod : (lf * 8 + d) % 8 = d := by omega
  have hdiv : (lf * 8 + d) / 8 = lf := by omega
  simp only [HomeEnt.boot, movingEnt, hmod, hdiv]

/-- One more pair of frames begins to move. -/
theorem Pkg.MovesOnly.startMove {p : Pkg} {m : Nat} {P : Nat → Prop} (hm : m < 8) (h : p.MovesOnly m P) {lf : Nat} (hlf : ¬P lf) :
    (p.startMove m lf).MovesOnly m fun x => P x ∨ x = lf := by
  obtain ⟨hn8, hnm, hback⟩ := partner_facts hm
  have hboot (d : Nat) (hd : d < 8) : p.homeEnt (lf * 8 + d) = .boot (lf * 8 + d) := h.homeEnt_of_not (by rwa [show (lf * 8 + d) / 8 = lf by omega])
  have hhome : (p.startMove m lf).home =
      put (put p.home (lf * 8 + m) (movingEnt (lf * 8 + m))) (lf * 8 + (m ^^^ 4)) (movingEnt (lf * 8 + (m ^^^ 4))) := by
    rw [← movingEnt_of_boot hm, ← movingEnt_of_boot hn8, hback, ← hboot m hm, ← hboot _ hn8]
    simp only [Pkg.startMove, h.frameAt_of_not hlf]
  refine ⟨fun e he => ?_, fun x hx d hd => ?_⟩
  · rw [hhome] at he
    rcases mem_put he with rfl | he
    · exact ⟨rfl, .inr (by show (lf * 8 + (m ^^^ 4)) % 8 = m ^^^ 4; omega), .inr (by show (lf * 8 + (m ^^^ 4)) / 8 = lf; omega)⟩
    · rcases mem_put he with rfl | he
      · exact ⟨rfl, .inl (by show (lf * 8 + m) % 8 = m; omega), .inr (by show (lf * 8 + m) / 8 = lf; omega)⟩
      · obtain ⟨hent, hdie, hP⟩ := h.only e he
        exact ⟨hent, hdie, .inl hP⟩
  · simp only [Pkg.homeEnt, hhome, look_put]
    split
    · next heq => rw [heq]
    · split
      · next heq => rw [heq]
      · next hne1 hne2 =>
        have hP : P x := hx.resolve_right fun heq => by
          subst heq
          rcases hd with rfl | rfl <;> contradiction
        exact h.each x hP d hd

/-- All 32 pairs of frames of a group begin to move. -/
theorem Pkg.MovesOnly.startMoves {p : Pkg} {m g : Nat} {P : Nat → Prop} (hm : m < 8) (h : p.MovesOnly m P) (hg : ∀ lf, lf / 32 = g → ¬P lf)
    {n : Nat} (hn : n ≤ 32) :
    ((List.range n).foldl (fun q i => q.startMove m (32 * g + i)) p).MovesOnly m fun lf => P lf ∨ 32 * g ≤ lf ∧ lf < 32 * g + n := by
  induction n with
  | zero => exact h.congr fun lf => ⟨.inl, fun hx => hx.resolve_right (by omega)⟩
  | succ n ih =>
    rw [List.range_succ, List.foldl_append, List.foldl_cons, List.foldl_nil]
    have hnew : ¬(P (32 * g + n) ∨ 32 * g ≤ 32 * g + n ∧ 32 * g + n < 32 * g + n) := by
      rintro (hx | hx)
      · exact hg _ (by omega) hx
      · omega
    refine ((ih (by omega)).startMove hm hnew).congr fun lf => ?_
    rw [or_assoc]
    refine or_congr_right ?_
    omega

/-! ### The groups that swap -/

/-- What a window's end has made of a package as booted, once the groups in `G` have swapped. -/
structure Pkg.Swapped (p q : Pkg) (m : Nat) (G : Nat → Prop) : Prop where
  rest : q = { p with home := q.home, counts := q.counts }
  moves : q.MovesOnly m fun lf => G (lf / 32)
  gone : ∀ g < 2 ^ 15, G g → ∀ d, d = m ∨ d = m ^^^ 4 → look (0, 0) q.counts (groupKey d g) = (0, 0)
  kept : ∀ g < 2 ^ 15, ¬G g → ∀ d, d = m ∨ d = m ^^^ 4 → look (0, 0) q.counts (groupKey d g) = look (0, 0) p.counts (groupKey d g)

theorem Pkg.Swapped.congr {p q : Pkg} {m : Nat} {G H : Nat → Prop} (h : p.Swapped q m G) (hGH : ∀ g, G g ↔ H g) : p.Swapped q m H :=
  funext (fun g => propext (hGH g)) ▸ h

theorem look_del {α : Type} (d : α) (l : Map α) (k j : Nat) : look d (del l k) j = if j = k then d else look d l j := by
  simp only [look, look?_del]
  split <;> rfl

/-- Moves change the homes alone. -/
theorem Pkg.startMoves_rest (m g : Nat) (is : List Nat) (p : Pkg) :
    is.foldl (fun q i => q.startMove m (32 * g + i)) p = { p with home := (is.foldl (fun q i => q.startMove m (32 * g + i)) p).home } := by
  induction is generalizing p with
  | nil => rfl
  | cons i is ih =>
    rw [List.foldl_cons]
    exact (ih _).trans rfl

theorem Pkg.startSwap_rest (p : Pkg) (m g : Nat) :
    p.startSwap m g = { p with home := (p.startSwap m g).home, counts := (p.startSwap m g).counts } := by
  rw [Pkg.startSwap, Pkg.startMoves_rest]

/-- Packages that differ in homes and counts are one with the same homes and counts. -/
theorem Pkg.withMoves_congr {p q : Pkg} (h : q = { p with home := q.home, counts := q.counts }) (x : Map HomeEnt) (y : Map (Nat × Nat)) :
    ({ q with home := x, counts := y } : Pkg) = { p with home := x, counts := y } := by rw [h]

/-- Groups of dies have keys of their own. -/
theorem groupKey_inj {d e g h : Nat} (hg : g < 2 ^ 15) (hh : h < 2 ^ 15) : groupKey d g = groupKey e h ↔ d = e ∧ g = h := by
  unfold groupKey
  omega

/-- One more group begins to swap. -/
theorem Pkg.Swapped.startSwap {p q : Pkg} {m g : Nat} {G : Nat → Prop} (hm : m < 8) (hg : g < 2 ^ 15) (h : p.Swapped q m G) (hnew : ¬G g) :
    p.Swapped (q.startSwap m g) m fun x => G x ∨ x = g := by
  have hmoved := Pkg.startMoves_rest m g (List.range 32) q
  have hmoves := h.moves.startMoves hm (g := g) (fun lf hlf => hlf ▸ hnew) (n := 32) le_rfl
  have hcounts (k : Nat) : look (0, 0) (q.startSwap m g).counts k =
      if k = groupKey (m ^^^ 4) g ∨ k = groupKey m g then (0, 0) else look (0, 0) q.counts k := by
    simp only [Pkg.startSwap, look_del]
    rw [hmoved]
    by_cases h1 : k = groupKey (m ^^^ 4) g <;> by_cases h2 : k = groupKey m g <;> simp [h1, h2]
  refine ⟨?_, ?_, fun x hx hG d hd => ?_, fun x hx hG d hd => ?_⟩
  · exact (q.startSwap_rest m g).trans (Pkg.withMoves_congr h.rest _ _)
  · refine (hmoves.of_home (by simp only [Pkg.startSwap])).congr fun lf => or_congr_right ?_
    omega
  · rw [hcounts]
    simp only [groupKey_inj hx hg]
    by_cases hxg : x = g
    · rw [if_pos (by tauto)]
    · rw [if_neg (by tauto)]
      exact h.gone x hx (hG.resolve_right hxg) d hd
  · rw [hcounts]
    simp only [groupKey_inj hx hg]
    rw [if_neg (by tauto)]
    exact h.kept x hx (fun hx => hG (.inl hx)) d hd

theorem Pkg.swapped_of_booted {p : Pkg} (h : p.home = []) (m : Nat) : p.Swapped p m fun _ => False where
  rest := rfl
  moves := Pkg.movesOnly_of_booted h m
  gone := nofun
  kept := fun _ _ _ _ _ => rfl

/-- No frame of a group that has not swapped moves. -/
theorem Pkg.Swapped.groupMoves {p q : Pkg} {m g : Nat} {G : Nat → Prop} (h : p.Swapped q m G) (hg : ¬G g) (d : Nat) : q.groupMoves d g = false := by
  refine List.any_eq_false.mpr fun e he => ?_
  obtain ⟨hent, -, hG⟩ := h.moves.only e he
  have hne : e.1 / 8 / 32 ≠ g := fun heq => hg (heq ▸ hG)
  simp [hent, movingEnt, hne]

theorem Pkg.unreachable_of_booted {p : Pkg} (hl : p.links = []) (hb : p.bridge = true) (d md : Nat) : p.unreachable d md = false := by
  have hup (k : Nat) : p.linkUp k = true := by
    rw [Pkg.linkUp, Pkg.link, hl]
    rfl
  simp [Pkg.unreachable, hup, hb]

/-- The test of a group whose frames stay, over links as booted. -/
theorem Pkg.swaps_iff {p : Pkg} (hl : p.links = []) (hb : p.bridge = true) {m g : Nat} (hmoves : ∀ d, p.groupMoves d g = false) :
    p.swaps m g = true ↔ g < 32700 ∧ 4096 ≤ p.groupCount m (1 - m / 4) m g ∧
      2 * p.groupCount m (1 - (1 - m / 4)) m g ≤ p.groupCount m (1 - m / 4) m g ∧
      2 * p.groupCount m (1 - m / 4) (m ^^^ 4) g < p.groupCount m (1 - m / 4) m g := by
  simp [Pkg.swaps, hmoves, Pkg.unreachable_of_booted hl hb, and_assoc]

/-- The counts of a group that has not swapped are those of the window. -/
theorem Pkg.Swapped.groupCount {p q : Pkg} {m g : Nat} {G : Nat → Prop} (h : p.Swapped q m G) (hlt : g < 2 ^ 15) (hg : ¬G g) {d : Nat}
    (hd : d = m ∨ d = m ^^^ 4) (far : Nat) : q.groupCount m far d g = p.groupCount m far d g := by
  have hended : q.ended = p.ended := by rw [h.rest]
  have hwindows (k : Nat) : q.windowNo k = p.windowNo k := by rw [h.rest]; rfl
  have hlook : look (0, 0) (if q.windowNo m < q.windowNo d then q.ended else q.counts) (groupKey d g) =
      look (0, 0) (if p.windowNo m < p.windowNo d then p.ended else p.counts) (groupKey d g) := by
    simp only [hended, hwindows]
    by_cases hlate : p.windowNo m < p.windowNo d
    · rw [if_pos hlate, if_pos hlate]
    · rw [if_neg hlate, if_neg hlate, h.kept g hlt hg d hd]
  simp only [Pkg.groupCount, hlook]

theorem Pkg.Swapped.swaps {p q : Pkg} {m g : Nat} {G : Nat → Prop} (hboot : p.asBooted) (h : p.Swapped q m G) (hlt : g < 2 ^ 15) (hg : ¬G g) :
    q.swaps m g = p.swaps m g := by
  obtain ⟨hhome, hlinks, hbridge⟩ := hboot
  have hq := Pkg.swaps_iff (p := q) (m := m) (g := g) (by rw [h.rest]; exact hlinks) (by rw [h.rest]; exact hbridge)
    fun d => h.groupMoves hg d
  have hp := Pkg.swaps_iff (p := p) (m := m) (g := g) hlinks hbridge fun d => (Pkg.swapped_of_booted hhome m).groupMoves not_false d
  rw [Bool.eq_iff_iff, hq, hp]
  simp only [h.groupCount hlt hg (.inl rfl), h.groupCount hlt hg (.inr rfl)]

/-- A group that has swapped is not taken again: its counts have restarted. -/
theorem Pkg.Swapped.not_swaps {p q : Pkg} {m g : Nat} {G : Nat → Prop} (h : p.Swapped q m G) (hlt : g < 2 ^ 15) (hg : G g) : q.swaps m g = false := by
  have hzero : q.groupCount m (1 - m / 4) m g = 0 := by
    rw [Pkg.groupCount, if_neg (lt_irrefl _), h.gone g hlt hg m (.inl rfl)]
    exact ite_self 0
  simp [Pkg.swaps, hzero]

/-- The swaps of a list of groups, each of which is taken once. -/
theorem Pkg.Swapped.foldl {p : Pkg} {m : Nat} (hm : m < 8) (hboot : p.asBooted) {gs : List Nat} (hgs : ∀ g ∈ gs, g < 2 ^ 15 ∧ p.swaps m g = true)
    {q : Pkg} {G : Nat → Prop} (h : p.Swapped q m G) :
    p.Swapped (gs.foldl (fun q g => if q.swaps m g then q.startSwap m g else q) q) m fun g => G g ∨ g ∈ gs := by
  induction gs generalizing q G with
  | nil => exact h.congr fun g => by simp
  | cons g gs ih =>
    obtain ⟨hlt, hswaps⟩ := hgs g List.mem_cons_self
    have hrest : ∀ x ∈ gs, x < 2 ^ 15 ∧ p.swaps m x = true := fun x hx => hgs x (List.mem_cons_of_mem _ hx)
    rw [List.foldl_cons]
    by_cases hg : G g
    · rw [h.not_swaps hlt hg, if_neg Bool.false_ne_true]
      refine (ih hrest h).congr fun x => ?_
      rw [List.mem_cons]
      constructor
      · tauto
      · rintro (hx | rfl | hx) <;> tauto
    · rw [h.swaps hboot hlt hg, hswaps, if_pos rfl]
      exact (ih hrest (h.startSwap hm hlt hg)).congr fun x => by rw [List.mem_cons]; tauto

/-! ### The end of a window -/

theorem look?_filter {α : Type} (P : Nat → Bool) (l : Map α) (k : Nat) : look? (l.filter fun e => P e.1) k = if P k then look? l k else none := by
  induction l with
  | nil => simp [look?]
  | cons e l ih =>
    obtain ⟨j, x⟩ := e
    by_cases hj : j = k
    · subst hj
      cases hP : P j <;> simp [hP, look?, ih]
    · cases hP : P j <;> simp [hP, look?, ih, hj]

theorem look_filter {α : Type} (d : α) (P : Nat → Bool) (l : Map α) (k : Nat) : look d (l.filter fun e => P e.1) k = if P k then look d l k else d := by
  rw [look, look?_filter]
  split <;> rfl

theorem groupKey_div {d g : Nat} (hg : g < 2 ^ 15) : groupKey d g / 2 ^ 15 = d ∧ groupKey d g % 2 ^ 15 = g := by
  unfold groupKey
  omega

/-- A group that swaps has counts, so that the end of the window comes to it. -/
theorem Pkg.mem_of_swaps {p : Pkg} {m g : Nat} (hg : g < 2 ^ 15) (h : p.swaps m g = true) :
    g ∈ ((p.counts.filter fun e => e.1 / 2 ^ 15 == m).map fun e => e.1 % 2 ^ 15).filter fun g => p.swaps m g := by
  obtain ⟨hdiv, hmod⟩ := groupKey_div (d := m) hg
  have hcount : 4096 ≤ p.groupCount m (1 - m / 4) m g := by
    simp only [Pkg.swaps, Bool.and_eq_true, decide_eq_true_eq] at h
    obtain ⟨⟨⟨⟨⟨⟨-, hcount⟩, -⟩, -⟩, -⟩, -⟩, -⟩ := h
    exact hcount
  cases hx : look? p.counts (groupKey m g) with
  | none =>
    have hzero : p.groupCount m (1 - m / 4) m g = 0 := by
      rw [Pkg.groupCount, if_neg (lt_irrefl _), look, hx]
      exact ite_self 0
    omega
  | some c =>
    refine List.mem_filter.mpr ⟨List.mem_map.mpr ⟨(groupKey m g, c), ?_, hmod⟩, h⟩
    exact List.mem_filter.mpr ⟨mem_of_look? hx, by simpa using hdiv⟩

/-- The package when every group of the window's test has been taken. -/
def Pkg.windowSwaps (p : Pkg) (m : Nat) : Pkg :=
  (((p.counts.filter fun e => e.1 / 2 ^ 15 == m).map fun e => e.1 % 2 ^ 15).filter fun g => p.swaps m g).foldl
    (fun q g => if q.swaps m g then q.startSwap m g else q) p

theorem Pkg.windowEnd_eq (p : Pkg) (m : Nat) :
    p.windowEnd m = { p.windowSwaps m with
      counts := (p.windowSwaps m).counts.filter fun e => !(e.1 / 2 ^ 15 == m)
      ended := (p.counts.filter fun e => e.1 / 2 ^ 15 == m).foldl (fun x e => put x e.1 e.2) ((p.windowSwaps m).ended.filter fun e => !(e.1 / 2 ^ 15 == m))
      windows := upd 0 (p.windowSwaps m).windows m (· + 1) } := rfl

/-- At the end of a window the groups that pass the test swap, and no other. -/
theorem Pkg.windowSwaps_swapped {p : Pkg} {m : Nat} (hm : m < 8) (hboot : p.asBooted) :
    p.Swapped (p.windowSwaps m) m fun g => g < 2 ^ 15 ∧ p.swaps m g = true := by
  have hfold := (Pkg.swapped_of_booted hboot.1 m).foldl hm hboot (gs := ((p.counts.filter fun e => e.1 / 2 ^ 15 == m).map
    fun e => e.1 % 2 ^ 15).filter fun g => p.swaps m g) fun g hg => by
      obtain ⟨hg, hswaps⟩ := List.mem_filter.mp hg
      obtain ⟨e, -, rfl⟩ := List.mem_map.mp hg
      exact ⟨Nat.mod_lt _ (by decide), hswaps⟩
  refine hfold.congr fun g => ⟨fun hg => ?_, fun ⟨hlt, hswaps⟩ => .inr (Pkg.mem_of_swaps hlt hswaps)⟩
  obtain ⟨hg, hswaps⟩ := List.mem_filter.mp (hg.resolve_left not_false)
  obtain ⟨e, -, rfl⟩ := List.mem_map.mp hg
  exact ⟨Nat.mod_lt _ (by decide), hswaps⟩

/-- The swaps of a window change homes and counts alone. -/
theorem Pkg.windowSwaps_rest (p : Pkg) (m : Nat) : p.windowSwaps m = { p with home := (p.windowSwaps m).home, counts := (p.windowSwaps m).counts } := by
  unfold Pkg.windowSwaps
  generalize List.filter _ _ = gs
  have gen (gs : List Nat) (q : Pkg) (h : q = { p with home := q.home, counts := q.counts }) :
      let r := gs.foldl (fun q g => if q.swaps m g then q.startSwap m g else q) q
      r = { p with home := r.home, counts := r.counts } := by
    induction gs generalizing q with
    | nil => exact h
    | cons g gs ih =>
      rw [List.foldl_cons]
      refine ih _ ?_
      split
      · exact (q.startSwap_rest m g).trans (Pkg.withMoves_congr h _ _)
      · exact h
  exact gen gs p rfl

/-- What the end of a window leaves of the counts. -/
theorem Pkg.windowEnd_counts (p : Pkg) (m d : Nat) {g : Nat} (hg : g < 2 ^ 15) :
    look (0, 0) (p.windowEnd m).counts (groupKey d g) = if d = m then (0, 0) else look (0, 0) (p.windowSwaps m).counts (groupKey d g) := by
  obtain ⟨hdiv, -⟩ := groupKey_div (d := d) hg
  rw [Pkg.windowEnd_eq]
  refine (look_filter (0, 0) (fun k => !(k / 2 ^ 15 == m)) _ _).trans ?_
  simp only [hdiv]
  by_cases hd : d = m <;> simp [hd]

/-- The homes after a window of a package as booted. -/
theorem Pkg.windowSwaps_homeEnt {p : Pkg} {m g i d : Nat} (hm : m < 8) (hboot : p.asBooted) (hi : i < 32) (hd : d = m ∨ d = m ^^^ 4) (hg : g < 2 ^ 15) :
    (p.windowSwaps m).homeEnt ((32 * g + i) * 8 + d) =
      if p.swaps m g then { valid := true, moving := true, nhome := d ^^^ 4, nframe := 32 * g + i, home := d, lframe := 32 * g + i }
      else .boot ((32 * g + i) * 8 + d) := by
  obtain ⟨hn8, -, -⟩ := partner_facts hm
  have hd8 : d < 8 := by rcases hd with rfl | rfl <;> assumption
  have hgroup : (32 * g + i) / 32 = g := by omega
  have hframe : ((32 * g + i) * 8 + d) / 8 = 32 * g + i := by omega
  have hdie : ((32 * g + i) * 8 + d) % 8 = d := by omega
  have h := Pkg.windowSwaps_swapped hm hboot
  split
  · next hs =>
    rw [h.moves.each (32 * g + i) (hgroup.symm ▸ ⟨hg, hs⟩) d hd]
    simp only [movingEnt, hframe, hdie]
  · next hs =>
    refine h.moves.homeEnt_of_not ?_
    rw [hframe, hgroup]
    exact fun hx => hs hx.2

/-- The test of a group at the end of a window of a package as booted, by the window's counts. -/
theorem Pkg.swaps_of_booted {p : Pkg} (hboot : p.asBooted) (m g : Nat) :
    p.swaps m g = true ↔ g < 32700 ∧ 4096 ≤ p.groupCount m (1 - m / 4) m g ∧
      2 * p.groupCount m (1 - (1 - m / 4)) m g ≤ p.groupCount m (1 - m / 4) m g ∧
      2 * p.groupCount m (1 - m / 4) (m ^^^ 4) g < p.groupCount m (1 - m / 4) m g :=
  Pkg.swaps_iff hboot.2.1 hboot.2.2 fun d => (Pkg.swapped_of_booted hboot.1 m).groupMoves not_false d

/-- A window's end changes homes, counts and windows alone. -/
theorem Pkg.windowEnd_rest (p : Pkg) (m : Nat) :
    p.windowEnd m = { p with home := (p.windowEnd m).home, counts := (p.windowEnd m).counts, ended := (p.windowEnd m).ended, windows := (p.windowEnd m).windows } := by
  rw [Pkg.windowEnd_eq, Pkg.windowSwaps_rest]

theorem Pkg.windowEnd_windowNo (p : Pkg) (m : Nat) : (p.windowEnd m).windowNo m = p.windowNo m + 1 := by
  have hwindows : (p.windowSwaps m).windows = p.windows := by rw [Pkg.windowSwaps_rest]
  rw [Pkg.windowEnd_eq, Pkg.windowNo, look_upd, if_pos rfl, hwindows]
  rfl

/-- Where one key alone has counts, every other key has none. -/
theorem look_of_single {l : Map (Nat × Nat)} (hl : l.length = 1) {j k : Nat} (hj : look (0, 0) l j ≠ (0, 0)) (hk : k ≠ j) :
    look (0, 0) l k = (0, 0) := by
  obtain ⟨⟨i, c⟩, rfl⟩ := List.length_eq_one_iff.mp hl
  by_cases hij : i = j
  · subst hij
    simp [look, look?, Ne.symm hk]
  · simp [look, look?, hij] at hj

/-- A group that swaps has counts at its key. -/
theorem Pkg.look_counts_of_swaps {p : Pkg} {m g : Nat} (h : p.swaps m g = true) : look (0, 0) p.counts (groupKey m g) ≠ (0, 0) := by
  intro hzero
  have hcount : p.groupCount m (1 - m / 4) m g = 0 := by
    rw [Pkg.groupCount, if_neg (lt_irrefl _), hzero]
    exact ite_self 0
  simp [Pkg.swaps, hcount] at h

/-- Where group `g` of the die alone has counts and its partner's die has ended no more windows, its partner counts nothing. -/
theorem Pkg.groupCount_partner_of_single {p : Pkg} {m g : Nat} (hm : m < 8) (hg : g < 2 ^ 15) (hl : p.counts.length = 1)
    (hw : p.windowNo (m ^^^ 4) ≤ p.windowNo m) (hne : look (0, 0) p.counts (groupKey m g) ≠ (0, 0)) (far : Nat) :
    p.groupCount m far (m ^^^ 4) g = 0 := by
  obtain ⟨-, hnm, -⟩ := partner_facts hm
  have hnone := look_of_single hl hne (k := groupKey (m ^^^ 4) g) fun h => hnm ((groupKey_inj hg hg).mp h).1
  rw [Pkg.groupCount, if_neg (not_lt_of_ge hw), hnone]
  exact ite_self 0

/-- Settles O21: the test of a window takes each group once, and an exchange is of two blocks of two dies. -/
theorem migration : Obligations.Migration := by
  intro s md lframe blk m far count near
  have hm : m < 8 := md.isLt
  obtain ⟨hn8, hnm, hback⟩ := partner_facts hm
  have hcount (g : Nat) : s.pkg.groupCount m far m g = count g := by
    rw [Pkg.groupCount, if_neg (lt_irrefl _)]
    rfl
  have hnear (g : Nat) : s.pkg.groupCount m (1 - far) m g = near g := by
    rw [Pkg.groupCount, if_neg (lt_irrefl _)]
    have hfar : far = 0 ∨ far = 1 := by omega
    rcases hfar with h | h <;> simp [near, h, groupKey]
  refine ⟨⟨_, rfl, ?_, ?_, ?_, ?_, ?_⟩, ?_⟩
  · exact congrArg (fun p => { s with pkg := p }) (s.pkg.windowEnd_rest m)
  · exact s.pkg.windowEnd_windowNo m
  · exact fun g hg => (s.pkg.windowEnd_counts m m hg).trans (if_pos rfl)
  · intro g hg hhome hlinks hbridge hl hw
    have hboot : s.pkg.asBooted := ⟨hhome, hlinks, hbridge⟩
    have hlt : g < 2 ^ 15 := by omega
    have hcounts (hpos : 0 < count g) : look (0, 0) s.pkg.counts (groupKey m g) ≠ (0, 0) := fun hzero => by
      have hnone : count g = 0 := by
        rw [← hcount, Pkg.groupCount, if_neg (lt_irrefl _), hzero]
        exact ite_self 0
      omega
    refine ⟨fun ⟨hmany, hfew⟩ i hi => ?_, fun ⟨hpos, hno⟩ => ?_⟩
    · have hpartner := Pkg.groupCount_partner_of_single hm hlt hl hw (hcounts (by omega)) far
      have hswaps : s.pkg.swaps m g = true := (Pkg.swaps_of_booted hboot m g).mpr
        ⟨hg, (hcount g).symm ▸ hmany, by rw [hcount, hnear]; exact hfew, by rw [hcount, hpartner]; omega⟩
      have hent := fun d hd => Pkg.windowSwaps_homeEnt (d := d) hm hboot hi hd hlt
      simp only [hswaps, if_true] at hent
      exact ⟨hent m (.inl rfl), (hent (m ^^^ 4) (.inr rfl)).trans (by rw [hback])⟩
    · refine List.eq_nil_iff_forall_not_mem.mpr fun e he => ?_
      obtain ⟨-, -, hlt', hswaps⟩ := (Pkg.windowSwaps_swapped hm hboot).moves.only e he
      have hsame : groupKey m (e.1 / 8 / 32) = groupKey m g := by
        by_contra hne
        exact Pkg.look_counts_of_swaps hswaps (look_of_single hl (hcounts hpos) hne)
      rw [((groupKey_inj hlt' hlt).mp hsame).2, Pkg.swaps_of_booted hboot, hcount, hnear] at hswaps
      omega
  · intro g hg hboot ct partner swaps
    have hiff : s.pkg.swaps m g = true ↔ swaps := by
      rw [Pkg.swaps_of_booted hboot, hcount, hnear]
      rfl
    have hswapped := Pkg.windowSwaps_swapped hm hboot
    have hpartner : look (0, 0) (s.pkg.windowEnd m).counts (groupKey (m ^^^ 4) g) = look (0, 0) (s.pkg.windowSwaps m).counts (groupKey (m ^^^ 4) g) :=
      (s.pkg.windowEnd_counts m (m ^^^ 4) hg).trans (if_neg hnm)
    refine ⟨fun hs => ?_, fun hs => ?_, fun i hi d hd => ?_⟩
    · exact hpartner.trans (hswapped.gone g hg ⟨hg, hiff.mpr hs⟩ _ (.inr rfl))
    · exact hpartner.trans (hswapped.kept g hg (fun h => hs (hiff.mp h.2)) _ (.inr rfl))
    · have hent := Pkg.windowSwaps_homeEnt (g := g) hm hboot hi (by simpa using hd) hg
      refine ⟨fun hs => hent.trans (if_pos (hiff.mpr hs)), fun hs => (hent.trans (if_neg fun h => hs (hiff.mp h))).trans ?_⟩
      rw [Pkg.homeEnt, hboot.1]
      rfl
  · intro lf f e a b hf hmoving hn hh hx
    exact ⟨_, exec_homeBlockExchange hmoving hn hh hx, rfl, homeBlockExchange_swaps s.pkg hm lframe.isLt blk.isLt rfl rfl hf⟩

end Sys2Proof.Machine

/-! PROOFS. The bytes that the lanes of a store leave, in order, and stores to tile memory (09 R121, R135). -/

namespace Sys2Proof.Machine

/-! ### The last lane that stores at an address -/

/-- What the lanes of a store leave at an address that held `y`, when lane `l` stores `val l` there. -/
def lastStore {α : Type} (size : Nat) (val : LaneAcc → α) (ls : List LaneAcc) (a : Nat) (y : α) : α :=
  ls.foldl (fun y l => if l.pa ≤ a ∧ a < l.pa + size then val l else y) y

theorem lastStore_of_none {α : Type} {size : Nat} {val : LaneAcc → α} {ls : List LaneAcc} {a : Nat} (h : ∀ l ∈ ls, ¬inAccess size l a) (y : α) :
    lastStore size val ls a y = y := by
  induction ls generalizing y with
  | nil => rfl
  | cons l ls ih =>
    have hl : ¬(l.pa ≤ a ∧ a < l.pa + size) := h l List.mem_cons_self
    rw [lastStore, List.foldl_cons, if_neg hl]
    exact ih (fun x hx => h x (List.mem_cons_of_mem _ hx)) y

theorem lastStore_of_last {α : Type} {size : Nat} {val : LaneAcc → α} {pre post : List LaneAcc} {l : LaneAcc} {a : Nat} (h : inAccess size l a)
    (hpost : ∀ x ∈ post, ¬inAccess size x a) (y : α) : lastStore size val (pre ++ l :: post) a y = val l := by
  have hl : l.pa ≤ a ∧ a < l.pa + size := h
  rw [lastStore, List.foldl_append, List.foldl_cons, if_pos hl]
  exact lastStore_of_none hpost _

/-- The byte that a lane stores at an address of its access. -/
def LaneAcc.byteAt (l : LaneAcc) (a : Nat) : Byte := BitVec.ofNat 8 (l.data / 2 ^ (8 * (a - l.pa)))

theorem natBytes_getD_byteAt {l : LaneAcc} {size a : Nat} (h : l.pa ≤ a ∧ a < l.pa + size) : (natBytes size l.data).getD (a - l.pa) 0 = l.byteAt a :=
  natBytes_getD (by omega) _

/-! ### Blocks -/

/-- An aligned access lies in one line of 128 bytes. -/
theorem access_in_line {size pa : Nat} (hsize : size ∈ [1, 2, 4, 8, 16]) (h : pa % size = 0) : pa % 128 + size ≤ 128 ∧ 0 < size := by
  simp only [List.mem_cons, List.not_mem_nil, or_false] at hsize
  rcases hsize with rfl | rfl | rfl | rfl | rfl <;> omega

theorem tileLinesOf_of_line {off n : Nat} (h : off % 128 + n ≤ 128) (hn : 0 < n) : tileLinesOf off n = [off / 128] := by
  have hone : (off + n - 1) / 128 - off / 128 + 1 = 1 := by omega
  rw [tileLinesOf, if_neg (by omega), hone]
  rfl

/-- A store within a tile line: the bytes, and the line's tag unless it is PENDING. -/
theorem Block.storeTile_of_line (b : Block) {off : Nat} {bs : List Byte} (h : off % 128 + bs.length ≤ 128) (hn : 0 < bs.length) :
    b.storeTile off bs = if b.tag (off / 128) = tagPENDING then b.putTile off bs else (b.putTile off bs).setTag (off / 128) tagPLAIN := by
  rw [Block.storeTile, tileLinesOf_of_line h hn]
  rfl

theorem Block.storeTile_facts (b : Block) {off : Nat} {bs : List Byte} (h : off % 128 + bs.length ≤ 128) (hn : 0 < bs.length) :
    (b.storeTile off bs).waves = b.waves ∧
      (∀ a, look 0 (b.storeTile off bs).tile a = if off ≤ a ∧ a < off + bs.length then bs.getD (a - off) 0 else look 0 b.tile a) ∧
      ∀ line, (b.storeTile off bs).tag line = if line = off / 128 ∧ b.tag line ≠ tagPENDING then tagPLAIN else b.tag line := by
  rw [b.storeTile_of_line h hn]
  split
  · next hpend =>
    refine ⟨rfl, fun a => look_putBytes .., fun line => ?_⟩
    rw [if_neg]
    · rfl
    · rintro ⟨rfl, hne⟩
      exact hne hpend
  · next hpend =>
    refine ⟨rfl, fun a => look_putBytes .., fun line => ?_⟩
    rw [Block.tag_setTag]
    by_cases hline : line = off / 128
    · subst hline
      rw [if_pos rfl, if_pos ⟨rfl, hpend⟩]
    · rw [if_neg hline, if_neg fun hx => hline hx.1]
      rfl

/-- A block after the lanes of a store. -/
def Block.storeLanes (b : Block) (size : Nat) (ls : List LaneAcc) : Block := ls.foldl (fun b l => b.storeTile l.pa (natBytes size l.data)) b

theorem Block.storeLanes_facts (b : Block) {size : Nat} (hsize : size ∈ [1, 2, 4, 8, 16]) {ls : List LaneAcc} (h : ∀ l ∈ ls, l.pa % size = 0) :
    (b.storeLanes size ls).waves = b.waves ∧ (∀ a, look 0 (b.storeLanes size ls).tile a = lastStore size (·.byteAt a) ls a (look 0 b.tile a)) ∧
      ∀ line, (b.storeLanes size ls).tag line =
        if (∃ l ∈ ls, l.pa / 128 = line) ∧ b.tag line ≠ tagPENDING then tagPLAIN else b.tag line := by
  induction ls generalizing b with
  | nil => exact ⟨rfl, fun _ => rfl, fun line => by simp [Block.storeLanes]⟩
  | cons l ls ih =>
    obtain ⟨hline, hpos⟩ := access_in_line hsize (h l List.mem_cons_self)
    have hlen := natBytes_length size l.data
    obtain ⟨hwaves, htile, htag⟩ := b.storeTile_facts (off := l.pa) (bs := natBytes size l.data) (by rwa [hlen]) (by rwa [hlen])
    obtain ⟨ihwaves, ihtile, ihtag⟩ := ih (b.storeTile l.pa (natBytes size l.data)) fun x hx => h x (List.mem_cons_of_mem _ hx)
    refine ⟨ihwaves.trans hwaves, fun a => (ihtile a).trans ?_, fun line => (ihtag line).trans ?_⟩
    · rw [lastStore, lastStore, List.foldl_cons, htile, hlen]
      congr 1
      exact if_ctx_congr Iff.rfl natBytes_getD_byteAt fun _ => rfl
    · by_cases hpend : b.tag line = tagPENDING
      · rw [(htag line).trans (if_neg fun hx => hx.2 hpend), if_neg fun hx => hx.2 hpend, if_neg fun hx => hx.2 hpend]
      · by_cases hl : line = l.pa / 128
        · rw [(htag line).trans (if_pos ⟨hl, hpend⟩), ite_self, if_pos ⟨⟨l, List.mem_cons_self, hl.symm⟩, hpend⟩]
        · rw [(htag line).trans (if_neg fun hx => hl hx.1)]
          exact if_congr (by simp [Ne.symm hl]) rfl rfl

/-! ### The state -/

/-- Only block `k` has changed, and it is `b` now. -/
structure State.BlockBecame (s t : State) (k : Nat) (b : Block) : Prop where
  rest : t = { s with sched := { s.sched with blocks := t.sched.blocks } }
  own : t.blk? k = some b
  other : ∀ j, j ≠ k → t.blk? j = s.blk? j
  waves : ∀ e ∈ t.sched.blocks, e ∈ s.sched.blocks ∨ e = (k, b)

theorem State.blockBecame_onBlk {s : State} {k : Nat} {b : Block} (h : s.blk? k = some b) (f : Block → Block) : s.BlockBecame (s.onBlk k f) k (f b) := by
  rw [State.onBlk_of_blk? h]
  refine ⟨rfl, ?_, fun j hj => ?_, fun e he => (mem_put he).symm⟩
  · simp [State.blk?]
  · simp [State.blk?, hj]

theorem State.withBlocks_congr {s t : State} (h : t = { s with sched := { s.sched with blocks := t.sched.blocks } }) (bs : Map Block) :
    ({ t with sched := { t.sched with blocks := bs } } : State) = { s with sched := { s.sched with blocks := bs } } := by rw [h]

/-- A tile store of several lanes. -/
theorem State.drainLanes_blk {s : State} {k size : Nat} {b : Block} (h : s.blk? k = some b) (ls : List LaneAcc)
    (hw : ∀ e ∈ s.sched.blocks, e.2.waves ≠ []) (hsize : size ∈ [1, 2, 4, 8, 16]) (hls : ∀ l ∈ ls, l.pa % size = 0) :
    let t := forEach ls s fun l t => t.onBlk k fun b => b.storeTile l.pa (natBytes size l.data)
    t = { s with sched := { s.sched with blocks := t.sched.blocks } } ∧ t.blk? k = some (b.storeLanes size ls) ∧
      (∀ j, j ≠ k → t.blk? j = s.blk? j) ∧ ∀ e ∈ t.sched.blocks, e.2.waves ≠ [] := by
  induction ls generalizing s b with
  | nil => exact ⟨rfl, h, fun _ _ => rfl, hw⟩
  | cons l ls ih =>
    obtain ⟨hrest, hown, hother, hblocks⟩ := State.blockBecame_onBlk h fun b => b.storeTile l.pa (natBytes size l.data)
    obtain ⟨hline, hpos⟩ := access_in_line hsize (hls l List.mem_cons_self)
    have hlen := natBytes_length size l.data
    obtain ⟨hsame, -⟩ := b.storeTile_facts (off := l.pa) (bs := natBytes size l.data) (by rwa [hlen]) (by rwa [hlen])
    have hw' : ∀ e ∈ (s.onBlk k fun b => b.storeTile l.pa (natBytes size l.data)).sched.blocks, e.2.waves ≠ [] := fun e he => by
      rcases hblocks e he with he | rfl
      · exact hw e he
      · rw [hsame]
        exact hw (k, b) (mem_of_look? h)
    obtain ⟨ihrest, ihown, ihother, ihw⟩ := ih hown hw' fun x hx => hls x (List.mem_cons_of_mem _ hx)
    refine ⟨ihrest.trans ?_, ihown, fun j hj => (ihother j hj).trans (hother j hj), ihw⟩
    exact State.withBlocks_congr hrest _

/-- Reaping leaves a die on which no wave has exited and every block has waves as it is. -/
theorem State.reap_of_alive {s : State} (ho : ∀ v ∈ s.others, v.flow.alive ≠ 0) (hb : ∀ e ∈ s.sched.blocks, e.2.waves ≠ []) : s.reap = s := by
  have hdone : (s.others.filter fun w => w.flow.alive == 0 && w.id.kind != .kindling && s.quiet w &&
      !(s.core w.id.core).copies.any fun c => c.wid == w.id.wid) = [] := List.filter_eq_nil_iff.mpr fun v hv => by
    have halive : (v.flow.alive == 0) = false := beq_false_of_ne (ho v hv)
    simp only [halive, Bool.false_and]
    exact Bool.false_ne_true
  have hblocks : (s.sched.blocks.filter fun e => !e.2.waves.isEmpty || e.2.evicted || (s.core e.2.core).busyFor e.1) = s.sched.blocks :=
    List.filter_eq_self.mpr fun e he => by simp [hb e he]
  have hothers : s.others.filter (fun w => !(([] : List Wave).any fun x => x.id.wid == w.id.wid)) = s.others := List.filter_eq_self.mpr fun _ _ => rfl
  simp only [State.reap, hdone, forEach, List.foldl_nil, hothers, State.freeBlocks, State.onSched]
  exact congrArg (fun bs => { s with sched := { s.sched with blocks := bs } }) hblocks

/-- A wave whose store has drained. -/
def Wave.drained (w : Wave) : Wave := { w with mem := { w.mem with sq := w.mem.sq.drop 1 } }

theorem State.onWave_drained {s : State} {wid : Nat} {w : Wave} (h : s.wave? wid = some w) (ho : ∀ v ∈ s.others, v.flow.alive ≠ 0) :
    (s.onWave wid Wave.drained).wave? wid = some w.drained ∧
      (∃ a o, s.onWave wid Wave.drained = { s with w := a, others := o }) ∧ ∀ v ∈ (s.onWave wid Wave.drained).others, v.flow.alive ≠ 0 := by
  have hon : s.onAny wid Wave.drained = s.onWave wid Wave.drained := by
    rw [State.onAny, h]
    rfl
  obtain ⟨hwave, hrest⟩ := State.onAny_of_wave? (f := Wave.drained) h rfl id
  rw [hon] at hwave hrest
  refine ⟨hwave, ⟨_, _, hrest⟩, ?_⟩
  unfold State.onWave
  split
  · exact ho
  · intro v hv
    obtain ⟨x, hx, rfl⟩ := List.mem_map.mp hv
    have halive : (if x.id.wid = wid then x.drained else x).flow.alive = x.flow.alive := by split <;> rfl
    exact halive ▸ ho x hx

/-- STORE_QUEUE_DRAIN of a store that may drain, by what its lanes come to. -/
theorem exec_storeQueueDrain {s t : State} {wid : Nat} {w : Wave} {e : StoreEnt} {rest : List StoreEnt} (hj : s.host.jobDead = false)
    (hh : s.tabs.halted = false) (hw : s.wave? wid = some w) (hq : w.mem.sq = e :: rest) (hd : s.canDrain w e = true)
    (ht : s.drainEntry w e = some t) (hwt : t.wave? wid = some w) (ho : ∀ v ∈ t.others, v.flow.alive ≠ 0) (hb : ∀ e ∈ t.sched.blocks, e.2.waves ≠ []) :
    ∃ a o v, exec (.storeQueueDrain wid) s = .next { t with w := a, others := o } ∧ ({ t with w := a, others := o } : State).wave? wid = some v ∧
      v.mem.sq = rest ∧ v.regs = w.regs ∧ v.flow = w.flow := by
  obtain ⟨hwave, ⟨a, o, hon⟩, halive⟩ := State.onWave_drained hwt ho
  rw [hon] at hwave halive
  refine ⟨a, o, w.drained, ?_, hwave, by rw [Wave.drained, hq]; rfl, rfl, rfl⟩
  have hdrain : s.drainOldest wid = some (t.onWave wid Wave.drained) := by
    simp only [State.drainOldest, hw, hq, hd, ht]
    rfl
  show execStoreQueueDrain wid s = _
  simp only [execStoreQueueDrain, hj, hh, hdrain, hon, State.reap_of_alive (s := { t with w := a, others := o }) halive hb]
  rfl

/-- STORE_QUEUE_DRAIN of a tile store. -/
theorem storeDrain_tile {s : State} {wid : Nat} {w : Wave} {e : StoreEnt} {rest : List StoreEnt} (hj : s.host.jobDead = false)
    (hh : s.tabs.halted = false) (hne : s.noneExited) (hw : s.wave? wid = some w) (hq : w.mem.sq = e :: rest) (hd : s.canDrain w e = true)
    (hsize : e.size ∈ [1, 2, 4, 8, 16]) (hal : ∀ l ∈ e.lanes, l.pa % e.size = 0) {k : Nat} {b : Block} (htile : e.tile = true)
    (hk : w.id.blk = some k) (hb : s.blk? k = some b) :
    ∃ t v, exec (.storeQueueDrain wid) s = .next t ∧ t.blk? k = some (b.storeLanes e.size e.lanes) ∧ (∀ j, j ≠ k → t.blk? j = s.blk? j) ∧
      t.wave? wid = some v ∧ v.mem.sq = rest ∧ v.regs = w.regs ∧ v.flow = w.flow ∧ t.cores = s.cores ∧ t.die = s.die ∧ t.pkg = s.pkg := by
  obtain ⟨ho, hblocks⟩ := hne
  obtain ⟨hrest, hown, hother, hwaves⟩ := State.drainLanes_blk hb e.lanes hblocks hsize hal
  generalize ht : (forEach e.lanes s fun l t => t.onBlk k fun b => b.storeTile l.pa (natBytes e.size l.data)) = t at *
  have hdrain : s.drainEntry w e = some t := by
    rw [State.drainEntry, if_pos htile, hk]
    exact congrArg some ht
  obtain ⟨a, o, v, hx, hv, hsq, hregs, hflow⟩ := exec_storeQueueDrain hj hh hw hq hd hdrain (by rw [hrest]; exact hw) (by rw [hrest]; exact ho) hwaves
  exact ⟨_, v, hx, hown, hother, hv, hsq, hregs, hflow, by rw [hrest], by rw [hrest], by rw [hrest]⟩

end Sys2Proof.Machine

/-! PROOFS. Stores to the L1 (09 R125, R126, R135), and O13. -/

namespace Sys2Proof.Machine

/-! ### Writes of the L1 -/

/-- The L1 line of an address after a change of the line of another address: they share it or they do not. -/
theorem State.l1?_onL1 (s : State) (c pa va fields a : Nat) (f : L1Line → L1Line) :
    (s.onL1 c pa va fields f).l1? c a =
      if a / 128 = pa / 128 then some (f ((s.l1? c pa).getD (.empty (s.objOf va) (va / 128 * 128) fields))) else s.l1? c a := by
  have hfused (x : Nat) : (s.onL1 c pa va fields f).l1Core c x = s.l1Core c x := rfl
  by_cases hline : a / 128 = pa / 128
  · have hcore : s.l1Core c a = s.l1Core c pa := by
      unfold State.l1Core
      rw [hline, show a / 1024 = pa / 1024 by omega]
    rw [if_pos hline, State.l1?, hfused, hcore, State.onL1, State.core_onCore, hline]
    simp only [upd, look?_put, if_true]
    rfl
  · rw [if_neg hline, State.l1?, hfused]
    by_cases hcore : s.l1Core c a = s.l1Core c pa
    · rw [hcore, State.onL1, State.core_onCore]
      simp only [upd, look?_put, if_neg hline, State.l1?, hcore]
    · rw [State.onL1, State.core_onCore_of_ne hcore]
      rfl

theorem getLsbD_maskBits {w k n i : Nat} (hi : i < w) : (maskBits w k n).getLsbD i = decide (k ≤ i ∧ i < k + n) := by
  rw [maskBits, BitVec.getLsbD_ofNat, decide_eq_true hi, Bool.true_and, Nat.testBit_mul_two_pow, Nat.testBit_two_pow_sub_one]
  by_cases h : k ≤ i
  · simp [h]
    omega
  · simp [h]

theorem overlay_getD {n : Nat} (v : Vector Byte n) (off : Nat) (bs : List Byte) {j : Nat} (hj : j < n) :
    (overlay v off bs fun _ => true).getD j 0 = if off ≤ j ∧ j < off + bs.length then bs.getD (j - off) 0 else v.getD j 0 := by
  simp [overlay, Vector.getD, hj]

/-- The bytes of memory that a core sees after a write of bytes within a line of its L1. -/
theorem State.byteSeen_l1Write (s : State) {c pa : Nat} (va fields : Nat) {bs : List Byte} (h : pa % 128 + bs.length ≤ 128) (a f : Nat) :
    (s.l1Write c pa va fields bs).byteSeen c a f = if pa ≤ a ∧ a < pa + bs.length then (bs.getD (a - pa) 0).toNat else s.byteSeen c a f := by
  have hpeek : (s.l1Write c pa va fields bs).peek a 1 f = s.peek a 1 f := rfl
  rw [State.byteSeen, hpeek, State.byteSeen, State.l1Write, State.l1?_onL1]
  by_cases hline : a / 128 = pa / 128
  · have hoff : a % 128 < 128 := Nat.mod_lt _ (by decide)
    have hl1 : s.l1? c a = s.l1? c pa := by
      unfold State.l1? State.l1Core
      rw [hline, show a / 1024 = pa / 1024 by omega]
    rw [if_pos hline, hl1]
    simp only [BitVec.getLsbD_or, getLsbD_maskBits hoff, overlay_getD _ _ _ hoff]
    by_cases hin : pa ≤ a ∧ a < pa + bs.length
    · have hmask : pa % 128 ≤ a % 128 ∧ a % 128 < pa % 128 + bs.length := by omega
      have hbyte : a % 128 - pa % 128 = a - pa := by omega
      rw [if_pos hin, decide_eq_true hmask, Bool.or_true, if_pos rfl, if_pos hmask, hbyte]
    · have hmask : ¬(pa % 128 ≤ a % 128 ∧ a % 128 < pa % 128 + bs.length) := by omega
      rw [if_neg hin, decide_eq_false hmask, Bool.or_false, if_neg hmask]
      cases s.l1? c pa with
      | none => simp [L1Line.empty]
      | some l => rfl
  · rw [if_neg hline, if_neg (by omega)]

/-! ### Ways of the L1 -/

/-- The L1 of a core lists a line. -/
def State.lists (s : State) (k line : Nat) : Prop := line ∈ (s.core k).l1.map (·.1)

theorem mem_keys_iff {α : Type} (m : Map α) (k : Nat) : k ∈ m.map (·.1) ↔ (look? m k).isSome = true := by
  refine ⟨fun h => look?_isSome _ _ h, fun h => ?_⟩
  obtain ⟨x, hx⟩ := Option.isSome_iff_exists.mp h
  exact List.mem_map_of_mem (mem_of_look? hx)

/-- What stores of core `c` to some lines leave: the state beside the L1s, L1s in order, and the lines they list. -/
structure State.L1Stored (s t : State) (c : Nat) (ls : List LaneAcc) : Prop where
  rest : t = { s with cores := t.cores }
  sorted : ∀ k, sortedKeys (t.core k).l1 = true
  lines : ∀ k line, t.lists k line → s.lists k line ∨ ∃ l ∈ ls, s.l1Core c l.pa = k ∧ l.pa / 128 = line

theorem State.L1Stored.refl {s : State} (h : ∀ k, sortedKeys (s.core k).l1 = true) (c : Nat) : s.L1Stored s c [] := ⟨rfl, h, fun _ _ => .inl⟩

theorem State.L1Stored.l1Core {s t : State} {c : Nat} {ls : List LaneAcc} (h : s.L1Stored t c ls) (d pa : Nat) : t.l1Core d pa = s.l1Core d pa := by
  rw [h.rest]
  rfl

theorem State.L1Stored.l1Set {s t : State} {c : Nat} {ls : List LaneAcc} (h : s.L1Stored t c ls) (d pa : Nat) : t.l1Set d pa = s.l1Set d pa := by
  rw [h.rest]
  rfl

/-- A write of the L1 writes one line of one core's. -/
theorem State.l1Write_core (s : State) (c pa va fields : Nat) (bs : List Byte) :
    (∃ x, ((s.l1Write c pa va fields bs).core (s.l1Core c pa)).l1 = put (s.core (s.l1Core c pa)).l1 (pa / 128) x) ∧
      ∀ k, k ≠ s.l1Core c pa → (s.l1Write c pa va fields bs).core k = s.core k := by
  refine ⟨?_, fun k hk => State.core_onCore_of_ne hk _⟩
  rw [State.l1Write, State.onL1, State.core_onCore]
  exact ⟨_, rfl⟩

/-- One more lane's bytes. -/
theorem State.L1Stored.write {s t : State} {c : Nat} {ls : List LaneAcc} (h : s.L1Stored t c ls) (l : LaneAcc) (bs : List Byte) :
    s.L1Stored (t.l1Write c l.pa l.va l.fields bs) c (ls ++ [l]) := by
  obtain ⟨⟨x, hown⟩, hother⟩ := t.l1Write_core c l.pa l.va l.fields bs
  rw [h.l1Core] at hown hother
  refine ⟨?_, fun k => ?_, fun k line hline => ?_⟩
  · exact congrArg (fun u : State => { u with cores := (t.l1Write c l.pa l.va l.fields bs).cores }) h.rest
  · by_cases hk : k = s.l1Core c l.pa
    · subst hk
      rw [hown]
      exact (sortedKeys_iff _).mpr (put_pairwise ((sortedKeys_iff _).mp (h.sorted _)) _ _)
    · rw [hother k hk]
      exact h.sorted k
  · have hold : t.lists k line → s.lists k line ∨ ∃ m ∈ ls ++ [l], s.l1Core c m.pa = k ∧ m.pa / 128 = line := fun hline =>
      (h.lines k line hline).imp_right fun ⟨m, hm, hx⟩ => ⟨m, List.mem_append_left _ hm, hx⟩
    by_cases hk : k = s.l1Core c l.pa
    · subst hk
      unfold State.lists at hline hold
      rw [hown, mem_keys_iff, look?_put] at hline
      by_cases hnew : line = l.pa / 128
      · exact .inr ⟨l, by simp, rfl, hnew.symm⟩
      · rw [if_neg hnew, ← mem_keys_iff] at hline
        exact hold hline
    · refine hold ?_
      unfold State.lists at hline ⊢
      rwa [hother k hk] at hline

/-- The lines that some lanes of a store may add to the set of lane `l`, with those that the set has. -/
def State.waysOf (s : State) (c : Nat) (ls : List LaneAcc) (l : LaneAcc) : List Nat :=
  s.l1Ways c l.pa ++ ((ls.filter fun m => s.l1Core c m.pa == s.l1Core c l.pa && s.l1Set c m.pa == s.l1Set c l.pa).map fun m => m.pa / 128)

theorem State.mem_l1Ways (s : State) (c pa line : Nat) :
    line ∈ s.l1Ways c pa ↔ s.lists (s.l1Core c pa) line ∧ s.l1Set c (128 * line) = s.l1Set c pa := by
  unfold State.l1Ways State.lists
  simp only [List.mem_map, List.mem_filter, beq_iff_eq]
  constructor
  · rintro ⟨e, ⟨he, hset⟩, rfl⟩
    exact ⟨⟨e, he, rfl⟩, hset⟩
  · rintro ⟨⟨e, he, rfl⟩, hset⟩
    exact ⟨e, ⟨he, hset⟩, rfl⟩

theorem State.l1Set_line (s : State) (c pa : Nat) : s.l1Set c (128 * (pa / 128)) = s.l1Set c pa := by
  unfold State.l1Set
  split <;> omega

/-- Lanes whose set has ways for all of their lines find one each (R125). -/
theorem State.L1Stored.fits {s t : State} {c : Nat} {ls all : List LaneAcc} (h : s.L1Stored t c ls) (hsub : ∀ m ∈ ls, m ∈ all) {l : LaneAcc}
    (hl : l ∈ all) (hways : (s.waysOf c all l).eraseDups.length ≤ 4) : t.l1Fits c l.pa = true := by
  have hcore := h.l1Core c l.pa
  by_cases hhas : l.pa / 128 ∈ t.l1Ways c l.pa
  · obtain ⟨hlists, -⟩ := (t.mem_l1Ways c l.pa _).mp hhas
    have hsome : (t.l1? c l.pa).isSome = true := (mem_keys_iff _ _).mp hlists
    rw [State.l1Fits, hsome, Bool.true_or]
  · have hnodup : (l.pa / 128 :: t.l1Ways c l.pa).Nodup := by
      refine List.nodup_cons.mpr ⟨hhas, ?_⟩
      have hkeys : ((t.core (t.l1Core c l.pa)).l1.map (·.1)).Nodup :=
        (List.pairwise_map.mpr ((sortedKeys_iff _).mp (h.sorted _))).imp fun hlt => Nat.ne_of_lt hlt
      exact hkeys.sublist (List.filter_sublist.map _)
    have hsubset : (l.pa / 128 :: t.l1Ways c l.pa) ⊆ (s.waysOf c all l).eraseDups := by
      intro line hline
      rw [List.mem_eraseDups, State.waysOf, List.mem_append]
      rcases List.mem_cons.mp hline with rfl | hline
      · exact .inr (List.mem_map.mpr ⟨l, List.mem_filter.mpr ⟨hl, by simp⟩, rfl⟩)
      · obtain ⟨hlists, hset⟩ := (t.mem_l1Ways c l.pa line).mp hline
        rw [hcore] at hlists
        rw [h.l1Set, h.l1Set] at hset
        rcases h.lines _ _ hlists with hold | ⟨m, hm, hmcore, rfl⟩
        · exact .inl ((s.mem_l1Ways c l.pa line).mpr ⟨hold, hset⟩)
        · refine .inr (List.mem_map.mpr ⟨m, List.mem_filter.mpr ⟨hsub m hm, ?_⟩, rfl⟩)
          rw [s.l1Set_line] at hset
          simp [hmcore, hset]
    have hlen := (hnodup.subperm hsubset).length_le
    rw [List.length_cons] at hlen
    have hfew : (t.l1Ways c l.pa).length < 4 := by omega
    rw [State.l1Fits, decide_eq_true hfew, Bool.or_true]

/-! ### A store of several lanes -/

/-- A store to an eager object's line that finds a way. -/
theorem State.l1Store_of_fits {t : State} {c size : Nat} {l : LaneAcc} (hfit : t.l1Fits c l.pa = true) (he : t.eager (t.objOf l.va) = true) :
    t.l1Store c size l = some (t.l1Write c l.pa l.va l.fields (natBytes size l.data)) := by
  rw [State.l1Store, State.l1Room, if_pos hfit]
  exact if_pos he

theorem State.L1Stored.drain {s : State} {c size : Nat} {all : List LaneAcc} (hsize : size ∈ [1, 2, 4, 8, 16]) (hal : ∀ l ∈ all, l.pa % size = 0)
    (he : ∀ l ∈ all, s.eager (s.objOf l.va) = true) (hways : ∀ l ∈ all, (s.waysOf c all l).eraseDups.length ≤ 4) {t : State}
    {pre : List LaneAcc} (ls : List LaneAcc) (hall : pre ++ ls = all) (h : s.L1Stored t c pre) :
    ∃ u, ls.foldlM (fun t l => t.l1Store c size l) t = some u ∧ s.L1Stored u c all ∧
      ∀ a f, u.byteSeen c a f = lastStore size (fun l => (l.byteAt a).toNat) ls a (t.byteSeen c a f) := by
  induction ls generalizing t pre with
  | nil =>
    rw [List.append_nil] at hall
    subst hall
    exact ⟨t, rfl, h, fun _ _ => rfl⟩
  | cons l ls ih =>
    have hl : l ∈ all := hall ▸ List.mem_append_right _ List.mem_cons_self
    have hfit := h.fits (fun m hm => hall ▸ List.mem_append_left _ hm) hl (hways l hl)
    have heager : t.eager (t.objOf l.va) = true := by
      rw [h.rest]
      exact he l hl
    obtain ⟨hline, -⟩ := access_in_line hsize (hal l hl)
    have hlen := natBytes_length size l.data
    obtain ⟨u, hu, hstored, hbytes⟩ := ih (by rw [← hall, List.append_assoc]; rfl) (h.write l (natBytes size l.data))
    refine ⟨u, ?_, hstored, fun a f => (hbytes a f).trans ?_⟩
    · rw [List.foldlM_cons, State.l1Store_of_fits hfit heager]
      exact hu
    · rw [t.byteSeen_l1Write l.va l.fields (by rwa [hlen]), hlen, lastStore, lastStore, List.foldl_cons]
      congr 1
      exact if_ctx_congr Iff.rfl (fun hin => congrArg BitVec.toNat (natBytes_getD_byteAt hin)) fun _ => rfl

/-- Settles O13: a store's lanes write in order, to tile lines or to lines of the L1 that have ways. -/
theorem storesDrain : Obligations.StoresDrain := by
  intro s wid w e rest hj hh hne hw hq hd hsize hal
  refine ⟨fun k b htile hk hb => ?_, fun htile he hsorted hways => ?_⟩
  · obtain ⟨t, v, hx, hown, hother, hv, hsq, hregs, hflow, hcores, hdie, hpkg⟩ := storeDrain_tile hj hh hne hw hq hd hsize hal htile hk hb
    obtain ⟨-, htiles, htags⟩ := b.storeLanes_facts hsize hal
    have hbyte (j a : Nat) (x : Block) (u : State) (hu : u.blk? j = some x) : u.tileByte j a = look 0 x.tile a := by
      simp [State.tileByte, State.tileBytes, hu, Block.tileBytes]
    refine ⟨t, _, v, hx, hown, hv, hsq, hregs, hflow, hcores, hdie, hpkg, fun pre l post hls a hin hpost => ?_, fun j a hja => ?_, htags⟩
    · rw [hbyte k a _ t hown, htiles, hls]
      exact lastStore_of_last hin hpost _
    · by_cases hjk : j = k
      · subst hjk
        rw [hbyte j a _ t hown, htiles, hbyte j a b s hb]
        exact lastStore_of_none (hja.resolve_left fun h => h rfl) _
      · simp only [State.tileByte, State.tileBytes, hother j hjk]
  · obtain ⟨t, hfold, hstored, hbytes⟩ := State.L1Stored.drain hsize hal he hways e.lanes (List.nil_append _) (State.L1Stored.refl hsorted w.id.core)
    obtain ⟨ho, hblocks⟩ := hne
    have hdrain : s.drainEntry w e = some t := by
      rw [State.drainEntry, if_neg (by simp [htile])]
      exact hfold
    have hrest := hstored.rest
    obtain ⟨a, o, v, hx, hv, hsq, hregs, hflow⟩ := exec_storeQueueDrain hj hh hw hq hd hdrain (by rw [hrest]; exact hw) (by rw [hrest]; exact ho)
      (by rw [hrest]; exact hblocks)
    refine ⟨_, v, hx, hv, hsq, hregs, hflow, by rw [hrest], by rw [hrest], fun pre l post hls b hin hpost f => ?_, fun b f hnone => ?_⟩
    · have hb := hbytes b f
      rw [hls, lastStore_of_last hin hpost] at hb
      show ((t.byteSeen w.id.core b f : Nat) : BitVec 8) = _
      rw [hb]
      show BitVec.ofNat 8 (l.byteAt b).toNat = l.byteAt b
      rw [BitVec.ofNat_toNat, BitVec.setWidth_eq]
    · exact (hbytes b f).trans (lastStore_of_none hnone _)

end Sys2Proof.Machine
